-- ==== Sys2Proof/Word.lean ====
section
/-! DEFINITION. The word types of the TZ64 (R5, R92): a 64-bit register, a byte of memory. -/

namespace Sys2Proof

/-- A `v` or `w` register, 64 bits (R92). -/
abbrev Word := BitVec 64

/-- A byte of memory (R6). -/
abbrev Byte := BitVec 8

end Sys2Proof
end

