-- ==== Sys2Proof/Config.lean ====
section
/-! DEFINITION. What one module fixes and the spec leaves open. The free values are opaque: nothing in Lean can evaluate
one or prove a value of one (log entries 2, 3 and 4). -/

namespace Sys2Proof.Config

/-- Which of the outcomes that R57, R84 or R102 list is taken. Applied to the free-choice counter of the state, to a thread
and to a register key; the model reduces it modulo the number of listed outcomes, so nothing outside the list is ever
taken (log entry 2). -/
opaque freeChoice : Nat → Nat → Nat → Nat

/-- The bytes into which a message is packed inside a flit's payload: R425 gives the payload's size and not the packing
(log entry 4). Applied to the free-choice counter. -/
opaque flitPayload : Nat → BitVec 448

/-- The data bytes a host read of a poisoned sector carries: "its data bytes are not promised" (R464, log entry 3). -/
opaque poisonedData : Nat → Nat → Nat

/-- A queue time, in clocks, that a sample record reports: a duration that the spec does not characterise (R19, R452; log
entry 3). -/
opaque queueTime : Nat → Nat → Nat

/-- The clock, from the trigger clock to 24 clocks after it, at which a broadcast freezes a unit: "which clock is not
promised" (R436; log entry 3). The model reduces it modulo 25. -/
opaque freezeDelay : Nat → Nat → Nat

/-- The offset in the checkpoint area at which a checkpoint puts a page or a save block: R459 gives the area and no layout (log entry 4).
Applied to the checkpoint's number, the kind (0 page, 1 block) and its number. -/
opaque ckptPlace : Nat → Nat → Nat → Nat

end Sys2Proof.Config
end

