-- ==== Sys2Proof/Syntax.lean ====
section
/-! DEFINITION. The instructions and events of the TZ64: one constructor of `Instr` for each row of the table of operations
and events. An instruction carries the fields of its format (R33 to R36), already decoded into operand classes and named
modifiers; an event carries the data that says which engine and which item it concerns. -/

namespace Sys2Proof

/-- An operand field (R38): its class and its number. Class 0b10 is a small immediate, or a special register where the
instruction names one (R39). `t` and `z` are the tile and accumulator registers (R332). -/
inductive Opnd where
  | v (n : BitVec 8)
  | w (n : BitVec 6)
  | imm (x : BitVec 8)
  | p (n : BitVec 4)
  | k (n : BitVec 4)
  | t (n : BitVec 4)
  | z (n : BitVec 4)
  deriving DecidableEq, Repr

/-- A guard field (R37): the negate bit and the predicate number. -/
structure Guard where
  neg : Bool
  num : BitVec 4
  deriving DecidableEq, Repr

/-- The type modifier T or T2 (R40, R109). -/
inductive Ty where
  | none | i8x8 | u8x8 | i16x4 | u16x4 | i32x2 | u32x2 | i64 | u64 | f16x4 | bf16x4 | f32x2 | f64
  deriving DecidableEq, Repr

/-- The rounding modifier (R40). -/
inductive Rm where
  | rne | rz | ru | rd | rs
  deriving DecidableEq, Repr

/-- The saturation modifier (R40). -/
inductive Sat where
  | none | sat | satf
  deriving DecidableEq, Repr

/-- The scope modifier (R40). -/
inductive Sc where
  | thread | warp | core | clus | pkg | pod
  deriving DecidableEq, Repr

/-- The access size (R40). -/
inductive Sz where
  | b8 | b16 | b32 | b64 | b128 | none
  deriving DecidableEq, Repr

/-- The address space (R16, R40). -/
inductive Sp where
  | gv | own | clw
  deriving DecidableEq, Repr

/-- The ordering modifier (R40). -/
inductive MOrd where
  | rlx | acq | rel
  deriving DecidableEq, Repr

/-- The atomicity modifier (R40, R172). -/
inductive Atm where
  | dflt | a8 | a16
  deriving DecidableEq, Repr

/-- The cache hint (R178). -/
inductive Hint where
  | dflt | nl1 | ef | nl1ef | l2k
  deriving DecidableEq, Repr

/-- The fields of the S64 format (R33). -/
structure S64A where
  park : Bool
  d : Opnd
  a : Opnd
  b : Opnd
  g : Guard
  i16 : BitVec 16
  deriving DecidableEq, Repr

/-- The fields of the S64 branch layout (R33). -/
structure SBrA where
  park : Bool
  off : BitVec 24
  g : Guard
  deriving DecidableEq, Repr

/-- The fields of the V96 format (R34, R40). -/
structure V96A where
  park : Bool
  d : Opnd
  a : Opnd
  b : Opnd
  c : Opnd
  e : Opnd
  g0 : Guard
  g1 : Guard
  hint : Hint
  ty : Ty
  ty2 : Ty
  rm : Rm
  sat : Sat
  sc : Sc
  opx : BitVec 4
  deriving DecidableEq, Repr

/-- The fields of the M128 format (R35, R40). -/
structure M128A where
  park : Bool
  d : Opnd
  a : Opnd
  b : Opnd
  c : Opnd
  g0 : Guard
  g1 : Guard
  hint : Hint
  ty : Ty
  sz : Sz
  sp : Sp
  sc : Sc
  ord : MOrd
  atm : Atm
  rm : Rm
  sat : Sat
  opx : BitVec 9
  i32 : BitVec 32
  deriving DecidableEq, Repr

/-- The fields of the general N256 format (R36). The five extents (level 0 first, each minus 1) and the fifteen strides
(operand 0 level 0 first) are kept as the bit fields they are; `NestA.extent` and `NestA.stride` read one of them. -/
structure NestA where
  park : Bool
  ext : BitVec 50
  str : BitVec 150
  bas0 : BitVec 6
  bas1 : BitVec 6
  bas2 : BitVec 6
  opn : BitVec 8
  typ : BitVec 6
  g : Guard
  flg : BitVec 6
  deriving DecidableEq, Repr

/-- The fields of `loop` (R64). `tm` says that the trip count is the `w` register `trip[5:0]`. -/
structure LoopA where
  park : Bool
  nb : BitVec 4
  tm : Bool
  trip : BitVec 32
  g : Guard
  ne : BitVec 5
  ent : BitVec 192
  deriving DecidableEq, Repr

/-- What ECC finds in the sector an access touches: an input of the home engine (R234). -/
inductive Ecc where
  | clean | correctable | uncorrectable
  deriving DecidableEq, Repr

/-- The operation a request asks its home to perform (R408, R237). `atom` carries the operation code of R185. -/
inductive ReqOp where
  | load | store | atom (op : BitVec 4) | cas | acq | rel | join | dty
  deriving DecidableEq, Repr

/-- A request as it travels (R405, R408, R417): its end-to-end tag, the word it names and what it asks for. `xpa` is the pod
physical address, with 2^52 × (1 + OWN) added for a module-local line (R211). `data` holds the operand, or the bytes of a
store at their place in the 32-byte sector, little-endian; `mask` is the byte mask of a store; `size` the bytes that the request names, `ksz` those of
the operation that made it (R408). -/
structure WireReq where
  src : Nat
  tag : Nat
  dst : Nat
  vc : Nat
  op : ReqOp
  xpa : Nat
  size : Nat
  ksz : Nat
  mask : Nat
  data : Nat
  cmp : Nat
  sc : Sc
  ord : MOrd
  tenant : Nat
  nr : Bool
  deriving DecidableEq, Repr

/-- An answer as it travels (R406): the tag it answers, its data or its fault code. -/
structure WireAns where
  src : Nat
  tag : Nat
  data : Nat
  fault : Option Nat
  deriving DecidableEq, Repr

/-- What a flit's payload conveys (R422, R425). Management traffic names the act that it asks for. -/
inductive Msg where
  | req (r : WireReq)
  | ans (a : WireAns)
  | credit (vc n : Nat)
  -- an act over the pod, asked for by job `id` of module `src`, and the report that a module's part of it has ended (R223, R246)
  | tlbinv (src id asid : Nat) (va : Option Nat)
  | l2op (src id : Nat) (inv : Bool) (lineFirst lineCount : Nat)
  | ended (src id : Nat)
  | idle
  deriving DecidableEq, Repr

/-- A flit (R425): the header fields, the 56 payload bytes, the CRC, and what the payload conveys, and to which module. -/
structure Flit where
  rsvd : BitVec 3
  ackv : Bool
  ack : BitVec 12
  nak : Bool
  vc : BitVec 3
  seq : BitVec 12
  pay : BitVec 448
  crc : BitVec 32
  dst : Nat
  msg : Msg
  deriving DecidableEq, Repr

/-- The instructions (R43) and the events of the engines, in the order of the table of operations and events, but for six
events without operands, which stand last. -/
inductive Instr where
  | nop (x : S64A)
  | pause (x : S64A)
  | loop (x : LoopA)
  | lbrk (x : S64A)
  | bra (x : SBrA)
  | brx (x : V96A)
  | jmark (x : S64A)
  | rjoin (x : S64A)
  | jleave (x : S64A)
  | exit (x : S64A)
  | yield (x : S64A)
  | trap (x : S64A)
  | rfe (x : S64A)
  | brk (x : S64A)
  | mov (x : V96A)
  | movi (x : M128A)
  | movh (x : M128A)
  | movxr (x : V96A)
  | movxw (x : V96A)
  | call (x : M128A)
  | ret (x : S64A)
  | srd (x : S64A)
  | swr (x : S64A)
  | wflush (x : S64A)
  | iaddV96 (x : V96A)
  | iaddM128 (x : M128A)
  | isubV96 (x : V96A)
  | isubM128 (x : M128A)
  | imulV96 (x : V96A)
  | imulM128 (x : M128A)
  | imulh (x : V96A)
  | imad (x : V96A)
  | iminV96 (x : V96A)
  | iminM128 (x : M128A)
  | imaxV96 (x : V96A)
  | imaxM128 (x : M128A)
  | iabs (x : V96A)
  | ineg (x : V96A)
  | bandV96 (x : V96A)
  | bandM128 (x : M128A)
  | borV96 (x : V96A)
  | borM128 (x : M128A)
  | bxorV96 (x : V96A)
  | bxorM128 (x : M128A)
  | bnot (x : V96A)
  | shl (x : V96A)
  | shr (x : V96A)
  | sar (x : V96A)
  | rol (x : V96A)
  | clz (x : V96A)
  | popc (x : V96A)
  | brev (x : V96A)
  | bfx (x : V96A)
  | bfi (x : V96A)
  | sel (x : V96A)
  | icmpV96 (x : V96A)
  | icmpM128 (x : M128A)
  | iaddc (x : V96A)
  | fadd (x : V96A)
  | fsub (x : V96A)
  | fmul (x : V96A)
  | ffma (x : V96A)
  | fmin (x : V96A)
  | fmax (x : V96A)
  | fcmp (x : V96A)
  | fclass (x : V96A)
  | frnd (x : V96A)
  | fcvt (x : V96A)
  | icvtf (x : V96A)
  | fcvti (x : V96A)
  | frcp (x : V96A)
  | frsq (x : V96A)
  | fsqrt (x : V96A)
  | fex2 (x : V96A)
  | flg2 (x : V96A)
  | fsin (x : V96A)
  | fcos (x : V96A)
  | ftanh (x : V96A)
  | tbl (x : V96A)
  | tblld (x : M128A)
  | tblsw (x : S64A)
  | shfl (x : V96A)
  | bcast (x : V96A)
  | vote (x : V96A)
  | ballot (x : V96A)
  | vred (x : V96A)
  | vscan (x : V96A)
  | vperm (x : V96A)
  | pand (x : S64A)
  | por (x : S64A)
  | pxor (x : S64A)
  | pnot (x : S64A)
  | pmov (x : S64A)
  | nmap (x : NestA)
  | nred (x : NestA)
  | nfill (x : NestA)
  | cvt8 (x : V96A)
  | cvw8 (x : V96A)
  | cvol (x : V96A)
  | bmax (x : V96A)
  | bscl (x : V96A)
  | pk4 (x : V96A)
  | upk4 (x : V96A)
  | ldV96 (x : V96A)
  | ldM128 (x : M128A)
  | stV96 (x : V96A)
  | stM128 (x : M128A)
  | atom (x : M128A)
  | cas (x : M128A)
  | fence (x : S64A)
  | acq (x : M128A)
  | rel (x : M128A)
  | bind (x : M128A)
  | unbind (x : M128A)
  | prf (x : M128A)
  | gth (x : M128A)
  | sct (x : M128A)
  | sctr (x : M128A)
  | gthl (x : M128A)
  | tlbinv (x : M128A)
  | pprobe (x : M128A)
  | rpin (x : M128A)
  | runpin (x : M128A)
  | l2wb (x : M128A)
  | l2inv (x : M128A)
  | cp (x : M128A)
  | cpseal (x : S64A)
  | cpwait (x : S64A)
  | cppoll (x : S64A)
  | nnew (x : M128A)
  | nlink (x : M128A)
  | nsub (x : M128A)
  | nwait (x : S64A)
  | dqpush (x : S64A)
  | dqpop (x : S64A)
  | bdq (x : SBrA)
  | dqsync (x : S64A)
  | fork (x : M128A)
  | tjoin (x : M128A)
  | spawn (x : M128A)
  | bar (x : S64A)
  | bara (x : S64A)
  | barw (x : S64A)
  | barc (x : S64A)
  | barcArr (x : S64A)
  | barcWait (x : S64A)
  | barq (x : S64A)
  | mmap (x : M128A)
  | mldb (x : V96A)
  | mswp (x : S64A)
  | mmul (x : V96A)
  | mzero (x : S64A)
  | mrd (x : V96A)
  | mtask (x : M128A)
  | msync (x : S64A)
  | sgcfg (x : M128A)
  | sgmap (x : M128A)
  | sgsct (x : M128A)
  | sggth (x : M128A)
  | sgstat (x : S64A)
  | xbeg (x : V96A)
  | xdeal (x : V96A)
  | xred (x : V96A)
  | xend (x : V96A)
  | xst (x : V96A)
  | mst (x : M128A)
  | trc (x : S64A)
  | smpl (x : S64A)
  | windowFormation (unit : Nat)
  | instructionFetchComplete (tid : Nat)
  | resultWriteback (n : Nat)
  | yieldovr (tid : Nat)
  | pauseExpiry (tid : Nat)
  | spillComplete (tid : Nat)
  | refillComplete (tid : Nat)
  | tableSwap (wg : Nat)
  | tblldWriteStart (wg : Nat)
  | tblldComplete (wg : Nat)
  | nestComplete (wid : Nat)
  | walkStart (die : Nat)
  | walkComplete (n : Nat)
  | memoryAnswer (n : Nat)
  | stageAArrival (core : Nat)
  | stageBArrival (port : Nat)
  | homePerform (agent : Nat) (ecc : Ecc)
  | pdtWordFill (agent : Nat)
  | answerSplit (n : Nat)
  | answerTimeout (n : Nat)
  | flitSend (link vc : Nat)
  | flitReceive (link : Nat) (flit : Flit)
  | wavelengthErrorWindow (link wave count : Nat)
  | linkTrainingEnd (link waves : Nat)
  | copyTransferEnd (n : Nat)
  | nodeStart (wg node : Nat)
  | nodeComplete (wg node : Nat)
  | deferredPush (wg : Nat)
  | matrixStreamComplete (wg : Nat)
  | subtaskDispatch (clid : Nat)
  | subtaskComplete (n : Nat)
  | regionIntake
  | clusterPlacement
  | clusterBlocking (n : Nat)
  | preemptionTaken (clid : Nat)
  | forkTaskStart (core : Nat)
  | tjoinReread (tid : Nat)
  | bartimeout (wg n : Nat)
  | broadcastFreeze (unit : Nat)
  | stepComplete (unit : Nat)
  | traceDrain (clus : Nat)
  | monitorLevelSample (k : Nat)
  | homeCfgWrite (v : BitVec 64)
  | fabCfgWrite (v : BitVec 64)
  | fabPcinv (v : BitVec 64)
  | fabLinkRtr (link : Nat) (v : BitVec 64)
  | dbgPctlStop (unit : Nat) (v : BitVec 64)
  | dbgPctlGo (unit : Nat) (v : BitVec 64)
  | dbgClctlStop (clus : Nat)
  | dbgClctlGo (clus : Nat)
  | dbgStepReq (unit : Nat) (v : BitVec 64)
  | dbgDumpReq (v : BitVec 64)
  | dbgWmissClear (core : Nat)
  | dbgMonClr (k : Nat) (v : BitVec 64)
  | dbgMonSourceWrite (k : Nat) (v : BitVec 64)
  | dbgRpctlRecord (v : BitVec 64)
  | dbgRpctlReplay (v : BitVec 64)
  | hostCtlWrite (v : BitVec 64)
  | hostRel (v : BitVec 64)
  | hostPwrstatClr (v : BitVec 64)
  | hostSagClear (clus : Nat)
  | hostPgateRequest (v : BitVec 64)
  | hostPgateRelease (v : BitVec 64)
  | clusterGated (clus : Nat)
  | clusterPowerUp (clus : Nat)
  | hostSubqBaseWrite (ring : Nat) (v : BitVec 64)
  | hostSubqTailWrite (ring : Nat) (v : BitVec 32)
  | registerWrite (off size : Nat) (v : BitVec 64)
  | hostWindowRead (off size : Nat)
  | hostWindowWrite (off : Nat) (data : List (BitVec 8))
  | powerPeriod (avg : Nat)
  | supplySag (clus : Nat)
  | supplyRecovery (clus : Nat)
  | hostSpaceAnswer (n : Nat) (data : Nat)
  | l2wbComplete (n : Nat)
  | coldReset
  | functionLevelReset
  | resetComplete
  | dumpComplete
  | checkpoint
  | hwayChange
  deriving DecidableEq, Repr

/-- The format and the fields of an instruction; `event` for an event, which has no encoding. -/
inductive Shape where
  | s64 (x : S64A)
  | sbr (x : SBrA)
  | v96 (x : V96A)
  | m128 (x : M128A)
  | nest (x : NestA)
  | loop (x : LoopA)
  | event
  deriving DecidableEq, Repr

/-- The format and fields of each instruction (R43). -/
def Instr.shape : Instr → Shape
  | .nop x => .s64 x
  | .pause x => .s64 x
  | .loop x => .loop x
  | .lbrk x => .s64 x
  | .bra x => .sbr x
  | .brx x => .v96 x
  | .jmark x => .s64 x
  | .rjoin x => .s64 x
  | .jleave x => .s64 x
  | .exit x => .s64 x
  | .yield x => .s64 x
  | .trap x => .s64 x
  | .rfe x => .s64 x
  | .brk x => .s64 x
  | .mov x => .v96 x
  | .movi x => .m128 x
  | .movh x => .m128 x
  | .movxr x => .v96 x
  | .movxw x => .v96 x
  | .call x => .m128 x
  | .ret x => .s64 x
  | .srd x => .s64 x
  | .swr x => .s64 x
  | .wflush x => .s64 x
  | .iaddV96 x => .v96 x
  | .iaddM128 x => .m128 x
  | .isubV96 x => .v96 x
  | .isubM128 x => .m128 x
  | .imulV96 x => .v96 x
  | .imulM128 x => .m128 x
  | .imulh x => .v96 x
  | .imad x => .v96 x
  | .iminV96 x => .v96 x
  | .iminM128 x => .m128 x
  | .imaxV96 x => .v96 x
  | .imaxM128 x => .m128 x
  | .iabs x => .v96 x
  | .ineg x => .v96 x
  | .bandV96 x => .v96 x
  | .bandM128 x => .m128 x
  | .borV96 x => .v96 x
  | .borM128 x => .m128 x
  | .bxorV96 x => .v96 x
  | .bxorM128 x => .m128 x
  | .bnot x => .v96 x
  | .shl x => .v96 x
  | .shr x => .v96 x
  | .sar x => .v96 x
  | .rol x => .v96 x
  | .clz x => .v96 x
  | .popc x => .v96 x
  | .brev x => .v96 x
  | .bfx x => .v96 x
  | .bfi x => .v96 x
  | .sel x => .v96 x
  | .icmpV96 x => .v96 x
  | .icmpM128 x => .m128 x
  | .iaddc x => .v96 x
  | .fadd x => .v96 x
  | .fsub x => .v96 x
  | .fmul x => .v96 x
  | .ffma x => .v96 x
  | .fmin x => .v96 x
  | .fmax x => .v96 x
  | .fcmp x => .v96 x
  | .fclass x => .v96 x
  | .frnd x => .v96 x
  | .fcvt x => .v96 x
  | .icvtf x => .v96 x
  | .fcvti x => .v96 x
  | .frcp x => .v96 x
  | .frsq x => .v96 x
  | .fsqrt x => .v96 x
  | .fex2 x => .v96 x
  | .flg2 x => .v96 x
  | .fsin x => .v96 x
  | .fcos x => .v96 x
  | .ftanh x => .v96 x
  | .tbl x => .v96 x
  | .tblld x => .m128 x
  | .tblsw x => .s64 x
  | .shfl x => .v96 x
  | .bcast x => .v96 x
  | .vote x => .v96 x
  | .ballot x => .v96 x
  | .vred x => .v96 x
  | .vscan x => .v96 x
  | .vperm x => .v96 x
  | .pand x => .s64 x
  | .por x => .s64 x
  | .pxor x => .s64 x
  | .pnot x => .s64 x
  | .pmov x => .s64 x
  | .nmap x => .nest x
  | .nred x => .nest x
  | .nfill x => .nest x
  | .cvt8 x => .v96 x
  | .cvw8 x => .v96 x
  | .cvol x => .v96 x
  | .bmax x => .v96 x
  | .bscl x => .v96 x
  | .pk4 x => .v96 x
  | .upk4 x => .v96 x
  | .ldV96 x => .v96 x
  | .ldM128 x => .m128 x
  | .stV96 x => .v96 x
  | .stM128 x => .m128 x
  | .atom x => .m128 x
  | .cas x => .m128 x
  | .fence x => .s64 x
  | .acq x => .m128 x
  | .rel x => .m128 x
  | .bind x => .m128 x
  | .unbind x => .m128 x
  | .prf x => .m128 x
  | .gth x => .m128 x
  | .sct x => .m128 x
  | .sctr x => .m128 x
  | .gthl x => .m128 x
  | .tlbinv x => .m128 x
  | .pprobe x => .m128 x
  | .rpin x => .m128 x
  | .runpin x => .m128 x
  | .l2wb x => .m128 x
  | .l2inv x => .m128 x
  | .cp x => .m128 x
  | .cpseal x => .s64 x
  | .cpwait x => .s64 x
  | .cppoll x => .s64 x
  | .nnew x => .m128 x
  | .nlink x => .m128 x
  | .nsub x => .m128 x
  | .nwait x => .s64 x
  | .dqpush x => .s64 x
  | .dqpop x => .s64 x
  | .bdq x => .sbr x
  | .dqsync x => .s64 x
  | .fork x => .m128 x
  | .tjoin x => .m128 x
  | .spawn x => .m128 x
  | .bar x => .s64 x
  | .bara x => .s64 x
  | .barw x => .s64 x
  | .barc x => .s64 x
  | .barcArr x => .s64 x
  | .barcWait x => .s64 x
  | .barq x => .s64 x
  | .mmap x => .m128 x
  | .mldb x => .v96 x
  | .mswp x => .s64 x
  | .mmul x => .v96 x
  | .mzero x => .s64 x
  | .mrd x => .v96 x
  | .mtask x => .m128 x
  | .msync x => .s64 x
  | .sgcfg x => .m128 x
  | .sgmap x => .m128 x
  | .sgsct x => .m128 x
  | .sggth x => .m128 x
  | .sgstat x => .s64 x
  | .xbeg x => .v96 x
  | .xdeal x => .v96 x
  | .xred x => .v96 x
  | .xend x => .v96 x
  | .xst x => .v96 x
  | .mst x => .m128 x
  | .trc x => .s64 x
  | .smpl x => .s64 x
  | .windowFormation _ => .event
  | .instructionFetchComplete _ => .event
  | .resultWriteback _ => .event
  | .yieldovr _ => .event
  | .pauseExpiry _ => .event
  | .spillComplete _ => .event
  | .refillComplete _ => .event
  | .tableSwap _ => .event
  | .tblldWriteStart _ => .event
  | .tblldComplete _ => .event
  | .nestComplete _ => .event
  | .walkStart _ => .event
  | .walkComplete _ => .event
  | .memoryAnswer _ => .event
  | .stageAArrival _ => .event
  | .stageBArrival _ => .event
  | .homePerform _ _ => .event
  | .pdtWordFill _ => .event
  | .answerSplit _ => .event
  | .answerTimeout _ => .event
  | .flitSend _ _ => .event
  | .flitReceive _ _ => .event
  | .wavelengthErrorWindow _ _ _ => .event
  | .linkTrainingEnd _ _ => .event
  | .copyTransferEnd _ => .event
  | .nodeStart _ _ => .event
  | .nodeComplete _ _ => .event
  | .deferredPush _ => .event
  | .matrixStreamComplete _ => .event
  | .subtaskDispatch _ => .event
  | .subtaskComplete _ => .event
  | .regionIntake => .event
  | .clusterPlacement => .event
  | .clusterBlocking _ => .event
  | .preemptionTaken _ => .event
  | .forkTaskStart _ => .event
  | .tjoinReread _ => .event
  | .bartimeout _ _ => .event
  | .broadcastFreeze _ => .event
  | .stepComplete _ => .event
  | .dumpComplete => .event
  | .traceDrain _ => .event
  | .monitorLevelSample _ => .event
  | .checkpoint => .event
  | .hwayChange => .event
  | .homeCfgWrite _ => .event
  | .fabCfgWrite _ => .event
  | .fabPcinv _ => .event
  | .fabLinkRtr _ _ => .event
  | .dbgPctlStop _ _ => .event
  | .dbgPctlGo _ _ => .event
  | .dbgClctlStop _ => .event
  | .dbgClctlGo _ => .event
  | .dbgStepReq _ _ => .event
  | .dbgDumpReq _ => .event
  | .dbgWmissClear _ => .event
  | .dbgMonClr _ _ => .event
  | .dbgMonSourceWrite _ _ => .event
  | .dbgRpctlRecord _ => .event
  | .dbgRpctlReplay _ => .event
  | .hostCtlWrite _ => .event
  | .hostRel _ => .event
  | .hostPwrstatClr _ => .event
  | .hostSagClear _ => .event
  | .hostPgateRequest _ => .event
  | .hostPgateRelease _ => .event
  | .clusterGated _ => .event
  | .clusterPowerUp _ => .event
  | .hostSubqBaseWrite _ _ => .event
  | .hostSubqTailWrite _ _ => .event
  | .registerWrite _ _ _ => .event
  | .hostWindowRead _ _ => .event
  | .hostWindowWrite _ _ => .event
  | .coldReset => .event
  | .functionLevelReset => .event
  | .resetComplete => .event
  | .powerPeriod _ => .event
  | .supplySag _ => .event
  | .supplyRecovery _ => .event
  | .hostSpaceAnswer _ _ => .event
  | .l2wbComplete _ => .event

/-- The primary opcode of each instruction (R43); 0x3FF, which R43 leaves unassigned, stands for an event. -/
def Instr.opc : Instr → Nat
  | .nop _ => 0x0
  | .pause _ => 0x1
  | .loop _ => 0x2
  | .lbrk _ => 0x3
  | .bra _ => 0x10
  | .brx _ => 0x11
  | .jmark _ => 0x12
  | .rjoin _ => 0x13
  | .jleave _ => 0x14
  | .exit _ => 0x15
  | .yield _ => 0x16
  | .trap _ => 0x17
  | .rfe _ => 0x18
  | .brk _ => 0x19
  | .mov _ => 0x20
  | .movi _ => 0x21
  | .movh _ => 0x22
  | .movxr _ => 0x23
  | .movxw _ => 0x24
  | .call _ => 0x25
  | .ret _ => 0x26
  | .srd _ => 0x27
  | .swr _ => 0x28
  | .wflush _ => 0x29
  | .iaddV96 _ => 0x40
  | .iaddM128 _ => 0x40
  | .isubV96 _ => 0x41
  | .isubM128 _ => 0x41
  | .imulV96 _ => 0x42
  | .imulM128 _ => 0x42
  | .imulh _ => 0x43
  | .imad _ => 0x44
  | .iminV96 _ => 0x45
  | .iminM128 _ => 0x45
  | .imaxV96 _ => 0x46
  | .imaxM128 _ => 0x46
  | .iabs _ => 0x47
  | .ineg _ => 0x48
  | .bandV96 _ => 0x49
  | .bandM128 _ => 0x49
  | .borV96 _ => 0x4a
  | .borM128 _ => 0x4a
  | .bxorV96 _ => 0x4b
  | .bxorM128 _ => 0x4b
  | .bnot _ => 0x4c
  | .shl _ => 0x4d
  | .shr _ => 0x4e
  | .sar _ => 0x4f
  | .rol _ => 0x50
  | .clz _ => 0x51
  | .popc _ => 0x52
  | .brev _ => 0x53
  | .bfx _ => 0x54
  | .bfi _ => 0x55
  | .sel _ => 0x56
  | .icmpV96 _ => 0x57
  | .icmpM128 _ => 0x57
  | .iaddc _ => 0x58
  | .fadd _ => 0x80
  | .fsub _ => 0x81
  | .fmul _ => 0x82
  | .ffma _ => 0x83
  | .fmin _ => 0x84
  | .fmax _ => 0x85
  | .fcmp _ => 0x86
  | .fclass _ => 0x87
  | .frnd _ => 0x88
  | .fcvt _ => 0x89
  | .icvtf _ => 0x8a
  | .fcvti _ => 0x8b
  | .frcp _ => 0xa0
  | .frsq _ => 0xa1
  | .fsqrt _ => 0xa2
  | .fex2 _ => 0xa3
  | .flg2 _ => 0xa4
  | .fsin _ => 0xa5
  | .fcos _ => 0xa6
  | .ftanh _ => 0xa7
  | .tbl _ => 0xa8
  | .tblld _ => 0xa9
  | .tblsw _ => 0xaa
  | .shfl _ => 0xc0
  | .bcast _ => 0xc1
  | .vote _ => 0xc2
  | .ballot _ => 0xc3
  | .vred _ => 0xc4
  | .vscan _ => 0xc5
  | .vperm _ => 0xc6
  | .pand _ => 0xd0
  | .por _ => 0xd1
  | .pxor _ => 0xd2
  | .pnot _ => 0xd3
  | .pmov _ => 0xd4
  | .nmap _ => 0xe0
  | .nred _ => 0xe1
  | .nfill _ => 0xe2
  | .cvt8 _ => 0x100
  | .cvw8 _ => 0x101
  | .cvol _ => 0x102
  | .bmax _ => 0x103
  | .bscl _ => 0x104
  | .pk4 _ => 0x105
  | .upk4 _ => 0x106
  | .ldV96 _ => 0x120
  | .ldM128 _ => 0x120
  | .stV96 _ => 0x121
  | .stM128 _ => 0x121
  | .atom _ => 0x122
  | .cas _ => 0x123
  | .fence _ => 0x124
  | .acq _ => 0x125
  | .rel _ => 0x126
  | .bind _ => 0x127
  | .unbind _ => 0x128
  | .prf _ => 0x129
  | .gth _ => 0x12a
  | .sct _ => 0x12b
  | .sctr _ => 0x12c
  | .gthl _ => 0x12d
  | .tlbinv _ => 0x140
  | .pprobe _ => 0x141
  | .rpin _ => 0x148
  | .runpin _ => 0x149
  | .l2wb _ => 0x14a
  | .l2inv _ => 0x14b
  | .cp _ => 0x150
  | .cpseal _ => 0x151
  | .cpwait _ => 0x152
  | .cppoll _ => 0x153
  | .nnew _ => 0x154
  | .nlink _ => 0x155
  | .nsub _ => 0x156
  | .nwait _ => 0x157
  | .dqpush _ => 0x160
  | .dqpop _ => 0x161
  | .bdq _ => 0x162
  | .dqsync _ => 0x163
  | .fork _ => 0x168
  | .tjoin _ => 0x169
  | .spawn _ => 0x16a
  | .bar _ => 0x170
  | .bara _ => 0x171
  | .barw _ => 0x172
  | .barc _ => 0x173
  | .barcArr _ => 0x173
  | .barcWait _ => 0x173
  | .barq _ => 0x174
  | .mmap _ => 0x180
  | .mldb _ => 0x181
  | .mswp _ => 0x182
  | .mmul _ => 0x183
  | .mzero _ => 0x184
  | .mrd _ => 0x185
  | .mtask _ => 0x186
  | .msync _ => 0x187
  | .sgcfg _ => 0x190
  | .sgmap _ => 0x191
  | .sgsct _ => 0x192
  | .sggth _ => 0x193
  | .sgstat _ => 0x194
  | .xbeg _ => 0x198
  | .xdeal _ => 0x199
  | .xred _ => 0x19a
  | .xend _ => 0x19b
  | .xst _ => 0x19c
  | .mst _ => 0x1a0
  | .trc _ => 0x1a8
  | .smpl _ => 0x1a9
  | .windowFormation _ => 0x3FF
  | .instructionFetchComplete _ => 0x3FF
  | .resultWriteback _ => 0x3FF
  | .yieldovr _ => 0x3FF
  | .pauseExpiry _ => 0x3FF
  | .spillComplete _ => 0x3FF
  | .refillComplete _ => 0x3FF
  | .tableSwap _ => 0x3FF
  | .tblldWriteStart _ => 0x3FF
  | .tblldComplete _ => 0x3FF
  | .nestComplete _ => 0x3FF
  | .walkStart _ => 0x3FF
  | .walkComplete _ => 0x3FF
  | .memoryAnswer _ => 0x3FF
  | .stageAArrival _ => 0x3FF
  | .stageBArrival _ => 0x3FF
  | .homePerform _ _ => 0x3FF
  | .pdtWordFill _ => 0x3FF
  | .answerSplit _ => 0x3FF
  | .answerTimeout _ => 0x3FF
  | .flitSend _ _ => 0x3FF
  | .flitReceive _ _ => 0x3FF
  | .wavelengthErrorWindow _ _ _ => 0x3FF
  | .linkTrainingEnd _ _ => 0x3FF
  | .copyTransferEnd _ => 0x3FF
  | .nodeStart _ _ => 0x3FF
  | .nodeComplete _ _ => 0x3FF
  | .deferredPush _ => 0x3FF
  | .matrixStreamComplete _ => 0x3FF
  | .subtaskDispatch _ => 0x3FF
  | .subtaskComplete _ => 0x3FF
  | .regionIntake => 0x3FF
  | .clusterPlacement => 0x3FF
  | .clusterBlocking _ => 0x3FF
  | .preemptionTaken _ => 0x3FF
  | .forkTaskStart _ => 0x3FF
  | .tjoinReread _ => 0x3FF
  | .bartimeout _ _ => 0x3FF
  | .broadcastFreeze _ => 0x3FF
  | .stepComplete _ => 0x3FF
  | .dumpComplete => 0x3FF
  | .traceDrain _ => 0x3FF
  | .monitorLevelSample _ => 0x3FF
  | .checkpoint => 0x3FF
  | .hwayChange => 0x3FF
  | .homeCfgWrite _ => 0x3FF
  | .fabCfgWrite _ => 0x3FF
  | .fabPcinv _ => 0x3FF
  | .fabLinkRtr _ _ => 0x3FF
  | .dbgPctlStop _ _ => 0x3FF
  | .dbgPctlGo _ _ => 0x3FF
  | .dbgClctlStop _ => 0x3FF
  | .dbgClctlGo _ => 0x3FF
  | .dbgStepReq _ _ => 0x3FF
  | .dbgDumpReq _ => 0x3FF
  | .dbgWmissClear _ => 0x3FF
  | .dbgMonClr _ _ => 0x3FF
  | .dbgMonSourceWrite _ _ => 0x3FF
  | .dbgRpctlRecord _ => 0x3FF
  | .dbgRpctlReplay _ => 0x3FF
  | .hostCtlWrite _ => 0x3FF
  | .hostRel _ => 0x3FF
  | .hostPwrstatClr _ => 0x3FF
  | .hostSagClear _ => 0x3FF
  | .hostPgateRequest _ => 0x3FF
  | .hostPgateRelease _ => 0x3FF
  | .clusterGated _ => 0x3FF
  | .clusterPowerUp _ => 0x3FF
  | .hostSubqBaseWrite _ _ => 0x3FF
  | .hostSubqTailWrite _ _ => 0x3FF
  | .registerWrite _ _ _ => 0x3FF
  | .hostWindowRead _ _ => 0x3FF
  | .hostWindowWrite _ _ => 0x3FF
  | .coldReset => 0x3FF
  | .functionLevelReset => 0x3FF
  | .resetComplete => 0x3FF
  | .powerPeriod _ => 0x3FF
  | .supplySag _ => 0x3FF
  | .supplyRecovery _ => 0x3FF
  | .hostSpaceAnswer _ _ => 0x3FF
  | .l2wbComplete _ => 0x3FF

/-- True of an event of an engine or of the host, false of an instruction that a thread issues. -/
def Instr.isEvent (i : Instr) : Bool :=
  match i.shape with
  | .event => true
  | _ => false

/-- The always-true guard 0b0_1111 (R37). -/
def Guard.always : Guard := ⟨false, 15⟩

/-- Extent of level `l`, 1 to 1,024 (R36). -/
def NestA.extent (x : NestA) (l : Nat) : Nat := (x.ext.extractLsb' (10 * l) 10).toNat + 1

/-- Stride of operand `o` at level `l`, in elements (R36). -/
def NestA.stride (x : NestA) (o l : Nat) : Int := (x.str.extractLsb' (10 * (5 * o + l)) 10).toInt

/-- Increment entry `j` of a loop (R64): body position, slot and step. -/
def LoopA.entry (x : LoopA) (j : Nat) : Nat × Nat × Int :=
  ((x.ent.extractLsb' (12 * j + 8) 4).toNat, (x.ent.extractLsb' (12 * j + 5) 3).toNat, (x.ent.extractLsb' (12 * j) 5).toInt)

end Sys2Proof
end

