-- ==== Sys2Proof/WellFormed.lean ====
section
/-! DEFINITION. Which instructions the decoder accepts (R41, R42): the operand classes, the modifier values and the reserved
fields of every instruction. `Instr.wfIn false` is the check for a warp, `Instr.wfIn true` for a Domestique context (R274),
and an instruction is well formed when one of the two accepts it. -/

namespace Sys2Proof

namespace Opnd
/-- The neutral value of an operand field (R41): the field is zero. -/
def nul (o : Opnd) : Bool := o == .v 0
def isV : Opnd → Bool | .v _ => true | _ => false
def isW : Opnd → Bool | .w _ => true | _ => false
def isImm : Opnd → Bool | .imm _ => true | _ => false
def isP : Opnd → Bool | .p _ => true | _ => false
def isK : Opnd → Bool | .k _ => true | _ => false
def isT : Opnd → Bool | .t _ => true | _ => false
def isZ : Opnd → Bool | .z _ => true | _ => false
/-- A small immediate whose signed value lies in a range (R39). -/
def immIn (lo hi : Int) : Opnd → Bool
  | .imm x => decide (lo ≤ x.toInt) && decide (x.toInt ≤ hi)
  | _ => false
/-- A `v` or `w` register that may name the lower half of a pair (R179, R222). -/
def evenReg : Opnd → Bool
  | .v n => n.toNat % 2 == 0
  | .w n => n.toNat % 2 == 0
  | _ => false
/-- A field that an instruction's chapter gives as `v`; a context names a `w` there (R274). -/
def vF (ctx : Bool) (o : Opnd) : Bool := if ctx then o.isW else o.isV
/-- A field given as `v` or `w`. -/
def vwF (ctx : Bool) (o : Opnd) : Bool := o.isW || (!ctx && o.isV)
/-- A field given as `v`, `w` or small immediate. -/
def vwiF (ctx : Bool) (o : Opnd) : Bool := o.isImm || o.vwF ctx
end Opnd

namespace Ty
/-- Kind, width and number of sub-elements (R109). -/
def isInt : Ty → Bool
  | i8x8 | u8x8 | i16x4 | u16x4 | i32x2 | u32x2 | i64 | u64 => true
  | _ => false
def isFloat : Ty → Bool
  | f16x4 | bf16x4 | f32x2 | f64 => true
  | _ => false
def signed : Ty → Bool
  | i8x8 | i16x4 | i32x2 | i64 => true
  | _ => false
def width : Ty → Nat
  | i8x8 | u8x8 => 8
  | i16x4 | u16x4 | f16x4 | bf16x4 => 16
  | i32x2 | u32x2 | f32x2 => 32
  | i64 | u64 | f64 | none => 64
def count : Ty → Nat
  | i8x8 | u8x8 => 8
  | i16x4 | u16x4 | f16x4 | bf16x4 => 4
  | i32x2 | u32x2 | f32x2 => 2
  | i64 | u64 | f64 | none => 1
/-- The float types of the special functions, of `tbl` and of the codec instructions (R126, R128, R164). -/
def isF16or32 : Ty → Bool
  | f16x4 | bf16x4 | f32x2 => true
  | _ => false
/-- The types of an expansion (R389). -/
def isExpand : Ty → Bool
  | i32x2 | u32x2 | f32x2 => true
  | _ => false
end Ty

/-- The fields of an S64 instruction that it uses; each other field must be neutral. -/
structure Use64 where
  d : Bool := false
  a : Bool := false
  b : Bool := false
  i : Bool := false

/-- R41 for the S64 format. -/
def S64A.neutral (x : S64A) (u : Use64) : Bool :=
  (u.d || x.d.nul) && (u.a || x.a.nul) && (u.b || x.b.nul) && (u.i || x.i16 == 0)

/-- The fields of a V96 instruction that it uses. -/
structure Use96 where
  d : Bool := false
  a : Bool := false
  b : Bool := false
  c : Bool := false
  e : Bool := false
  hint : Bool := false
  ty : Bool := false
  ty2 : Bool := false
  rm : Bool := false
  sat : Bool := false
  opx : Bool := false

/-- R41 for the V96 format; SC is used by no V96 instruction. -/
def V96A.neutral (x : V96A) (u : Use96) : Bool :=
  (u.d || x.d.nul) && (u.a || x.a.nul) && (u.b || x.b.nul) && (u.c || x.c.nul) && (u.e || x.e.nul) &&
  (u.hint || x.hint == .dflt) && (u.ty || x.ty == .none) && (u.ty2 || x.ty2 == .none) && (u.rm || x.rm == .rne) &&
  (u.sat || x.sat == .none) && x.sc == .thread && (u.opx || x.opx == 0)

/-- The fields of an M128 instruction that it uses. -/
structure Use128 where
  d : Bool := false
  a : Bool := false
  b : Bool := false
  c : Bool := false
  hint : Bool := false
  ty : Bool := false
  sz : Bool := false
  sp : Bool := false
  sc : Bool := false
  ord : Bool := false
  atm : Bool := false
  rm : Bool := false
  sat : Bool := false
  opx : Bool := false
  i : Bool := false

/-- R41 for the M128 format; the neutral value of SZ is 7 (none). -/
def M128A.neutral (x : M128A) (u : Use128) : Bool :=
  (u.d || x.d.nul) && (u.a || x.a.nul) && (u.b || x.b.nul) && (u.c || x.c.nul) && (u.hint || x.hint == .dflt) &&
  (u.ty || x.ty == .none) && (u.sz || x.sz == .none) && (u.sp || x.sp == .gv) && (u.sc || x.sc == .thread) &&
  (u.ord || x.ord == .rlx) && (u.atm || x.atm == .dflt) && (u.rm || x.rm == .rne) && (u.sat || x.sat == .none) &&
  (u.opx || x.opx == 0) && (u.i || x.i32 == 0)

/-- Destination and sources of an instruction that has a uniform form (R44): a `w` destination takes only `w` and immediate
sources, and in a warp its guards are always true; a `v` destination exists in warps only. -/
def uniOk (ctx : Bool) (d : Opnd) (srcs : List Opnd) (g0 g1 : Guard) : Bool :=
  if d.isW then srcs.all (fun o => o.isW || o.isImm) && (ctx || (g0 == .always && g1 == .always))
  else !ctx && d.isV && srcs.all (fun o => o.vwiF false)

/-- An integer register form of R114 with a type. -/
def wfInt (ctx : Bool) (x : V96A) (srcs : List Opnd) (u : Use96) (tyOk satOk : Bool) : Bool :=
  x.neutral u && uniOk ctx x.d srcs x.g0 x.g1 && tyOk && (x.sat == .none || (satOk && x.sat == .sat))

/-- An integer immediate form of R114. -/
def wfIntM (ctx : Bool) (x : M128A) (tyOk satOk : Bool) : Bool :=
  x.neutral { d := true, a := true, ty := true, sat := true, i := true } && uniOk ctx x.d [x.a] x.g0 x.g1 && tyOk &&
  (x.sat == .none || (satOk && x.sat == .sat))

/-- Destination rule of `icmp` and `fcmp` (R118, R124): a `p` destination takes ANY; a register destination does not. -/
def wfCmpDst (ctx : Bool) (d : Opnd) (srcs : List Opnd) (any : Bool) (g0 g1 : Guard) : Bool :=
  if d.isP then srcs.all (fun o => o.vwiF ctx) else !any && uniOk ctx d srcs g0 g1

/-- A float instruction of R123. -/
def wfFloat (ctx : Bool) (x : V96A) (srcs : List Opnd) (u : Use96) (rmOk satOk opxOk : Bool) : Bool :=
  x.neutral u && uniOk ctx x.d srcs x.g0 x.g1 && rmOk && (x.sat == .none || (satOk && x.sat == .satf)) && opxOk

/-- OPX holds at most the FTZ bit [3]. -/
def ftzOnly (o : BitVec 4) : Bool := o.extractLsb' 0 3 == 0

/-- OPX of the conversions of R125: FTZ and a quarter Q below the ratio of the counts. -/
def cvtOpx (x : V96A) : Bool :=
  !x.opx.getLsbD 2 &&
  decide ((x.opx.extractLsb' 0 2).toNat < max x.ty.count x.ty2.count / min x.ty.count x.ty2.count)

/-- A special function of R126. -/
def wfSfu (ctx : Bool) (x : V96A) : Bool :=
  wfFloat ctx x [x.a] { d := true, a := true, ty := true, sat := true, opx := true } x.ty.isF16or32 true (ftzOnly x.opx)

/-- Operation and modifiers of `vred` and `vscan` (R137). -/
def wfRedOp (x : V96A) : Bool :=
  let o := (x.opx.extractLsb' 0 3).toNat
  (if o ≤ 2 then x.ty.isFloat else x.ty.isInt) &&
  (x.rm == .rne || (o == 0 && x.rm != .rs)) && (x.sat == .none || (o == 3 && x.sat == .sat))

/-- The format codes of R147 that are assigned. -/
def fmtAssigned (f : Nat) : Bool :=
  decide (f ≤ 9) || (decide (0x10 ≤ f) && decide (f ≤ 0x2E) && f != 0x17 && f != 0x1F && f != 0x27)

/-- A binary8 code of R147. -/
def fmtBin8 (f : Nat) : Bool := decide (0x10 ≤ f) && fmtAssigned f

/-- The format code that E carries in a codec instruction (R164). -/
def Opnd.fmt? : Opnd → Option Nat
  | .imm x => if x.toNat < 64 then some x.toNat else none
  | _ => none

/-- E holds one of the accepted codes. -/
def Opnd.fmtIn (o : Opnd) (ok : Nat → Bool) : Bool :=
  match o.fmt? with
  | some f => ok f
  | none => false

/-- `cvt8`, `cvw8` and `cvol` (R164). -/
def wfCvt (ctx : Bool) (x : V96A) (u : Use96) : Bool :=
  !ctx && x.neutral u && x.d.isV && x.a.isV && x.e.fmtIn (fun f => f == 3 || f == 4 || fmtBin8 f) && x.ty.isF16or32 &&
  (x.sat == .none || x.sat == .satf) && decide ((x.opx.extractLsb' 0 3).toNat < 8 / x.ty.count)

/-- SAT with a type: `.sat` for an integer T, `.satf` for a float T (R180). -/
def satTy (t : Ty) (s : Sat) : Bool :=
  s == .none || (s == .sat && t.isInt) || (s == .satf && t.isFloat)

/-- RM and SAT of a typed or raw access (R180): neutral when the access is raw. -/
def accMods (t : Ty) (raw : Bool) (rm : Rm) (s : Sat) : Bool :=
  if t == .none || raw then rm == .rne && s == .none else satTy t s

/-- Atomicity against the size (R172). -/
def atmOk (sz : Sz) (a : Atm) : Bool :=
  a == .dflt || (a == .a8 && (sz == .b64 || sz == .b128)) || (a == .a16 && sz == .b128)

/-- The space that OPX[1:0] of a V96 access names (R179). -/
def V96A.sp? (x : V96A) : Option Sp :=
  match (x.opx.extractLsb' 0 2).toNat with
  | 0 => some .gv
  | 1 => some .own
  | 2 => some .clw
  | _ => none

/-- Hints other than 0 only with `.gv` (R178). -/
def hintSp (h : Hint) (s : Sp) : Bool := h == .dflt || s == .gv

/-- A V96 `ld` or `st` (R179, R180). -/
def wfAccV (ctx : Bool) (x : V96A) (u : Use96) : Bool :=
  x.neutral u && x.a.vwF ctx && x.b.vwiF ctx && !x.opx.getLsbD 3 &&
  (match x.sp? with | some s => hintSp x.hint s | none => false) && accMods x.ty (x.opx.getLsbD 2) x.rm x.sat

/-- An M128 `ld` or `st` (R179, R180). -/
def wfAccM (ctx : Bool) (x : M128A) (u : Use128) : Bool :=
  x.neutral u && x.a.vwF ctx && decide (x.opx.toNat < 4) && (if x.opx.getLsbD 1 then x.b.vwF ctx else x.b.nul) &&
  (if x.ty == .none then x.sz != .none && !x.opx.getLsbD 0 else x.sz == .none) && atmOk x.sz x.atm &&
  hintSp x.hint x.sp && accMods x.ty (x.opx.getLsbD 0) x.rm x.sat

/-- Sizes that each atomic operation takes (R185). -/
def atomSz (op : Nat) (sz : Sz) : Bool :=
  if op == 1 then sz == .b32
  else if op == 9 then sz == .b32 || sz == .b64 || sz == .b128
  else decide (op ≤ 11) && (sz == .b32 || sz == .b64)

/-- Ordering of an atomic: a scope is named when ORD is not relaxed (R180). -/
def ordSc (o : MOrd) (s : Sc) : Bool := o == .rlx || s != .thread

/-- An atomic hint (R178): 0, or `.ef` with `.gv`. -/
def atomHint (h : Hint) (s : Sp) : Bool := h == .dflt || (h == .ef && s == .gv)

/-- A register operand that is a pair for `.b128` (R179). -/
def pairIf (sz : Sz) (o : Opnd) : Bool := sz != .b128 || o.evenReg

/-- A loop-nest format code (R141). -/
def nestTyp (t : Nat) : Bool := decide (3 ≤ t) && decide (t ≤ 8)

/-- Strides of operand `o` are all zero. -/
def NestA.noStride (x : NestA) (o : Nat) : Bool := (List.range 5).all fun l => x.stride o l == 0

/-- The sources that a nest operation uses: 1 or 2 (R141). -/
def nestSrcs (opn : Nat) : Nat := if 1 ≤ opn && opn ≤ 5 then 2 else 1

/-- `nmap` (R141). -/
def wfNmap (x : NestA) : Bool :=
  nestTyp x.typ.toNat && decide (x.opn.toNat ≤ 8) &&
  (x.opn.toNat != 8 || (x.typ.toNat == 5 || x.typ.toNat == 6 || x.typ.toNat == 7)) &&
  (nestSrcs x.opn.toNat == 2 || (x.bas2 == 0 && x.noStride 2)) && decide (x.flg.toNat ≤ 1)

/-- `nred` (R141). -/
def wfNred (x : NestA) : Bool :=
  nestTyp x.typ.toNat && (x.opn.toNat == 1 || x.opn.toNat == 4 || x.opn.toNat == 5) && x.bas2 == 0 && x.noStride 2 &&
  x.flg.extractLsb' 0 5 != 0 && (List.range 5).all fun l => !x.flg.getLsbD l || x.stride 0 l == 0

/-- `nfill` (R141). -/
def wfNfill (x : NestA) : Bool :=
  nestTyp x.typ.toNat && x.opn == 0 && x.bas2 == 0 && x.noStride 1 && x.noStride 2 && x.flg == 0

/-- `loop`, apart from the conditions on its body (R64, R65). -/
def wfLoop (x : LoopA) : Bool :=
  decide (x.ne.toNat ≤ 16) && (!x.tm || x.trip.extractLsb' 6 26 == 0) &&
  (List.range 16).all fun j =>
    if j < x.ne.toNat then decide ((x.entry j).1 ≤ x.nb.toNat) && decide ((x.entry j).2.1 ≤ 5)
    else x.ent.extractLsb' (12 * j) 12 == 0

/-- Special registers that exist (R96). -/
def sregOk (n : Nat) : Bool := decide (n ≤ 0x0E) || (decide (0x10 ≤ n) && decide (n ≤ 0x1F))

/-- Special registers of thread scope (R96). -/
def sregThread (n : Nat) : Bool := n == 0 || (decide (0x0A ≤ n) && decide (n ≤ 0x0E))

/-- Special registers that `swr` may write (R96, R100). -/
def sregRW (n : Nat) : Bool := (decide (0x0A ≤ n) && decide (n ≤ 0x0D)) || (decide (0x10 ≤ n) && decide (n ≤ 0x1F))

/-- `srd` (R97, R100): a `w` destination takes no thread-scope register and, in a warp, a true guard. -/
def wfSrd (ctx : Bool) (x : S64A) : Bool :=
  x.neutral { d := true, a := true } &&
  (match x.a with
   | .imm n => sregOk n.toNat && (if ctx then x.d.isW else x.d.isV || (x.d.isW && !sregThread n.toNat && x.g == .always))
   | _ => false)

/-- The live count of `yield`, 0 to 256, held in B[8:0] (R83). -/
def liveCount : Opnd → Option Nat
  | .v n => some n.toNat
  | .w n => if n == 0 then some 256 else none
  | _ => none

/-- The 96-bit filler `?!p15 mov v0, v0` (R30). -/
def filler96 : V96A := ⟨false, .v 0, .v 0, .v 0, .v 0, .v 0, ⟨true, 15⟩, ⟨false, 15⟩, .dflt, .none, .none, .rne, .none, .thread, 0⟩

/-- The checks of the decoder, for a warp (`ctx = false`) or for a Domestique context (`ctx = true`) (R42, R274, R275). -/
def Instr.wfIn (ctx : Bool) : Instr → Bool
  | .nop x => x.neutral {}
  | .pause x => x.neutral { i := true }
  | .loop x => wfLoop x
  | .lbrk x => x.neutral {}
  | .bra _ => true
  | .brx x => x.neutral { a := true } && x.a.vwF ctx
  | .jmark x => !ctx && x.neutral { d := true, a := true, i := true } && x.d.isK && decide (x.i16.toNat ≤ 2) &&
      (if x.i16 == 2 then x.a.isW else x.a.nul)
  | .rjoin x => !ctx && x.neutral { d := true } && x.d.isK
  | .jleave x => !ctx && x.neutral { d := true } && x.d.isK
  | .exit x => x.neutral {}
  | .yield x => x.neutral { b := true, i := true } && (liveCount x.b).isSome
  | .trap x => x.neutral { i := true }
  | .rfe x => x.neutral {}
  | .brk x => x.neutral { i := true }
  | .mov x => (x.neutral { d := true, a := true } && uniOk ctx x.d [x.a] x.g0 x.g1) || (ctx && x == filler96)
  | .movi x => x.neutral { d := true, opx := true, i := true } && decide (x.opx.toNat ≤ 1) && uniOk ctx x.d [] x.g0 x.g1
  | .movh x => x.neutral { d := true, i := true } && uniOk ctx x.d [] x.g0 x.g1
  | .movxr x => !ctx && x.neutral { d := true, a := true, b := true } && x.d.isV && x.a.isV && x.b.isImm
  | .movxw x => !ctx && x.neutral { d := true, a := true, b := true } && x.d.isV && x.a.vwF false && x.b.isImm
  | .call x => x.neutral { a := true, opx := true, i := true } && decide (x.opx.toNat < 64) &&
      decide (1 ≤ (x.opx.extractLsb' 0 5).toNat) && decide ((x.opx.extractLsb' 0 5).toNat ≤ 30) &&
      (if x.opx.getLsbD 5 then x.a.vwF ctx && x.i32 == 0 else x.a.nul)
  | .ret x => x.neutral {}
  | .srd x => wfSrd ctx x
  | .swr x => x.neutral { d := true, a := true } && x.a.vwiF ctx &&
      (match x.d with | .imm n => sregRW n.toNat | _ => false)
  | .wflush x => x.neutral {}
  | .iaddV96 x | .isubV96 x | .imulV96 x =>
      wfInt ctx x [x.a, x.b] { d := true, a := true, b := true, ty := true, sat := true } x.ty.isInt true
  | .iaddM128 x | .isubM128 x | .imulM128 x => x.opx == 0 && wfIntM ctx x x.ty.isInt true
  | .imulh x => wfInt ctx x [x.a, x.b] { d := true, a := true, b := true, ty := true } x.ty.isInt false
  | .imad x => wfInt ctx x [x.a, x.b, x.c] { d := true, a := true, b := true, c := true, ty := true, sat := true } x.ty.isInt true
  | .iminV96 x | .imaxV96 x => wfInt ctx x [x.a, x.b] { d := true, a := true, b := true, ty := true } x.ty.isInt false
  | .iminM128 x | .imaxM128 x => x.opx == 0 && wfIntM ctx x x.ty.isInt false
  | .iabs x | .ineg x => wfInt ctx x [x.a] { d := true, a := true, ty := true, sat := true } x.ty.signed true
  | .bandV96 x | .borV96 x | .bxorV96 x => wfInt ctx x [x.a, x.b] { d := true, a := true, b := true } true false
  | .bandM128 x | .borM128 x | .bxorM128 x => x.opx == 0 && wfIntM ctx x (x.ty == .none) false
  | .bnot x => wfInt ctx x [x.a] { d := true, a := true } true false
  | .shl x | .shr x | .sar x | .rol x => wfInt ctx x [x.a, x.b] { d := true, a := true, b := true, ty := true } x.ty.isInt false
  | .clz x | .popc x | .brev x => wfInt ctx x [x.a] { d := true, a := true, ty := true } x.ty.isInt false
  | .bfx x => wfInt ctx x [x.a, x.b, x.c] { d := true, a := true, b := true, c := true, ty := true } x.ty.isInt false
  | .bfi x => wfInt ctx x [x.a, x.b, x.c, x.e] { d := true, a := true, b := true, c := true, e := true, ty := true } x.ty.isInt false
  | .sel x => x.neutral { d := true, a := true, b := true, c := true } && x.d.vF ctx && x.a.vwiF ctx && x.b.vwiF ctx && x.c.isP
  | .icmpV96 x => x.neutral { d := true, a := true, b := true, ty := true, opx := true } && x.ty.isInt &&
      decide ((x.opx.extractLsb' 0 3).toNat ≤ 5) && wfCmpDst ctx x.d [x.a, x.b] (x.opx.getLsbD 3) x.g0 x.g1
  | .icmpM128 x => x.neutral { d := true, a := true, ty := true, opx := true, i := true } && x.ty.isInt &&
      decide (x.opx.toNat < 16) && decide ((x.opx.extractLsb' 0 3).toNat ≤ 5) &&
      wfCmpDst ctx x.d [x.a] (x.opx.getLsbD 3) x.g0 x.g1
  | .iaddc x => x.neutral { d := true, a := true, b := true, c := true, e := true, ty := true } && x.ty == .u64 &&
      x.d.vF ctx && x.a.vwiF ctx && x.b.vwiF ctx && x.c.isP && x.e.isP
  | .fadd x | .fsub x | .fmul x => wfFloat ctx x [x.a, x.b]
      { d := true, a := true, b := true, ty := true, rm := true, sat := true, opx := true } x.ty.isFloat true (ftzOnly x.opx)
  | .ffma x => wfFloat ctx x [x.a, x.b, x.c]
      { d := true, a := true, b := true, c := true, ty := true, rm := true, sat := true, opx := true } x.ty.isFloat true (ftzOnly x.opx)
  | .fmin x | .fmax x => wfFloat ctx x [x.a, x.b] { d := true, a := true, b := true, ty := true, opx := true } x.ty.isFloat false
      (ftzOnly x.opx)
  | .fcmp x => x.neutral { d := true, a := true, b := true, ty := true, opx := true } && x.ty.isFloat &&
      wfCmpDst ctx x.d [x.a, x.b] (x.opx.getLsbD 3) x.g0 x.g1
  | .fclass x => wfFloat ctx x [x.a] { d := true, a := true, ty := true } x.ty.isFloat false true
  | .frnd x => wfFloat ctx x [x.a] { d := true, a := true, ty := true, rm := true, opx := true } (x.ty.isFloat && x.rm != .rs) false
      (ftzOnly x.opx)
  | .fcvt x => wfFloat ctx x [x.a] { d := true, a := true, ty := true, ty2 := true, rm := true, sat := true, opx := true }
      (x.ty.isFloat && x.ty2.isFloat && x.ty != x.ty2) true (cvtOpx x)
  | .icvtf x => wfFloat ctx x [x.a] { d := true, a := true, ty := true, ty2 := true, rm := true, sat := true, opx := true }
      (x.ty.isFloat && x.ty2.isInt) true (cvtOpx x)
  | .fcvti x => x.neutral { d := true, a := true, ty := true, ty2 := true, rm := true, sat := true, opx := true } &&
      uniOk ctx x.d [x.a] x.g0 x.g1 && x.ty.isInt && x.ty2.isFloat && x.rm != .rs && (x.sat == .none || x.sat == .sat) && cvtOpx x
  | .frcp x | .frsq x | .fsqrt x | .fex2 x | .flg2 x | .fsin x | .fcos x | .ftanh x => wfSfu ctx x
  | .tbl x => !ctx && x.neutral { d := true, a := true, ty := true, opx := true } && x.d.isV && x.a.isV && x.ty.isF16or32 && ftzOnly x.opx
  | .tblld x => x.neutral { a := true, sp := true, i := true } && x.a.isW && x.sp != .clw
  | .tblsw x => x.neutral {}
  | .shfl x => !ctx && x.neutral { d := true, a := true, b := true, ty := true, opx := true } && x.d.isV && x.a.isV && x.b.vwiF false &&
      x.ty != .none && decide (x.opx.toNat ≤ 3) && (x.opx == 0 || !x.b.isImm || x.b.immIn 0 127)
  | .bcast x => !ctx && x.neutral { d := true, a := true, b := true } && x.d.vwF false && x.a.isV && (x.b.isW || x.b.immIn 0 31)
  | .vote x => !ctx && x.neutral { d := true, a := true, opx := true } && x.d.isP && x.a.isP && decide (x.opx.toNat ≤ 2)
  | .ballot x => !ctx && x.neutral { d := true, a := true } && x.d.vwF false && x.a.isP
  | .vred x => !ctx && x.neutral { d := true, a := true, ty := true, rm := true, sat := true, opx := true } && x.d.vwF false && x.a.isV &&
      !x.opx.getLsbD 3 && wfRedOp x
  | .vscan x => !ctx && x.neutral { d := true, a := true, ty := true, rm := true, sat := true, opx := true } && x.d.isV && x.a.isV && wfRedOp x
  | .vperm x => !ctx && x.neutral { d := true, a := true, b := true, c := true } && x.d.isV && x.a.isV && x.b.vwF false && x.c.isV
  | .pand x | .por x | .pxor x => x.neutral { d := true, a := true, b := true, i := true } && x.d.isP && x.a.isP && x.b.isP &&
      decide (x.i16.toNat ≤ 3)
  | .pnot x => x.neutral { d := true, a := true, i := true } && x.d.isP && x.a.isP && decide (x.i16.toNat ≤ 1)
  | .pmov x => x.neutral { d := true, a := true, i := true } && x.d.isP && (x.a.isP || x.a.immIn 0 1) && decide (x.i16.toNat ≤ 1)
  | .nmap x => !ctx && wfNmap x
  | .nred x => !ctx && wfNred x
  | .nfill x => !ctx && wfNfill x
  | .cvt8 x | .cvw8 x => wfCvt ctx x { d := true, a := true, b := true, e := true, ty := true, rm := true, sat := true, opx := true } &&
      (if x.opx.getLsbD 3 then x.b.isV else x.b.nul)
  | .cvol x => wfCvt ctx x { d := true, a := true, b := true, c := true, e := true, ty := true, rm := true, sat := true, opx := true } &&
      x.b.isV && x.c.isV && !x.opx.getLsbD 3
  | .bmax x => !ctx && x.neutral { d := true, a := true, ty := true, opx := true } && x.d.isV && x.a.isV && x.ty.isF16or32 &&
      decide (1 ≤ x.opx.toNat) && decide (x.opx.toNat ≤ 3)
  | .bscl x => !ctx && x.neutral { d := true, a := true, e := true, ty := true } && x.d.isV && (x.a.isV || x.a.isImm) &&
      x.e.fmtIn (fun f => (decide (1 ≤ f) && decide (f ≤ 7)) || fmtBin8 f) && (x.ty == .i16x4 || x.ty == .i32x2)
  | .pk4 x => !ctx && x.neutral { d := true, a := true, e := true, ty := true, rm := true, opx := true } && x.d.isV && x.a.isV &&
      x.e.fmtIn (fun f => f == 1 || f == 2) && x.ty != .none && decide (x.ty.width < 64) &&
      decide (x.opx.toNat < 8) && decide (x.opx.toNat < 16 / x.ty.count)
  | .upk4 x => !ctx && x.neutral { d := true, a := true, e := true, ty := true, opx := true } && x.d.isV && x.a.isV &&
      x.e.fmtIn (fun f => f == 1 || f == 2) && x.ty != .none && decide (x.ty.width < 64) &&
      decide (x.opx.toNat < 8) && decide (x.opx.toNat < 16 / x.ty.count)
  | .ldV96 x => wfAccV ctx x { d := true, a := true, b := true, hint := true, ty := true, rm := true, sat := true, opx := true } && x.d.vF ctx
  | .ldM128 x => wfAccM ctx x { d := true, a := true, b := true, hint := true, ty := true, sz := true, sp := true, atm := true,
                                rm := true, sat := true, opx := true, i := true } && x.d.vF ctx && pairIf x.sz x.d
  | .stV96 x => wfAccV ctx x { a := true, b := true, c := true, hint := true, ty := true, rm := true, sat := true, opx := true } && x.c.vwF ctx
  | .stM128 x => wfAccM ctx x { a := true, b := true, c := true, hint := true, ty := true, sz := true, sp := true, atm := true,
                                rm := true, sat := true, opx := true, i := true } && x.c.vwF ctx && pairIf x.sz x.c
  | .atom x => x.neutral { d := true, a := true, b := true, hint := true, sz := true, sp := true, sc := true, ord := true, opx := true, i := true } &&
      decide (x.opx.toNat < 32) && (if x.opx.getLsbD 4 then x.d.nul else x.d.vF ctx && pairIf x.sz x.d) && x.a.vwF ctx && x.b.vwiF ctx &&
      pairIf x.sz x.b && atomSz (x.opx.extractLsb' 0 4).toNat x.sz && ordSc x.ord x.sc && atomHint x.hint x.sp
  | .cas x => x.neutral { d := true, a := true, b := true, c := true, hint := true, sz := true, sp := true, sc := true, ord := true, i := true } &&
      x.d.vF ctx && x.a.vwF ctx && x.b.vwF ctx && x.c.vwF ctx && (x.sz == .b32 || x.sz == .b64 || x.sz == .b128) &&
      pairIf x.sz x.d && pairIf x.sz x.b && pairIf x.sz x.c && (x.sz != .b128 || x.a.isW) && ordSc x.ord x.sc && atomHint x.hint x.sp
  | .fence x => x.neutral { i := true } && decide (x.i16.toNat < 32) && decide ((x.i16.extractLsb' 0 2).toNat ≤ 2) &&
      decide (1 ≤ (x.i16.extractLsb' 2 3).toNat) && decide ((x.i16.extractLsb' 2 3).toNat ≤ 5)
  | .acq x => x.neutral { d := true, a := true, sc := true, i := true } && x.d.vF ctx && x.a.vwF ctx && x.sc != .thread
  | .rel x => x.neutral { d := true, a := true, b := true, sc := true, opx := true, i := true } && (x.opx == 0 || x.opx == 16) &&
      (if x.opx.getLsbD 4 then x.d.nul else x.d.vF ctx) && x.a.vwF ctx && x.b.vwiF ctx && x.sc != .thread
  | .bind x => x.neutral { d := true, a := true, b := true, c := true } && x.d.isW && x.a.isW && x.b.isW && x.c.isW
  | .unbind x => x.neutral { a := true } && x.a.isW
  | .prf x => x.neutral { a := true, hint := true, opx := true, i := true } && x.a.vwF ctx && decide (x.opx.toNat ≤ 1)
  | .gth x | .sct x => !ctx && x.neutral { d := true, a := true, b := true, c := true, ty := true, rm := true, sat := true, hint := true, i := true } &&
      x.d.isW && x.a.vwF false && x.b.vwF false && x.c.isW && accMods x.ty false x.rm x.sat
  | .sctr x => !ctx && x.neutral { d := true, a := true, b := true, c := true, ty := true, sc := true, hint := true, i := true } &&
      x.d.isW && x.a.vwF false && x.b.vwF false && x.c.isW && atomHint x.hint .gv &&
      (x.ty == .f32x2 || x.ty == .i32x2 || x.ty == .u32x2 || x.ty == .i64 || x.ty == .u64)
  | .gthl x => x.neutral { a := true, ty := true, rm := true, sat := true, hint := true, opx := true } && x.a.isW &&
      (x.opx == 0 || x.opx == 2) && accMods x.ty false x.rm x.sat
  | .tlbinv x => x.neutral { a := true, sc := true, opx := true, i := true } && (x.sc == .pkg || x.sc == .pod) && decide (x.opx.toNat ≤ 1) &&
      (if x.opx == 0 then x.a.isW else x.a.nul && x.i32 == 0)
  | .pprobe x => x.neutral { d := true, a := true, opx := true, i := true } && decide (x.opx.toNat ≤ 3) && x.d.vwF ctx && x.d.evenReg &&
      x.a.vwF ctx && (!x.d.isW || x.a.isW)
  | .rpin x => x.neutral { d := true, a := true, b := true, opx := true, i := true } && x.d.isW && x.a.isW && x.b.isW &&
      decide (1 ≤ x.opx.toNat) && decide (x.opx.toNat ≤ 8)
  | .runpin x => x.neutral { d := true, a := true } && x.d.isW && x.a.isW
  | .l2wb x | .l2inv x => x.neutral { a := true, b := true, sc := true, i := true } && x.a.isW && x.b.isW && (x.sc == .pkg || x.sc == .pod)
  | .cp x => x.neutral { a := true, hint := true, opx := true, i := true } && x.a.isW && decide (x.opx.toNat ≤ 1)
  | .cpseal x => x.neutral { d := true } && x.d.vF ctx
  | .cpwait x => x.neutral { a := true } && (x.a.vwF ctx || x.a.immIn 0 7)
  | .cppoll x => x.neutral { d := true, a := true } && x.d.isP && (x.a.vwF ctx || x.a.immIn 0 7)
  | .nnew x => x.neutral { d := true, a := true, b := true, opx := true } && x.d.isW && x.a.isW && x.b.isW &&
      decide (1 ≤ x.opx.toNat) && decide (x.opx.toNat ≤ 5)
  | .nlink x => x.neutral { d := true, a := true, b := true, c := true } && x.d.isW && x.a.isW && x.b.isW && (x.c.isW || x.c.nul)
  | .nsub x => x.neutral { d := true, a := true } && x.d.isW && x.a.isW
  | .nwait x => x.neutral { a := true } && x.a.vwF ctx
  | .dqpush x => ctx && x.neutral { a := true } && (x.a.isW || x.a.isImm)
  | .dqpop x => !ctx && x.neutral { d := true } && x.d.vwF false
  | .bdq _ => !ctx
  | .dqsync x => ctx && x.neutral {}
  | .fork x => !ctx && x.neutral { b := true, c := true, i := true } && x.b.isW && x.c.isW
  | .tjoin x => x.neutral { a := true, i := true } && x.a.vwF ctx
  | .spawn x => !ctx && x.neutral { d := true, a := true, i := true } && x.d.isW && x.a.isW
  | .bar x | .bara x => !ctx && x.neutral { a := true, i := true } && x.a.immIn 0 64 && decide (x.i16.toNat < 16)
  | .barw x => !ctx && x.neutral { i := true } && decide (x.i16.toNat < 16)
  | .barc x => !ctx && x.neutral {}
  | .barcArr x => !ctx && x.neutral { i := true } && x.i16 == 1
  | .barcWait x => !ctx && x.neutral { i := true } && x.i16 == 2
  | .barq x => !ctx && x.neutral { d := true, i := true } && x.d.vwF false && decide (x.i16.toNat ≤ 16)
  | .mmap x => ctx && x.neutral { d := true, a := true, b := true } && x.a.isW && ((x.d.isT && x.b.isW) || (x.d.isZ && x.b.nul))
  | .mldb x => ctx && x.neutral { a := true } && x.a.isT
  | .mswp x => ctx && x.neutral {}
  | .mmul x => ctx && x.neutral { d := true, a := true, b := true, sat := true, opx := true } && x.d.isZ && x.a.isT && x.b.immIn 0 63 &&
      (x.sat == .none || x.sat == .satf) && x.opx.extractLsb' 0 2 != 3
  | .mzero x => ctx && x.neutral { d := true } && x.d.isZ
  | .mrd x => ctx && x.neutral { d := true, a := true, c := true, rm := true, sat := true, opx := true } && x.a.isZ &&
      (x.sat == .none || x.sat == .satf) && decide (x.opx.toNat < 4) &&
      (if x.opx.getLsbD 0 then x.d.isW && x.c.isW else x.d.isT && x.c.nul)
  | .mtask x => ctx && x.neutral { a := true, opx := true } && x.a.isW && decide (x.opx.toNat ≤ 1)
  | .msync x => ctx && x.neutral {}
  | .sgcfg x => ctx && x.neutral { a := true, b := true } && x.a.isW && x.b.isW
  | .sgmap x => ctx && x.neutral { a := true } && x.a.isT
  | .sgsct x | .sggth x => ctx && x.neutral { d := true, a := true } && x.d.isT && x.a.isT
  | .sgstat x => ctx && x.neutral { d := true, i := true } && x.d.isW && decide (x.i16.toNat ≤ 1)
  | .xbeg x => !ctx && x.neutral { d := true, a := true, b := true, ty := true, opx := true } && x.d.isV && x.a.vwF false &&
      (x.b.vwF false || x.b.immIn 0 127) && x.ty.isExpand && decide (x.opx.toNat ≤ 3)
  | .xdeal x => !ctx && x.neutral { d := true, c := true, e := true } && x.d.isV && x.c.isV && x.e.isP && x.d != x.c
  | .xred x => !ctx && x.neutral { a := true, ty := true } && x.a.vwiF false && x.ty.isExpand
  | .xend x => !ctx && x.neutral { d := true } && x.d.isV
  | .xst x => !ctx && x.neutral { d := true, a := true, opx := true } && decide (x.opx.toNat ≤ 3) &&
      (x.d.isV || (x.d.isW && (x.opx == 1 || x.opx == 3))) && (if x.opx == 2 then x.a.vwiF false else x.a.nul)
  | .mst x => x.neutral { a := true, b := true, c := true, hint := true, sz := true, atm := true, i := true } && x.a.isW && x.b.vwF ctx &&
      x.c.vwF ctx && (x.sz == .b32 || x.sz == .b64 || x.sz == .b128) && pairIf x.sz x.c && atmOk x.sz x.atm && atomHint x.hint .gv
  | .trc x => x.neutral { a := true, i := true } && (x.a.isW || x.a.isImm)
  | .smpl x => x.neutral { i := true }
  | .windowFormation _ => false
  | .instructionFetchComplete _ => false
  | .resultWriteback _ => false
  | .yieldovr _ => false
  | .pauseExpiry _ => false
  | .spillComplete _ => false
  | .refillComplete _ => false
  | .tableSwap _ => false
  | .tblldWriteStart _ => false
  | .tblldComplete _ => false
  | .nestComplete _ => false
  | .walkStart _ => false
  | .walkComplete _ => false
  | .memoryAnswer _ => false
  | .stageAArrival _ => false
  | .stageBArrival _ => false
  | .homePerform _ _ => false
  | .pdtWordFill _ => false
  | .answerSplit _ => false
  | .answerTimeout _ => false
  | .flitSend _ _ => false
  | .flitReceive _ _ => false
  | .wavelengthErrorWindow _ _ _ => false
  | .linkTrainingEnd _ _ => false
  | .copyTransferEnd _ => false
  | .nodeStart _ _ => false
  | .nodeComplete _ _ => false
  | .deferredPush _ => false
  | .matrixStreamComplete _ => false
  | .subtaskDispatch _ => false
  | .subtaskComplete _ => false
  | .regionIntake => false
  | .clusterPlacement => false
  | .clusterBlocking _ => false
  | .preemptionTaken _ => false
  | .forkTaskStart _ => false
  | .tjoinReread _ => false
  | .bartimeout _ _ => false
  | .broadcastFreeze _ => false
  | .stepComplete _ => false
  | .dumpComplete => false
  | .traceDrain _ => false
  | .monitorLevelSample _ => false
  | .checkpoint => false
  | .hwayChange => false
  | .homeCfgWrite _ => false
  | .fabCfgWrite _ => false
  | .fabPcinv _ => false
  | .fabLinkRtr _ _ => false
  | .dbgPctlStop _ _ => false
  | .dbgPctlGo _ _ => false
  | .dbgClctlStop _ => false
  | .dbgClctlGo _ => false
  | .dbgStepReq _ _ => false
  | .dbgDumpReq _ => false
  | .dbgWmissClear _ => false
  | .dbgMonClr _ _ => false
  | .dbgMonSourceWrite _ _ => false
  | .dbgRpctlRecord _ => false
  | .dbgRpctlReplay _ => false
  | .hostCtlWrite _ => false
  | .hostRel _ => false
  | .hostPwrstatClr _ => false
  | .hostSagClear _ => false
  | .hostPgateRequest _ => false
  | .hostPgateRelease _ => false
  | .clusterGated _ => false
  | .clusterPowerUp _ => false
  | .hostSubqBaseWrite _ _ => false
  | .hostSubqTailWrite _ _ => false
  | .registerWrite _ _ _ => false
  | .hostWindowRead _ _ => false
  | .hostWindowWrite _ _ => false
  | .coldReset => false
  | .functionLevelReset => false
  | .resetComplete => false
  | .powerPeriod _ => false
  | .supplySag _ => false
  | .supplyRecovery _ => false
  | .hostSpaceAnswer _ _ => false
  | .l2wbComplete _ => false

/-- A well-formed instruction: a warp or a context may issue it (R42). -/
def Instr.wf (i : Instr) : Bool := !i.isEvent && (i.wfIn false || i.wfIn true)

end Sys2Proof
end

