-- ==== Sys2Proof/Decode.lean ====
section
/-! DEFINITION. The decoder and the encoder (R28, R32 to R44). A code word is a natural number, bit 0 its least significant
bit, as the bytes of the instruction stand little-endian in memory. The decoder is total: it answers an instruction or the name
of the reason it refuses. Every refusal is the ILLEGAL of R42. -/

namespace Sys2Proof

/-- The width of each format in bits, from LEN (R28). -/
def lenBits (w : Nat) : Nat :=
  match w % 4 with
  | 0 => 64
  | 1 => 96
  | 2 => 128
  | _ => 256

/-- Cut a word into fields of the given widths, the lowest first. -/
def unpack : List Nat → Nat → List Nat
  | [], _ => []
  | n :: ns, w => w % 2 ^ n :: unpack ns (w / 2 ^ n)

/-- The word whose fields, lowest first, are the given (width, value) pairs. -/
def pack : List (Nat × Nat) → Nat
  | [] => 0
  | (n, x) :: r => x % 2 ^ n + 2 ^ n * pack r

/-- Field widths of the six layouts, lowest field first (R33 to R36, R64). -/
def wS64 : List Nat := [2, 1, 10, 10, 10, 10, 5, 16]
def wSBr : List Nat := [2, 1, 10, 24, 6, 5, 16]
def wV96 : List Nat := [2, 1, 10, 10, 10, 10, 10, 10, 5, 5, 3, 4, 3, 2, 3, 4, 4]
def wM128 : List Nat := [2, 1, 10, 10, 10, 10, 10, 5, 5, 3, 9, 2, 3, 2, 2, 3, 2, 3, 4, 32]
def wNest : List Nat := [2, 1, 10, 50, 150, 6, 6, 6, 8, 6, 5, 6]
def wLoop : List Nat := [2, 1, 10, 4, 1, 32, 5, 5, 192, 4]

/-- The opcode field (R32). -/
def opcodeOf (w : Nat) : Nat := w / 8 % 1024

/-- An operand field (R38, R332). -/
def Opnd.ofCode (x : Nat) : Option Opnd :=
  if x < 0x100 then some (.v (.ofNat 8 x))
  else if x < 0x140 then some (.w (.ofNat 6 x))
  else if x < 0x200 then none
  else if x < 0x300 then some (.imm (.ofNat 8 x))
  else if x < 0x310 then some (.p (.ofNat 4 x))
  else if x < 0x320 then some (.k (.ofNat 4 x))
  else if x < 0x330 then some (.t (.ofNat 4 x))
  else if x < 0x340 then some (.z (.ofNat 4 x))
  else none

/-- The code of an operand field (R38, R332). -/
def Opnd.code : Opnd → Nat
  | .v n => n.toNat
  | .w n => 0x100 + n.toNat
  | .imm n => 0x200 + n.toNat
  | .p n => 0x300 + n.toNat
  | .k n => 0x310 + n.toNat
  | .t n => 0x320 + n.toNat
  | .z n => 0x330 + n.toNat

/-- A guard field (R37). -/
def Guard.ofCode (x : Nat) : Guard := ⟨decide (16 ≤ x % 32), .ofNat 4 x⟩
def Guard.code (g : Guard) : Nat := (if g.neg then 16 else 0) + g.num.toNat

/-- The shared modifier codes (R40, R178). -/
def Ty.ofCode : Nat → Option Ty
  | 0 => some .none | 1 => some .i8x8 | 2 => some .u8x8 | 3 => some .i16x4 | 4 => some .u16x4 | 5 => some .i32x2
  | 6 => some .u32x2 | 7 => some .i64 | 8 => some .u64 | 9 => some .f16x4 | 10 => some .bf16x4 | 11 => some .f32x2
  | 12 => some .f64 | _ => Option.none
def Ty.code : Ty → Nat
  | .none => 0 | .i8x8 => 1 | .u8x8 => 2 | .i16x4 => 3 | .u16x4 => 4 | .i32x2 => 5 | .u32x2 => 6 | .i64 => 7 | .u64 => 8
  | .f16x4 => 9 | .bf16x4 => 10 | .f32x2 => 11 | .f64 => 12
def Rm.ofCode : Nat → Option Rm
  | 0 => some .rne | 1 => some .rz | 2 => some .ru | 3 => some .rd | 4 => some .rs | _ => none
def Rm.code : Rm → Nat
  | .rne => 0 | .rz => 1 | .ru => 2 | .rd => 3 | .rs => 4
def Sat.ofCode : Nat → Option Sat
  | 0 => some .none | 1 => some .sat | 2 => some .satf | _ => Option.none
def Sat.code : Sat → Nat
  | .none => 0 | .sat => 1 | .satf => 2
def Sc.ofCode : Nat → Option Sc
  | 0 => some .thread | 1 => some .warp | 2 => some .core | 3 => some .clus | 4 => some .pkg | 5 => some .pod | _ => none
def Sc.code : Sc → Nat
  | .thread => 0 | .warp => 1 | .core => 2 | .clus => 3 | .pkg => 4 | .pod => 5
def Sz.ofCode : Nat → Option Sz
  | 0 => some .b8 | 1 => some .b16 | 2 => some .b32 | 3 => some .b64 | 4 => some .b128 | 7 => some .none | _ => Option.none
def Sz.code : Sz → Nat
  | .b8 => 0 | .b16 => 1 | .b32 => 2 | .b64 => 3 | .b128 => 4 | .none => 7
def Sp.ofCode : Nat → Option Sp
  | 0 => some .gv | 1 => some .own | 2 => some .clw | _ => none
def Sp.code : Sp → Nat
  | .gv => 0 | .own => 1 | .clw => 2
def MOrd.ofCode : Nat → Option MOrd
  | 0 => some .rlx | 1 => some .acq | 2 => some .rel | _ => none
def MOrd.code : MOrd → Nat
  | .rlx => 0 | .acq => 1 | .rel => 2
def Atm.ofCode : Nat → Option Atm
  | 0 => some .dflt | 1 => some .a8 | 2 => some .a16 | _ => none
def Atm.code : Atm → Nat
  | .dflt => 0 | .a8 => 1 | .a16 => 2
def Hint.ofCode : Nat → Option Hint
  | 0 => some .dflt | 1 => some .nl1 | 2 => some .ef | 3 => some .nl1ef | 4 => some .l2k | _ => none
def Hint.code : Hint → Nat
  | .dflt => 0 | .nl1 => 1 | .ef => 2 | .nl1ef => 3 | .l2k => 4

/-- Why the decoder refuses a word (R42). Each is the ILLEGAL fault of the bundle. -/
inductive DecodeErr where
  /-- The opcode is unassigned in the word's length (R43). -/
  | opcode (len opc : Nat)
  /-- A field holds a reserved code (R38, R40). -/
  | field (len opc : Nat)
  /-- The instruction accepts no such class, value or combination (R41, R42, R44). -/
  | form (i : Instr)
  deriving DecidableEq, Repr

/-- `barc`, `barc.arr` and `barc.wait` share a code; I16 tells them apart (R327). -/
def splitBarc (x : S64A) : Instr :=
  if x.i16 == 1 then .barcArr x else if x.i16 == 2 then .barcWait x else .barc x

/-- The S64 opcodes of R43 and the instruction each one stands for. -/
def opS64 : List (Nat × (S64A → Instr)) :=
  [(0x0, Instr.nop), (0x1, Instr.pause), (0x3, Instr.lbrk), (0x12, Instr.jmark), (0x13, Instr.rjoin), (0x14, Instr.jleave)] ++
  [(0x15, Instr.exit), (0x16, Instr.yield), (0x17, Instr.trap), (0x18, Instr.rfe), (0x19, Instr.brk), (0x26, Instr.ret)] ++
  [(0x27, Instr.srd), (0x28, Instr.swr), (0x29, Instr.wflush), (0xaa, Instr.tblsw), (0xd0, Instr.pand), (0xd1, Instr.por)] ++
  [(0xd2, Instr.pxor), (0xd3, Instr.pnot), (0xd4, Instr.pmov), (0x124, Instr.fence), (0x151, Instr.cpseal), (0x152, Instr.cpwait)] ++
  [(0x153, Instr.cppoll), (0x157, Instr.nwait), (0x160, Instr.dqpush), (0x161, Instr.dqpop), (0x163, Instr.dqsync), (0x170, Instr.bar)] ++
  [(0x171, Instr.bara), (0x172, Instr.barw), (0x173, splitBarc), (0x174, Instr.barq), (0x182, Instr.mswp), (0x184, Instr.mzero)] ++
  [(0x187, Instr.msync), (0x194, Instr.sgstat), (0x1a8, Instr.trc), (0x1a9, Instr.smpl)]

/-- The SBR opcodes of R43 and the instruction each one stands for. -/
def opSBr : List (Nat × (SBrA → Instr)) :=
  [(0x10, Instr.bra), (0x162, Instr.bdq)]

/-- The V96 opcodes of R43 and the instruction each one stands for. -/
def opV96 : List (Nat × (V96A → Instr)) :=
  [(0x11, Instr.brx), (0x20, Instr.mov), (0x23, Instr.movxr), (0x24, Instr.movxw), (0x40, Instr.iaddV96), (0x41, Instr.isubV96)] ++
  [(0x42, Instr.imulV96), (0x43, Instr.imulh), (0x44, Instr.imad), (0x45, Instr.iminV96), (0x46, Instr.imaxV96), (0x47, Instr.iabs)] ++
  [(0x48, Instr.ineg), (0x49, Instr.bandV96), (0x4a, Instr.borV96), (0x4b, Instr.bxorV96), (0x4c, Instr.bnot), (0x4d, Instr.shl)] ++
  [(0x4e, Instr.shr), (0x4f, Instr.sar), (0x50, Instr.rol), (0x51, Instr.clz), (0x52, Instr.popc), (0x53, Instr.brev)] ++
  [(0x54, Instr.bfx), (0x55, Instr.bfi), (0x56, Instr.sel), (0x57, Instr.icmpV96), (0x58, Instr.iaddc), (0x80, Instr.fadd)] ++
  [(0x81, Instr.fsub), (0x82, Instr.fmul), (0x83, Instr.ffma), (0x84, Instr.fmin), (0x85, Instr.fmax), (0x86, Instr.fcmp)] ++
  [(0x87, Instr.fclass), (0x88, Instr.frnd), (0x89, Instr.fcvt), (0x8a, Instr.icvtf), (0x8b, Instr.fcvti), (0xa0, Instr.frcp)] ++
  [(0xa1, Instr.frsq), (0xa2, Instr.fsqrt), (0xa3, Instr.fex2), (0xa4, Instr.flg2), (0xa5, Instr.fsin), (0xa6, Instr.fcos)] ++
  [(0xa7, Instr.ftanh), (0xa8, Instr.tbl), (0xc0, Instr.shfl), (0xc1, Instr.bcast), (0xc2, Instr.vote), (0xc3, Instr.ballot)] ++
  [(0xc4, Instr.vred), (0xc5, Instr.vscan), (0xc6, Instr.vperm), (0x100, Instr.cvt8), (0x101, Instr.cvw8), (0x102, Instr.cvol)] ++
  [(0x103, Instr.bmax), (0x104, Instr.bscl), (0x105, Instr.pk4), (0x106, Instr.upk4), (0x120, Instr.ldV96), (0x121, Instr.stV96)] ++
  [(0x181, Instr.mldb), (0x183, Instr.mmul), (0x185, Instr.mrd), (0x198, Instr.xbeg), (0x199, Instr.xdeal), (0x19a, Instr.xred)] ++
  [(0x19b, Instr.xend), (0x19c, Instr.xst)]

/-- The M128 opcodes of R43 and the instruction each one stands for. -/
def opM128 : List (Nat × (M128A → Instr)) :=
  [(0x21, Instr.movi), (0x22, Instr.movh), (0x25, Instr.call), (0x40, Instr.iaddM128), (0x41, Instr.isubM128), (0x42, Instr.imulM128)] ++
  [(0x45, Instr.iminM128), (0x46, Instr.imaxM128), (0x49, Instr.bandM128), (0x4a, Instr.borM128), (0x4b, Instr.bxorM128), (0x57, Instr.icmpM128)] ++
  [(0xa9, Instr.tblld), (0x120, Instr.ldM128), (0x121, Instr.stM128), (0x122, Instr.atom), (0x123, Instr.cas), (0x125, Instr.acq)] ++
  [(0x126, Instr.rel), (0x127, Instr.bind), (0x128, Instr.unbind), (0x129, Instr.prf), (0x12a, Instr.gth), (0x12b, Instr.sct)] ++
  [(0x12c, Instr.sctr), (0x12d, Instr.gthl), (0x140, Instr.tlbinv), (0x141, Instr.pprobe), (0x148, Instr.rpin), (0x149, Instr.runpin)] ++
  [(0x14a, Instr.l2wb), (0x14b, Instr.l2inv), (0x150, Instr.cp), (0x154, Instr.nnew), (0x155, Instr.nlink), (0x156, Instr.nsub)] ++
  [(0x168, Instr.fork), (0x169, Instr.tjoin), (0x16a, Instr.spawn), (0x180, Instr.mmap), (0x186, Instr.mtask), (0x190, Instr.sgcfg)] ++
  [(0x191, Instr.sgmap), (0x192, Instr.sgsct), (0x193, Instr.sggth), (0x1a0, Instr.mst)]

/-- The NEST opcodes of R43 and the instruction each one stands for. -/
def opNest : List (Nat × (NestA → Instr)) :=
  [(0xe0, Instr.nmap), (0xe1, Instr.nred), (0xe2, Instr.nfill)]

/-- Assemble the fields of each layout; none where a field holds a reserved code. -/
def S64A.ofFields : List Nat → Option S64A
  | [_, s, _, d, a, b, g, i] => do
      return { park := s == 1, d := ← Opnd.ofCode d, a := ← Opnd.ofCode a, b := ← Opnd.ofCode b, g := Guard.ofCode g, i16 := .ofNat 16 i }
  | _ => none

/-- The S64 branch layout: bits [42:37] and I16 are reserved (R33, R41). -/
def SBrA.ofFields : List Nat → Option SBrA
  | [_, s, _, off, z, g, i] =>
      if z == 0 && i == 0 then some { park := s == 1, off := .ofNat 24 off, g := Guard.ofCode g } else none
  | _ => none

def V96A.ofFields : List Nat → Option V96A
  | [_, s, _, d, a, b, c, e, g0, g1, hint, opx, sc, sat, rm, t2, t] => do
      return { park := s == 1, d := ← Opnd.ofCode d, a := ← Opnd.ofCode a, b := ← Opnd.ofCode b, c := ← Opnd.ofCode c,
               e := ← Opnd.ofCode e, g0 := Guard.ofCode g0, g1 := Guard.ofCode g1, hint := ← Hint.ofCode hint, ty := ← Ty.ofCode t,
               ty2 := ← Ty.ofCode t2, rm := ← Rm.ofCode rm, sat := ← Sat.ofCode sat, sc := ← Sc.ofCode sc, opx := .ofNat 4 opx }
  | _ => none

def M128A.ofFields : List Nat → Option M128A
  | [_, s, _, d, a, b, c, g0, g1, hint, opx, sat, rm, atm, ord, sc, sp, sz, t, i] => do
      return { park := s == 1, d := ← Opnd.ofCode d, a := ← Opnd.ofCode a, b := ← Opnd.ofCode b, c := ← Opnd.ofCode c,
               g0 := Guard.ofCode g0, g1 := Guard.ofCode g1, hint := ← Hint.ofCode hint, ty := ← Ty.ofCode t, sz := ← Sz.ofCode sz,
               sp := ← Sp.ofCode sp, sc := ← Sc.ofCode sc, ord := ← MOrd.ofCode ord, atm := ← Atm.ofCode atm, rm := ← Rm.ofCode rm,
               sat := ← Sat.ofCode sat, opx := .ofNat 9 opx, i32 := .ofNat 32 i }
  | _ => none

def NestA.ofFields : List Nat → Option NestA
  | [_, s, _, ext, str, b0, b1, b2, opn, typ, g, flg] =>
      some { park := s == 1, ext := .ofNat 50 ext, str := .ofNat 150 str, bas0 := .ofNat 6 b0, bas1 := .ofNat 6 b1,
             bas2 := .ofNat 6 b2, opn := .ofNat 8 opn, typ := .ofNat 6 typ, g := Guard.ofCode g, flg := .ofNat 6 flg }
  | _ => none

/-- The `loop` layout: bits [255:252] are reserved (R64). -/
def LoopA.ofFields : List Nat → Option LoopA
  | [_, s, _, nb, tm, trip, ne, g, ent, z] =>
      if z == 0 then some { park := s == 1, nb := .ofNat 4 nb, tm := tm == 1, trip := .ofNat 32 trip, g := Guard.ofCode g,
                            ne := .ofNat 5 ne, ent := .ofNat 192 ent }
      else none
  | _ => none

/-- One opcode of a format: look it up, then assemble the fields. -/
def fromTable {α : Type} (tab : List (Nat × (α → Instr))) (len w : Nat) (x : Option α) : Except DecodeErr Instr :=
  match tab.lookup (opcodeOf w) with
  | none => .error (.opcode len (opcodeOf w))
  | some f =>
    match x with
    | none => .error (.field len (opcodeOf w))
    | some a => .ok (f a)

/-- The instruction whose format and fields a word has, before the checks of R42. -/
def decodeFields (w : Nat) : Except DecodeErr Instr :=
  match w % 4 with
  | 0 =>
    if (opSBr.lookup (opcodeOf w)).isSome then fromTable opSBr 64 w (SBrA.ofFields (unpack wSBr w))
    else fromTable opS64 64 w (S64A.ofFields (unpack wS64 w))
  | 1 => fromTable opV96 96 w (V96A.ofFields (unpack wV96 w))
  | 2 => fromTable opM128 128 w (M128A.ofFields (unpack wM128 w))
  | _ =>
    if opcodeOf w == 2 then
      match LoopA.ofFields (unpack wLoop w) with
      | some a => .ok (.loop a)
      | none => .error (.field 256 2)
    else fromTable opNest 256 w (NestA.ofFields (unpack wNest w))

/-- The decoder: the word's low bits, as many as LEN says, are the instruction (R28, R42). -/
def decode (w : Nat) : Except DecodeErr Instr :=
  match decodeFields w with
  | .error e => .error e
  | .ok i => if i.wf then .ok i else .error (.form i)

/-- A single flag bit. -/
def bit (b : Bool) : Nat := if b then 1 else 0

/-- The words of an instruction, as one number (R33 to R36, R38, R40, R64); 0 for an event, which has none. -/
def encode (i : Instr) : Nat :=
  match i.shape with
  | .s64 x => pack [(2, 0), (1, bit x.park), (10, i.opc), (10, x.d.code), (10, x.a.code), (10, x.b.code), (5, x.g.code),
                    (16, x.i16.toNat)]
  | .sbr x => pack [(2, 0), (1, bit x.park), (10, i.opc), (24, x.off.toNat), (6, 0), (5, x.g.code), (16, 0)]
  | .v96 x => pack [(2, 1), (1, bit x.park), (10, i.opc), (10, x.d.code), (10, x.a.code), (10, x.b.code), (10, x.c.code),
                    (10, x.e.code), (5, x.g0.code), (5, x.g1.code), (3, x.hint.code), (4, x.opx.toNat), (3, x.sc.code),
                    (2, x.sat.code), (3, x.rm.code), (4, x.ty2.code), (4, x.ty.code)]
  | .m128 x => pack [(2, 2), (1, bit x.park), (10, i.opc), (10, x.d.code), (10, x.a.code), (10, x.b.code), (10, x.c.code),
                     (5, x.g0.code), (5, x.g1.code), (3, x.hint.code), (9, x.opx.toNat), (2, x.sat.code), (3, x.rm.code),
                     (2, x.atm.code), (2, x.ord.code), (3, x.sc.code), (2, x.sp.code), (3, x.sz.code), (4, x.ty.code),
                     (32, x.i32.toNat)]
  | .nest x => pack [(2, 3), (1, bit x.park), (10, i.opc), (50, x.ext.toNat), (150, x.str.toNat), (6, x.bas0.toNat),
                     (6, x.bas1.toNat), (6, x.bas2.toNat), (8, x.opn.toNat), (6, x.typ.toNat), (5, x.g.code), (6, x.flg.toNat)]
  | .loop x => pack [(2, 3), (1, bit x.park), (10, i.opc), (4, x.nb.toNat), (1, bit x.tm), (32, x.trip.toNat), (5, x.ne.toNat),
                     (5, x.g.code), (192, x.ent.toNat), (4, 0)]
  | .event => 0

/-- The length of an instruction in bits (R28). -/
def Instr.bits (i : Instr) : Nat :=
  match i.shape with
  | .s64 _ | .sbr _ => 64
  | .v96 _ => 96
  | .m128 _ => 128
  | .nest _ | .loop _ => 256
  | .event => 0

/-- What the decoder reads from a table word: the words stand in memory little-endian, so the word's number is the decoder's
own. -/
def decodeTableWord (nbits w : Nat) : Option Instr :=
  match decode (w % 2 ^ nbits) with
  | .ok i => some i
  | .error _ => none

/-- Lowest bit of the operand field of a loop slot: D, A, B, C, E, and I16 of the S64 format (R33, R34, R64). -/
def slotLsb (slot : Nat) : Nat := if slot == 5 then 48 else 13 + 10 * slot

/-- The field of a loop slot in a code word. -/
def slotField (w slot : Nat) : Nat :=
  if slot == 5 then w / 2 ^ 48 % 65536 else w / 2 ^ slotLsb slot % 1024

/-- Replace the field of a loop slot. -/
def setSlot (w slot x : Nat) : Nat := w - slotField w slot * 2 ^ slotLsb slot + x * 2 ^ slotLsb slot

/-- A field's number after a step, with its class kept; none where the number leaves its range (R66, R67). -/
def stepField (slot f : Nat) (by_ : Int) : Option Nat :=
  if slot == 5 then
    let n := (BitVec.ofNat 16 f).toInt + by_
    if -32768 ≤ n ∧ n ≤ 32767 then some (BitVec.ofInt 16 n).toNat else none
  else if f < 0x100 then
    let n := (f : Int) + by_
    if 0 ≤ n ∧ n ≤ 255 then some n.toNat else none
  else if f < 0x140 then
    let n := ((f - 0x100 : Nat) : Int) + by_
    if 0 ≤ n ∧ n ≤ 63 then some (0x100 + n.toNat) else none
  else if f < 0x200 then some f
  else if f < 0x300 then
    let n := (BitVec.ofNat 8 f).toInt + by_
    if -128 ≤ n ∧ n ≤ 127 then some (0x200 + (BitVec.ofInt 8 n).toNat) else none
  else
    let n := ((f % 16 : Nat) : Int) + by_
    if 0 ≤ n ∧ n ≤ 15 then some (f / 16 * 16 + n.toNat) else none

/-- The total step that the entries of a loop give a slot of the body instruction at a position (R66: entries for one field
add). -/
def LoopA.stepOf (x : LoopA) (idx slot : Nat) : Int :=
  ((List.range x.ne.toNat).map fun j =>
    let e := x.entry j
    if e.1 == idx && e.2.1 == slot then e.2.2 else 0).sum

/-- The number that a loop slot's field holds (R66). -/
def fieldNum (slot f : Nat) : Int :=
  if slot == 5 then (BitVec.ofNat 16 f).toInt
  else if f < 0x100 then f
  else if f < 0x200 then ((f % 0x40 : Nat) : Int)
  else if f < 0x300 then (BitVec.ofNat 8 f).toInt
  else ((f % 16 : Nat) : Int)

/-- The code word of a body instruction with its fields stepped for a pass, and the numbers that leave their range, by slot (R66, R67): a
field whose number does so keeps its own. -/
def stepWord (x : LoopA) (idx pass w : Nat) : Nat × List (Nat × Int) :=
  (List.range 6).foldl (fun r slot =>
    let d := x.stepOf idx slot * pass
    if d == 0 then r
    else match stepField slot (slotField r.1 slot) d with
      | some f => (setSlot r.1 slot f, r.2)
      | none => (r.1, r.2 ++ [(slot, fieldNum slot (slotField r.1 slot) + d)])) (w, [])

/-- The operand slots that the S64 instructions use, by opcode (R65: an entry may name no other). -/
def slotsS64 : List (List Nat × List Nat) :=
 [
  ([0x1, 0x19, 0x17, 0x172, 0x1a9, 0x124, 0x173], [5]),
  ([0x13, 0x14, 0x151, 0x161, 0x184], [0]),
  ([0x16], [2, 5]),
  ([0x27, 0x28, 0x153], [0, 1]),
  ([0x152, 0x157, 0x160], [1]),
  ([0xd0, 0xd1, 0xd2], [0, 1, 2, 5]),
  ([0xd3, 0xd4], [0, 1, 5]),
  ([0x170, 0x171, 0x1a8], [1, 5]),
  ([0x174, 0x194], [0, 5])]

/-- The operand slots that the V96 instructions use, by opcode. -/
def slotsV96 : List (List Nat × List Nat) :=
 [
  ([0x181, 0x19a, 0x11], [1]),
  ([0x19b], [0]),
  ([0x20, 0x47, 0x48, 0x4c, 0x51, 0x52, 0x53, 0x87, 0x88, 0x89, 0x8a, 0x8b, 0xa0, 0xa1, 0xa2, 0xa3, 0xa4, 0xa5, 0xa6, 0xa7, 0xa8, 0xc2, 0xc3, 0xc4, 0xc5, 0x103], [0, 1]),
  ([0x23, 0x24, 0x40, 0x41, 0x42, 0x43, 0x45, 0x46, 0x49, 0x4a, 0x4b, 0x4d, 0x4e, 0x4f, 0x50, 0x57, 0x80, 0x81, 0x82, 0x84, 0x85, 0x86, 0xc0, 0xc1, 0x120, 0x198, 0x183], [0, 1, 2]),
  ([0x44, 0x54, 0x56, 0x83, 0xc6], [0, 1, 2, 3]),
  ([0x55, 0x58, 0x102], [0, 1, 2, 3, 4]),
  ([0x104, 0x105, 0x106], [0, 1, 4]),
  ([0x121], [1, 2, 3]),
  ([0x199], [0, 3, 4])]

/-- The operand slots that the M128 instructions use, by opcode; OPX decides some of them. -/
def slotsM128 : List (List Nat × List Nat) :=
 [
  ([0x21, 0x22], [0]),
  ([0xa9, 0x129, 0x12d, 0x150, 0x169, 0x186, 0x191, 0x128], [1]),
  ([0x40, 0x41, 0x42, 0x45, 0x46, 0x49, 0x4a, 0x4b, 0x57, 0x141, 0x149, 0x156, 0x16a, 0x125, 0x192, 0x193], [0, 1]),
  ([0x148, 0x154, 0x180], [0, 1, 2]),
  ([0x123, 0x127, 0x12a, 0x12b, 0x12c, 0x155], [0, 1, 2, 3]),
  ([0x14a, 0x14b, 0x190], [1, 2]),
  ([0x168], [2, 3]),
  ([0x1a0], [1, 2, 3])]

/-- The operand slots that an instruction uses (0 D, 1 A, 2 B, 3 C, 4 E, 5 I16). -/
def Instr.slots (i : Instr) : List Nat :=
  let find (t : List (List Nat × List Nat)) : List Nat := ((t.find? fun r => r.1.contains i.opc).map Prod.snd).getD []
  match i.shape with
  | .s64 x => if i.opc == 0x12 then (if x.i16 == 2 then [0, 1, 5] else [0, 5]) else find slotsS64
  | .v96 x =>
    if i.opc == 0x100 || i.opc == 0x101 then (if x.opx.getLsbD 3 then [0, 1, 2, 4] else [0, 1, 4])
    else if i.opc == 0x185 then (if x.opx.getLsbD 0 then [0, 1, 3] else [0, 1])
    else if i.opc == 0x19c then (if x.opx == 2 then [0, 1] else [0])
    else find slotsV96
  | .m128 x =>
    if i.opc == 0x25 then (if x.opx.getLsbD 5 then [1] else [])
    else if i.opc == 0x120 then (if x.opx.getLsbD 1 then [0, 1, 2] else [0, 1])
    else if i.opc == 0x121 then (if x.opx.getLsbD 1 then [1, 2, 3] else [1, 3])
    else if i.opc == 0x122 || i.opc == 0x126 then (if x.opx.getLsbD 4 then [1, 2] else [0, 1, 2])
    else if i.opc == 0x140 then (if x.opx == 0 then [1] else [])
    else find slotsM128
  | _ => []

/-- The slot that an instruction reads as a special register: A of `srd`, D of `swr` (R39, R65). -/
def Instr.sregSlot (i : Instr) : Option Nat :=
  if i.opc == 0x27 then some 1 else if i.opc == 0x28 then some 0 else none

/-- `bra`, `brx`, `bdq`, `call`, `ret`, `exit`, `rfe`, `rjoin`, `trap` and `brk` may not stand in a loop body (R65). -/
def Instr.noBody (i : Instr) : Bool := [0x10, 0x11, 0x162, 0x25, 0x26, 0x15, 0x18, 0x13, 0x17, 0x19].contains i.opc

/-- The conditions of R65 on one body instruction: its raw word and its position. A word that does not decode is no condition of R65: its ILLEGAL is
its own, when it is reached (R42); only its length is checked here (log entry 95). -/
def bodyOk (x : LoopA) (idx w : Nat) : Bool :=
  decide (w % 4 ≤ 1) &&
  match decodeFields w with
  | .error _ => true
  | .ok i =>
    !i.noBody &&
    (List.range x.ne.toNat).all fun j =>
      let e := x.entry j
      e.1 != idx || (i.slots.contains e.2.1 && i.sregSlot != some e.2.1)

end Sys2Proof
end

