-- ==== Sys2Proof/Machine/State.lean ====
section
/-! DEFINITION. The state of one TZ64 module, as plain data: every register, queue, buffer, table and status field that the
spec gives the module, and the module's own bookkeeping (log entries 1 and 5). Numbering: core c is 0 to 191 (R12); stop unit
u = 5c + q, with q = 4 the scalar pipe (R432); a warp or context is named by wid = 16u + slot, a thread by tid = 32·wid + lane
(a context is lane 0 of unit 5c + 4 and slot `%wg`). -/

namespace Sys2Proof.Machine
open Sys2Proof

/-- A byte of a memory. -/
abbrev Cell := Host.Cell

/-- The machine-level faults. A fault of R308 is a next state (it enters the fault domain), so no step stops with one. -/
inductive Fault where
  /-- No meaning raises it; the type is not empty so that an outcome can be compared (safe). -/
  | notProduced
  deriving DecidableEq, Repr

/-- Why a step refuses an instruction. -/
inductive Refusal where
  /-- An arm of `exec` that has no meaning yet (safe). -/
  | notModelled (mnemonic : String)
  deriving DecidableEq, Repr

/-- The fault codes of R308, in order from 0x01. -/
inductive Code where
  | illegal | fetch | misalign | page | perm | regrange | rejoin | yieldovr | bartimeout | poison | tenant | dqempty | matrix
  | expand | stackovf | trap | brk | fabric
  deriving DecidableEq, Repr

/-- The expand fields of a fault record (R307, R399): offset, iteration, executing lane, owner lane. -/
structure XFault where
  xoff : Nat
  xf : Nat
  xel : Nat
  xol : Nat
  deriving DecidableEq, Repr

/-- A fault on its way to the fault domain: the fields of R307 that the raiser knows. `resume` is the resume address of R85. -/
structure FaultInfo where
  code : Code
  pc : Nat
  resume : Nat
  kind : Nat := 0
  lvl : Nat := 0
  addr : Nat := 0
  aux : Nat := 0
  deferred : Bool := false
  lost : Bool := false
  kill : Bool := false
  exp : Option XFault := none
  /-- HM of the thread when the fault was raised (R86), and `%clock` then (R307). -/
  hm : Bool := false
  clk : Nat := 0
  deriving DecidableEq, Repr

/-- A register as a destination: a physical `v` register of a thread, a `w` register of a warp or context, a predicate. -/
inductive RegRef where
  | v (tid phys : Nat)
  | w (wid n : Nat)
  | p (tid n : Nat)
  deriving DecidableEq, Repr

/-- A register result that has not been written (R57): its value once it is known, the threads whose park waits for it, the
instruction that produced it, and its destination as an operand field (R446). `op` names the access that brings it; results with
one `set` other than 0 and the same owners are written together (R119). -/
structure Pend where
  dst : RegRef
  val : Option Word
  owners : List Nat
  pc : Nat
  opd : Nat
  op : Nat := 0
  set : Nat := 0
  deriving DecidableEq, Repr

/-- A register window of a thread (R102): its size and its tag's return address. -/
structure Win where
  size : Nat
  radr : Nat
  deriving DecidableEq, Repr

/-- The window state of a thread (R94, R107): ring base and size of the current window, depth, next free spill byte, the
resident windows oldest first (the last is the current one). -/
structure Windows where
  b : Nat
  f : Nat
  dep : Nat
  spo : Nat
  res : List Win
  deriving DecidableEq, Repr

/-- A spill that has not been tried, one that faulted and waits for the thread's resume or the end of its handler, one that is retried before the
thread issues again (R106). -/
inductive SpillSt where
  | fresh
  | held
  | due
  deriving DecidableEq, Repr

/-- A spill that has started: the spill-area bytes it writes and the instruction that caused it (R102, R106). -/
structure Spill where
  off : Nat
  words : List Word
  pc : Nat
  st : SpillSt := .fresh
  deriving DecidableEq, Repr

/-- The loop state of a thread (R66, R70). `offs` holds the offset of each body instruction from the first, and then the offset
of the end address; `blocks` the fetched blocks of the body, by address, as they stood at the loop's check (R68, R69). -/
structure LoopSt where
  act : Bool
  ladr : Nat
  trip : Nat
  pass : Nat
  word : LoopA
  offs : List Nat
  blocks : List (Nat × Nat)
  deriving DecidableEq, Repr

/-- The fetch of a thread's next instruction (R29, R31): not fetched, the 32-byte block, or the fault that the fetch met. -/
inductive FetchSt where
  | none
  | ok (addr data : Nat)
  | bad (pc : Nat) (f : FaultInfo)
  deriving DecidableEq, Repr

/-- What a thread waits for besides its own park (R49, R448). -/
inductive Wait where
  | none
  /-- `pause`, until a clock (R62). -/
  | pause (until_ : Nat)
  /-- Held at a yield with a live count (R83). -/
  | yieldHold (live : Nat)
  /-- At `rjoin kn` (R79). -/
  | rjoin (n : Nat)
  /-- At barrier n for the episode of its arrival (R320). -/
  | bar (n : Nat)
  /-- At barrier n to arrive again once the open episode completes (R317). -/
  | barAgain (n : Nat)
  /-- Until every earlier memory access of the thread has been performed; then the instruction is executed again. -/
  | drain
  /-- Until every result and every memory access is back, for `exit` (R60, R81). -/
  | exitDrain
  /-- A translation miss (R221). -/
  | walk
  /-- `dqpush` on a full queue, a pop on an empty one, `dqsync` (R281 to R283). -/
  | dqFull | dqSync
  /-- A pop on an empty queue (R282): its destination, or its branch offset; and its switch marker. -/
  | dqEmpty (d : Opnd) (off : Option (BitVec 24)) (park : Bool)
  /-- Until the thread's results are written, whether or not S is set (R242); until the accesses of a list are performed (R223). -/
  | results | ids (l : List Nat)
  /-- `cpwait`, or a `cpseal` that waits, on a batch; every batch, for `exit`; `nwait` on a node (R253 to R267). -/
  | batch (n : Nat) | batches | node (i : Nat)
  /-- `tjoin` on a counter at a virtual address, for the lanes that share one read (R302); `spawn` until the child is taken in (R303). -/
  | tjoin (va : Nat) (lanes : List Nat) | spawn
  /-- `xbeg` until gathering completes, `xdeal` until its fold, `xend` until the last fold (R390 to R394): the destinations, the switch
  marker. -/
  | xbeg (d : Opnd) (park : Bool)
  | xdeal (d c e : Opnd) (park : Bool)
  | xend (d : Opnd) (park : Bool)
  /-- The matrix stream or the task queue is full; `msync` (R341, R352, R354). -/
  | stream | tasks | msync
  /-- `ret` until its refill is written; `wflush` until the spills are written (R103, R105). -/
  | refill | spill
  /-- A loop nest of the thread's warp (R142). -/
  | nest
  /-- `tblld` and `tblsw` (R129, R130). -/
  | table
  /-- The engine act that an instruction started: `l2wb`, `l2inv`, `tlbinv` (R223, R242). -/
  | engine (n : Nat)
  deriving DecidableEq, Repr

/-- A sealed batch in use (R253, R256): its number, and the first fault that one of its transfers met. It is marked faulted once no
transfer of it is left. -/
structure Batch where
  num : Nat
  f : Option FaultInfo
  deriving DecidableEq, Repr

/-- The copy record of a thread (R253, R256, R268): the batches in use in seal order, the fault of the open batch, the next number. -/
structure Batches where
  bs : List Batch
  opn : Option FaultInfo
  next : Nat
  deriving DecidableEq, Repr

/-- An ordering point that a thread has passed and whose earlier accesses are not all performed (R193, R203): those accesses, whether it holds later
reads too or only later writes, and the acquire that follows them, with its scope. -/
structure Fence where
  ids : List Nat
  reads : Bool
  acq : Option Sc
  deriving DecidableEq, Repr

/-- One thread, or one Domestique context (R14, R269). -/
structure Thread where
  tid : Nat
  region : Nat
  gone : Bool
  pc : Nat
  /-- Physical `v` registers; empty for a context (R92, R93, R271). -/
  v : List Word
  /-- The rejoin register (R76). -/
  msk : BitVec 16
  arr : BitVec 16
  lft : BitVec 16
  /-- p0 to p14; bit 15 is not used, since p15 reads 1 (R92). -/
  p : BitVec 16
  tpc : Word
  tcause : Word
  rseed : Word
  olthr : Word
  win : Windows
  spb : Nat
  spl : Nat
  spills : List Spill
  ycnt : Nat
  ybud : Nat
  hm : Bool
  loop : LoopSt
  wait : Wait
  /-- Parked by the switch marker (R55). -/
  park : Bool
  /-- The instruction at pc has been counted and waits to be executed again. -/
  replay : Bool
  /-- A step of a waiting instruction that has already taken effect, so that its re-execution does not repeat it. -/
  stage : Nat
  /-- The registers that a waiting instruction has read at its issue, for its re-execution (R56). -/
  snap : List (RegRef × Word)
  /-- Faults not yet handed to the fault domain, oldest first; the first one while the thread is parked for the host (R49, R310). -/
  faults : List FaultInfo
  /-- Parked for the host under park and report (R310). -/
  hostPark : Bool
  /-- The clock at which the thread last became ready (R49). -/
  age : Option Nat
  /-- The bundle of the current window that holds the thread (R50). -/
  bundle : Option Nat
  losses : Nat
  /-- The clock at which its bundle last lost an arbitration (R53, R448). -/
  lostAt : Option Nat
  /-- The clocks in a row in which the scalar pipe has passed its bundle over (R270). -/
  passed : Nat
  fetch : FetchSt
  /-- Faults that a walk gave this thread's instruction, by 64 KiB page: code, level, address (R221). -/
  walked : List (Nat × Code × Nat × Nat)
  /-- The decision-queue cursor (R276). -/
  cur : Nat
  batches : Batches
  /-- The pc of the last barrier arrival and of the exit, for the diagnostic block (R326). -/
  lastPc : Nat
  lastClk : Nat
  issuedAt : Nat
  /-- The fences without `park`, and the acquires of barrier completions, that still hold later accesses back (R193, R203). -/
  fences : List Fence
  deriving DecidableEq, Repr

/-- One warp (R14), or the `w` registers of a Domestique context (R271). -/
structure Warp where
  wid : Nat
  /-- The workgroup's key; none for a fork task. -/
  wg : Option Nat
  region : Nat
  /-- The warp's index in its workgroup (R294). -/
  idx : Nat
  w : List Word
  /-- The lanes on which the launch put a thread. -/
  lanes : BitVec 32
  /-- The join counter of a fork task (R298). -/
  jca : Option Nat
  /-- The tag that `smpl` set (R456). -/
  smpl : Option (BitVec 16)
  deriving DecidableEq, Repr

/-- A barrier's open episode (R313): count, mismatch, opening clock, timer; the opening arrival's thread, pc and count operand; the arrivals (thread,
clock, pc, count operand) in order. An arrival that only a save block tells of has no count operand (R329). -/
structure Episode where
  n : Nat
  k : Nat
  cmis : Bool
  oclk : Nat
  timer : Nat
  timedOut : Bool
  op : Nat × Nat
  cop : Option Nat
  arrs : List (Nat × Nat × Nat × Option Nat)
  deriving DecidableEq, Repr

/-- The decision queue of a workgroup (R276, R285): its entries, pushes, flags; the entry of a push that waits on a full queue (R281); the
clock of the last retirements and their number (R278). -/
structure DQueue where
  ents : List Word
  pushn : Nat
  dqp : Bool
  dqx : Bool
  pend : Option Word
  retClk : Nat
  retN : Nat
  deriving DecidableEq, Repr

/-- A `tblld` or a `tblsw` of a table slot that has not taken effect (R129 to R131): the clock of its issue, the threads, the image
read and the first entry whose read failed. -/
structure TableJob where
  swap : Bool
  clk : Nat
  tids : List Nat
  pc : Nat
  img : Nat
  bad : Option (Nat × FaultInfo)
  started : Bool
  deriving DecidableEq, Repr

/-- A table slot: two banks of 4,112 bytes as images, and whether bank 1 is the active one (R127). -/
structure TableSlot where
  bank0 : Nat
  bank1 : Nat
  active : Bool
  jobs : List TableJob
  deriving DecidableEq, Repr

/-- A matrix or signature command of a stream, with the descriptors and segments it read at issue (R341, R372). -/
structure StreamOp where
  op : Nat
  pc : Nat
  t : List Nat
  z : List Nat
  args : List Nat
  segs : List Nat
  rm : Rm
  satf : Bool
  /-- The accesses of the context that had not been performed at issue; what an instruction that is being performed has read early, row by row; the rows
  that an `mrd` has written (R342). -/
  after : List Nat
  early : List (List (Nat × Nat))
  done : List Nat
  deriving DecidableEq, Repr

/-- An element of an operand of the matrix engine with the format and geometry of its segment or page, and its slot's code (R335). -/
structure OpdEl where
  fmt : Nat
  geo : Nat
  code : Nat
  slot : Nat
  deriving DecidableEq, Repr

/-- A logical macro (R343): the descriptor and segment of its last load, and the elements of each column with the scale of
each, as they stood at the load; and what reloads have found instead, latest last. -/
structure Macro where
  valid : Bool
  desc : Nat
  seg : Nat
  cols : List (List (Nat × Nat))
  more : List (List (List (Nat × Nat)))
  deriving DecidableEq, Repr

/-- A tile task (R353): its record, its node, its subtasks not yet dispatched, and its fault. -/
structure Task where
  id : Nat
  off : Nat
  node : Option Nat
  record : List Word
  todo : List Nat
  running : Nat
  fault : Option FaultInfo
  pc : Nat
  /-- `%rseed` of the context, and SGC, at the `mtask` (R356, R375). -/
  seed : Word
  sgc : Nat
  deriving DecidableEq, Repr

/-- The matrix and signature state of a workgroup (R332 to R344, R354, R370, R371). -/
structure Matrix where
  t : List (BitVec 128)
  z : List Word
  /-- The accumulator entries that are not zero, by entry number, as 36-bit values. -/
  acc : List (Nat × Nat)
  mac0 : Macro
  mac1 : Macro
  active : Bool
  stream : List StreamOp
  tasks : List Task
  /-- The signature nodes that run, each with its operation as its payload gave it at the start (R382). -/
  nodes : List (Nat × StreamOp)
  /-- The signature configuration SGC and its counters SGS (R370, R371). -/
  sgCfg0 : Word
  sgCfg1 : Word
  sgs : Word
  deriving DecidableEq, Repr

/-- A global lane of an expansion (R385 to R394): its pair, its progress, its contribution, its owner sum. -/
structure XLane where
  start : Word
  len : BitVec 32
  arr : Bool
  taken : Bool
  sub : Bool
  done : Bool
  c : BitVec 32
  sum : BitVec 32
  deriving DecidableEq, Repr

/-- The expansion that a workgroup runs in a partition (R386, R400): width code, partition rank of participant 0, type code, deals folded,
its lanes by global lane. An idle one is not listed. -/
structure Expand where
  part : Nat
  dealing : Bool
  nc : Nat
  base : Nat
  ty : Nat
  fold : Nat
  lanes : List XLane
  deriving DecidableEq, Repr

/-- A workgroup on a core (R14, R294, R297). -/
structure Wg where
  key : Nat
  region : Nat
  idx : Nat
  core : Nat
  slot : Nat
  rank : Nat
  clus : Nat
  /-- The window size in bytes, and the bytes of the window that are not zero. -/
  win : Nat
  scr : List Cell
  segs : List Word
  dq : DQueue
  table : TableSlot
  eps : List Episode
  mx : Matrix
  xp : List Expand
  /-- The `nsub` that submitted each node: the node, the thread, its program counter (R442). -/
  nsubs : List (Nat × Nat × Nat)
  relaunch : Nat
  /-- Warp i's wid, in ascending i. -/
  warps : List Nat
  placed : Nat
  /-- A pre-emption request is pending (R83, R304). -/
  preempt : Bool
  deriving DecidableEq, Repr

/-- A member of a cluster that has ended (R326): its rank, its index, its core, the last exit of each warp (lane and program counter). -/
structure Ended where
  rank : Nat
  idx : Nat
  core : Nat
  exits : List (Nat × Nat)
  deriving DecidableEq, Repr

/-- A launched cluster (R14, R296): its members' keys in rank order, its barrier, and what is left of the members that have ended. -/
structure Clus where
  id : Nat
  region : Nat
  clid : Nat
  phys : Nat
  members : List Nat
  ep : Option Episode
  ended : List Ended
  deriving DecidableEq, Repr

/-- A loop nest in progress (R142, R146): the warp, the instruction, its base registers at issue, the active table bank at issue, the
iterations done and the partial accumulator. -/
structure Nest where
  wid : Nat
  tids : List Nat
  op : Nat
  a : NestA
  base : List Word
  img : Nat
  iter : Nat
  part : Nat
  pc : Nat
  /-- The loop state of each thread at issue: whether a loop was active, and the passes made; a fault of the nest restores it (R145). -/
  back : List (Nat × Bool × Nat)
  deriving DecidableEq, Repr

/-- A cluster that waits for placement (R296, R306). Of the clusters of a region that were never placed only the first is listed: the others
need the same and follow it. -/
structure Waiting where
  region : Nat
  clid : Nat
  /-- Save slots of the members, by rank, when the cluster resumes from a save; relaunch count when it restarts after a kill; the ranks of
  members that had ended. -/
  saved : Option (List Nat)
  absent : List Nat
  /-- What the save blocks leave out: registers that R84 does not save, by member, place of the thread and physical number; and the copy
  records of the contexts, by member. -/
  kept : List (Nat × Nat × Nat × Word)
  ctxs : List Batches
  relaunch : Nat
  passed : Option Nat
  blocking : Bool
  /-- The launched clusters whose pre-emption has been requested for it, with the save slots of their members (R304, R305). -/
  victims : List (Nat × List Nat)
  /-- The cores of those clusters, kept for it until it is placed (R304, log entry 102). -/
  keep : List Nat
  /-- Parked for the host after a kill (R311). -/
  parked : Bool
  /-- What the save blocks leave out of the barriers (R326, R327): the open episodes by rank, their threads as 2,560 × rank + place in the core. -/
  eps : List (Nat × Episode)
  ended : List Ended
  /-- The loop nests that were in progress (R146), by member. -/
  nests : List (Nat × Nest)
  deriving DecidableEq, Repr

/-- A child region that waits for intake (R303): its RCB, its parent, its priority, and where the number goes. -/
structure Spawn where
  rcb : Nat
  parent : Nat
  pri : Nat
  tids : List Nat
  dst : Option RegRef
  opd : Nat
  pc : Nat
  deriving DecidableEq, Repr

/-- A live region: the resolved fields of R287, the header of R290, and its progress. -/
structure Region where
  num : Nat
  rcb : Nat
  parent : Option Nat
  /-- Its ancestors, the parent first, whether or not they have ended (R288, R310). -/
  lineage : List Nat
  kha : Nat
  ttb : Nat
  asid : Nat
  salt : Nat
  pri : Nat
  pol : Nat
  hnd : Nat
  /-- YMAX, and the yield maximum in force (R290). -/
  ymax : Nat
  y : Nat
  bto : Nat
  wgw : Nat
  nwg : Nat
  bcore : Nat
  bwarp : Nat
  bscr : Nat
  zacc : Nat
  shb : Nat
  nab : Nat
  nn : Nat
  msiv : Nat
  sav : Nat
  savl : Nat
  spb : Nat
  spl : Nat
  flta : Nat
  fltn : Nat
  fwr : Nat
  cca : Nat
  arg : Nat
  rsb : Nat
  tenant : Nat
  va : Nat
  wa : Nat
  kc : Nat
  scr : Nat
  cls : Nat
  dqo : Nat
  dqp : Bool
  restart : Bool
  state : Nat
  lerr : Nat
  endedWgs : Nat
  timeouts : Nat
  /-- The binding table: slot, sync word, base, length (R189). -/
  binds : List (Nat × Nat × Nat × Nat)
  deriving DecidableEq, Repr

/-- A fork deque entry (R299). -/
structure ForkTask where
  region : Nat
  mask : BitVec 32
  jca : Nat
  arg : Word
  pc : Nat
  deriving DecidableEq, Repr

/-- What a load does with its bytes when they are back (R183, R185, R160): `n` bytes to one register, 16 bytes to a pair, typed
elements with the draw state at issue, nothing; the read of a `tjoin`, the exit add of a fork task (R26). -/
inductive LoadFmt where
  | raw (n : Nat)
  | pair
  | typed (fmt : Nat) (ty : Ty) (rm : Rm) (satf : Bool) (seed : Word)
  | none
  | join
  | exit
  deriving DecidableEq, Repr

/-- One sector's share of a lane's access: the request's place in the access, and its answer. -/
structure Part where
  xpa : Nat
  size : Nat
  at_ : Nat
  done : Bool
  data : Nat
  fault : Option Code
  deriving DecidableEq, Repr

/-- A memory access of a thread that has issued and is not yet answered (R406). -/
structure MOp where
  id : Nat
  tid : Nat
  pc : Nat
  kind : Nat
  va : Nat
  dsts : List RegRef
  parts : List Part
  fmt : LoadFmt
  /-- An acquire on the word, at the given scope, when the answer returns (R177, R231). -/
  acq : Option Sc
  /-- The ranges bound to the word when the acquire issued (R190). -/
  ranges : List (Nat × Nat)
  /-- A load fills its L1 sectors unless the hint forbids it or a store has overtaken the fill (R176). -/
  fill : Bool
  clk : Nat
  /-- The sample (R452) whose issue made the access. -/
  sample : Option Nat
  mst : Bool
  deriving DecidableEq, Repr

/-- Where a request's answer goes: a part of an access, back over the link it came by, or nowhere once its source has been answered
with FABRIC (R413). -/
inductive Origin where
  | part (op idx : Nat)
  | remote
  | dropped
  deriving DecidableEq, Repr

/-- A request in a queue of the collector, stage A or stage B (R404, R408). -/
structure Req where
  id : Nat
  core : Nat
  org : Origin
  w : WireReq
  hint : Hint
  ef : Bool
  region : Nat
  /-- The clock of its first send from stage A (R413). -/
  sent : Option Nat
  /-- The threads of its set, for the path order of R21. -/
  thr : List Nat
  /-- A load of another module's line may fill the visitor way (R230, R232). -/
  vfill : Bool
  /-- The bytes of a load or store, of its 32, before which a single-copy atomic unit may begin (R172); those that its home has not performed yet; what
  a load has read so far (R200). -/
  cut : Nat
  todo : Nat
  got : Nat
  deriving DecidableEq, Repr

/-- A merge entry (R409, R411): the point (0 collector, 1 stage A, 2 stage B), the leader's request number, the follower and the
leader's forwarded operand. -/
structure WaitEnt where
  point : Nat
  lead : Nat
  foll : Req
  e : Nat
  deriving DecidableEq, Repr

/-- An answer on its way back (R406). -/
structure Ans where
  req : Req
  data : Nat
  fault : Option Code
  deriving DecidableEq, Repr

/-- A request waiting at a home agent for a protection word (R420). -/
structure Held where
  agent : Nat
  word : Nat
  deriving DecidableEq, Repr

/-- A sector held in a core's L1 (R176). -/
structure L1Sec where
  core : Nat
  asid : Nat
  va : Nat
  xpa : Nat
  data : Nat
  deriving DecidableEq, Repr

/-- A line held in the L2 (R229, R240): most recently used first within its set in `State.l2`. -/
structure L2Line where
  agent : Nat
  set : Nat
  way : Nat
  xpa : Nat
  home : Nat
  visitor : Bool
  dirty : Bool
  /-- The sectors present and the 128 bytes, of a visitor line (R230). -/
  secs : Nat
  data : Nat
  deriving DecidableEq, Repr

/-- The attributes of a translated page (R213). -/
structure Pte where
  page : Nat
  size : Nat
  pa : Nat
  fmt : Nat
  geo : Nat
  ef : Bool
  plc : Nat
  own : Nat
  dty : Bool
  perm : Nat
  lvl : Nat
  entry : Nat
  deriving DecidableEq, Repr

/-- A TLB entry: level 0 the L1 TLB of a core, 1 the cluster TLB, 2 the die TLB (R221). -/
structure TlbEnt where
  level : Nat
  inst : Nat
  asid : Nat
  pte : Pte
  deriving DecidableEq, Repr

/-- A miss in a die TLB that waits, or walks (R221). -/
structure Walk where
  die : Nat
  core : Nat
  asid : Nat
  ttb : Nat
  va : Nat
  tenant : Nat
  started : Bool
  tids : List Nat
  deriving DecidableEq, Repr

/-- A running copy, `gthl` transfer or copy node (R248, R198, R265): the threads whose batches it belongs to, with the batch's number
once it is sealed; or its node. `tid` is the thread that makes its accesses. -/
structure Xfer where
  id : Nat
  wg : Nat
  tids : List (Nat × Option Nat)
  node : Option Nat
  desc : List Word
  s2g : Bool
  seg : Nat
  /-- Of a `gthl`: list in scratch, type, rounding, saturation, hint, draw state. -/
  gthl : Option (Bool × Ty × Rm × Bool × Hint × Word)
  pc : Nat
  tid : Nat
  /-- The format and geometry of its page once they are read (R251), the list entries that a `gthl` has read, by row, and the pieces of rows that have
  been moved: row and place (R199, R208). -/
  page : Option (Nat × Nat)
  idx : List (Nat × Nat)
  done : List (Nat × Nat)
  /-- The fault that one of its pieces met (R256). -/
  fault : Option FaultInfo
  deriving DecidableEq, Repr

/-- One element of a row (R197): its place in the row, its offset from the row's start in bits, its virtual address, its page, the format that the codec
stage sees there (0 when it does not act), and the virtual address of its block's slot, if it has one. -/
structure RowEl where
  i : Nat
  bit : Nat
  va : Nat
  p : Pte
  fmt : Nat
  slot : Option Nat
  deriving DecidableEq, Repr

/-- A lane of a row: the access that stands for it while the row is moved, the thread, the window, the offset, the draw state at issue. -/
structure RowLane where
  op : Nat
  tid : Nat
  key : Nat
  so : Nat
  seed : Word
  deriving DecidableEq, Repr

/-- A row of a `gth` or a `sct` that is being moved (R196, R197): the lanes that take it, the elements, the places of those not yet moved, the codes of the
slots by address, whether a deferred fault has been raised. -/
structure RowJob where
  id : Nat
  store : Bool
  pc : Nat
  lanes : List RowLane
  ty : Ty
  rm : Rm
  satf : Bool
  hint : Hint
  els : List RowEl
  todo : List Nat
  codes : List (Nat × Nat)
  fault : Bool
  deriving DecidableEq, Repr

/-- A scratch access of a lane that has issued and is not yet performed (R200, R207): the access, the issue that made it, the window, the offset, the
bytes, and what a store writes. -/
structure ScrAcc where
  op : Nat
  since : Nat
  tid : Nat
  pc : Nat
  key : Nat
  off : Nat
  n : Nat
  store : Bool
  data : Nat
  deriving DecidableEq, Repr

/-- Subtask `p` of a task, running on the engine of a core (R355, R356): the steps it has made (its start, its slices), the images of the slices loaded, what
it has read early of the slice at hand (B's columns and A's rows), the destination rows that it has written. -/
structure Subtask where
  wg : Nat
  task : Nat
  p : Nat
  core : Nat
  step : Nat
  im : List (List (List OpdEl))
  earlyB : List (List OpdEl)
  earlyA : List (List OpdEl)
  done : List Nat
  deriving DecidableEq, Repr

/-- The B operand that the last subtask of an engine loaded, slice by slice, each column's elements with their slots, and the fields by which
a later subtask of the same launched cluster may take it (R357). -/
structure Image where
  core : Nat
  clus : Nat
  tag : List Nat
  slices : List (List (List OpdEl))
  deriving DecidableEq, Repr

/-- An engine act: `l2wb` (kind 1), `l2inv` (2), `tlbinv` (3), which threads wait for or another module has asked for (R223, R246). -/
structure EngineJob where
  id : Nat
  kind : Nat
  core : Nat
  region : Nat
  asid : Nat
  lo : Nat
  hi : Nat
  pod : Bool
  tids : List Nat
  /-- The other modules that have not reported the end of their part, the accesses that are waited for, and the module and job to which the end is
  reported, of an act that another module has asked for. -/
  mods : List Nat
  ids : List Nat
  back : Option (Nat × Nat)
  deriving DecidableEq, Repr

/-- The debug state of a stop unit that its registers do not hold (R433 to R437, R443, R452). -/
structure UnitSt where
  n : Nat
  /-- The clock at whose end the unit freezes by a trigger of its own, with the cause and the trigger clock. -/
  due : Option Nat
  cause : Nat
  tclk : Nat
  /-- A broadcast that is pending: its freeze clock, cause and trigger clock, and the skid by warp slot since that clock. -/
  bc : Option (Nat × Nat × Nat)
  skid : List Nat
  /-- Issues of sampled instructions. -/
  cnt : Nat
  /-- The step in progress: the threads that were stepped. -/
  step : Option (List Nat)
  faulted : Bool
  deriving DecidableEq, Repr

/-- A trace buffer (R449, R450): records not drained, oldest first; records lost. -/
structure TraceBuf where
  k : Nat
  recs : List Nat
  lost : Nat
  drain : Option Nat
  deriving DecidableEq, Repr

/-- A sampled issue whose last lane is not answered yet (R452). -/
structure Sample where
  id : Nat
  unit : Nat
  slot : Nat
  pc : Nat
  mask : Nat
  tag : Nat
  sect : Nat
  repl : Nat
  clk : Nat
  /-- Accesses not answered; the lane answered last, and its clock; a `.gv` access visits the collector and the stages. -/
  open_ : List Nat
  last : Nat
  lastAt : Nat
  gv : Bool
  deriving DecidableEq, Repr

/-- What a peer link holds besides its register FAB_LINKn (R425 to R428): sequence numbers, flits not acknowledged, flits to send again, the
credits held and the credits to return by channel, the acknowledgements due, the wavelengths in use. -/
structure Link where
  n : Nat
  txSeq : Nat
  rxNext : Nat
  unacked : List Flit
  resend : List Flit
  credits : List Nat
  owed : List Nat
  nakDue : Bool
  ackDue : Bool
  waves : Nat
  deriving DecidableEq, Repr

/-- An entry of stage B's duplicate filter (R431). -/
structure DupEnt where
  src : Nat
  tag : Nat
  ans : Option (Nat × Option Code)
  deriving DecidableEq, Repr

/-- The bundle that issues: its unit, its threads in ascending tid, their program counter (R31, R50). -/
structure Bundle where
  unit : Nat
  tids : List Nat
  pc : Nat
  deriving DecidableEq, Repr

/-- A piece of the work of an engine (R200, R208): of transfer `id`, of row `id`, of the nest of a warp (`n` iterations), of a queued
scratch access. -/
inductive Piece where
  | xfer (id key : Nat)
  | row (id key : Nat)
  | nest (wid n : Nat)
  | scr (op : Nat)
  deriving DecidableEq, Repr

/-- What the machine does next (log entry 5): an issue of a unit, the second decoder's issue, the scalar pipe's issue, the issue of an `exit`, which comes
after the others of its clock, an event, the choice of the units that issue in this clock, the end of the clock. -/
inductive Move where
  | issue (unit : Nat)
  | second (unit : Nat) (bundle : Nat)
  | pipe (unit : Nat) (tids : List Nat)
  | last (unit : Nat) (tids : List Nat)
  | piece (x : Piece)
  | event (i : Instr)
  | arbitrate
  | tick
  deriving DecidableEq, Repr

/-- The core side: threads, warps, workgroups and what is in flight inside a core. -/
structure Cores where
  threads : List Thread
  warps : List Warp
  wgs : List Wg
  clusters : List Clus
  pend : List Pend
  nests : List Nest
  xfers : List Xfer
  subtasks : List Subtask
  imgs : List Image
  jobs : List EngineJob
  l1 : List L1Sec
  deques : List (Nat × ForkTask)
  /-- The entries that stand in the overflow areas (R299): core and place, head first. -/
  over_ : List (Nat × Nat)
  rows : List RowJob
  /-- The threads whose scratch accesses take time in this clock, and the accesses not yet performed, oldest first (R200). -/
  lag : List Nat
  scrQ : List ScrAcc
  /-- The clock in which a partition last issued a binary64 float instruction (R113). -/
  wideAt : List (Nat × Nat)
  deriving DecidableEq, Repr

/-- The launch engine (R287 to R306). -/
structure Launch where
  regions : List Region
  waiting : List Waiting
  spawned : List Spawn
  nextRegion : Nat
  nextKey : Nat
  deriving DecidableEq, Repr

/-- The memory side: collector, stages, home agents, caches, translation. -/
structure MemSys where
  /-- Pod memory of this module: storage address and byte; an unlisted byte is zero (R470, log entry 6). -/
  mem : List Cell
  /-- Poisoned sectors, by storage address / 32 (R235). -/
  pois : List Nat
  /-- Sectors with an error that ECC has not met yet, by qualified address / 32, and whether it can be corrected (R234). -/
  errs : List (Nat × Bool)
  /-- Lines of other modules, by module-qualified address: an environment (log entry 7). -/
  peer : List Cell
  /-- Host memory (pa[51] = 1): an environment (log entry 7). -/
  host : List Cell
  ops : List MOp
  /-- Collector queues, stage A queues by port, stage B queues by agent; oldest first. -/
  colQ : List Req
  aQ : List Req
  bQ : List Req
  /-- Requests that arrived over a link or the loopback and wait to enter stage B. -/
  rxQ : List Req
  hostQ : List Req
  /-- Requests sent to another module, not answered. -/
  outst : List Req
  /-- Management traffic, and traffic in transit, for other modules (R422, R429), oldest first: the module and the message. -/
  mgmt : List (Nat × Msg)
  waits : List WaitEnt
  anss : List Ans
  held : List Held
  pdt : List (Nat × Nat × Word)
  l2 : List L2Line
  tlb : List TlbEnt
  walks : List Walk
  dups : List DupEnt
  nextId : Nat
  nextTag : Nat
  deriving DecidableEq, Repr

/-- A running record (R459): the next checkpoint's number and clock, whether it is being taken, the clusters that the last one saved, and the log
position at which it ended. -/
structure Ckpt where
  k : Nat
  due : Nat
  busy : Bool
  start : Nat
  clusters : List Waiting
  deriving DecidableEq, Repr

/-- Host interface, debug and fabric registers and their engines. -/
structure Board where
  /-- The module's number (R13). -/
  pkg : Nat
  /-- The control registers that are not at their reset value, by BAR0 offset of the 8-byte word (R465). -/
  regs : List (Nat × Word)
  links : List Link
  units : List UnitSt
  traces : List TraceBuf
  samples : List Sample
  /-- MSI-X vectors that are pending, in ascending order, and the messages sent to the host, in order (R462, R468). -/
  msi : List Nat
  sent : List Nat
  /-- What the last host read of BAR2 returned: data bytes and poison (R464). -/
  hostRead : List (BitVec 8) × Bool
  /-- Physical clusters whose clock is stretched (R473), and the stretched clocks that each level monitor has counted (R458). -/
  sag : List Nat
  monLvl : List Nat
  /-- The power averages of the last periods, latest first (R472), and the periods of the running 1 ms average. -/
  pwr : List Nat
  pwrN : Nat
  /-- The position in the order log, the log entries that a replay has reproduced, and the running record (R459 to R461). -/
  logSeq : Nat
  replayed : List Nat
  ckpt : Option Ckpt
  /-- A dump that is captured and not yet written: its address, its length, its bytes (R445). -/
  dump : Option (Nat × Nat × Nat)
  /-- Clock of the last power-up of each physical cluster (R50, R474). -/
  phase : List (Nat × Nat)
  /-- A change of home ways that has not taken effect (R228). -/
  hwayNew : Option Nat
  /-- Clusters that wait for their trace drain before a power gate, with the clock at which each was empty (R451, R474). -/
  gating : List (Nat × Nat)
  deriving DecidableEq, Repr

/-- The whole machine. `free` counts the free values taken (log entry 2): it is the model's own field, not the spec's. -/
structure State where
  clk : Nat
  free : Nat
  agenda : List Move
  cur : Bundle
  c : Cores
  l : Launch
  m : MemSys
  b : Board
  deriving DecidableEq, Repr

/-- No bundle. -/
def Bundle.none : Bundle := { unit := 0, tids := [], pc := 0 }

/-- The module right after a cold reset (R470): every register at its reset value, all memory zero, no region, nothing in
flight; RDY is not yet set. The module's own number is a strap the spec gives no value for (log entry 8). -/
def State.reset : State :=
  { clk := 0, free := 0, agenda := [], cur := Bundle.none,
    c := { threads := [], warps := [], wgs := [], clusters := [], pend := [], nests := [], xfers := [], subtasks := [], imgs := [], jobs := [],
           l1 := [], deques := [], over_ := [], rows := [], lag := [], scrQ := [], wideAt := [] },
    l := { regions := [], waiting := [], spawned := [], nextRegion := 1, nextKey := 1 },
    m := { mem := [], pois := [], errs := [], peer := [], host := [], ops := [], colQ := [], aQ := [], bQ := [], rxQ := [], hostQ := [],
           outst := [], mgmt := [], waits := [], anss := [], held := [], pdt := [], l2 := [], tlb := [], walks := [], dups := [], nextId := 1,
           nextTag := 0 },
    b := { pkg := 0, regs := [], links := [], units := [], traces := [], samples := [], msi := [], sent := [], hostRead := ([], false),
           sag := [], monLvl := List.replicate 8 0, pwr := [], pwrN := 0, logSeq := 0, replayed := [], ckpt := none, dump := none, phase := [], hwayNew := none,
           gating := [] } }

end Sys2Proof.Machine
end

