-- ==== Sys2Proof/Machine/Exact.lean ====
section
/-! DEFINITION. Exact numbers: every arithmetic result of the spec is an exact value that is rounded once (R10, R123, R153). A
finite value is a signed fraction with a separate sign, so that zero keeps its sign. -/

namespace Sys2Proof.Machine
open Sys2Proof

/-- An exact value: a NaN, an infinity with its sign, or ±n/d. -/
inductive X where
  | nan
  | inf (neg : Bool)
  | fin (neg : Bool) (n d : Nat)
  deriving DecidableEq, Repr

/-- ⌊log2 (n/d)⌋ of a positive fraction. -/
def floorLog2 (n d : Nat) : Int :=
  let e : Int := (Nat.log2 n : Int) - (Nat.log2 d : Int)
  if (if 0 ≤ e then decide (d * 2 ^ e.toNat ≤ n) else decide (d ≤ n * 2 ^ (-e).toNat)) then e else e - 1

namespace X

/-- An integer. -/
def ofInt (i : Int) : X := .fin (decide (i < 0)) i.natAbs 1

/-- ±m × 2^e. -/
def scaled (neg : Bool) (m : Nat) (e : Int) : X :=
  if 0 ≤ e then .fin neg (m * 2 ^ e.toNat) 1 else .fin neg m (2 ^ (-e).toNat)

def isNan : X → Bool | .nan => true | _ => false
def isInf : X → Bool | .inf _ => true | _ => false
def isFin : X → Bool | .fin _ _ _ => true | _ => false
/-- The value is ±0. -/
def isZero : X → Bool | .fin _ n _ => n == 0 | _ => false
def signBit : X → Bool | .nan => false | .inf s => s | .fin s _ _ => s
def neg : X → X | .nan => .nan | .inf s => .inf (!s) | .fin s n d => .fin (!s) n d
def abs : X → X | .nan => .nan | .inf _ => .inf false | .fin _ n d => .fin false n d

/-- The signed numerator. -/
def num : X → Int | .fin s n _ => if s then -(n : Int) else n | _ => 0
def den : X → Nat | .fin _ _ d => d | _ => 1

/-- IEEE addition of exact values; an exact zero sum of opposite signs is −0 only when rounding down (R121, R123). -/
def add (rd : Bool) : X → X → X
  | .nan, _ => .nan
  | _, .nan => .nan
  | .inf s, .inf t => if s == t then .inf s else .nan
  | .inf s, _ => .inf s
  | _, .inf t => .inf t
  | .fin s n d, .fin t m e =>
    let r : Int := (if s then -((n * e : Nat) : Int) else (n * e : Nat)) + (if t then -((m * d : Nat) : Int) else (m * d : Nat))
    if r == 0 then .fin (if n == 0 && m == 0 && s == t then s else rd) 0 1
    else .fin (decide (r < 0)) r.natAbs (d * e)

/-- IEEE multiplication: infinity times zero is NaN. -/
def mul : X → X → X
  | .nan, _ => .nan
  | _, .nan => .nan
  | .inf s, .inf t => .inf (s != t)
  | .inf s, .fin t n _ => if n == 0 then .nan else .inf (s != t)
  | .fin s n _, .inf t => if n == 0 then .nan else .inf (s != t)
  | .fin s n d, .fin t m e => .fin (s != t) (n * m) (d * e)

/-- Order of two values that are not NaN: −1, 0 or 1; −0 equals +0. -/
def cmp : X → X → Int
  | .inf s, .inf t => if s == t then 0 else if s then -1 else 1
  | .inf s, _ => if s then -1 else 1
  | _, .inf t => if t then 1 else -1
  | x, y => (x.num * y.den - y.num * x.den).sign

/-- A finite value's floor. -/
def floor (x : X) : Int := x.num / (x.den : Int)

end X

/-- Insert into an ascending list. -/
def insertBy {α : Type} (le : α → α → Bool) (a : α) : List α → List α
  | [] => [a]
  | b :: r => if le a b then a :: b :: r else b :: insertBy le a r

/-- Stable ascending sort (structural, so that the kernel evaluates it). -/
def sortBy {α : Type} (le : α → α → Bool) : List α → List α
  | [] => []
  | a :: r => insertBy le a (sortBy le r)

/-- Integer square root, one bit at a time. -/
def isqrtAux (n : Nat) : Nat → Nat → Nat
  | 0, r => r
  | k + 1, r => let r' := r + 2 ^ k; isqrtAux n k (if r' * r' ≤ n then r' else r)

def isqrt (n : Nat) : Nat := isqrtAux n (Nat.log2 n / 2 + 1) 0

/-! Fixed-point series with q fraction bits. Each is within 2^10 units of its last place of the function's value. -/

/-- atanh of the fixed-point t, |t| ≤ 1/3. -/
def atanhAux (q t2 : Nat) : Nat → Nat → Nat → Nat → Nat
  | 0, _, _, acc => acc
  | f + 1, pw, k, acc => atanhAux q t2 f (pw * t2 / 2 ^ q) (k + 2) (acc + pw / k)

def atanhFx (q t : Nat) : Nat := atanhAux q (t * t / 2 ^ q) (q / 3 + 4) t 1 0

/-- ln 2. -/
def ln2Fx (q : Nat) : Nat := 2 * atanhFx q (2 ^ q / 3)

/-- arctan of 1/m. -/
def atanAux (m2 : Nat) : Nat → Int → Int → Int → Int
  | 0, _, _, acc => acc
  | f + 1, pw, k, acc => atanAux m2 f (-(pw / (m2 : Int))) (k + 2) (acc + pw / k)

/-- π, by Machin's formula. -/
def piFx (q : Nat) : Nat :=
  (16 * atanAux 25 (q / 4 + 4) ((2 ^ q / 5 : Nat) : Int) 1 0 - 4 * atanAux 57121 (q / 15 + 4) ((2 ^ q / 239 : Nat) : Int) 1 0).toNat

/-- e^z of the fixed-point z in [0, 1). -/
def expAux (q z : Nat) : Nat → Nat → Nat → Nat → Nat
  | 0, _, _, acc => acc
  | f + 1, term, k, acc => expAux q z f (term * z / 2 ^ q / k) (k + 1) (acc + term)

def expFx (q z : Nat) : Nat := expAux q z (q / 2 + 10) (2 ^ q) 1 0

/-- Square k times. -/
def squareFx (q : Nat) : Nat → Nat → Nat
  | 0, x => x
  | k + 1, x => squareFx q k (x * x / 2 ^ q)

/-- sin z of the fixed-point z in [0, 2). -/
def sinAux (q : Nat) (z2 : Int) : Nat → Int → Int → Int → Int
  | 0, _, _, acc => acc
  | f + 1, term, k, acc => sinAux q z2 f (-(term * z2 / (2 ^ q : Nat) / ((k + 1) * (k + 2)))) (k + 2) (acc + term)

def sinFx (q z : Nat) : Nat := (sinAux q ((z * z / 2 ^ q : Nat) : Int) (q / 3 + 10) (z : Int) 1 0).toNat

/-- An enclosure of a positive function value at p bits: lower and upper numerator over 2^q. -/
structure Encl where
  lo : Nat
  hi : Nat
  q : Nat

/-- 2^f for the fraction f = n/d in [0, 1). -/
def exp2Encl (n d p : Nat) : Encl :=
  let q := p + 40
  let v := expFx q (n * 2 ^ q / d * ln2Fx q / 2 ^ q)
  ⟨v - 2 ^ 20, v + 2 ^ 20, q⟩

/-- log2 of m = n/d in [1, 2). -/
def log2Encl (n d p : Nat) : Encl :=
  let q := p + 40
  let v := 2 * atanhFx q ((n - d) * 2 ^ q / (n + d)) * 2 ^ q / ln2Fx q
  ⟨v - 2 ^ 20, v + 2 ^ 20, q⟩

/-- sin(π r) for r = n/d in (0, 1/2]. -/
def sinPiEncl (n d p : Nat) : Encl :=
  let q := p + 40 + (Nat.log2 d - Nat.log2 n)
  let v := sinFx q (n * piFx q / d)
  ⟨v - 2 ^ 20, v + 2 ^ 20, q⟩

/-- tanh of n/d > 0, at most 64. -/
def tanhEncl (n d p : Nat) : Encl :=
  let k := 8
  let q := p + 80 + (Nat.log2 d - Nat.log2 n)
  let e := squareFx q k (expFx q (2 * n * 2 ^ q / d / 2 ^ k))
  let v := (e - 2 ^ q) * 2 ^ q / (e + 2 ^ q)
  ⟨v - 2 ^ 40, v + 2 ^ 40, q⟩

/-- √(n/d). -/
def sqrtEncl (n d p : Nat) : Encl :=
  let q := p + Nat.log2 d
  let m := n * 4 ^ q / d
  let r := isqrt m
  ⟨r, if r * r * d == n * 4 ^ q then r else r + 1, q⟩

end Sys2Proof.Machine
end

