-- ==== Sys2Proof/Machine/Formats.lean ====
section
/-! DEFINITION. Number formats, block scales and the one rounding function of the module (R147 to R157). -/

namespace Sys2Proof.Machine
open Sys2Proof

/-- A float format (R148, R149, R152, R153): exponent bits, precision, exponent of the smallest normal, code of the largest finite
magnitude, whether it has infinities, is unsigned, has a negative zero, and its NaN code. -/
structure Flt where
  bits : Nat
  p : Nat
  emin : Int
  maxc : Nat
  hasInf : Bool
  uns : Bool
  ieee : Bool
  nan : Nat
  deriving DecidableEq, Repr

/-- A number format. -/
inductive Fmt where
  | int (bits : Nat) (lo hi : Int)
  | flt (f : Flt)
  deriving DecidableEq, Repr

def fp16 : Flt := ⟨16, 11, -14, 0x7BFF, true, false, true, 0x7E00⟩
def bf16 : Flt := ⟨16, 8, -126, 0x7F7F, true, false, true, 0x7FC0⟩
def fp32 : Flt := ⟨32, 24, -126, 0x7F7FFFFF, true, false, true, 0x7FC00000⟩
def fp64 : Flt := ⟨64, 53, -1022, 0x7FEFFFFFFFFFFFFF, true, false, true, 0x7FF8000000000000⟩
/-- ACC36 (R152). -/
def acc36 : Flt := ⟨36, 28, -126, 0x7F7FFFFFF, true, false, true, 0x7FC000000⟩

/-- A binary8 format of precision p (R148, R149). -/
def bin8 (p : Nat) (uns fin : Bool) : Flt :=
  let bias : Nat := if uns then 2 ^ (8 - p) else 2 ^ (7 - p)
  { bits := 8, p := p, emin := 1 - (bias : Int),
    maxc := if uns then (if fin then 0xFE else 0xFD) else if fin then 0x7F else 0x7E,
    hasInf := !fin, uns := uns, ieee := false, nan := if uns then 0xFF else 0x80 }

def signedFmt (w : Nat) : Fmt := .int w (-(2 ^ (w - 1) : Nat)) ((2 ^ (w - 1) : Nat) - 1)
def unsignedFmt (w : Nat) : Fmt := .int w 0 ((2 ^ w : Nat) - 1)
def int36 : Fmt := signedFmt 36

/-- The format of a format code (R147); none for raw and for a reserved code. -/
def fmtOf (c : Nat) : Option Fmt :=
  match c with
  | 1 => some (signedFmt 4)
  | 2 => some (unsignedFmt 4)
  | 3 => some (signedFmt 8)
  | 4 => some (unsignedFmt 8)
  | 5 => some (.flt fp16)
  | 6 => some (.flt bf16)
  | 7 => some (.flt fp32)
  | 8 => some (signedFmt 32)
  | 9 => some (.flt fp64)
  | _ =>
    if 0x10 ≤ c ∧ c ≤ 0x16 then some (.flt (bin8 (c - 0x0F) false false))
    else if 0x18 ≤ c ∧ c ≤ 0x1E then some (.flt (bin8 (c - 0x17) false true))
    else if 0x20 ≤ c ∧ c ≤ 0x26 then some (.flt (bin8 (c - 0x1F) true false))
    else if 0x28 ≤ c ∧ c ≤ 0x2E then some (.flt (bin8 (c - 0x27) true true))
    else none

/-- Element bits of a format code (R147). -/
def fmtBits (c : Nat) : Nat :=
  match c with
  | 1 | 2 => 4
  | 5 | 6 => 16
  | 7 | 8 => 32
  | 9 => 64
  | _ => 8

/-- Etop of a format code: ⌊log2⌋ of the largest finite value (R150, R151). -/
def etop (c : Nat) : Int :=
  match c with
  | 1 => 2 | 2 => 3 | 3 => 6 | 4 => 7 | 5 => 15 | 6 => 127 | 7 => 127
  | _ =>
    match fmtOf c with
    | some (.flt f) => (f.maxc / 2 ^ (f.p - 1) : Nat) + f.emin - 1
    | _ => 0

/-- The sub-element format of a type (R109). -/
def tyFmt (t : Ty) : Fmt :=
  match t with
  | .f16x4 => .flt fp16
  | .bf16x4 => .flt bf16
  | .f32x2 => .flt fp32
  | .f64 => .flt fp64
  | t => if t.signed then signedFmt t.width else unsignedFmt t.width

/-- The value of a magnitude code: exponent field above p − 1 fraction bits. -/
def Flt.mag (f : Flt) (neg : Bool) (c : Nat) : X :=
  let e := c / 2 ^ (f.p - 1)
  let m := c % 2 ^ (f.p - 1)
  if e == 0 then X.scaled neg m (f.emin - (f.p - 1 : Nat))
  else X.scaled neg (m + 2 ^ (f.p - 1)) (f.emin + (e - 1 : Nat) - (f.p - 1 : Nat))

/-- The value of a code (R148, R149, R152). -/
def Flt.decode (f : Flt) (c : Nat) : X :=
  let c := c % 2 ^ f.bits
  if f.uns then
    if c == f.nan then .nan else if f.maxc < c then .inf false else f.mag false c
  else
    let neg := decide (2 ^ (f.bits - 1) ≤ c)
    let m := c % 2 ^ (f.bits - 1)
    if f.ieee then
      if m ≤ f.maxc then f.mag neg m else if m == f.maxc + 1 then .inf neg else .nan
    else if c == f.nan then .nan
    else if f.maxc < m then .inf neg
    else f.mag neg m

def Fmt.decode (f : Fmt) (c : Nat) : X :=
  match f with
  | .int w lo _ => X.ofInt (if lo < 0 then (BitVec.ofNat w c).toInt else (BitVec.ofNat w c).toNat)
  | .flt f => f.decode c

def Fmt.bits : Fmt → Nat
  | .int w _ _ => w
  | .flt f => f.bits

/-- Round the magnitude n/d to an integer under a mode (R153, R154): `neg` is the value's sign, `dr` the draw of `.rs`. -/
def roundMag (rm : Rm) (neg : Bool) (dr n d : Nat) : Nat :=
  let k := n / d
  let r := n % d
  match rm with
  | .rne => if 2 * r < d then k else if d < 2 * r then k + 1 else k + k % 2
  | .rz => k
  | .ru => if r == 0 || neg then k else k + 1
  | .rd => if r == 0 || !neg then k else k + 1
  | .rs => if 2 ^ 24 ≤ r * 2 ^ 24 / d + dr then k + 1 else k

/-- The signed code of a magnitude code: a zero of a binary8 format has no sign (R153). -/
def Flt.code (f : Flt) (neg : Bool) (m : Nat) : Nat :=
  if neg && (f.ieee || m != 0) then m + 2 ^ (f.bits - 1) else m

def Flt.infCode (f : Flt) (neg : Bool) : Nat := f.code neg (f.maxc + 1)

/-- enc of R153 for a float format. -/
def Flt.enc (f : Flt) (rm : Rm) (satf : Bool) (dr : Nat) (x : X) : Nat :=
  match x with
  | .nan => f.nan
  | .inf s =>
    if f.uns && s then (if satf then 0 else f.nan)
    else if f.hasInf then f.infCode s
    else if satf then f.code s f.maxc else f.nan
  | .fin s n d =>
    if f.uns && s then (if n == 0 then 0 else if satf then 0 else f.nan)
    else
      let e : Int := if n == 0 then f.emin else max (floorLog2 n d) f.emin
      let g : Int := e - ((f.p : Int) - 1)
      let k := if 0 ≤ g then roundMag rm s dr n (d * 2 ^ g.toNat) else roundMag rm s dr (n * 2 ^ (-g).toNat) d
      let m := (e - f.emin).toNat * 2 ^ (f.p - 1) + k
      if f.maxc < m then
        if satf || rm == .rz || (rm == .ru && s) || (rm == .rd && !s) then f.code s f.maxc
        else if f.hasInf then f.infCode s else f.nan
      else f.code s m

/-- enc of R153: the code of an exact value, of the format's width. `dr` is the draw that `.rs` uses (R154). -/
def Fmt.enc (f : Fmt) (rm : Rm) (satf : Bool) (dr : Nat) (x : X) : Nat :=
  match f with
  | .int w lo hi =>
    match x with
    | .nan => 0
    | .inf s => (BitVec.ofInt w (if s then lo else hi)).toNat
    | .fin s n d =>
      let k : Int := roundMag rm s dr n d
      (BitVec.ofInt w (max lo (min hi (if s then -k else k)))).toNat
  | .flt f => f.enc rm satf dr x

/-- A subnormal magnitude (R122). -/
def Flt.subnormal (f : Flt) (c : Nat) : Bool :=
  let m := c % 2 ^ (f.bits - 1)
  m != 0 && decide (m < 2 ^ (f.p - 1))

/-- `.ftz` on an input or a result: a subnormal becomes zero of the same sign (R122). -/
def Flt.ftz (f : Flt) (on : Bool) (c : Nat) : Nat :=
  if on && f.subnormal c then c / 2 ^ (f.bits - 1) * 2 ^ (f.bits - 1) else c

/-- One step of the draw sequence (R155): the next state and the 24-bit draw. -/
def drawStep (s : Word) : Word × Nat :=
  let s := if s == 0 then 0x9E3779B97F4A7C15 else s
  let s := s ^^^ (s <<< 13)
  let s := s ^^^ (s >>> 7)
  let s := s ^^^ (s <<< 17)
  (s, (s >>> 40).toNat)

/-- `n` draws: the last state and the draws in order. -/
def draws : Nat → Word → Word × List Nat
  | 0, s => (s, [])
  | n + 1, s =>
    let (s', d) := drawStep s
    let (t, r) := draws n s'
    (t, d :: r)

/-- A block scale's value (R156): none is the NaN scale; a slot with a bit above [9] set is the NaN scale. -/
def scaleOf (slot : Nat) : Option X :=
  if slot == 0 then some (.fin false 0 1)
  else if 0x3FF ≤ slot then none
  else some (X.scaled false (4 + slot % 4) ((slot / 4 : Nat) - 129))

/-- prod(x, s) (R156). -/
def prod (x : X) (slot : Nat) : X :=
  match scaleOf slot with
  | none => .nan
  | some s => if s.isZero && !x.isFin then .nan else x.mul s

/-- quot(x, s) (R156). -/
def quot (x : X) (slot : Nat) : X :=
  match scaleOf slot, x with
  | none, _ => .nan
  | some (.fin _ n d), .fin t m e => if n == 0 then .fin t 0 1 else .fin t (m * d) (e * n)
  | some (.fin _ n _), x => if n == 0 then .nan else x
  | some _, _ => .nan

/-- Elements of a block of a geometry (R157). -/
def blockElems (geo : Nat) : Nat := 8 * 2 ^ geo

/-- Block bytes of a format and geometry ≥ 1 (R157). -/
def blockBytes (fmt geo : Nat) : Nat := blockElems geo * fmtBits fmt / 8

/-- Sub-element e of a register (R109). -/
def subEl (t : Ty) (x : Word) (e : Nat) : Nat := x.toNat / 2 ^ (t.width * e) % 2 ^ t.width

/-- A register from its sub-elements, lowest first. -/
def packEl (t : Ty) : List Nat → Nat
  | [] => 0
  | c :: r => c % 2 ^ t.width + 2 ^ t.width * packEl t r

/-- Replace sub-element e of a register. -/
def setEl (t : Ty) (x : Word) (e c : Nat) : Word :=
  BitVec.ofNat 64 (x.toNat - subEl t x e * 2 ^ (t.width * e) + c % 2 ^ t.width * 2 ^ (t.width * e))

end Sys2Proof.Machine
end

