-- ==== Sys2Proof/Machine/Arith.lean ====
section
/-! DEFINITION. What the integer, float, special-function and codec instructions compute on sub-elements (R109 to R126, R165 to
R169). Sub-elements are numbers below 2^w; nothing here touches the state. -/

namespace Sys2Proof.Machine
open Sys2Proof

/-- A register computed sub-element by sub-element (R111). -/
def mapEl (t : Ty) (f : Nat → Nat) : Word := BitVec.ofNat 64 (packEl t ((List.range t.count).map f))

/-- The value of an integer sub-element. -/
def intVal (t : Ty) (c : Nat) : Int := if t.signed then (BitVec.ofNat t.width c).toInt else (c % 2 ^ t.width : Nat)

/-- An exact integer result: wrapped, or clamped with `.sat` (R115). -/
def intRes (t : Ty) (sat : Bool) (r : Int) : Nat :=
  let lo : Int := if t.signed then -(2 ^ (t.width - 1) : Nat) else 0
  let hi : Int := if t.signed then (2 ^ (t.width - 1) : Nat) - 1 else (2 ^ t.width : Nat) - 1
  (BitVec.ofInt t.width (if sat then max lo (min hi r) else r)).toNat

def elAdd (t : Ty) (sat : Bool) (a b : Nat) : Nat := intRes t sat (intVal t a + intVal t b)
def elSub (t : Ty) (sat : Bool) (a b : Nat) : Nat := intRes t sat (intVal t a - intVal t b)
def elMul (t : Ty) (sat : Bool) (a b : Nat) : Nat := intRes t sat (intVal t a * intVal t b)
def elMulh (t : Ty) (a b : Nat) : Nat := intRes t false (intVal t a * intVal t b / (2 ^ t.width : Nat))
def elMad (t : Ty) (sat : Bool) (a b c : Nat) : Nat := intRes t sat (intVal t a * intVal t b + intVal t c)
def elMin (t : Ty) (a b : Nat) : Nat := intRes t false (min (intVal t a) (intVal t b))
def elMax (t : Ty) (a b : Nat) : Nat := intRes t false (max (intVal t a) (intVal t b))
def elAbs (t : Ty) (sat : Bool) (a : Nat) : Nat := intRes t sat |intVal t a|
def elNeg (t : Ty) (sat : Bool) (a : Nat) : Nat := intRes t sat (-intVal t a)

/-- Shifts and rotates: the count is b read as unsigned w bits (R115). -/
def elShl (w a n : Nat) : Nat := if n < w then a * 2 ^ n % 2 ^ w else 0
def elShr (w a n : Nat) : Nat := if n < w then a / 2 ^ n else 0
def elSar (w a n : Nat) : Nat :=
  (BitVec.ofInt w ((BitVec.ofNat w a).toInt / (2 ^ (min n w) : Nat))).toNat
def elRol (w a n : Nat) : Nat := let k := n % w; (a * 2 ^ k + a / 2 ^ (w - k)) % 2 ^ w

/-- The bits of a pattern, lowest first. -/
def bitsOf (w a : Nat) : List Bool := (List.range w).map a.testBit
/-- A pattern from its bits, lowest first. -/
def ofBits : List Bool → Nat
  | [] => 0
  | b :: r => (if b then 1 else 0) + 2 * ofBits r

def elClz (w a : Nat) : Nat := if a == 0 then w else w - 1 - Nat.log2 a
def elPopc (w a : Nat) : Nat := (bitsOf w a).countP id
def elBrev (w a : Nat) : Nat := ofBits (bitsOf w a).reverse

/-- `bfx` (R116). -/
def elBfx (t : Ty) (a b c : Nat) : Nat :=
  let w := t.width
  let pos := min b w
  let len := min c w
  if len == 0 then 0
  else
    let ext := if t.signed then (BitVec.ofNat w a).signExtend 128 else (BitVec.ofNat w a).zeroExtend 128
    let f := ext.toNat / 2 ^ pos % 2 ^ len
    if t.signed then (BitVec.ofInt w ((BitVec.ofNat len f).toInt)).toNat else f

/-- `bfi` (R116): A is the base, B the field. -/
def elBfi (w a b c e : Nat) : Nat :=
  let pos := min c w
  let n := min (pos + min e w) w - pos
  a - a / 2 ^ pos % 2 ^ n * 2 ^ pos + b % 2 ^ n * 2 ^ pos

/-- Integer conditions `eq` to `ge` (R114). -/
def intCond (c : Nat) (a b : Int) : Bool :=
  match c with
  | 0 => a == b
  | 1 => a != b
  | 2 => decide (a < b)
  | 3 => decide (a ≤ b)
  | 4 => decide (b < a)
  | _ => decide (b ≤ a)

/-- Float conditions `eq` to `ord` (R124). -/
def fltCond (c : Nat) (a b : X) : Bool :=
  let un := a.isNan || b.isNan
  match c with
  | 1 => un || a.cmp b != 0
  | 6 => un
  | 7 => !un
  | c => !un && intCond c (a.cmp b) 0

/-- The IEEE format of a float type. -/
def tyFlt (t : Ty) : Flt :=
  match t with
  | .f16x4 => fp16
  | .bf16x4 => bf16
  | .f64 => fp64
  | _ => fp32

/-- A float operand under `.ftz` (R122). -/
def Flt.rd (f : Flt) (ftz : Bool) (c : Nat) : X := f.decode (f.ftz ftz c)

/-- A float result: rounded once, `.satf` on an infinity from finite operands, then `.ftz` (R121 to R123). -/
def Flt.res (f : Flt) (rm : Rm) (satf ftz fromFin : Bool) (dr : Nat) (x : X) : Nat :=
  f.ftz ftz (match x with
    | .inf s => if satf && fromFin then f.code s f.maxc else f.infCode s
    | x => f.enc rm satf dr x)

/-- `.rd` decides the sign of an exact zero sum (R123). -/
def rdZero (rm : Rm) : Bool := rm == .rd

def fltAdd (f : Flt) (rm : Rm) (satf ftz : Bool) (dr a b : Nat) : Nat :=
  let x := f.rd ftz a
  let y := f.rd ftz b
  f.res rm satf ftz (x.isFin && y.isFin) dr (X.add (rdZero rm) x y)
def fltSub (f : Flt) (rm : Rm) (satf ftz : Bool) (dr a b : Nat) : Nat :=
  let x := f.rd ftz a
  let y := (f.rd ftz b).neg
  f.res rm satf ftz (x.isFin && y.isFin) dr (X.add (rdZero rm) x y)
def fltMul (f : Flt) (rm : Rm) (satf ftz : Bool) (dr a b : Nat) : Nat :=
  let x := f.rd ftz a
  let y := f.rd ftz b
  f.res rm satf ftz (x.isFin && y.isFin) dr (X.mul x y)
def fltFma (f : Flt) (rm : Rm) (satf ftz : Bool) (dr a b c : Nat) : Nat :=
  let x := f.rd ftz a
  let y := f.rd ftz b
  let z := f.rd ftz c
  f.res rm satf ftz (x.isFin && y.isFin && z.isFin) dr (X.add (rdZero rm) (X.mul x y) z)

/-- `fmin` and `fmax`: −0 is below +0, and one NaN gives the other operand (R124). -/
def fltMinMax (f : Flt) (isMax ftz : Bool) (a b : Nat) : Nat :=
  let x := f.rd ftz a
  let y := f.rd ftz b
  let r :=
    if x.isNan then y else if y.isNan then x
    else
      let c := x.cmp y
      let xLess := decide (c < 0) || (c == 0 && x.signBit && !y.signBit)
      if xLess == isMax then y else x
  f.res .rne false ftz false 0 r

/-- `fclass` (R124). -/
def fltClass (f : Flt) (c : Nat) : Nat :=
  let m := c % 2 ^ (f.bits - 1)
  let s := decide (2 ^ (f.bits - 1) ≤ c % 2 ^ f.bits)
  let bit :=
    if f.maxc + 1 < m then (if m.testBit (f.p - 2) then 9 else 8)
    else if m == f.maxc + 1 then (if s then 0 else 7)
    else if m == 0 then (if s then 3 else 4)
    else if m < 2 ^ (f.p - 1) then (if s then 2 else 5)
    else if s then 1 else 6
  2 ^ bit

/-- Round to an integral value, keeping the sign (R124). -/
def X.integral (rm : Rm) (dr : Nat) : X → X
  | .fin s n d => .fin s (roundMag rm s dr n d) 1
  | x => x

def fltRnd (f : Flt) (rm : Rm) (ftz : Bool) (a : Nat) : Nat := f.res .rne false ftz false 0 ((f.rd ftz a).integral rm 0)

/-- conv of R125: from type s to type t. -/
def convEl (t s : Ty) (rm : Rm) (satf ftz : Bool) (dr c : Nat) : Nat :=
  if t.isFloat then
    if s.isFloat then
      let x := (tyFlt s).rd ftz c
      (tyFlt t).res rm satf ftz x.isFin dr x
    else (tyFlt t).res rm satf ftz true dr (X.ofInt (intVal s c))
  else (tyFmt t).enc rm false 0 ((tyFlt s).rd ftz c)

/-- Round a positive value given by enclosures of rising precision: the code that both ends round to (R126). The enclosures
are of irrational values, so some precision separates them from every rounding boundary. -/
def Flt.ofEncl (f : Flt) (neg satf : Bool) (scale : Int) (e : Nat → Encl) : List Nat → Nat
  | [] => f.nan
  | p :: ps =>
    let v := e p
    let g := fun n => f.enc .rne satf 0 (.fin neg (if 0 ≤ scale then n * 2 ^ scale.toNat else n)
      (if 0 ≤ scale then 2 ^ v.q else 2 ^ v.q * 2 ^ (-scale).toNat))
    if g v.lo == g v.hi then g v.lo else f.ofEncl neg satf scale e ps

/-- The precisions tried, in bits. -/
def precisions : List Nat := [64, 160, 400, 1000]

/-- The special functions of R126. -/
inductive Sfu where
  | rcp | rsq | sqrt | ex2 | lg2 | sin | cos | tanh
  deriving DecidableEq, Repr

/-- The reduced argument of sin(π·x) in [0, 1/2] with the sign of the result, from x mod 2 (R126). -/
def sinReduce (s : Bool) (n d : Nat) : Bool × Nat × Nat :=
  let r := n % (2 * d)
  let (s1, r1) := if d ≤ r then (!s, r - d) else (s, r)
  if d < 2 * r1 then (s1, d - r1, d) else (s1, r1, d)

def fltSinPi (f : Flt) (satf : Bool) (s : Bool) (n d : Nat) : Nat :=
  let (t, r, d') := sinReduce s n d
  if r == 0 then f.enc .rne satf 0 (.fin s 0 1)
  else if 2 * r == d' then f.enc .rne satf 0 (.fin t 1 1)
  else f.ofEncl t satf 0 (sinPiEncl r d') precisions

/-- A special function on one sub-element, before the `.ftz` of its result. -/
def sfuRaw (k : Sfu) (f : Flt) (satf : Bool) (x : X) : Nat :=
  let sp := fun (fromFin : Bool) (y : X) => f.res .rne satf false fromFin 0 y
  match k, x with
  | _, .nan => f.nan
  | .rcp, .inf s => sp false (.fin s 0 1)
  | .rcp, .fin s n d => if n == 0 then sp true (.inf s) else sp true (.fin s d n)
  | .rsq, .inf s => if s then f.nan else sp false (.fin false 0 1)
  | .rsq, .fin s n d =>
    if n == 0 then sp true (.inf s) else if s then f.nan else f.ofEncl false satf 0 (sqrtEncl d n) precisions
  | .sqrt, .inf s => if s then f.nan else sp false (.inf false)
  | .sqrt, .fin s n d =>
    if n == 0 then sp true (.fin s 0 1) else if s then f.nan else f.ofEncl false satf 0 (sqrtEncl n d) precisions
  | .ex2, .inf s => if s then sp false (.fin false 0 1) else sp false (.inf false)
  | .ex2, .fin s n d =>
    let k := max (-400) (min 400 (X.fin s n d).floor)
    let num : Int := (X.fin s n d).num - k * d
    if num ≤ 0 ∨ (d : Int) ≤ num then f.enc .rne satf 0 (X.scaled false 1 k)
    else f.ofEncl false satf k (exp2Encl num.toNat d) precisions
  | .lg2, .inf s => if s then f.nan else sp false (.inf false)
  | .lg2, .fin s n d =>
    if n == 0 then sp true (.inf true) else if s then f.nan
    else
      let e := floorLog2 n d
      let (n', d') := if 0 ≤ e then (n, d * 2 ^ e.toNat) else (n * 2 ^ (-e).toNat, d)
      if n' == d' then sp true (X.ofInt e)
      else if 0 ≤ e then f.ofEncl false satf 0
        (fun p => let v := log2Encl n' d' p; ⟨v.lo + e.toNat * 2 ^ v.q, v.hi + e.toNat * 2 ^ v.q, v.q⟩) precisions
      else f.ofEncl true satf 0
        (fun p => let v := log2Encl n' d' p; ⟨(-e).toNat * 2 ^ v.q - v.hi, (-e).toNat * 2 ^ v.q - v.lo, v.q⟩) precisions
  | .sin, .inf _ => f.nan
  | .sin, .fin s n d => fltSinPi f satf s n d
  | .cos, .inf _ => f.nan
  | .cos, .fin _ n d =>
    -- cos(π·x) = sin(π·(x + 1/2))
    if (2 * n + d) % (2 * d) == 0 then f.enc .rne satf 0 (.fin false 0 1) else fltSinPi f satf false (2 * n + d) (2 * d)
  | .tanh, .inf s => sp false (.fin s 1 1)
  | .tanh, .fin s n d =>
    if n == 0 then sp true (.fin s 0 1)
    else if 64 * d ≤ n then f.ofEncl s satf 0 (fun p => ⟨2 ^ (p + 100) - 2 ^ p, 2 ^ (p + 100), p + 100⟩) [64]
    else f.ofEncl s satf 0 (tanhEncl n d) precisions

/-- A special function on one sub-element (R126). -/
def sfuEl (k : Sfu) (f : Flt) (satf ftz : Bool) (c : Nat) : Nat := f.ftz ftz (sfuRaw k f satf (f.rd ftz c))

/-- The image of a table bank: binary32 word at a byte offset (R127). -/
def bankWord (img off : Nat) : Nat := img / 2 ^ (8 * off) % 2 ^ 32

/-- `tbl` on one sub-element (R128); `.satf` is `nmap`'s, on an overflow of the result (R143). -/
def tblEl (img : Nat) (t : Ty) (ftz : Bool) (c : Nat) (satf : Bool := false) : Nat :=
  let f := fp32
  let enc := fun (x : X) => f.decode (f.enc .rne false 0 x)
  let x := (tyFlt t).rd ftz c
  let x0 := f.decode (bankWord img 0)
  let sc := f.decode (bankWord img 4)
  let u := enc (X.mul (enc (X.add false x x0.neg)) sc)
  match u with
  | .nan => (tyFlt t).nan
  | u =>
    let k : Nat := match u with
      | .inf s => if s then 0 else 255
      | u => (max 0 (min 255 u.floor)).toNat
    let co := fun j => f.decode (bankWord img (16 + 16 * k + 4 * j))
    let tt := enc (X.add false u (X.ofInt k).neg)
    let y := f.decode (f.enc .rne satf 0 (X.add false (X.mul (enc (X.add false (X.mul (co 2) tt) (co 1))) tt) (co 0)))
    (tyFlt t).res .rne false ftz false 0 y

/-- `bmax` of a block's values: the scale-exponent input of `bscl` is the largest finite magnitude (R167). -/
def maxMag (xs : List X) : X :=
  xs.foldl (fun m x => match x with
    | .fin _ n d => if m.cmp (.fin false n d) < 0 then .fin false n d else m
    | _ => m) (.fin false 0 1)

end Sys2Proof.Machine
end

