-- ==== Sys2Proof/Machine/Store.lean ====
section
/-! DEFINITION. Memories as canonical lists, the placement of a physical line (R18, R225 to R227, R475), and the control registers
of BAR0 (R7 to R9, R463, R465). -/

namespace Sys2Proof.Machine
open Sys2Proof

/-! ### Cells -/

/-- A memory in canonical form: addresses strictly rising, no byte equal to the zero that an unlisted address reads as. -/
def Memory.wf : List Cell → Bool
  | [] => true
  | [c] => c.2 != 0
  | c :: d :: r => c.2 != 0 && decide (c.1 < d.1) && Memory.wf (d :: r)

/-- Read a byte; an unlisted address reads as zero (R297, R470). -/
def memGet : List Cell → Nat → Byte
  | [], _ => 0
  | c :: r, a => if c.1 == a then c.2 else memGet r a

/-- Write a byte, keeping the canonical form. -/
def memSet : List Cell → Nat → Byte → List Cell
  | [], a, b => if b == 0 then [] else [(a, b)]
  | c :: r, a, b =>
    if a < c.1 then (if b == 0 then c :: r else (a, b) :: c :: r)
    else if c.1 == a then (if b == 0 then r else (a, b) :: r)
    else c :: memSet r a b

/-- n bytes from an address, as a little-endian number (R5). -/
def memNat (m : List Cell) (a : Nat) : Nat → Nat
  | 0 => 0
  | n + 1 => (memGet m a).toNat + 256 * memNat m (a + 1) n

/-- Write n bytes of a little-endian number. -/
def memPut (m : List Cell) (a : Nat) : Nat → Nat → List Cell
  | 0, _ => m
  | n + 1, x => memPut (memSet m a (BitVec.ofNat 8 x)) (a + 1) n (x / 256)

/-- Byte `i` of a number. -/
def byteOf (x i : Nat) : Nat := x / 256 ^ i % 256

/-- Write the bytes of a number that a mask selects: byte i at address a + i. -/
def memPutMask (m : List Cell) (a mask : Nat) : Nat → Nat → List Cell
  | 0, _ => m
  | n + 1, x => memPutMask (if mask % 2 == 1 then memSet m a (BitVec.ofNat 8 x) else m) (a + 1) (mask / 2) n (x / 256)

/-- Bits [hi:lo] of a number. -/
def slice (x hi lo : Nat) : Nat := x / 2 ^ lo % 2 ^ (hi + 1 - lo)

/-- A signed field of w bits. -/
def sext (w x : Nat) : Int := (BitVec.ofNat w x).toInt

/-! ### Control registers -/

/-- HOST_CTL to LNCH_TOVF_BASE, HOME_CFG, FAB_CFG and the first of each family (R465). -/
def rHostCtl : Nat := 0x00
def rHostStat : Nat := 0x08
def rWinBase : Nat := 0x10
def rHostRel : Nat := 0x18
def rPwr : Nat := 0x20
def rPwrStat : Nat := 0x28
def rPgate : Nat := 0x30
def rTovf : Nat := 0x38
def rSubqBase (n : Nat) : Nat := 0x100 + 16 * n
def rSubqPtr (n : Nat) : Nat := 0x108 + 16 * n
def rSag (k : Nat) : Nat := 0x200 + 8 * k
def rHomeCfg : Nat := 0x10000
def rHomeErr : Nat := 0x10008
def rHomeErrAdr : Nat := 0x10010
def rHomeRet (n : Nat) : Nat := 0x10100 + 32 * n
def rFabCfg : Nat := 0x20000
def rFabStat : Nat := 0x20008
def rFabWbcap : Nat := 0x20010
def rFabTmap : Nat := 0x20018
def rFabPdt : Nat := 0x20020
def rFabPcinv : Nat := 0x20028
def rTwin (n : Nat) : Nat := 0x20100 + 16 * n
def rLink (n : Nat) : Nat := 0x20400 + 8 * n
def rPctl (n : Nat) : Nat := 0x100000 + 8 * n
def rSkid (n : Nat) : Nat := 0x102000 + 16 * n
def rVwp (n m : Nat) : Nat := 0x108000 + 128 * n + 16 * m
def rSwp (c m : Nat) : Nat := 0x130000 + 32 * c + 8 * m
def rWrec (c : Nat) : Nat := 0x132000 + 64 * c
def rWmiss (c : Nat) : Nat := 0x136000 + 8 * c
def rStep (n : Nat) : Nat := 0x138000 + 16 * n
def rClctl (k : Nat) : Nat := 0x13C000 + 8 * k
def rTrb (k : Nat) : Nat := 0x13C100 + 16 * k
def rDump : Nat := 0x13C200
def rRpctl : Nat := 0x13C208
def rSctl (n : Nat) : Nat := 0x140000 + 8 * n
def rMon (k : Nat) : Nat := 0x142000 + 128 * k

/-- The reset value of the 8-byte register word at an offset (R9, and the Reset columns of the maps). -/
def regReset (off : Nat) : Word :=
  if off == rPwr then 0x11F810680FA0
  else if 0x100 ≤ off ∧ off < 0x180 ∧ off % 16 == 0 then 4
  else if 0x1000 ≤ off ∧ off < 0x9000 ∧ off % 16 == 8 then 0x100000000
  else if off == rHomeCfg then 0x0FFF000C
  else if off == rFabCfg then 0x2000000001
  else if off == rFabWbcap then 0x20001000
  else if 0x20400 ≤ off ∧ off < 0x20600 then 0x100000
  else if 0x13C100 ≤ off ∧ off < 0x13C1C0 ∧ off % 16 == 0 then 0x30
  else if 0x142000 ≤ off ∧ off < 0x142400 ∧ off % 128 == 8 then 0xFFFFFFFF
  else 0

/-- Look a register word up; unlisted means its reset value. -/
def regGet : List (Nat × Word) → Nat → Word
  | [], a => regReset a
  | c :: r, a => if c.1 == a then c.2 else regGet r a

/-- Set a register word, keeping offsets rising and no word at its reset value. -/
def regSet : List (Nat × Word) → Nat → Word → List (Nat × Word)
  | [], a, b => if b == regReset a then [] else [(a, b)]
  | c :: r, a, b =>
    if a < c.1 then (if b == regReset a then c :: r else (a, b) :: c :: r)
    else if c.1 == a then (if b == regReset a then r else (a, b) :: r)
    else c :: regSet r a b

def State.reg (s : State) (off : Nat) : Word := regGet s.b.regs off
def State.setReg (s : State) (off : Nat) (x : Word) : State := { s with b := { s.b with regs := regSet s.b.regs off x } }
/-- A field of a register. -/
def State.fld (s : State) (off hi lo : Nat) : Nat := slice (s.reg off).toNat hi lo
/-- Replace a field of a register. -/
def State.setFld (s : State) (off hi lo x : Nat) : State :=
  let v := (s.reg off).toNat
  s.setReg off (BitVec.ofNat 64 (v - slice v hi lo * 2 ^ lo + x % 2 ^ (hi + 1 - lo) * 2 ^ lo))

/-- Add one to a saturating 32-bit field at bit `lo`. -/
def State.satInc (s : State) (off lo n : Nat) : State :=
  s.setFld off (lo + 31) lo (min 0xFFFFFFFF (s.fld off (lo + 31) lo + n))

/-- The mask bit of an MSI-X vector (R462): in word 3 of its table entry. -/
def State.msiMasked (s : State) (v : Nat) : Bool := s.fld (0x1000 + 16 * v + 8) 32 32 == 1

/-- Raise an MSI-X vector (R468): its message is sent, or it is pending while it is masked; vectors 2,048 and above raise nothing. -/
def State.msi (s : State) (v : Nat) : State :=
  if 2048 ≤ v then s
  else if !s.msiMasked v then { s with b := { s.b with sent := s.b.sent ++ [v] } }
  else if s.b.msi.contains v then s
  else { s with b := { s.b with msi := (s.b.msi.filter (· < v)) ++ v :: s.b.msi.filter (v < ·) } }

def State.plog (s : State) : Nat := s.fld rHomeCfg 10 8
def State.hs (s : State) : Nat := s.fld rHomeCfg 3 0
def State.hway (s : State) : Nat := s.fld rHomeCfg 31 16
def State.nmod (s : State) : Nat := s.fld rFabCfg 6 0
def State.fabEn (s : State) : Bool := s.fld rFabCfg 7 7 == 1

/-! ### Placement -/

/-- The hash of a line (R225). -/
def lineHash (l : Nat) : Nat := (l % 4096) ^^^ (l / 2 ^ 12 % 4096) ^^^ (l / 2 ^ 24 % 4096) ^^^ (l / 2 ^ 36 % 8)

/-- A pod physical address qualified by its placement: a module-local line of module m is pa + 2^52·(1 + m) (R211). -/
def qualify (plc own pa : Nat) : Nat := if plc == 1 then pa + 2 ^ 52 * (1 + own) else pa
def paOf (x : Nat) : Nat := x % 2 ^ 52
def localOf (x : Nat) : Option Nat := if x / 2 ^ 52 == 0 then none else some (x / 2 ^ 52 - 1)
def hostSpace (x : Nat) : Bool := x / 2 ^ 51 % 2 == 1

/-- The home module of a line (R18, R225). -/
def State.homeOf (s : State) (x : Nat) : Nat :=
  match localOf x with
  | some m => m
  | none => lineHash (paOf x / 128 % 2 ^ 39) / 2 ^ (12 - s.plog) % 2 ^ s.plog

/-- The home agent of a line (R225). -/
def agentOf (x : Nat) : Nat := lineHash (paOf x / 128 % 2 ^ 39) % 64

/-- The address lies in the populated range of its placement (R227). -/
def State.populated (s : State) (x : Nat) : Bool :=
  !hostSpace x && slice (paOf x) 50 46 == 0 &&
  match localOf x with
  | some _ => decide (slice (paOf x) 45 0 < 64 * (12 - s.hs) * 2 ^ 30)
  | none => decide (slice (paOf x) 45 0 < 2 ^ s.plog * 64 * s.hs * 2 ^ 30)

/-- The line slot within its agent (R227). -/
def State.slotOfLine (s : State) (x : Nat) : Nat :=
  let l := paOf x / 128 % 2 ^ 39
  let h := lineHash l
  let m := s.plog
  match localOf x with
  | some _ => s.hs * 2 ^ 23 + l / 4096 * 64 + h / 64 % 64
  | none => l / 4096 * 2 ^ (6 - m) + h / 64 % 2 ^ (6 - m)

/-- The storage address of a byte homed here. -/
def State.storeAddr (s : State) (x : Nat) : Nat := (agentOf x * (12 * 2 ^ 23) + s.slotOfLine x) * 128 + x % 128

/-- The byte is homed on this module. -/
def State.here (s : State) (x : Nat) : Bool := s.homeOf x == s.b.pkg

/-- One byte of memory by qualified physical address: this module's, another module's, or the host's. -/
def State.byteAt (s : State) (x : Nat) : Byte :=
  if hostSpace x then memGet s.m.host (paOf x)
  else if !s.populated x then 0
  else if s.here x then memGet s.m.mem (s.storeAddr x)
  else memGet s.m.peer x

/-- n bytes at a qualified physical address, little-endian; a byte outside the populated range reads zero (R475). -/
def State.rdNat (s : State) (x : Nat) : Nat → Nat
  | 0 => 0
  | n + 1 => (s.byteAt x).toNat + 256 * s.rdNat (x + 1) n

/-- Write one byte; a write outside the populated range is dropped (R475). -/
def State.setByte (s : State) (x : Nat) (b : Byte) : State :=
  if hostSpace x then { s with m := { s.m with host := memSet s.m.host (paOf x) b } }
  else if !s.populated x then s
  else if s.here x then { s with m := { s.m with mem := memSet s.m.mem (s.storeAddr x) b } }
  else { s with m := { s.m with peer := memSet s.m.peer x b } }

/-- Write n bytes, little-endian. -/
def State.wrNat (s : State) (x : Nat) : Nat → Nat → State
  | 0, _ => s
  | n + 1, v => (s.setByte x (BitVec.ofNat 8 v)).wrNat (x + 1) n (v / 256)

/-- Poison (R235): the sector of a qualified physical address is marked. -/
def State.poisoned (s : State) (x : Nat) : Bool := s.here x && s.populated x && s.m.pois.contains (s.storeAddr x / 32)

/-- Mark or clear the poison of one sector. -/
def State.setPoison (s : State) (x : Nat) (on : Bool) : State :=
  let k := s.storeAddr x / 32
  let r := s.m.pois.filter (· != k)
  { s with m := { s.m with pois := if on then insertBy (fun a b => decide (a ≤ b)) k r else r } }

/-- Some sector of [x, x + n) is poisoned. -/
def State.poisonedIn (s : State) (x n : Nat) : Bool :=
  (List.range (n / 32 + 2)).any fun i => decide (x / 32 * 32 + 32 * i < x + n) && s.poisoned (x / 32 * 32 + 32 * i)

end Sys2Proof.Machine
end

