-- ==== Sys2Proof/Machine/Operands.lean ====
section
/-! DEFINITION. Threads, warps, workgroups and regions by number, and every operand form: registers through the window, values of
registers with outstanding writes (R57), immediates, sub-elements (R111), register-range checks (R95). -/

namespace Sys2Proof

/-- The second register of a pair (R179). -/
def Opnd.succ : Opnd → Opnd
  | .v n => .v (n + 1)
  | .w n => .w (n + 1)
  | o => o

/-- Register number of an operand. -/
def Opnd.num : Opnd → Nat
  | .v n => n.toNat
  | .w n => n.toNat
  | .imm x => x.toNat
  | .p n | .k n | .t n | .z n => n.toNat

/-! ### Which registers an instruction names -/

/-- Registers from `n` on. -/
def regRun (n k : Nat) : List Nat := (List.range k).map (n + ·)

/-- The operand fields, with pairs and descriptor runs written out: each operand and how many registers it names. -/
def Instr.operands (i : Instr) : List (Opnd × Nat) :=
  match i.shape with
  | .s64 x => if i.opc == 0x16 then [] else [(x.d, 1), (x.a, 1), (x.b, 1)]
  | .v96 x => [(x.d, 1), (x.a, 1), (x.b, 1), (x.c, 1), (x.e, 1)]
  | .m128 x =>
    let two := x.sz == .b128
    let k (b : Bool) : Nat := if b then 2 else 1
    let o := i.opc
    [(x.d, k ((two && (o == 0x120 || o == 0x122 || o == 0x123)) || o == 0x141)),
     (x.a, if o == 0x12D || o == 0x150 then 4 else 1),
     (x.b, k (two && (o == 0x122 || o == 0x123))),
     (x.c, k (two && (o == 0x121 || o == 0x123 || o == 0x1A0)))]
  | .nest x =>
    [(.w x.bas0, 1), (.w x.bas1, 1)] ++ (if i.opc == 0xE0 && nestSrcs x.opn.toNat == 2 then [(.w x.bas2, 1)] else [])
  | .loop x => if x.tm then [(.w (x.trip.extractLsb' 0 6), 1)] else []
  | _ => []

/-- The `v` and `w` numbers that an instruction names, in the order of its fields: the field, whether the class is `v`, the number. -/
def Instr.regNums (i : Instr) : List (Nat × Bool × Nat) :=
  (i.operands.zip (List.range 5)).flatMap fun (q : (Opnd × Nat) × Nat) => match q.1.1 with
    | .v n => (regRun n.toNat q.1.2).map fun k => (q.2, true, k)
    | .w n => (regRun n.toNat q.1.2).map fun k => (q.2, false, k)
    | _ => []
/-- `k` numbers that an instruction names. -/
def Instr.kNums (i : Instr) : List Nat :=
  i.operands.flatMap fun (q : Opnd × Nat) => match q.1 with | .k n => [n.toNat] | _ => []

/-- D is also read: `movh`, `movxw`, conversions into part of D, `cvt8`, `cvol`, `pk4`, `shfl`, `bcast` keep or use it. -/
def Instr.readsD (i : Instr) : Bool :=
  [0x22, 0x24, 0x100, 0x102, 0x105, 0xC0, 0xC1].contains i.opc ||
  ([0x89, 0x8A, 0x8B].contains i.opc &&
    match i.shape with | .v96 x => decide (x.ty2.count < x.ty.count) | _ => false)

/-- The operand slots that an instruction reads at issue: those that it uses (R41), but D where it is a destination only, and B and C of `cvol` and
C of `xdeal`, which are destinations (R166, R391). -/
def Instr.readSlots (i : Instr) : List Nat :=
  i.slots.filter fun k => (k != 0 || i.readsD) && !(i.opc == 0x102 && (k == 2 || k == 3)) && !(i.opc == 0x199 && k == 3)

/-- Operand-port demand: distinct `v` registers read at issue (R53). The register that the index of a `movxr` names takes one port more, whatever the
indices of the lanes (log entry 94). -/
def Instr.demand (i : Instr) : Nat :=
  ((i.regNums.filterMap fun q => if q.2.1 && i.readSlots.contains q.1 then some q.2.2 else none).dedup.length) + (if i.opc == 0x23 then 1 else 0)

end Sys2Proof

namespace Sys2Proof.Machine
open Sys2Proof

/-! ### Numbering (R12, R432) -/

def unitOf (tid : Nat) : Nat := tid / 512
def widOf (tid : Nat) : Nat := tid / 32
def laneOf (tid : Nat) : Nat := tid % 32
def slotOf (tid : Nat) : Nat := tid / 32 % 16
def coreOf (tid : Nat) : Nat := tid / 2560
def partOf (tid : Nat) : Nat := tid / 512 % 5
/-- The thread is a Domestique context: it belongs to a scalar pipe. -/
def isCtx (tid : Nat) : Bool := partOf tid == 4
def clusOf (core : Nat) : Nat := core / 16
def dieOf (core : Nat) : Nat := core / 48

/-! ### Records by number -/

def Windows.none : Windows := { b := 0, f := 0, dep := 0, spo := 0, res := [] }
def LoopSt.none : LoopSt :=
  { act := false, ladr := 0, trip := 0, pass := 0,
    word := { park := false, nb := 0, tm := false, trip := 0, g := Guard.always, ne := 0, ent := 0 }, offs := [], blocks := [] }
def Batches.none : Batches := { bs := [], opn := Option.none, next := 0 }

/-- A thread that no launch made: gone, all zero. -/
def Thread.blank (tid : Nat) : Thread :=
  { tid := tid, region := 0, gone := true, pc := 0, v := [], msk := 0, arr := 0, lft := 0, p := 0, tpc := 0, tcause := 0, rseed := 0,
    olthr := 0, win := Windows.none, spb := 0, spl := 0, spills := [], ycnt := 0, ybud := 0, hm := false, loop := LoopSt.none,
    wait := .none, park := false, replay := false, stage := 0, snap := [], faults := [], hostPark := false, age := none, bundle := none, losses := 0, lostAt := none, passed := 0, fetch := .none,
    walked := [], cur := 0, batches := Batches.none, lastPc := 0, lastClk := 0, issuedAt := 0, fences := [] }

def State.thread? (s : State) (tid : Nat) : Option Thread := s.c.threads.find? fun t => t.tid == tid
def State.thread (s : State) (tid : Nat) : Thread := (s.thread? tid).getD (Thread.blank tid)
def State.warp? (s : State) (wid : Nat) : Option Warp := s.c.warps.find? fun w => w.wid == wid
def State.wg? (s : State) (key : Nat) : Option Wg := s.c.wgs.find? fun g => g.key == key
def State.region? (s : State) (n : Nat) : Option Region := s.l.regions.find? fun r => r.num == n
/-- The workgroup of a thread; none for a fork task. -/
def State.wgOf (s : State) (tid : Nat) : Option Wg :=
  match s.warp? (widOf tid) with
  | some w => w.wg.bind s.wg?
  | none => none
def State.regionOf (s : State) (tid : Nat) : Option Region := s.region? (s.thread tid).region
def State.forkTask (s : State) (tid : Nat) : Bool :=
  match s.warp? (widOf tid) with
  | some w => w.wg.isNone
  | none => false

def State.setThreads (s : State) (ts : List Thread) : State := { s with c := { s.c with threads := ts } }
def State.modThread (s : State) (tid : Nat) (f : Thread → Thread) : State :=
  s.setThreads (s.c.threads.map fun t => if t.tid == tid then f t else t)
def State.setWarps (s : State) (ws : List Warp) : State := { s with c := { s.c with warps := ws } }
def State.modWarp (s : State) (wid : Nat) (f : Warp → Warp) : State :=
  s.setWarps (s.c.warps.map fun w => if w.wid == wid then f w else w)
def State.setWgs (s : State) (gs : List Wg) : State := { s with c := { s.c with wgs := gs } }
def State.modWg (s : State) (key : Nat) (f : Wg → Wg) : State :=
  s.setWgs (s.c.wgs.map fun g => if g.key == key then f g else g)
def State.setRegions (s : State) (rs : List Region) : State := { s with l := { s.l with regions := rs } }
def State.modRegion (s : State) (n : Nat) (f : Region → Region) : State :=
  s.setRegions (s.l.regions.map fun r => if r.num == n then f r else r)
def State.setPend (s : State) (p : List Pend) : State := { s with c := { s.c with pend := p } }

/-! ### Registers -/

/-- Ring size H of a thread (R94). -/
def Thread.ring (t : Thread) : Nat := t.v.length - 16
/-- The limit of a thread's `v` numbers (R94). -/
def Thread.limit (t : Thread) : Nat := if 16 ≤ t.v.length then 16 + t.win.f else t.v.length
/-- The physical register of a `v` number (R94). -/
def Thread.phys (t : Thread) (n : Nat) : Nat := if n < 16 then n else 16 + (t.win.b + n - 16) % t.ring

/-- The known results outstanding for a register. -/
def State.pendVals (s : State) (d : RegRef) : List Word := s.c.pend.filterMap fun p => if p.dst == d then p.val else none
/-- A register has an outstanding write (R57). -/
def State.outstanding (s : State) (d : RegRef) : Bool := s.c.pend.any fun p => p.dst == d

/-- One of the outcomes that R57 lists: the register's value, or a result not yet written; a free choice among them. -/
def State.pick (s : State) (a k : Nat) : List Word → Word
  | [] => 0
  | [x] => x
  | x :: y :: r => (x :: y :: r).getD (Config.freeChoice s.free a k % (r.length + 2)) 0

/-- What a waiting instruction of the thread has read in a register at its issue, else the value `x` that it reads now (R56). -/
def State.kept (s : State) (tid : Nat) (d : RegRef) (x : Word) : Word :=
  match (s.thread tid).snap.find? fun q => q.1 == d with
  | some q => q.2
  | none => x

def State.readPhys (s : State) (tid ph : Nat) : Word :=
  s.kept tid (.v tid ph) (s.pick tid ph ((s.thread tid).v.getD ph 0 :: s.pendVals (.v tid ph)))
def State.readV (s : State) (tid n : Nat) : Word := s.readPhys tid ((s.thread tid).phys n)
def State.readW (s : State) (tid n : Nat) : Word :=
  s.kept tid (.w (widOf tid) n)
    (s.pick tid (1000 + n) ((match s.warp? (widOf tid) with | some w => w.w.getD n 0 | none => 0) :: s.pendVals (.w (widOf tid) n)))
/-- p15 reads true (R92). -/
def State.readP (s : State) (tid n : Nat) : Bool :=
  n == 15 ||
    (s.kept tid (.p tid n) (s.pick tid (2000 + n) ((if (s.thread tid).p.getLsbD n then 1 else 0) :: s.pendVals (.p tid n)))).getLsbD 0

/-- `w` registers allocated to a thread's warp (R92). -/
def State.wCount (s : State) (tid : Nat) : Nat :=
  match s.warp? (widOf tid) with
  | some w => w.w.length
  | none => 0

/-! ### Operands -/

/-- The 64-bit value of an operand: an immediate is sign-extended (R39, R111). -/
def State.opnd (s : State) (tid : Nat) : Opnd → Word
  | .v n => s.readV tid n.toNat
  | .w n => s.readW tid n.toNat
  | .imm x => x.signExtend 64
  | .p n => if s.readP tid n.toNat then 1 else 0
  | .k _ | .t _ | .z _ => 0

/-- Sub-element e that an operand supplies, from its value (R111). -/
def srcEl (t : Ty) (o : Opnd) (x : Word) (e : Nat) : Nat :=
  match o with
  | .imm i => if t.isFloat then (tyFlt t).enc .rne false 0 (X.ofInt i.toInt) else (i.signExtend t.width).toNat
  | _ => subEl t x e

/-- Sub-element that I32 supplies (R111). -/
def immEl (t : Ty) (i : BitVec 32) : Nat :=
  if t.width ≤ 32 then i.toNat % 2 ^ t.width else if t.signed then (i.signExtend 64).toNat else i.toNat

/-- The register that an operand names as a destination; none for p15, whose writes are discarded (R92). -/
def State.dest (s : State) (tid : Nat) : Opnd → Option RegRef
  | .v n => some (.v tid ((s.thread tid).phys n.toNat))
  | .w n => some (.w (widOf tid) n.toNat)
  | .p n => if n == 15 then none else some (.p tid n.toNat)
  | _ => none

end Sys2Proof.Machine
end

