-- ==== Sys2Proof/Machine/Flags.lean ====
section
/-! DEFINITION. Predicates: guards (R37), the predicate results of compares, carries and votes (R118, R119, R124, R132, R136). -/

namespace Sys2Proof

/-- The predicates that guard an instruction (R37). -/
def Instr.guardNums (i : Instr) : List Nat :=
  match i.shape with
  | .s64 x => [x.g.num.toNat]
  | .sbr x => [x.g.num.toNat]
  | .v96 x => [x.g0.num.toNat, x.g1.num.toNat]
  | .m128 x => [x.g0.num.toNat, x.g1.num.toNat]
  | .nest x => [x.g.num.toNat]
  | .loop x => [x.g.num.toNat]
  | .event => []

end Sys2Proof

namespace Sys2Proof.Machine
open Sys2Proof

/-- A guard's value for a thread (R37). -/
def State.guard (s : State) (tid : Nat) (g : Guard) : Bool := s.readP tid g.num.toNat != g.neg

/-- The effective guard of an instruction for a thread: G0 AND G1 where there are two (R37). -/
def State.guards (s : State) (tid : Nat) (i : Instr) : Bool :=
  match i.shape with
  | .s64 x => s.guard tid x.g
  | .sbr x => s.guard tid x.g
  | .v96 x => s.guard tid x.g0 && s.guard tid x.g1
  | .m128 x => s.guard tid x.g0 && s.guard tid x.g1
  | .nest x => s.guard tid x.g
  | .loop x => s.guard tid x.g
  | .event => true

/-- The predicate of a compare: AND over the sub-elements, or OR with ANY (R118). -/
def cmpPred (any : Bool) (rs : List Bool) : Bool := if any then rs.any id else rs.all id

/-- The register result of a compare: all ones where the condition holds (R118). -/
def cmpMask (t : Ty) (rs : List Bool) : Word := BitVec.ofNat 64 (packEl t (rs.map fun r => if r then 2 ^ t.width - 1 else 0))

/-- The carry out of a 64-bit add with carry (R119). -/
def carryOut (a b : Word) (c : Bool) : Bool := decide (2 ^ 64 ≤ a.toNat + b.toNat + bit c)

/-- The predicate instructions: `and`, `or`, `xor` of two inputs with inversion (R132). -/
def predOp (k : Nat) (a b : Bool) : Bool :=
  match k with
  | 0 => a && b
  | 1 => a || b
  | _ => a != b

/-- `vote`: all, any, uniform (R136). -/
def votePred (mode : Nat) (ps : List Bool) : Bool :=
  match mode with
  | 0 => ps.all id
  | 1 => ps.any id
  | _ => ps.all id || ps.all (! ·)

end Sys2Proof.Machine
end

