-- ==== Sys2Proof/Machine/L2.lean ====
section
/-! DEFINITION. The L2: ways, replacement, retention (R229 to R233, R240, R241), ECC (R234 to R236), and the L1 of a core (R176, R177). A home line's tag says
where the line is held and whether it is dirty; its bytes stand in `MemSys.mem`. A visitor line holds its own bytes. -/

namespace Sys2Proof.Machine
open Sys2Proof

def State.setL2 (s : State) (l : List L2Line) : State := { s with m := { s.m with l2 := l } }
def State.setL1 (s : State) (l : List L1Sec) : State := { s with c := { s.c with l1 := l } }

/-- Address of the line of a byte. -/
def lineOf (x : Nat) : Nat := x / 128 * 128
/-- Address of the sector of a byte. -/
def sectorOf (x : Nat) : Nat := x / 32 * 32

/-- The set of a line in its slice (R229). -/
def State.l2Set (s : State) (x : Nat) : Nat := s.slotOfLine x % 768

def State.l2Find (s : State) (x : Nat) : Option L2Line := s.m.l2.find? fun l => l.xpa == lineOf x
def State.l2Mod (s : State) (x : Nat) (f : L2Line → L2Line) : State := s.setL2 (s.m.l2.map fun l => if l.xpa == lineOf x then f l else l)

/-- An active retention register (R241). -/
def State.retOn (s : State) (i : Nat) : Bool := s.fld (rHomeRet i) 0 0 == 1
def State.retWays (s : State) (i : Nat) : Nat := s.fld (rHomeRet i) 16 1
/-- The line lies in the range of register i (R240, R241). -/
def State.retCovers (s : State) (i x : Nat) : Bool :=
  let w1 := (s.reg (rHomeRet i)).toNat + 2 ^ 64 * (s.reg (rHomeRet i + 8)).toNat + 2 ^ 128 * (s.reg (rHomeRet i + 16)).toNat
  let l := paOf x / 128 % 2 ^ 39
  let loc := slice w1 146 146 == 1
  s.retOn i && decide (slice w1 127 89 ≤ l) && decide (l < slice w1 191 153) &&
  (match localOf x with | some m => loc && m == slice w1 152 147 | none => !loc)

/-- Ways that active registers reserve. -/
def State.reservedWays (s : State) : Nat := (List.range 8).foldl (fun a i => if s.retOn i then a ||| s.retWays i else a) 0

/-- Ways of the class of a line (R229). -/
def State.classWays (s : State) (visitor : Bool) : List Nat := (List.range 16).filter fun w => s.hway.testBit w != visitor

/-- Put a line into a way of its set, at the front or at the back of the set's order. -/
def State.l2Put (s : State) (l : L2Line) (lru : Bool) : State :=
  let rest := s.m.l2.filter fun k => !(k.agent == l.agent && k.set == l.set && k.way == l.way)
  s.setL2 (if lru then rest ++ [l] else l :: rest)

/-- Insert a line (R233, R240, R241): into a reserved way of its range, else into the least recently used eligible way of its class. -/
def State.l2Insert (s : State) (l : L2Line) (lru : Bool) : State :=
  let inSet := s.m.l2.filter fun k => k.agent == l.agent && k.set == l.set
  let free := (List.range 8).find? fun i => s.retCovers i l.xpa
  let reserved := match free with
    | some i => ((List.range 16).reverse.filter fun w => (s.retWays i).testBit w).find? fun w =>
        !(inSet.any fun k => k.way == w && s.retCovers i k.xpa)
    | none => none
  match reserved with
  | some w => s.l2Put { l with way := w } lru
  | none =>
    let s1 := match free with
      | some i => s.satInc (rHomeRet i + 24) 32 1
      | none => s
    let ways := (s1.classWays l.visitor).filter fun w => !s1.reservedWays.testBit w
    match ways.find? fun w => !(inSet.any fun k => k.way == w) with
    | some w => s1.l2Put { l with way := w } lru
    | none =>
      match (inSet.filter fun k => ways.contains k.way).getLast? with
      | some k => s1.l2Put { l with way := k.way } lru
      | none => s1

/-- A sector of a visitor line: its 32 bytes. -/
def State.visitorRead (s : State) (x : Nat) : Option Nat :=
  match s.l2Find x with
  | some l => if l.visitor && l.secs.testBit (x % 128 / 32) then some (slice l.data (x % 128 / 32 * 256 + 255) (x % 128 / 32 * 256)) else none
  | none => none

/-! ### ECC (R234, R236) -/

/-- A sector becomes poisoned: UECNT counts it, and the first one since UEV was cleared is logged (R236). -/
def State.poisonNew (s : State) (x : Nat) : State :=
  let s1 := (s.setPoison x true).satInc rHomeErr 0 1
  if s1.fld rHomeErrAdr 63 63 == 1 then s1
  else (s1.setReg rHomeErrAdr (BitVec.ofNat 64 (2 ^ 63 + agentOf x * 2 ^ 46 + paOf x / 32 % 2 ^ 41 * 2 ^ 5))).msi 0

/-- ECC on a sector that an access touches (R234). An uncorrectable error of a visitor line discards the line, which is fetched again; one of a line that
is clean in the L2 is recovered; else the sector becomes poisoned, at its home. -/
def State.ecc (s : State) (x : Nat) (e : Ecc) : State :=
  match e, s.l2Find x with
  | .clean, _ => s
  | .correctable, _ => s.satInc rHomeErr 32 1
  | .uncorrectable, some l =>
    if l.visitor then (s.setL2 (s.m.l2.filter fun k => k.xpa != l.xpa)).satInc rHomeErr 32 1
    else if l.dirty then s.poisonNew x else s.satInc rHomeErr 32 1
  | .uncorrectable, none => if s.here x then s.poisonNew x else s

/-- ECC meets the error of a sector, if it holds one (log entry 43). -/
def State.findError (s : State) (x : Nat) : State :=
  match s.m.errs.find? fun e => e.1 == x / 32 with
  | none => s
  | some e =>
    if !s.here x && (s.visitorRead x).isNone then s
    else { s with m := { s.m with errs := s.m.errs.filter fun q => q.1 != x / 32 } }.ecc (sectorOf x) (if e.2 then .correctable else .uncorrectable)

/-- The errors of the sectors that n bytes touch. -/
def State.findErrors (s : State) (x n : Nat) : State :=
  (List.range (n / 32 + 2)).foldl (fun s i => if sectorOf x + 32 * i < x + n then s.findError (sectorOf x + 32 * i) else s) s

/-- The order effect of a hit (R233). -/
def State.l2Hit (s : State) (l : L2Line) (hint : Hint) : State :=
  if hint == .ef || hint == .nl1ef then s else s.setL2 (l :: s.m.l2.filter fun k => k.xpa != l.xpa)

/-- Insertion at the least-recently-used position (R178, R233). -/
def lruInsert (hint : Hint) (ef : Bool) : Bool := hint == .ef || hint == .nl1ef || (ef && hint != .l2k)

/-- An access of a home line at its agent (R229, R233, R237). -/
def State.l2Home (s : State) (x : Nat) (hint : Hint) (ef w : Bool) : State :=
  match s.l2Find x with
  | some l => (s.l2Hit l hint).l2Mod x fun l => { l with dirty := l.dirty || w }
  | none =>
    if s.hway == 0 then s
    else s.l2Insert { agent := agentOf x, set := s.l2Set x, way := 0, xpa := lineOf x, home := s.b.pkg, visitor := false, dirty := w,
                      secs := 0, data := 0 } (lruInsert hint ef)

/-! ### Visitor lines (R230 to R232) -/

/-- A visitor fill of one sector (R230). -/
def State.visitorFill (s : State) (x data : Nat) (hint : Hint) (ef : Bool) : State :=
  let k := x % 128 / 32
  if s.hway == 0xFFFF then s
  else
    let s1 := match s.l2Find x with
      | some l => s.l2Hit l hint
      | none => s.l2Insert { agent := agentOf x, set := s.l2Set x, way := 0, xpa := lineOf x, home := s.homeOf x, visitor := true,
                             dirty := false, secs := 0, data := 0 } (lruInsert hint ef)
    s1.l2Mod x fun l =>
      if l.visitor then
        { l with secs := l.secs ||| 2 ^ k, data := l.data - slice l.data (256 * k + 255) (256 * k) * 2 ^ (256 * k) + data * 2 ^ (256 * k) }
      else l

/-- Drop the visitor fill of every request in flight that a test selects (R232). -/
def State.dropVfill (s : State) (p : Req → Bool) : State :=
  let f := fun (r : Req) => if p r then { r with vfill := false } else r
  { s with m := { s.m with
      colQ := s.m.colQ.map f, aQ := s.m.aQ.map f, outst := s.m.outst.map f,
      waits := s.m.waits.map fun w => { w with foll := f w.foll }
      anss := s.m.anss.map fun a => { a with req := f a.req } } }

/-- A write or an atomic of this module to another module's line invalidates its visitor copy (R230). -/
def State.visitorInvalidate (s : State) (x : Nat) : State :=
  (s.setL2 (s.m.l2.filter fun l => !(l.visitor && l.xpa == lineOf x))).dropVfill fun r => lineOf r.w.xpa == lineOf x

/-- An acquire at `.pod` scope removes the visitor lines that a test selects (R231). -/
def State.visitorClear (s : State) (p : Nat → Bool) : State :=
  (s.setL2 (s.m.l2.filter fun l => !(l.visitor && p l.xpa))).dropVfill fun r => p (lineOf r.w.xpa)

/-! ### The L1 (R176, R177) -/

/-- Accesses in flight on a core that a test on a part selects fill the L1 no more. -/
def State.dropFill (s : State) (core : Nat) (p : MOp → Bool) : State :=
  { s with m := { s.m with ops := s.m.ops.map fun o => if coreOf o.tid == core && p o then { o with fill := false } else o } }

/-- The L1 of a core is emptied (R177). -/
def State.l1Clear (s : State) (core : Nat) : State :=
  (s.setL1 (s.c.l1.filter fun e => e.core != core)).dropFill core fun _ => true

/-- The L1 lines that hold a byte of a range go (R177). -/
def State.l1ClearRange (s : State) (core asid lo hi : Nat) : State :=
  (s.setL1 (s.c.l1.filter fun e => !(e.core == core && e.asid == asid && decide (lineOf e.va < hi) && decide (lo < lineOf e.va + 128)))).dropFill
    core fun o => decide (lineOf o.va < hi) && decide (lo < lineOf o.va + 256)

/-- An atomic of a core invalidates the L1 line that holds its target (R176). -/
def State.l1Drop (s : State) (core x : Nat) : State :=
  (s.setL1 (s.c.l1.filter fun e => !(e.core == core && lineOf e.xpa == lineOf x))).dropFill core fun o =>
    o.parts.any fun p => lineOf p.xpa == lineOf x

/-- A store of a core updates a sector that its L1 holds (R176). -/
def State.l1Update (s : State) (core x mask data : Nat) : State :=
  s.setL1 (s.c.l1.map fun e =>
    if e.core == core && e.xpa == sectorOf x then
      { e with data := (List.range 32).foldl (fun a i => a + (if mask.testBit i then byteOf data i else byteOf e.data i) * 256 ^ i) 0 }
    else e)

/-- The lines that the L1 of a core has room for: what the scratch of its workgroups leaves of 512 KiB, at least 64 KiB (R176). -/
def State.l1Lines (s : State) (core : Nat) : Nat :=
  max 512 (4096 - ((s.c.wgs.filter fun g => g.core == core).map (·.win)).sum / 128)

/-- The L1 of a core keeps the lines that it has room for, the latest filled ones. -/
def State.l1Trim (s : State) (core : Nat) : State :=
  let lines := ((s.c.l1.filter fun e => e.core == core).map fun e => lineOf e.xpa).dedup
  let gone := lines.take (lines.length - s.l1Lines core)
  if gone.isEmpty then s else s.setL1 (s.c.l1.filter fun e => !(e.core == core && gone.contains (lineOf e.xpa)))

/-- A load fills its sector (R176). -/
def State.l1Fill (s : State) (core asid va x data : Nat) : State :=
  (s.setL1 ((s.c.l1.filter fun e => !(e.core == core && e.asid == asid && e.va == sectorOf va)) ++
    [{ core := core, asid := asid, va := sectorOf va, xpa := sectorOf x, data := data }])).l1Trim core

/-- Accesses of a core, the whole module's for none, that touch a span of bytes and are not answered. -/
def State.opsOn (s : State) (core : Option Nat) (lo n : Nat) : List MOp :=
  s.m.ops.filter fun o => (match core with | some c => coreOf o.tid == c | none => true) &&
    o.parts.any fun p => !p.done && decide (p.xpa < lo + n) && decide (lo < p.xpa + p.size)

/-- An access that may write, as its kind says (R217). -/
def MOp.writes (o : MOp) : Bool := o.kind == 1 || o.kind == 2

/-- No write of a core to a sector is in flight, so that data that returns now is not older than one of its writes (R201, R204). -/
def State.quiet1 (s : State) (core x : Nat) : Bool := !(s.opsOn (some core) (sectorOf x) 32).any MOp.writes
/-- The same of the module and a line. -/
def State.quiet2 (s : State) (x : Nat) : Bool := !(s.opsOn none (lineOf x) 128).any MOp.writes

/-- The data of a sector returns to a core (R176): it fills the L1 when nothing else of the core can have changed the sector; where the L1 holds the
sector with other data, which of the two is the newer is not known, and the sector goes (R201). -/
def State.l1Return (s : State) (core asid va x data : Nat) (fill : Bool) : State :=
  let held := s.c.l1.filter fun e => e.core == core && e.xpa == sectorOf x
  let others := fun (s : State) => s.dropFill core fun o => o.parts.any fun p => sectorOf p.xpa == sectorOf x
  if !held.isEmpty && held.all fun e => e.data == data then s
  else if !held.isEmpty then others (s.setL1 (s.c.l1.filter fun e => !(e.core == core && e.xpa == sectorOf x)))
  else if fill && s.quiet1 core x then others (s.l1Fill core asid va x data) else s

/-- The L1 of a core lets a sector go that an engine has read or written on a thread's behalf, and what returns of it no longer fills it (R201). -/
def State.l1Forget (s : State) (core x : Nat) : State :=
  (s.setL1 (s.c.l1.filter fun e => !(e.core == core && e.xpa == sectorOf x))).dropFill core fun o => o.parts.any fun p => sectorOf p.xpa == sectorOf x

/-- A store or an atomic of a core has been performed: loads in flight may hold older data, and a sector that the L1 holds is updated, or goes when another
write of the core is in flight (R176, R201). -/
def State.l1Written (s : State) (core x mask data : Nat) : State :=
  let s1 := s.dropFill core fun o => o.parts.any fun p => sectorOf p.xpa == sectorOf x
  if s1.quiet1 core x then s1.l1Update core x mask data
  else s1.setL1 (s1.c.l1.filter fun e => !(e.core == core && e.xpa == sectorOf x))

/-- The data of a line of another module returns (R230 to R232): as `l1Return` for the visitor way. -/
def State.visitorReturn (s : State) (x data : Nat) (hint : Hint) (ef fill : Bool) : State :=
  let others := fun (s : State) => s.dropVfill fun r => lineOf r.w.xpa == lineOf x
  if s.visitorRead x == some data then s
  else if (s.visitorRead x).isSome then others (s.setL2 (s.m.l2.filter fun l => !(l.visitor && l.xpa == lineOf x)))
  else if fill && s.quiet2 x then others (s.visitorFill x data hint ef) else s

/-- A scope's place in the order of R202. -/
def scNum : Sc → Nat
  | .thread => 0 | .warp => 1 | .core => 2 | .clus => 3 | .pkg => 4 | .pod => 5

end Sys2Proof.Machine
end

