-- ==== Sys2Proof/Machine/Xlate.lean ====
section
/-! DEFINITION. Translation (R209 to R221): the walk, the home's tenant check of the reads it makes (R417 to R421), the permissions
of a page (R216), the TLBs. -/

namespace Sys2Proof.Machine
open Sys2Proof

/-! ### The tenant check of the home (R418 to R420) -/

/-- The first enabled window, from window `n` on, that covers pa[45:16] (R419): its low register word. -/
def State.window? (s : State) (frame : Nat) : Nat → Nat → Option Nat
  | 0, _ => none
  | k + 1, n =>
    let lo := (s.reg (rTwin n)).toNat
    let lim := s.fld (rTwin n + 8) 29 0
    if slice lo 61 32 ≤ frame ∧ frame < lim then some lo else s.window? frame k (n + 1)

/-- The address of the protection word of a tenant and address (R420): a module-local line of this module. -/
def State.pdtAddr (s : State) (tenant x : Nat) : Nat :=
  qualify 1 s.b.pkg (s.fld rFabPdt 51 26 * 2 ^ 26 + 16384 * tenant + 8 * (slice (paOf x) 45 30 / 32))

/-- A protection word: the agent's cached copy if there is one, else memory (R420). -/
def State.pdtWord (s : State) (agent addr : Nat) : Word :=
  match s.m.pdt.find? fun e => e.1 == agent && e.2.1 == addr with
  | some e => e.2.2
  | none => BitVec.ofNat 64 (s.rdNat addr 8)

/-- R418: the request of a tenant holds the rights that it needs at this module. -/
def State.tenantOk (s : State) (tenant x : Nat) (rd w : Bool) : Bool :=
  tenant == 0 ||
  if s.nmod ≤ 16 then
    match s.window? (slice (paOf x) 45 16) 32 0 with
    | none => false
    | some lo => (!rd || lo.testBit 16) && (!w || lo.testBit 17) && (lo.testBit 12 || lo % 4096 == tenant)
  else
    s.fld rFabPdt 0 0 == 1 &&
    let e := s.pdtWord (agentOf x) (s.pdtAddr tenant x)
    let g := slice (paOf x) 45 30 % 32
    (!rd || e.getLsbD (2 * g)) && (!w || e.getLsbD (2 * g + 1))

/-! ### Reaching another module (R413, R429) -/

/-- A link is up: in PAM4 or NRZ mode (R428). -/
def State.linkUp (s : State) (m : Nat) : Bool := s.fld (rLink m) 2 0 == 2 || s.fld (rLink m) 2 0 == 3

/-- The first hop toward module `t` (R427, R429): its own link unless it is down, or the lowest-numbered module whose link with this one is
up. The state of that module's link with `t` is its own; the model takes it as up (log entry 7). -/
def State.hop (s : State) (t : Nat) : Option Nat :=
  if s.fld (rLink t) 2 0 != 0 then some t
  else (List.range s.nmod).find? fun x => x != t && x != s.b.pkg && s.linkUp x

/-- A request for a line homed on another module can be sent (R407, R413). -/
def State.reachable (s : State) (x : Nat) : Bool := s.here x || (s.fabEn && (s.hop (s.homeOf x)).isSome)

/-! ### One read or write that an engine makes on a region's behalf -/

/-- What the home of a line of another module answers instead of the access: that module's checks are its own, so which of them fails is a free choice
(log entry 7). No tenant check fails for tenant 0 (R418). -/
def State.peerFault (s : State) (tenant x : Nat) : Option Code :=
  match Config.freeChoice s.free x 7600 % 4 with
  | 1 => if tenant == 0 then none else some .tenant
  | 2 => some .poison
  | 3 => some .fabric
  | _ => none

/-- What keeps a request from being performed, before its sector is looked at (R413, R418, R421, R226). -/
def State.homeGate (s : State) (tenant x : Nat) (rd w : Bool) : Option Code :=
  if hostSpace x then none
  else if !s.reachable x then some .fabric
  else if s.here x then (if s.tenantOk tenant x rd w then none else some .tenant)
  else s.peerFault tenant x

/-- What the home answers to a read of n bytes inside one sector (R235, R413, R421): a fault or the data. -/
def State.homeRead (s : State) (tenant x n : Nat) : Except Code Nat :=
  match s.homeGate tenant x true false with
  | some c => .error c
  | none => if !hostSpace x && s.poisonedIn x n then .error .poison else .ok (s.rdNat x n)

/-- A read that an engine makes inside one sector: a visitor way may serve it (R229); ECC meets the sector's errors (R234); a home line is held or moved in
its set, a visitor line is filled (R229, R230, R233). -/
def State.engRead (s : State) (tenant x n : Nat) (hint : Hint := .dflt) (ef : Bool := false) : State × Except Code Nat :=
  if hostSpace x then (s, .ok (s.rdNat x n))
  else
    let s0 := if s.here x && (s.homeGate tenant x true false).isSome then s else s.findErrors x n
    match (if s.here x then none else s0.visitorRead x) with
    | some d => ((match s0.l2Find x with | some l => s0.l2Hit l hint | none => s0), .ok (d / 256 ^ (x % 32) % 256 ^ n))
    | none =>
      let r := s0.homeRead tenant x n
      let s1 := { s0 with free := s0.free + 1 }
      match r with
      | .error _ => (s1, r)
      | .ok _ => (if s.here x then s1.l2Home x hint ef false else s1.visitorReturn x (s0.rdNat (sectorOf x) 32) hint ef true, r)

/-- A store or an atomic that an engine makes inside one sector, with the n bytes that it leaves: a whole sector clears its mark (R235); it is performed in
the home way (R229); a visitor copy goes (R230). A request that meets FABRIC may have been performed (R413). -/
def State.engWrite (s : State) (tenant x n v : Nat) (rd : Bool := false) : State × Option Code :=
  if hostSpace x then (s.wrNat x n v, none)
  else
    let s0 := if s.here x then s else s.visitorInvalidate x
    match s0.homeGate tenant x rd true with
    | some c =>
      let s1 := { s0 with free := s0.free + 1 }
      (if c == .fabric && s.reachable x && Config.freeChoice s.free x 7601 % 2 == 1 then s1.wrNat x n v else s1, some c)
    | none =>
      let s1 := { (if s.here x then s0.findErrors x n else s0) with free := s0.free + 1 }
      let full := n == 32 && x % 32 == 0 && !rd
      if s1.poisonedIn x n && !full then (s1, some .poison)
      else
        let s2 := if full then s1.setPoison x false else s1
        ((if s.here x then s2.l2Home x .dflt false true else s2).wrNat x n v, none)

/-- The sectors that n bytes touch: start, place in the access, bytes. -/
def sectorParts (x n : Nat) : List (Nat × Nat × Nat) :=
  (List.range (n / 32 + 2)).filterMap fun i =>
    let b := sectorOf x + 32 * i
    let lo := max b x
    let hi := min (b + 32) (x + n)
    if lo < hi then some (lo, lo - x, hi - lo) else none

/-- A write of the device itself, sector by sector (R235, R475): one that is not performed is dropped. -/
def State.devWrite (s : State) (x n v : Nat) : State :=
  (sectorParts x n).foldl (fun (s : State) q => (s.engWrite 0 q.1 q.2.2 (v / 256 ^ q.2.1 % 256 ^ q.2.2)).1) s

/-! ### The walk -/

/-- A failed translation: the code, the level, the address that the record gives, and whether an entry read returned it
(R215, R217). -/
structure XErr where
  code : Code
  lvl : Nat
  addr : Nat
  walk : Bool
  deriving DecidableEq, Repr

/-- Index into the table of a level (R210). -/
def walkIndex (lvl va : Nat) : Nat :=
  match lvl with
  | 0 => slice va 56 39
  | 1 => slice va 38 30
  | 2 => slice va 29 21
  | _ => slice va 20 16

/-- Bytes of the table at a level (R210). -/
def tableSize (lvl : Nat) : Nat :=
  match lvl with
  | 0 => 2097152
  | 3 => 256
  | _ => 4096

/-- log2 of the page that a leaf at a level maps (R210). -/
def pageLog (lvl : Nat) : Nat :=
  match lvl with
  | 1 => 30
  | 2 => 21
  | _ => 16

/-- The geometry and format of a page are assigned and agree (R147, R157, R214): format 0 takes geometry 0. -/
def fmtGeoOk (fmt geo : Nat) : Bool :=
  (fmt == 0 && geo == 0) || ((fmtOf fmt).isSome && decide (geo ≤ 3))

/-- The whole page lies in its placement's populated range (R227). -/
def State.pagePop (s : State) (plc own pa lg : Nat) : Bool :=
  plc == 2 || (s.populated (qualify plc own pa) && s.populated (qualify plc own (pa + 2 ^ lg - 1)))

/-- R214 for a leaf. -/
def State.leafOk (s : State) (lvl e : Nat) : Bool :=
  let pfn := slice e 51 16
  let plc := slice e 53 52
  let own := slice e 15 10
  let hi := pfn * 65536
  slice e 8 7 == 0 && slice e 1 1 == 0 && slice e 6 6 == 1 && lvl != 0 && pfn % 2 ^ (pageLog lvl - 16) == 0 &&
  (match plc with
   | 2 => hi.testBit 51
   | 3 => false
   | _ => !hi.testBit 51 && slice hi 50 46 == 0) &&
  (if plc == 1 then decide (own < s.nmod) else own == 0) && fmtGeoOk (slice e 63 58) (slice e 57 55) &&
  s.pagePop plc own hi (pageLog lvl)

/-- R214 for a table pointer. -/
def tableOk (lvl e : Nat) : Bool :=
  let nxt := slice e 51 8 * 256
  slice e 63 52 == 0 && slice e 7 7 == 0 && slice e 6 6 == 0 && slice e 5 1 == 0 && lvl != 3 &&
  nxt % tableSize (lvl + 1) == 0 && !nxt.testBit 51 && slice nxt 50 46 == 0

/-- The page that a leaf entry describes (R213, R215). -/
def pteOf (lvl va e entry : Nat) : Pte :=
  { page := va % 2 ^ 57 / 2 ^ pageLog lvl * 2 ^ pageLog lvl, size := pageLog lvl, pa := slice e 51 16 * 65536, fmt := slice e 63 58,
    geo := slice e 57 55, ef := slice e 54 54 == 1, plc := slice e 53 52, own := slice e 15 10, dty := slice e 9 9 == 1,
    perm := slice e 5 2, lvl := lvl, entry := entry }

/-- The walk from a level's table, with the number of levels left (R215). -/
def State.walkFrom (s : State) (tenant va : Nat) : Nat → Nat → Nat → State × Except XErr Pte
  | 0, lvl, _ => (s, .error { code := .page, lvl := lvl, addr := va, walk := false })
  | f + 1, lvl, t =>
    let a := t + 8 * walkIndex lvl va
    if !s.populated a then (s, .error { code := .page, lvl := lvl, addr := va, walk := false })
    else match s.engRead tenant a 8 with
      | (s1, .error c) => (s1, .error { code := c, lvl := lvl, addr := a, walk := true })
      | (s1, .ok e) =>
        if e % 2 == 1 && s.leafOk lvl e then (s1, .ok (pteOf lvl va e a))
        else if e % 2 == 1 && tableOk lvl e then s1.walkFrom tenant va f (lvl + 1) (slice e 51 8 * 256)
        else (s1, .error { code := .page, lvl := lvl, addr := va, walk := false })

/-- The walk of a virtual address from a level-0 table (R215). -/
def State.walk (s : State) (ttb tenant va : Nat) : State × Except XErr Pte := s.walkFrom tenant va 4 0 ttb

/-- The qualified physical address of a virtual address in its page (R211, R215). -/
def Pte.addr (p : Pte) (va : Nat) : Nat := qualify p.plc p.own (p.pa + va % 2 ^ p.size)

/-- The page covers a virtual address. -/
def Pte.covers (p : Pte) (va : Nat) : Bool := va / 2 ^ p.size == p.page / 2 ^ p.size

/-! ### Permissions (R216, R186) -/

/-- What an access needs of its page. -/
inductive Need where
  | rd | w | watom | ratom | x
  deriving DecidableEq, Repr

/-- PERM holds X, AT, W, RD from bit 3 down. -/
def Need.ok (n : Need) (perm : Nat) : Bool :=
  match n with
  | .rd => perm.testBit 0
  | .w => perm.testBit 1
  | .watom => perm.testBit 1 && perm.testBit 2
  | .ratom => perm.testBit 0 && perm.testBit 2
  | .x => perm.testBit 3

/-- The access needs W, and so sets DTY (R219). -/
def Need.writes (n : Need) : Bool := n == .w || n == .watom

/-- The access is atomic; no atomic reaches host space (R186). -/
def Need.atomic (n : Need) : Bool := n == .watom || n == .ratom

/-- The check of an access against its page after translation (R216, R186, R217). -/
def Pte.check (p : Pte) (n : Need) (va : Nat) : Except XErr Pte :=
  if n.ok p.perm && !(n.atomic && p.plc == 2) then .ok p else .error { code := .perm, lvl := p.lvl, addr := va, walk := false }

/-! ### TLBs (R221) -/

def State.setTlb (s : State) (t : List TlbEnt) : State := { s with m := { s.m with tlb := t } }

/-- The instance of a TLB level that serves a core: its own, its cluster's, its die's. -/
def tlbInst (level core : Nat) : Nat :=
  match level with
  | 0 => core
  | 1 => clusOf core
  | _ => dieOf core

/-- The entry with which a core's translation hits: L1, then cluster, then die. -/
def State.tlbHit (s : State) (core asid va : Nat) : Option TlbEnt :=
  (List.range 3).findSome? fun l =>
    s.m.tlb.find? fun e => e.level == l && e.inst == tlbInst l core && e.asid == asid && e.pte.covers va

/-- Hold a page in the three levels that serve a core. -/
def State.tlbFill (s : State) (core asid : Nat) (p : Pte) : State :=
  s.setTlb ((List.range 3).foldl (fun (t : List TlbEnt) l =>
    if t.any fun e => e.level == l && e.inst == tlbInst l core && e.asid == asid && e.pte == p then t
    else t ++ [{ level := l, inst := tlbInst l core, asid := asid, pte := p }]) s.m.tlb)

/-- DTY is set by an atomic OR at the entry's home, and then the TLB entries are marked dirty (R219, R237). An OR that the home refuses sets nothing and
returns its fault to the access (R235, R421). -/
def State.setDty (s : State) (tenant : Nat) (p : Pte) : State × Option Code :=
  if p.dty then (s, none)
  else match s.engWrite tenant p.entry 8 (s.rdNat p.entry 8 ||| 0x200) true with
    | (s1, some c) => (s1, some c)
    | (s1, none) => (s1.setTlb (s1.m.tlb.map fun e => if e.pte.entry == p.entry then { e with pte := { e.pte with dty := true } } else e), none)

/-- A walk of a die ends (R215, R221): a page completes every miss of the die that it covers, a fault every miss that waits on this walk. -/
def State.endWalk (s : State) (w : Walk) : State × Except XErr Pte :=
  match s.walk w.ttb w.tenant w.va with
  | (s1, .ok p) =>
    let done := fun (v : Walk) => v.die == w.die && v.asid == w.asid && p.covers v.va
    let cores := ((s1.m.walks.filter done).flatMap fun v => v.tids.map coreOf).dedup
    let s2 := { s1 with m := { s1.m with walks := s1.m.walks.filter fun v => !done v } }
    ((if cores.isEmpty then [w.core] else cores).foldl (fun s c => s.tlbFill c w.asid p) s2, .ok p)
  | (s1, .error e) =>
    let s2 := { s1 with m := { s1.m with walks := s1.m.walks.filter fun v => v != w } }
    (s2.setThreads (s2.c.threads.map fun t =>
      if w.tids.contains t.tid then { t with walked := t.walked ++ [(w.va / 65536, e.code, e.lvl, e.addr)] } else t), .error e)

/-- The page of an address for a core (R221): from a TLB, whose inner levels an outer hit fills; by the walk of its page that the die has begun, or by one of
its own, which ends at once. -/
def State.pageOf (s : State) (core : Nat) (r : Region) (va : Nat) : State × Except XErr Pte :=
  match s.tlbHit core r.asid va with
  | some e => (s.tlbFill core r.asid e.pte, .ok e.pte)
  | none =>
    let w : Walk := (s.m.walks.find? fun w => w.die == dieOf core && w.asid == r.asid && w.va / 65536 == va / 65536).getD
      { die := dieOf core, core := core, asid := r.asid, ttb := r.ttb, va := va, tenant := r.tenant, started := true, tids := [] }
    match s.endWalk w with
    | (s1, .ok p) => (s1.tlbFill core r.asid p, .ok p)
    | (s1, .error e) => (s1, .error (if e.walk then e else { e with addr := va }))

/-- The page of an access and its permission, for an engine or a per-warp instruction. -/
def State.xpage (s : State) (core : Nat) (r : Region) (va : Nat) (n : Need) : State × Except XErr Pte :=
  if 2 ^ 57 ≤ va then (s, .error { code := .page, lvl := 0, addr := va % 2 ^ 57, walk := false })
  else match s.pageOf core r va with
    | (s1, .error e) => (s1, .error e)
    | (s1, .ok p) => (s1, p.check n va)

/-- Translate for an access of an engine or of a per-warp instruction: one that needs W first sets DTY (R219). -/
def State.xlate (s : State) (core : Nat) (r : Region) (va : Nat) (n : Need) : State × Except XErr Pte :=
  match s.xpage core r va n with
  | (s1, .error e) => (s1, .error e)
  | (s1, .ok p) =>
    if !n.writes then (s1, .ok p)
    else match s1.setDty r.tenant p with
      | (s2, some c) => (s2, .error { code := c, lvl := p.lvl, addr := va, walk := true })
      | (s2, none) => (s2, .ok p)

/-- Read n bytes at a virtual address inside one sector, for an engine: the data, or the fault and its record fields. What the core's L1 holds of the sector
may be older, and goes (R201). -/
def State.vread (s : State) (core : Nat) (r : Region) (va n : Nat) : State × Except XErr Nat :=
  match s.xlate core r va .rd with
  | (s1, .error e) => (s1, .error e)
  | (s1, .ok p) =>
    match s1.engRead r.tenant (p.addr va) n .dflt p.ef with
    | (s2, .error c) => (s2, .error { code := c, lvl := p.lvl, addr := va, walk := true })
    | (s2, .ok x) => (s2.l1Forget core (p.addr va), .ok x)

/-! ### Acquires (R177, R231) -/

/-- A visitor line holds a byte of a range: some 128-byte line of the range translates to it. The range is followed page by page; a page that does not
translate holds no line of this region (R231). -/
def State.lineInRange (s : State) (core : Nat) (r : Region) (x : Nat) (q : Nat × Nat) : Bool :=
  (List.range ((q.2 - q.1) / 65536 + 2)).any fun i =>
    let a := max q.1 ((q.1 / 65536 + i) * 65536)
    let b := min q.2 ((q.1 / 65536 + i + 1) * 65536)
    decide (a < b) && match (s.pageOf core r a).2 with
      | .ok p => decide (lineOf (p.addr a) ≤ x) && decide (x < p.addr a + (b - a))
      | .error _ => false

/-- What an acquire removes (R177, R231): for a sync word what the given ranges hold, for a fence everything. -/
def State.acquire (s : State) (core : Nat) (r : Region) (sc : Sc) (ranges : Option (List (Nat × Nat))) : State :=
  let s1 :=
    if scNum sc < 3 then s
    else match ranges with
      | none => s.l1Clear core
      | some rs => rs.foldl (fun s q => s.l1ClearRange core r.asid q.1 q.2) s
  if sc != .pod then s1
  else match ranges with
    | none => s1.visitorClear fun _ => true
    | some rs => s1.visitorClear fun x => rs.any fun q => s1.lineInRange core r x q

end Sys2Proof.Machine
end

