-- ==== Sys2Proof/Machine/Ops.lean ====
section
/-! DEFINITION. The operations every family shares: results and their landing (R55 to R60), readiness (R49), stops and trace
records (R433 to R437, R449), faults and the fault domain (R307 to R310), taking an exception and returning from it (R85, R89),
the end of a region (R293), and the issue of a bundle (R37, R42, R51). -/

namespace Sys2Proof

/-- The switch marker of an instruction (R32). -/
def Instr.park (i : Instr) : Bool :=
  match i.shape with
  | .s64 x => x.park
  | .sbr x => x.park
  | .v96 x => x.park
  | .m128 x => x.park
  | .nest x => x.park
  | .loop x => x.park
  | .event => false

/-- All threads leave the bundle after the instruction: the flow group, `loop`, `lbrk`, `bdq` (R51), `call` and `ret` (R104), `bar` and `barc`
(R320, R322). -/
def Instr.endsBundle (i : Instr) : Bool :=
  (decide (0x10 ≤ i.opc) && decide (i.opc ≤ 0x19)) || [0x2, 0x3, 0x25, 0x26, 0x162, 0x170].contains i.opc ||
  match i with | .barc _ => true | _ => false

/-- Bytes of an instruction (R28). -/
def Instr.bytes (i : Instr) : Nat := i.bits / 8

end Sys2Proof

namespace Sys2Proof.Machine
open Sys2Proof

/-! ### Results -/

def State.addPend (s : State) (p : List Pend) : State := s.setPend (s.c.pend ++ p)

/-- Write a register (R92). -/
def State.writeReg (s : State) (d : RegRef) (x : Word) : State :=
  match d with
  | .v tid n => s.modThread tid fun t => { t with v := t.v.set n x }
  | .w wid n => s.modWarp wid fun w => { w with w := w.w.set n x }
  | .p tid n => s.modThread tid fun t =>
      { t with p := if x.getLsbD 0 then t.p ||| BitVec.ofNat 16 (2 ^ n) else t.p &&& ~~~ (BitVec.ofNat 16 (2 ^ n)) }

/-- The places of the results that are written together with result `n`: itself, or its whole set (R119). -/
def State.landsWith (s : State) (n : Nat) (p : Pend) : List Nat :=
  if p.set == 0 then [n]
  else (List.range s.c.pend.length).filter fun k => match s.c.pend[k]? with | some q => q.set == p.set && q.owners == p.owners | none => false

/-- A result lands (R57), with its set. Of several writes outstanding at once the one that lands last stays, and the order is free (R58). -/
def State.landAt (s : State) (n : Nat) : State :=
  match s.c.pend[n]? with
  | some p =>
    let ks := s.landsWith n p
    let ps := ks.filterMap fun k => s.c.pend[k]?
    let s1 := s.setPend (((s.c.pend.zip (List.range s.c.pend.length)).filter fun q => !ks.contains q.2).map (·.1))
    ps.foldl (fun s q => match q.val with | some x => s.writeReg q.dst x | none => s) s1
  | none => s

/-- Land every known result that a thread waits for, in a free order (R58). -/
def State.landKnown (s : State) (tid : Nat) : Nat → State
  | 0 => s
  | k + 1 =>
    let known := (List.range s.c.pend.length).filter fun n =>
      match s.c.pend[n]? with | some p => p.owners.contains tid && p.val.isSome | none => false
    match known[Config.freeChoice s.free tid 3000 % known.length]? with
    | some n => { s.landAt n with free := s.free + 1 }.landKnown tid k
    | none => s

/-- A thread has a result outstanding (R55). -/
def State.owes (s : State) (tid : Nat) : Bool := s.c.pend.any fun p => p.owners.contains tid

/-- The registers that an instruction's result goes to: each executing thread's, or each warp's once for a uniform form (R44):
a representative thread, the register, the threads whose park waits for it. -/
def State.targets (s : State) (tids : List Nat) (d : Opnd) : List (Nat × RegRef × List Nat) :=
  match d with
  | .w n => (tids.map widOf).dedup.filterMap fun wid =>
      let mine := tids.filter fun t => widOf t == wid
      match mine with
      | t :: _ => some (t, .w wid n.toNat, mine)
      | [] => none
  | d => tids.filterMap fun t => (s.dest t d).map fun r => (t, r, [t])

/-- Results on their way: `f` gives the value for a representative thread, none while a load brings it. -/
def State.emit (s : State) (tids : List Nat) (d : Opnd) (op : Nat) (f : Nat → Option Word) (set : Nat := 0) : State :=
  s.addPend ((s.targets tids d).map fun (q : Nat × RegRef × List Nat) =>
    { dst := q.2.1, val := f q.1, owners := q.2.2, pc := s.cur.pc, opd := d.code, op := op, set := set })

/-- A result known at issue. -/
def State.result (s : State) (tids : List Nat) (d : Opnd) (f : Nat → Word) (set : Nat := 0) : State := s.emit tids d 0 (fun t => some (f t)) set

/-! ### Stops (R433 to R437) -/

def unitBlank (n : Nat) : UnitSt :=
  { n := n, due := none, cause := 0, tclk := 0, bc := none, skid := [], cnt := 0, step := none, faulted := false }
def State.unit (s : State) (n : Nat) : UnitSt := (s.b.units.find? fun u => u.n == n).getD (unitBlank n)
def State.setUnit (s : State) (u : UnitSt) : State :=
  { s with b := { s.b with units := insertBy (fun a b => decide (a.n ≤ b.n)) u (s.b.units.filter fun v => v.n != u.n) } }
def State.frozen (s : State) (n : Nat) : Bool := s.fld (rPctl n) 15 15 == 1

/-- A trigger stops unit `n` at the end of this clock (R435): of two in one clock the lower cause counts. -/
def State.stopAt (s : State) (n cause : Nat) : State :=
  let u := s.unit n
  if s.frozen n || (u.due.isSome && decide (u.cause ≤ cause)) then s
  else s.setUnit { u with due := some s.clk, cause := cause, tclk := s.clk }

/-- A broadcast reaches unit `n` at the end of some clock from this one to 24 clocks later (R436); of two pending the first counts. -/
def State.bcastAt (s : State) (n cause : Nat) : State :=
  let u := s.unit n
  let c := s.clk + Config.freezeDelay s.clk n % 25
  match u.bc with
  | some (d, _, _) => if c < d then s.setUnit { u with bc := some (c, cause, s.clk), skid := [] } else s
  | none => s.setUnit { u with bc := some (c, cause, s.clk), skid := [] }

/-- The stop units of a core, and of a physical cluster. -/
def unitsOfCore (c : Nat) : List Nat := (List.range 5).map (5 * c + ·)
def unitsOfCluster (k : Nat) : List Nat := (List.range 80).map (80 * k + ·)

/-- A stop with broadcast from a core (R436): the core's own units in this clock, the others up to 24 clocks later. -/
def State.broadcast (s : State) (core : Nat) : State :=
  (unitsOfCluster (clusOf core)).foldl (fun s n => if n / 5 == core then s.stopAt n 5 else s.bcastAt n 5) s

/-- A trigger at one unit (R435), broadcast when the unit's BCST is set or the trigger asks for it. -/
def State.trigger (s : State) (n cause : Nat) (bcast : Bool) : State :=
  let s1 := s.stopAt n cause
  if bcast || s.fld (rPctl n) 5 5 == 1 then s1.broadcast (n / 5) else s1

/-- Skid (R437): an instruction that a stopping unit issues after the trigger clock counts once for each warp slot of its bundle. A
stop by the unit's own trigger freezes it at the end of that clock, and has none. -/
def State.skidCount (s : State) (n : Nat) (tids : List Nat) : State :=
  let u := s.unit n
  match u.bc with
  | some (_, _, tclk) =>
    if tclk < s.clk then
      s.setUnit { u with skid := (List.range 16).map fun k => min 255 (u.skid.getD k 0 + bit (tids.any fun t => slotOf t == k)) }
    else s
  | none => s

/-! ### Trace records (R449 to R451) -/

def traceCap : Nat := 4096
def State.traceBuf (s : State) (k : Nat) : TraceBuf :=
  (s.b.traces.find? fun t => t.k == k).getD { k := k, recs := [], lost := 0, drain := none }
def State.setTraceBuf (s : State) (t : TraceBuf) : State :=
  { s with b := { s.b with traces := insertBy (fun a b => decide (a.k ≤ b.k)) t (s.b.traces.filter fun v => v.k != t.k) } }

/-- A record: the header of R449 below the body's bits [511:64]. -/
def State.traceWord (s : State) (n slot ty body : Nat) : Nat :=
  ty + (if ty == 4 || ty == 5 then 0 else slot) * 2 ^ 16 + n % 5 * 2 ^ 21 + n / 5 * 2 ^ 24 + s.clk % 2 ^ 32 * 2 ^ 32 + body * 2 ^ 64

/-- Unit `n` makes a record when its TEN and its buffer's EN are set; a full buffer counts it as lost (R449 to R451). -/
def State.trace (s : State) (n slot ty body : Nat) : State :=
  let k := clusOf (n / 5)
  if s.fld (rPctl n) 8 8 == 1 && s.fld (rTrb k) 0 0 == 1 then
    let b := s.traceBuf k
    let new := if b.lost == 0 then [s.traceWord n slot ty body]
      else [s.traceWord n 0 5 (b.lost * 2 ^ 32), s.traceWord n slot ty body]
    if b.recs.length + new.length ≤ traceCap then s.setTraceBuf { b with recs := b.recs ++ new, lost := 0 }
    else s.setTraceBuf { b with lost := b.lost + 1 }
  else s

/-- The stop that has reached a unit at the end of this clock: cause, trigger clock, skid by warp slot. -/
def State.stopReached (s : State) (n : Nat) : Option (Nat × Nat × List Nat) :=
  let u := s.unit n
  let bc := match u.bc with
    | some (c, cause, tclk) => if c ≤ s.clk then some (cause, tclk, u.skid) else none
    | none => none
  match u.due, bc with
  | some _, some b => if u.cause ≤ b.1 then some (u.cause, u.tclk, []) else some b
  | some _, none => some (u.cause, u.tclk, [])
  | none, b => b

/-- The unit freezes at the end of its clock (R433, R434, R437): the stop is reported, vector 3 raised, a record made. A broadcast that
reaches a frozen unit is over. -/
def State.freeze (s : State) (n : Nat) : State :=
  match s.stopReached n with
  | none => s
  | some (cause, tclk, sk) =>
    let u := s.unit n
    let s0 := s.setUnit { u with due := none, bc := u.bc.filter fun b => decide (s.clk < b.1) }
    if s.frozen n then s0
    else
      let skid := (List.range 16).foldl (fun a k => a + sk.getD k 0 * 2 ^ (8 * k)) 0
      let s1 := ((s0.setFld (rPctl n) 15 15 1).setFld (rPctl n) 23 20 cause).setFld (rPctl n) 63 32 tclk
      let s2 := (s1.setReg (rSkid n) (BitVec.ofNat 64 skid)).setReg (rSkid n + 8) (BitVec.ofNat 64 (skid / 2 ^ 64))
      (s2.msi 3).trace n 0 4 (cause + tclk % 2 ^ 32 * 2 ^ 32 + skid * 2 ^ 64)

/-! ### Readiness (R49, R72) -/

/-- A pre-emption request is pending for the thread's workgroup (R83). -/
def State.preempting (s : State) (tid : Nat) : Bool :=
  match s.wgOf tid with
  | some g => g.preempt
  | none => false

/-- Every spill of the thread is written, but for those that faulted and wait (R106). -/
def Thread.spilled (t : Thread) : Bool := t.spills.all fun x => x.st == .held
/-- A spill that faulted is retried (R106). -/
def Spill.retry (x : Spill) : Spill := if x.st == .held then { x with st := .due } else x

/-- A wait that ends when the state says so; the others are ended by the event that releases them. -/
def State.waitOver (s : State) (t : Thread) : Bool :=
  match t.wait with
  | .none => true
  | .pause c => decide (c ≤ s.clk)
  | .drain => !(s.m.ops.any fun o => o.tid == t.tid) && t.spilled
  | .exitDrain => !s.owes t.tid && !(s.m.ops.any fun o => o.tid == t.tid) && t.spilled
  | .walk => !(s.m.walks.any fun w => w.tids.contains t.tid)
  | .results => !s.owes t.tid
  | .ids l => !(s.m.ops.any fun o => l.contains o.id)
  | .batch n => !(s.c.xfers.any fun x => x.tids.contains (t.tid, some n))
  | .batches => !(s.c.xfers.any fun x => x.tids.any fun q => q.1 == t.tid)
  | .spill => t.spilled
  | .nest => !(s.c.nests.any fun n => n.tids.contains t.tid)
  | .engine n => !(s.c.jobs.any fun j => j.id == n)
  | _ => false

/-- The place of the oldest fault that the fault domain may take now (R86): one raised before a handler entry waits for the handler's end. -/
def Thread.dueIdx (t : Thread) : Option Nat := if t.hostPark then none else t.faults.findIdx? fun f => f.hm || !t.hm
/-- That fault. -/
def Thread.dueFault (t : Thread) : Option FaultInfo := t.dueIdx.bind fun k => t.faults[k]?
/-- The thread without it. -/
def Thread.dropDue (t : Thread) : Thread := match t.dueIdx with | some k => { t with faults := t.faults.eraseIdx k } | none => t

/-- The 32-byte block of the next instruction has been fetched, or its fetch has failed (R31). -/
def Thread.fetched (t : Thread) : Bool :=
  match t.fetch with
  | .none => false
  | .ok a _ => a == t.pc / 32 * 32
  | .bad pc _ => pc == t.pc

/-- Ready but for a freeze and for the fetch (R49, R433); a spill that is retried comes first (R106). -/
def State.runnable (s : State) (t : Thread) : Bool :=
  !t.gone && !t.hostPark && !(t.spills.any fun x => x.st == .due) && t.dueFault.isNone && s.waitOver t && !(t.park && s.owes t.tid)

/-- Stoppable-ready (R433). -/
def State.stoppable (s : State) (t : Thread) : Bool := s.runnable t && t.fetched

def State.ready (s : State) (t : Thread) : Bool := s.stoppable t && !s.frozen (unitOf t.tid)

/-! ### Expansions (R385 to R388, R399) -/

/-- Global lanes of an expansion. -/
def Expand.width (x : Expand) : Nat := 32 * 2 ^ x.nc
/-- PFX of a global lane and TOTAL (R387). -/
def Expand.pfx (x : Expand) (g : Nat) : Nat := ((x.lanes.take g).map (·.len.toNat)).sum
def Expand.total (x : Expand) : Nat := (x.lanes.map (·.len.toNat)).sum
/-- The owner of an iteration, and its offset (R387). -/
def Expand.owner (x : Expand) (f : Nat) : Option (Nat × Nat) :=
  ((List.range x.lanes.length).find? fun o => decide (x.pfx o ≤ f) && decide (f < x.pfx o + ((x.lanes[o]?).elim 0 (·.len.toNat)))).map fun o =>
    (o, (((x.lanes[o]?).elim 0 (·.start.toNat)) + f - x.pfx o) % 2 ^ 64)

/-- The partition rank of a thread's warp (R385). -/
def State.partRank (s : State) (tid : Nat) : Nat := match s.warp? (widOf tid) with | some w => w.idx / 4 | none => 0
/-- The expansion of a thread's workgroup in its partition. -/
def State.expandOf (s : State) (tid : Nat) : Option Expand := (s.wgOf tid).bind fun g => g.xp.find? fun x => x.part == partOf tid
/-- The global lane of a participating thread. -/
def State.globalLane (s : State) (x : Expand) (tid : Nat) : Option Nat :=
  let r := s.partRank tid
  if x.base ≤ r ∧ r < x.base + 2 ^ x.nc then some (32 * (r - x.base) + laneOf tid) else none

/-- The iteration that a thread is on (R399). -/
def State.iteration (s : State) (tid : Nat) : Option XFault :=
  match s.expandOf tid with
  | none => none
  | some x =>
    match (s.globalLane x tid).bind fun g => (x.lanes[g]?).map fun l => (g, l) with
    | none => none
    | some (g, l) =>
      if x.dealing && l.taken && !l.sub && !l.done then
        let f := x.fold * x.width + g
        (x.owner f).map fun q => { xoff := q.2, xf := f, xel := laneOf tid, xol := q.1 % 32 }
      else none

/-! ### Fault records (R307) -/

/-- The number of a fault code (R308). -/
def Code.num : Code → Nat
  | .illegal => 1 | .fetch => 2 | .misalign => 3 | .page => 4 | .perm => 5 | .regrange => 6 | .rejoin => 7 | .yieldovr => 8
  | .bartimeout => 9 | .poison => 10 | .tenant => 11 | .dqempty => 12 | .matrix => 13 | .expand => 14 | .stackovf => 15
  | .trap => 16 | .brk => 17 | .fabric => 18

/-- The thread's place, as a record names it: workgroup index, core, partition, slot, lane. -/
def State.wgi (s : State) (tid : Nat) : Nat :=
  match s.wgOf tid with
  | some g => g.idx
  | none => 0xFFFFFFFF

/-- The bits of a fault record (R307). -/
def recordBits (region wgi tid : Nat) (nest : Bool) (f : FaultInfo) : Nat :=
  let x := f.exp.getD ⟨0, 0, 0, 0⟩
  f.code.num + f.kind * 2 ^ 12 + f.lvl % 4 * 2 ^ 16 + bit f.deferred * 2 ^ 18 + bit nest * 2 ^ 19 + bit f.lost * 2 ^ 20 +
  bit f.exp.isSome * 2 ^ 21 + bit f.kill * 2 ^ 22 + region % 2 ^ 32 * 2 ^ 32 + f.pc % 2 ^ 57 * 2 ^ 64 +
  (if f.lost then 0 else f.addr % 2 ^ 57) * 2 ^ 128 + laneOf tid * 2 ^ 185 + slotOf tid * 2 ^ 190 + partOf tid * 2 ^ 195 +
  coreOf tid * 2 ^ 198 + wgi % 2 ^ 32 * 2 ^ 224 + x.xol % 32 * 2 ^ 278 + x.xel % 32 * 2 ^ 283 + x.xf % 2 ^ 32 * 2 ^ 288 +
  x.xoff % 2 ^ 64 * 2 ^ 320 + f.clk % 2 ^ 64 * 2 ^ 384 + f.aux % 2 ^ 64 * 2 ^ 448

/-- Write a fault record into the region's ring; FWR grows by 1, in the region and in its RCB (R287, R307). -/
def State.faultRecord (s : State) (r : Region) (wgi tid : Nat) (nest : Bool) (f : FaultInfo) : State :=
  let fwr := (r.fwr + 1) % 2 ^ 32
  ((s.devWrite (r.flta + 4096 + 64 * (r.fwr % r.fltn)) 64 (recordBits r.num wgi tid nest f)).devWrite (r.rcb + 108) 4 fwr).modRegion
    r.num fun r => { r with fwr := fwr }

/-! ### The end of a region (R292, R293) -/

/-- Write the STATE and LERR bytes of a region control block (R287). -/
def State.rcbState (s : State) (rcb st lerr : Nat) : State := (s.devWrite (rcb + 148) 1 st).devWrite (rcb + 149) 1 lerr

/-- Free the retention registers that name a region (R245, R293). -/
def State.freeRet (s : State) (n : Nat) : State :=
  (List.range 8).foldl (fun s i =>
    if s.fld (rHomeRet i) 0 0 == 1 && s.fld (rHomeRet i + 24) 31 0 == n then
      [0, 8, 16, 24].foldl (fun s o => s.setReg (rHomeRet i + o) 0) s
    else s) s

/-- Steps 1 to 4 of R293 for a region whose threads are gone, with the state and the launch error to report. A fault of the
counter's add is a record of the region, access kind atomic. -/
def State.finishRegion (s : State) (r : Region) (st : Nat) : State :=
  let s1 := ((s.freeRet r.num).modRegion r.num fun r => { r with binds := [], state := st }).rcbState r.rcb st r.lerr
  let s2 :=
    if r.cca == 0 then s1
    else
      let bad := fun (s : State) (c : Code) (lvl addr : Nat) =>
        s.faultRecord r 0xFFFFFFFF 0 false { code := c, pc := 0, resume := 0, kind := 2, lvl := lvl, addr := addr, clk := s.clk }
      if r.cca % 8 != 0 then bad s1 .misalign 0 r.cca
      else match s1.xlate 0 r r.cca .watom with
        | (u, .error e) => bad u e.code e.lvl e.addr
        | (u, .ok p) =>
          match u.engWrite r.tenant (p.addr r.cca) 8 (u.rdNat (p.addr r.cca) 8 + 2 ^ 64 - 1) true with
          | (w, some c) => bad w c p.lvl r.cca
          | (w, none) => w
  let s3 := if r.msiv == 0xFFFF then s2 else s2.msi r.msiv
  { s3 with l := { s3.l with regions := s3.l.regions.filter fun q => q.num != r.num } }

/-- Remove everything of a region from the cores and from the launch engine, without a save (R310). Requests that have left the
core stand; results still outstanding are discarded. -/
def State.purge (s : State) (n : Nat) : State :=
  let mine := fun (tid : Nat) => (s.thread tid).region == n
  let wg := fun (k : Nat) => match s.wg? k with | some g => g.region == n | none => false
  let keepDst := fun (d : RegRef) => match d with
    | .v t _ | .p t _ => !mine t
    | .w w _ => match s.warp? w with | some w => w.region != n | none => true
  { s with
    c := { s.c with
      threads := s.c.threads.filter fun t => t.region != n
      warps := s.c.warps.filter fun w => w.region != n
      wgs := s.c.wgs.filter fun g => g.region != n
      clusters := s.c.clusters.filter fun c => c.region != n
      pend := s.c.pend.filter fun p => keepDst p.dst
      nests := s.c.nests.filter fun x => match s.warp? x.wid with | some w => w.region != n | none => false
      xfers := s.c.xfers.filter fun x => !wg x.wg
      subtasks := s.c.subtasks.filter fun x => !wg x.wg
      jobs := s.c.jobs.filter fun j => j.region != n
      rows := s.c.rows.filter fun j => !(j.lanes.any fun l => mine l.tid)
      scrQ := s.c.scrQ.filter fun x => !mine x.tid }
    l := { s.l with waiting := s.l.waiting.filter fun w => w.region != n }
    m := { s.m with
      ops := s.m.ops.filter fun o => !mine o.tid
      walks := (s.m.walks.map fun w => { w with tids := w.tids.filter fun t => !mine t }) } }

/-- A region that completes or is stopped: its remains go, and R293 is performed. -/
def State.endRegion (s : State) (n st : Nat) : State :=
  match s.region? n with
  | some r => (s.purge n).finishRegion r st
  | none => s

/-- A region is another or one of its ancestors (R288). -/
def Region.under (r : Region) (n : Nat) : Bool := r.num == n || r.lineage.contains n

/-- The live descendants of a region, itself included (R288, R310). -/
def State.subtree (s : State) (n : Nat) : List Nat := n :: ((s.l.regions.filter fun r => r.lineage.contains n).map (·.num))

/-- End the regions of a list, each after its descendants, the lowest number first among those ready to end (R310). -/
def State.endAll (s : State) : Nat → List Nat → State
  | 0, _ => s
  | k + 1, ns =>
    match ns.find? fun n => !(s.l.regions.any fun r => r.lineage.contains n && ns.contains r.num) with
    | some n => (s.endRegion n 4).endAll k (ns.filter (· != n))
    | none => s

/-- Terminate a region, or its whole subtree (R310): every thread stops at once, then each region ends. -/
def State.terminate (s : State) (n : Nat) (sub : Bool) : State :=
  let ns := if sub then sortBy (fun a b => decide (a ≤ b)) (s.subtree n) else [n]
  (ns.foldl (fun s n => s.purge n) s).endAll ns.length ns

/-! ### Taking an exception -/

/-- Entry into the region's handler (R85), for one thread alone. -/
def enterHandler (r : Region) (f : FaultInfo) (t : Thread) : Thread :=
  { t.dropDue with
    tpc := BitVec.ofNat 64 (f.resume % 2 ^ 57)
    tcause := BitVec.ofNat 64 (f.code.num + (if f.code == .trap || f.code == .brk then f.aux % 2 ^ 16 else 0) * 256)
    hm := true
    ycnt := 0
    ybud := r.y
    pc := r.hnd
    wait := .none
    park := false
    replay := false
    stage := 0
    snap := []
    walked := [] }

/-- The return from the handler (R89): none when HM = 0, or the fault of an address that cannot be fetched. -/
def leaveHandler (t : Thread) : Except Code Thread :=
  if !t.hm then .error .illegal
  else if slice t.tpc.toNat 63 57 != 0 || t.tpc.toNat % 4 != 0 then .error .fetch
  else .ok { t with hm := false, pc := slice t.tpc.toNat 56 0 }

/-- Park and report (R310): the thread keeps its fault; STATE becomes 6, and vector 2 is raised when it was not. -/
def State.parkForHost (s : State) (r : Region) (tid : Nat) : State :=
  let s1 := s.modThread tid fun t =>
    { t.dropDue with hostPark := true, bundle := none, age := none, faults := t.dueFault.toList ++ t.dropDue.faults }
  if r.state == 6 then s1
  else ((s1.modRegion r.num fun r => { r with state := 6 }).devWrite (r.rcb + 148) 1 6).msi 2

/-- The fault domain takes a thread's oldest fault (R307, R310, R86). -/
def State.faultDomain (s : State) (tid : Nat) (f : FaultInfo) : State :=
  match s.regionOf tid with
  | none => s.modThread tid Thread.dropDue
  | some r =>
    let s1 := s.faultRecord r (s.wgi tid) tid f.hm f
    if f.hm then s1.terminate r.num false
    else match r.pol with
      | 0 => s1.terminate r.num false
      | 1 => s1.terminate r.num true
      | 2 => s1.parkForHost r tid
      | _ => s1.modThread tid (enterHandler r f)

/-- SOF holds a fault of a stopping or stopped unit until the thaw (R435); a fault raised by a step is not held (R444). -/
def State.faultHeld (s : State) (tid : Nat) : Bool :=
  let n := unitOf tid
  s.fld (rPctl n) 7 7 == 1 && (s.frozen n || (s.unit n).due.isSome || (s.unit n).bc.isSome) && (s.unit n).step.isNone

/-- Hand a thread's fault to the fault domain once every outstanding result has been written (R60). -/
def State.settle (s : State) (tid : Nat) : State :=
  match (s.thread tid).dueFault with
  | none => s
  | some f =>
    let s1 := s.landKnown tid s.c.pend.length
    if s1.owes tid || s1.faultHeld tid then s1 else s1.faultDomain tid f

/-- Hand over the faults that wait in the threads below a thread number, in ascending order (R309). -/
def State.settleBelow (s : State) (tid : Nat) : State :=
  (sortBy (fun a b => decide (a ≤ b)) ((s.c.threads.filter fun t => decide (t.tid < tid) && t.dueFault.isSome).map (·.tid))).foldl State.settle s

/-- A push that waits on a full queue has not taken place when a fault ends its wait: the `dqpush` executes again (R281). -/
def State.dropPush (s : State) (tid : Nat) : State :=
  match s.wgOf tid with
  | some g => s.modWg g.key fun g => { g with dq := { g.dq with pend := none } }
  | none => s

/-- A thread raises a fault: the unit stops with SOF (R435), and the fault goes to the fault domain. Of several in one clock only the first counts
(R309). A deferred fault waits for its turn among the faults of its clock: it is handed over before the next one of a higher thread, or at the end of the
clock (R309, log entry 96). -/
def State.raise (s : State) (tid : Nat) (f : FaultInfo) : State :=
  let t := s.thread tid
  if t.gone || t.faults.any (fun g => g.clk == s.clk) then s
  else
    let s0 := if t.wait == .dqFull then s.dropPush tid else s
    let s1 := s0.modThread tid fun t =>
      { t with faults := t.faults ++ [{ f with hm := t.hm, exp := s.iteration tid, clk := s.clk }], bundle := none, age := none, fetch := .none }
    let n := unitOf tid
    let s2 := if s1.fld (rPctl n) 7 7 == 1 && (s1.unit n).step.isNone then s1.trigger n 6 false else s1
    let u := s2.unit n
    let s3 := match u.step with
      | some ts => if ts.contains tid then s2.setUnit { u with faulted := true } else s2
      | none => s2
    if f.deferred then s3 else (s3.settleBelow tid).settle tid

/-- A fault code as a precise fault of the instruction at the thread's program counter; the pc fields are filled at the raise. -/
def flt (c : Code) : FaultInfo := { code := c, pc := 0, resume := 0 }
def fltAt (c : Code) (kind lvl addr : Nat) : FaultInfo := { code := c, pc := 0, resume := 0, kind := kind, lvl := lvl, addr := addr }
/-- A failed translation as a fault of an access of some kind (R215, R217). -/
def XErr.flt (e : XErr) (kind : Nat) : FaultInfo :=
  { code := e.code, pc := 0, resume := 0, kind := kind, lvl := e.lvl, addr := e.addr, deferred := e.walk }

/-! ### The issue of a bundle -/

/-- What an instruction does to the control of one thread. -/
inductive Ctl where
  /-- The next instruction. -/
  | next
  /-- Another program counter. -/
  | jump (a : Nat)
  /-- Wait, and then execute the same instruction again. -/
  | hold (w : Wait)
  /-- Go on to the next instruction and wait there. -/
  | wait (w : Wait)
  /-- A precise fault. -/
  | fault (f : FaultInfo)
  /-- The meaning has set the thread's control itself. -/
  | stay
  deriving DecidableEq, Repr

/-- An instruction's effect on the threads for which it executes; a thread that the list does not name goes on. -/
abbrev Body := State → List Nat → State × List (Nat × Ctl)

/-- Position in its loop's body of the instruction at pc, while the loop is active (R66, R68). -/
def Thread.bodyPos (t : Thread) : Option Nat :=
  if t.loop.act && decide (t.loop.ladr + 32 ≤ t.pc) then
    match t.loop.offs.findIdx? (· == t.pc - (t.loop.ladr + 32)) with
    | some k => if k ≤ t.loop.word.nb.toNat then some k else none
    | none => none
  else none

/-- The end address of the thread's loop (R66). -/
def LoopSt.endAddr (l : LoopSt) : Nat := l.ladr + 32 + l.offs.getLastD 0

/-- The wait of a thread and what it keeps for the re-execution of its instruction are over. -/
def Thread.woken (t : Thread) : Thread := { t with wait := .none, replay := false, stage := 0, snap := [], walked := [] }

/-- The program counter goes on past an instruction of `n` bytes, through the end of a loop pass (R66). -/
def Thread.advance (t : Thread) (n : Nat) : Thread :=
  if t.bodyPos == some t.loop.word.nb.toNat then
    let pass := t.loop.pass + 1
    if pass == t.loop.trip then { t with loop := { t.loop with act := false, pass := pass }, pc := t.loop.endAddr }
    else { t with loop := { t.loop with pass := pass }, pc := t.loop.ladr + 32 }
  else { t with pc := t.pc + n }

/-- `k` numbers at or beyond the declared count (R39); else the first field, in the order D, A, B, C, E, I16, whose number is out of range (R95): a `v`
number at or above the limit, a `w` number at or above the allocation (a context has 64, R271), or a number of `outs`, which a loop has stepped out of
its range (R67). -/
def State.rangeBad (s : State) (i : Instr) (outs : List (Nat × Int)) (tid : Nat) : Option FaultInfo :=
  let kc := match s.regionOf tid with | some r => r.kc | none => 0
  let wMax := if isCtx tid then 64 else s.wCount tid
  let bad := (i.regNums.filterMap fun q =>
    if decide ((if q.2.1 then (if isCtx tid then 256 else (s.thread tid).limit) else wMax) ≤ q.2.2) then some (q.1, (q.2.2 : Int)) else none) ++ outs
  if i.kNums.any fun n => decide (kc ≤ n) then some (flt .rejoin)
  else (sortBy (fun a b => decide (a.1 ≤ b.1)) bad).head?.map fun q => { flt .regrange with aux := (BitVec.ofInt 64 q.2).toNat }

/-- The register-number faults of an instruction as it is encoded. -/
def State.rangeFault (s : State) (i : Instr) (tid : Nat) : Option FaultInfo := s.rangeBad i [] tid

/-- The instruction counts toward the yield deadline of each thread that issues it for the first time (R82), and toward the
skid of a stopping unit. -/
def State.countIssue (s : State) (i : Instr) (tids : List Nat) : State :=
  let s1 := s.skidCount s.cur.unit tids
  s1.setThreads (s1.c.threads.map fun t =>
    if tids.contains t.tid then
      { t with
        ycnt := if t.replay || (i.opc == 0x16 && s.guards t.tid i) then t.ycnt else t.ycnt + 1
        wait := .none, park := false, losses := 0, issuedAt := if t.replay then t.issuedAt else s.clk }
    else t)

/-- The event that ends the wait completes the instruction, so that its switch marker takes effect while it waits (R55). -/
def Wait.completes : Wait → Bool
  | .refill | .dqFull | .tjoin _ _ => true
  | _ => false

/-- The registers that an instruction names, with the values that the thread reads in them (R56). -/
def State.snapOf (s : State) (i : Instr) (tid : Nat) : List (RegRef × Word) :=
  let p := fun (n : Nat) => (RegRef.p tid n, (if s.readP tid n then 1 else 0 : Word))
  (i.regNums.map fun q => if q.2.1 then (RegRef.v tid ((s.thread tid).phys q.2.2), s.readV tid q.2.2) else (.w (widOf tid) q.2.2, s.readW tid q.2.2)) ++
  (i.operands.filterMap fun q => match q.1 with | .p n => some (p n.toNat) | _ => none) ++ (i.guardNums.map p)

/-- The next body instruction of a loop is the one that stood there at the loop's check, or is fetched again (R68, R69): a free choice for each
instruction and pass (log entry 97). -/
def State.bodyFetch (s : State) (t : Thread) : Thread :=
  if t.bodyPos.isNone then t
  else if Config.freeChoice s.free t.pc (100000 + t.loop.pass) % 2 == 1 then { t with fetch := .none }
  else match t.loop.blocks.find? fun b => b.1 == t.pc / 32 * 32 with
    | some b => { t with fetch := .ok b.1 b.2 }
    | none => { t with fetch := .none }

/-- Control of one thread after the instruction that issued in state `s0`. It takes a new age for its next instruction (R49, R54, log entry 98). -/
def State.finish (i : Instr) (s s0 : State) (tid : Nat) (c : Ctl) : State :=
  let leave := fun (t : Thread) (go : Bool) =>
    { t with
      park := i.park, replay := false, stage := 0, snap := [], walked := [], age := none
      bundle := if go || i.park || i.endsBundle then none else t.bundle }
  match c with
  | .next => s.modThread tid fun t => s.bodyFetch ((leave t false).advance i.bytes)
  | .jump a => s.modThread tid fun t => s.bodyFetch { leave t true with pc := a }
  | .wait w => s.modThread tid fun t => { s.bodyFetch ((leave t true).advance i.bytes) with wait := w }
  | .hold w =>
    let kept := s0.snapOf i tid
    s.modThread tid fun t => { t with wait := w, replay := true, park := i.park && w.completes, snap := kept, bundle := none, age := none }
  | .stay => s
  | .fault f =>
    let t := s.thread tid
    let nextPc := (t.advance i.bytes).pc
    let s1 := s.modThread tid fun t => { leave t true with park := false }
    let again := f.code != .trap && f.code != .brk && !f.deferred
    let s2 := if again then s1 else s1.modThread tid fun t => t.advance i.bytes
    s2.raise tid { f with pc := t.pc, resume := if again then t.pc else nextPc }

/-- The threads that stay in a bundle share their next program counter and pass (R51): those that differ from the first one leave it. -/
def State.splitBundle (s : State) (tids : List Nat) : State :=
  match (tids.map s.thread).filter fun t => t.bundle.isSome with
  | [] => s
  | a :: _ => s.setThreads (s.c.threads.map fun t =>
      if tids.contains t.tid && !(t.pc == a.pc && t.loop.act == a.loop.act && (!a.loop.act || t.loop.pass == a.loop.pass)) then { t with bundle := none } else t)

/-- Raise one fault for every thread of the bundle, whatever the guards (R42). -/
def State.raiseAll (s : State) (tids : List Nat) (f : FaultInfo) : State :=
  tids.foldl (fun s tid => s.raise tid { f with pc := (s.thread tid).pc, resume := (s.thread tid).pc }) s

/-- Execute an instruction for the bundle (R37, R39, R42, R95): ILLEGAL for all, then per thread the guard, REJOIN and REGRANGE,
then the body for the threads left, then the control of every thread in ascending order (R309). `outs` are the numbers that a loop has stepped out of their
range (R67). -/
def State.runStepped (s : State) (i : Instr) (outs : List (Nat × Int)) (body : Body) : State :=
  let tids := s.cur.tids
  if !i.wfIn (s.cur.unit % 5 == 4) then s.raiseAll tids (flt .illegal)
  else
    let on := tids.filter fun t => s.guards t i
    let bad := on.filterMap fun t => (s.rangeBad i outs t).map fun f => (t, Ctl.fault f)
    let ok := on.filter fun t => (s.rangeBad i outs t).isNone
    let s1 := s.countIssue i tids
    let (s2, cs) := body s1 ok
    (tids.foldl (fun (s : State) t => s.finish i s1 t (((cs ++ bad).find? fun (c : Nat × Ctl) => c.1 == t).elim .next (·.2))) { s2 with free := s2.free + 1 }).splitBundle tids

/-- Execute an instruction as it is encoded. -/
def State.runBundle (s : State) (i : Instr) (body : Body) : State := s.runStepped i [] body

/-- The outcome of a meaning: a next state. -/
def State.run (s : State) (i : Instr) (body : Body) : Host.Outcome State Fault Refusal := .next (s.runBundle i body)

/-- A body that computes one result for each target of an operand, from the registers as they stood at issue (R56). -/
def resultBody (d : Opnd) (f : State → Nat → Word) : Body := fun s tids => (s.result tids d (f s), [])

/-- The leader of each warp that has an executing thread, in ascending order, with the warp's executing threads. -/
def warpsOf (tids : List Nat) : List (Nat × List Nat) :=
  ((tids.map widOf).dedup).map fun w => (w, tids.filter fun t => widOf t == w)

end Sys2Proof.Machine
end

