-- ==== Sys2Proof/Machine/Domestique.lean ====
section
/-! DEFINITION. The decision queue (R276 to R284): pushes, pops, retirement. -/

namespace Sys2Proof.Machine
open Sys2Proof

/-- Entries that a queue holds. -/
def DQueue.cnt (q : DQueue) : Nat := q.ents.length
/-- A push must wait: the queue is full, counting the entries that have retired in this clock (R278, R281). -/
def State.dqFull (s : State) (q : DQueue) : Bool := decide (64 ≤ q.cnt + if q.retClk == s.clk then q.retN else 0)

/-- The thread belongs to one of the workgroup's warps. -/
def Wg.warpThread (g : Wg) (tid : Nat) : Bool := g.warps.contains (widOf tid)

/-- The workgroup's context is a thread of the workgroup that is not in its warps. -/
def State.isContextOf (s : State) (key tid : Nat) : Bool :=
  isCtx tid && match s.wgOf tid with | some g => g.key == key | none => false

/-- How many entries retire (R277): the least cursor of the live threads of the workgroup's warps. -/
def State.retires (s : State) (g : Wg) : Nat :=
  (s.c.threads.filter fun t => g.warpThread t.tid && !t.gone).foldl (fun n t => min n t.cur) g.dq.cnt

/-- Retirement (R277); with no entry left, `dqsync` returns (R283). -/
def State.retire (s : State) (key : Nat) : State :=
  match s.wg? key with
  | none => s
  | some g =>
    let n := s.retires g
    let s1 := if n == 0 then s else
      (s.modWg key fun g => { g with dq := { g.dq with
        ents := g.dq.ents.drop n, retClk := s.clk, retN := n + if g.dq.retClk == s.clk then g.dq.retN else 0 } }).setThreads
        (s.c.threads.map fun t => if g.warpThread t.tid then { t with cur := t.cur - n } else t)
    if n == g.dq.cnt then
      s1.setThreads (s1.c.threads.map fun t => if t.wait == .dqSync && s1.isContextOf key t.tid then { t with wait := .none } else t)
    else s1

/-- One pop that receives an entry (R282): the cursor moves; the entry is given back. -/
def State.popOne (s : State) (g : Wg) (tid : Nat) : Option (Word × State) :=
  match g.dq.ents[(s.thread tid).cur]? with
  | some x => some (x, s.modThread tid fun t => { t with cur := t.cur + 1 })
  | none => none

/-- Of the threads of one warp that pop together, only the highest lane's value lands in a `w` register (R282). -/
def popLands (ts : List Nat) (d : Opnd) (t : Nat) : Bool :=
  match d with
  | .w _ => !(ts.any fun u => widOf u == widOf t && decide (t < u))
  | _ => true

/-- The destination of a pop that waits beside the threads `got` of its bundle that have their entry: a `w` register that a higher lane has written
takes nothing more, and p15 stands for that (R92, R282). -/
def popLater (got : List Nat) (d : Opnd) (t : Nat) : Opnd := if popLands got d t then d else .p 15

/-- The threads of a list that issued their waiting pop in one bundle with a thread (R282): one program counter, one clock of issue, one unit. -/
def State.popMates (s : State) (ts : List Nat) (t : Nat) : List Nat :=
  ts.filter fun u => (s.thread u).pc == (s.thread t).pc && (s.thread u).issuedAt == (s.thread t).issuedAt && unitOf u == unitOf t

/-- The result of a pop: a register value on its way, known. -/
def State.popResult (s : State) (ts : List Nat) (d : Opnd) (t : Nat) (x : Word) : State :=
  if !popLands ts d t then s
  else match s.dest t d with
    | some r => s.addPend [{ dst := r, val := some x, owners := match d with | .w _ => ts.filter fun u => widOf u == widOf t | _ => [t],
                             pc := (s.thread t).pc, opd := d.code }]
    | none => s

/-- Pops that wait, of the threads of a workgroup, complete (R282): those whose cursor has an entry. -/
def State.wakePops (s : State) (key : Nat) : State :=
  match s.wg? key with
  | none => s
  | some g =>
    let ts := ((s.c.threads.filter fun t => g.warpThread t.tid && decide (t.cur < g.dq.cnt) && match t.wait with | .dqEmpty _ _ _ => true | _ => false).map
      (·.tid))
    let s0 := s
    (sortBy (fun a b => decide (a ≤ b)) ts).foldl (fun s t =>
      match s.popOne g t, (s.thread t).wait with
      | some (x, s1), .dqEmpty d off park =>
        let s2 := match off with | none => s1.popResult (s0.popMates ts t) d t x | some _ => s1
        s2.modThread t fun th =>
          let u := { th.woken with park := park }
          match off with
          | some o => s.bodyFetch (if x != 0 then { u with pc := (BitVec.ofInt 64 (th.pc + 4 * o.toInt)).toNat } else u.advance 8)
          | none => s.bodyFetch (u.advance 8)
      | _, _ => s) s

/-- A push of one entry (R281), with the pops that it completes (R282) and the retirements that follow (R278). -/
def State.push (s : State) (key : Nat) (x : Word) : State :=
  (((s.modWg key fun g => { g with dq := { g.dq with ents := g.dq.ents ++ [x], pushn := (g.dq.pushn + 1) % 2 ^ 32, pend := none } }).wakePops
    key)).retire key

/-- R281. The push is a release: the context's earlier accesses are performed first (R279). -/
def execDqpush (x : S64A) (s : State) : Host.Outcome State Fault Refusal :=
  s.run (.dqpush x) fun s ts =>
    ts.foldl (fun (acc : State × List (Nat × Ctl)) t =>
      let s := acc.1
      match s.wgOf t with
      | none => acc
      | some g =>
        if (s.m.ops.any fun o => o.tid == t) || !(s.thread t).spilled then (s, acc.2 ++ [(t, .hold .drain)])
        else if s.dqFull g.dq then
          (s.modWg g.key fun g => { g with dq := { g.dq with pend := some (s.opnd t x.a) } }, acc.2 ++ [(t, .hold .dqFull)])
        else (s.push g.key (s.opnd t x.a), acc.2)) (s, [])

/-- DEFERRED_PUSH (R278, R281): the push that waits on a full queue writes its entry, in a clock after the retirement, and its context goes on
past it. -/
def execDeferredPush (wg : Nat) (s : State) : Host.Outcome State Fault Refusal :=
  .next (match s.wg? wg with
    | none => s
    | some g =>
      match g.dq.pend with
      | none => s
      | some x =>
        if s.dqFull g.dq then s
        else
          (s.setThreads (s.c.threads.map fun t =>
            if t.wait == .dqFull && s.isContextOf wg t.tid then
              s.bodyFetch (t.woken.advance 8) else t)).push wg x)

/-- The pops of a bundle (R282): each executing thread takes its entry, waits, or raises DQEMPTY. A fork task has no Domestique: DQX = 1 and
no entry (R298). -/
def popBody (d : Opnd) (off : Option (BitVec 24)) (park : Bool) : Body := fun s ts =>
  let has := fun t => match s.wgOf t with | some g => decide ((s.thread t).cur < g.dq.cnt) | none => false
  let got := ts.filter has
  let (s1, cs) := ts.foldl (fun (acc : State × List (Nat × Ctl)) t =>
    match s.wgOf t with
    | none => (acc.1, acc.2 ++ [(t, .fault (flt .dqempty))])
    | some g =>
      match acc.1.popOne g t with
      | some (x, s2) =>
        match off with
        | none => (s2.popResult got d t x, acc.2)
        | some o => (s2, if x != 0 then acc.2 ++ [(t, .jump (BitVec.ofInt 64 (s.cur.pc + 4 * o.toInt)).toNat)] else acc.2)
      | none => (acc.1, acc.2 ++ [(t, if g.dq.dqx then .fault (flt .dqempty) else .hold (.dqEmpty (popLater got d t) off park))])) (s, [])
  ((ts.filterMap fun t => (s.wgOf t).map (·.key)).dedup.foldl (fun s k => s.retire k) s1, cs)

def execDqpop (x : S64A) (s : State) : Host.Outcome State Fault Refusal := s.run (.dqpop x) (popBody x.d none x.park)
def execBdq (x : SBrA) (s : State) : Host.Outcome State Fault Refusal := s.run (.bdq x) (popBody (.imm 0) (some x.off) x.park)

/-- R283. -/
def execDqsync (x : S64A) (s : State) : Host.Outcome State Fault Refusal :=
  s.run (.dqsync x) fun s ts =>
    (s, ts.filterMap fun t => match s.wgOf t with
      | some g => if g.dq.cnt == 0 then none else some (t, .hold .dqSync)
      | none => none)

/-- The context has exited (R282, R284): DQX is set, and a thread that waits on the empty queue raises DQEMPTY. -/
def State.contextGone (s : State) (key : Nat) : State :=
  let s1 := s.modWg key fun g => { g with dq := { g.dq with dqx := true } }
  match s1.wg? key with
  | none => s1
  | some g =>
    ((s1.c.threads.filter fun t => g.warpThread t.tid && match t.wait with | .dqEmpty _ _ _ => true | _ => false).map (·.tid)).foldl
      (fun s t => (s.modThread t fun th => { th with wait := .none, replay := false }).raise t
        { flt .dqempty with pc := (s.thread t).pc, resume := (s.thread t).pc }) s1

end Sys2Proof.Machine
end

