-- ==== Sys2Proof/Machine/Scratch.lean ====
section
/-! DEFINITION. The scratch of a workgroup (R17, R173 to R175, R295) and the watchpoints that see accesses (R438 to R442). -/

namespace Sys2Proof.Machine
open Sys2Proof

/-! ### Watchpoints -/

/-- Who makes an access, as a watch record names it (R442): 0 a thread's instruction, 1 the copy engine, 2 a matrix or signature stage. -/
structure Src where
  tid : Nat
  pc : Nat
  srck : Nat
  deriving DecidableEq, Repr

/-- Access kinds of a watchpoint (R438). -/
def akRead : Nat := 0
def akWrite : Nat := 1
def akAtomic : Nat := 2

/-- The bits of a watch record (R441), with V set. -/
def watchBits (s : State) (src : Src) (wpn ak addr old new : Nat) : Nat :=
  1 + wpn * 2 ^ 96 + ak * 2 ^ 103 + src.srck * 2 ^ 105 + laneOf src.tid * 2 ^ 107 + slotOf src.tid * 2 ^ 112 + partOf src.tid * 2 ^ 117 +
  coreOf src.tid * 2 ^ 120 + s.wgi src.tid * 2 ^ 128 + (s.thread src.tid).region % 2 ^ 32 * 2 ^ 160 + addr % 2 ^ 57 * 2 ^ 199 +
  src.pc % 2 ^ 57 * 2 ^ 263 + s.clk % 2 ^ 64 * 2 ^ 320 + old * 2 ^ 384 + new * 2 ^ 448

/-- The latched hit of a core comes before one of watchpoint `wpn` (R441): it is of an earlier clock, or its watchpoint's number is not higher. -/
def State.latchedBefore (s : State) (core wpn : Nat) : Bool :=
  s.fld (rWrec core) 0 0 == 1 && !(s.fld (rWrec core + 40) 63 0 == s.clk % 2 ^ 64 && decide (wpn < s.fld (rWrec core + 8) 38 32))

/-- A hit on a core (R441): of the hits of the first clock that has one the lowest watchpoint's is latched, and every other one is counted; a record of the
detecting unit; the stop that ACT asks for. -/
def State.watchHit (s : State) (core unit : Nat) (scratch : Bool) (src : Src) (wpn act ak addr old new : Nat) : State :=
  let w := watchBits s src wpn ak addr old new
  let s0 := if s.fld (rWrec core) 0 0 == 0 then s else s.satInc (rWmiss core) 0 1
  let s1 := if s.latchedBefore core wpn then s0
    else (List.range 8).foldl (fun s i => s.setReg (rWrec core + 8 * i) (BitVec.ofNat 64 (w / 2 ^ (64 * i)))) s0
  let s2 := s1.trace unit (slotOf src.tid) 3 (w / 2 ^ 64)
  if act < 2 then s2
  else if scratch then
    let s3 := (unitsOfCore core).foldl (fun s n => s.stopAt n 4) s2
    if act == 3 || (unitsOfCore core).any fun n => s.fld (rPctl n) 5 5 == 1 then s3.broadcast core else s3
  else s2.trigger unit 3 (act == 3)

/-- Virtual watchpoint m of a thread's unit against one lane's bytes (R439). -/
def State.vwatch1 (s : State) (pc ak m tid va n : Nat) : State :=
  let u := unitOf tid
  let lo := (s.reg (rVwp u m)).toNat
  let act := slice lo 4 3
  if act != 0 && lo.testBit ak then
    let log := slice lo 63 58
    let base := s.fld (rVwp u m + 8) 56 0 / 2 ^ log * 2 ^ log
    if va < base + 2 ^ log ∧ base < va + n then s.watchHit (coreOf tid) u false ⟨tid, pc, 0⟩ (8 * (u % 5) + m) act ak va 0 0 else s
  else s

/-- The virtual watchpoints against the bytes that the lanes of one instruction name, by watchpoint and then by lane (R441). -/
def State.vwatchAll (s : State) (pc ak : Nat) (ls : List (Nat × Nat × Nat)) : State :=
  (List.range 8).foldl (fun s m => ls.foldl (fun s (q : Nat × Nat × Nat) => s.vwatch1 pc ak m q.1 q.2.1 q.2.2) s) s

def State.vwatch (s : State) (tid pc ak va n : Nat) : State := s.vwatchAll pc ak [(tid, va, n)]

/-- The 8-byte unit of a workgroup's window that holds an offset. -/
def scrUnit (g : Wg) (off : Nat) : Nat := memNat g.scr (off / 8 * 8) 8

/-- The scratch watchpoints of a core against an access performed in a window, from its state before and after (R440). -/
def State.swatch (s : State) (old new : Wg) (src : Src) (ak off n : Nat) : State :=
  (List.range 4).foldl (fun s m =>
    let r := (s.reg (rSwp old.core m)).toNat
    let act := slice r 4 3
    let lo := 8 * slice r 31 16
    let hi := lo + 8 * (slice r 47 32 + 1)
    if act != 0 && r.testBit ak && slice r 9 8 == old.slot && decide (off < hi) && decide (lo < off + n) then
      s.watchHit old.core (5 * old.core) true src (40 + m) act ak off (scrUnit old (max off lo))
        (if ak == akRead then 0 else scrUnit new (max off lo))
    else s) s

/-! ### Scratch accesses -/

/-- Read n bytes of a window. -/
def State.scrRead (s : State) (key : Nat) (src : Src) (ak off n : Nat) : State × Nat :=
  match s.wg? key with
  | some g => (s.swatch g g src ak off n, memNat g.scr off n)
  | none => (s, 0)

/-- Write the bytes of a window that a mask selects. -/
def State.scrWriteMask (s : State) (key : Nat) (src : Src) (ak off mask n v : Nat) : State :=
  match s.wg? key with
  | some g =>
    let g' := { g with scr := memPutMask g.scr off mask n v }
    (s.modWg key fun _ => g').swatch g g' src ak off n
  | none => s

def State.scrWrite (s : State) (key : Nat) (src : Src) (ak off n v : Nat) : State :=
  s.scrWriteMask key src ak off (2 ^ n - 1) n v

/-- The workgroup whose window an access names, and the offset in it, whatever the window's size (R16, R17, R170). A rank of the cluster whose workgroup has
ended has no window any more (log entry 99). -/
def State.windowOf (s : State) (tid : Nat) (sp : Sp) (ea : Nat) : Option (Wg × Nat) :=
  match s.wgOf tid with
  | none => none
  | some g =>
    match sp with
    | .clw =>
      if 2 ^ 23 ≤ ea then none
      else match s.c.clusters.find? fun c => c.members.contains g.key with
        | none => none
        | some c => ((c.members[ea / 2 ^ 19]?).bind s.wg?).map fun h => (h, ea % 2 ^ 19)
    | _ => some (g, ea)

/-- The window that an access of n bytes names, and the offset in it: none where R17 gives PERM. -/
def State.window (s : State) (tid : Nat) (sp : Sp) (ea n : Nat) : Option (Nat × Nat) :=
  match s.windowOf tid sp ea with
  | some (g, off) => if off + n ≤ g.win then some (g.key, off) else none
  | none => none

/-- The segment of a window that an offset lies in (R159): the lowest-numbered match. -/
def segOf (g : Wg) (off : Nat) : Option Nat :=
  (g.segs.find? fun w => decide (16 * slice w.toNat 31 16 ≤ off) && decide (off < 16 * slice w.toNat 47 32)).map (·.toNat)

end Sys2Proof.Machine
end

