-- ==== Sys2Proof/Machine/Monitor.lean ====
section
/-! DEFINITION. Monitors (R457, R458) and sampled memory instructions (R452, R456). -/

namespace Sys2Proof.Machine
open Sys2Proof

/-- The bin of a monitored value (R457). -/
def monBin (v : Nat) : Nat := if v ≤ 1 then 0 else min 15 (Nat.log2 v)

/-- Monitor k takes a value (R457). -/
def State.monTake (s : State) (k v : Nat) : State :=
  let v := min v 0xFFFFFFFF
  let b := monBin v
  let s1 := s.setFld (rMon k + 8) 31 0 (min v (s.fld (rMon k + 8) 31 0))
  let s2 := s1.setFld (rMon k + 8) 63 32 (max v (s1.fld (rMon k + 8) 63 32))
  s2.satInc (rMon k + 16 + 8 * (b / 2)) (32 * (b % 2)) 1

/-- An event of a monitored source (R458). -/
def State.monEvent (s : State) (src sel v : Nat) : State :=
  (List.range 8).foldl (fun s k => if s.fld (rMon k) 3 0 == src && s.fld (rMon k) 23 16 == sel then s.monTake k v else s) s

/-- Bank of a scratch offset under a salt (R173). -/
def scrBank (salt x : Nat) : Nat := ((x / 8 % 65536) ^^^ salt) * 0x9E3B % 65536 / 1024

/-- Rounds that a set of 8-byte units of one core's scratch takes at the banks (R174). -/
def bankRounds (salt : Nat) (units : List Nat) : Nat :=
  (List.range 64).foldl (fun m b => max m (units.filter fun u => scrBank salt (8 * u) == b).length) 0

/-- Count an issue of a sampled kind of instruction (R452, R456): the tag of the sample that it makes, if it makes one. -/
def State.sampleTake (s : State) (ts : List Nat) : State × Option Nat :=
  let n := s.cur.unit
  let u := s.unit n
  let wids := (ts.map widOf).dedup
  let mark := wids.findSome? fun w => (s.warp? w).bind (·.smpl)
  let per := s.fld (rSctl n) 15 0
  let s1 := (s.setUnit { u with cnt := u.cnt + 1 }).setWarps (s.c.warps.map fun w => if wids.contains w.wid then { w with smpl := none } else w)
  (s1, match mark with
    | some t => some t.toNat
    | none => if per != 0 && (u.cnt + 1) % per == 0 then some 0 else none)

/-- The record of a sample (R452): the queue times are the free values of the stages that its access visited. -/
def State.sampleDone (s : State) (x : Sample) : State :=
  let tot := min 0xFFFFFFFF (s.clk - x.clk)
  let q := if x.gv then (List.range 6).foldl (fun a i => a + Config.queueTime (s.free + x.id) i % 65536 * 2 ^ (16 * i)) 0 else 0
  let body := tot * 2 ^ 192 + q * 2 ^ 224 + min 255 x.repl * 2 ^ 320 + min 255 x.sect * 2 ^ 328 + x.tag * 2 ^ 336 + x.last * 2 ^ 354 +
    x.mask % 2 ^ 32 * 2 ^ 359 + x.pc % 2 ^ 57 * 2 ^ 391
  let s1 := s.trace x.unit x.slot 2 body
  s1.monEvent 3 (x.unit / 5) (s.clk - x.clk)

/-- An access of a sampled issue is answered: the last one makes the record, and of several in its clock the lowest lane's counts (R452). -/
def State.sampleAnswer (s : State) (op tid : Nat) : State :=
  match s.b.samples.find? fun x => x.open_.contains op with
  | none => s
  | some x =>
    let y := { x with open_ := x.open_.filter (· != op), last := if x.lastAt == s.clk then min x.last (laneOf tid) else laneOf tid, lastAt := s.clk }
    let rest := s.b.samples.filter fun z => z.id != x.id
    if y.open_.isEmpty then ({ s with b := { s.b with samples := rest } }).sampleDone y
    else { s with b := { s.b with samples := rest ++ [y] } }

end Sys2Proof.Machine
end

