-- ==== Sys2Proof/Machine/Fetch.lean ====
section
/-! DEFINITION. Instruction fetch (R28, R29, R31): the block, the word in it, and the body check of a loop (R65). -/

namespace Sys2Proof.Machine
open Sys2Proof

/-- A fetch fault at an address: access kind fetch (R29, R217). -/
def fetchFlt (c : Code) (addr : Nat) : FaultInfo := fltAt c 3 0 addr

/-- Fetch the 32-byte block of an address for a thread (R29). -/
def State.fetchBlock (s : State) (tid pc : Nat) : State × Except FaultInfo Nat :=
  if pc % 4 != 0 then (s, .error (fetchFlt .fetch pc))
  else match s.regionOf tid with
    | none => (s, .error (fetchFlt .page pc))
    | some r =>
      match s.xlate (coreOf tid) r pc .x with
      | (s1, .error e) => (s1, .error (e.flt 3))
      | (s1, .ok p) =>
        match s1.engRead r.tenant (p.addr pc / 32 * 32) 32 .dflt p.ef with
        | (s2, .error c) => (s2, .error { fetchFlt c pc with lvl := p.lvl, deferred := true })
        | (s2, .ok x) => (s2, .ok x)

/-- The bits from an address on in its block. -/
def blockFrom (pc data : Nat) : Nat := data / 2 ^ (8 * (pc % 32))

/-- The instruction's bits in its block: none when it is misplaced (R29). -/
def wordIn (pc data : Nat) : Option Nat :=
  let w := blockFrom pc data
  let n := lenBits w
  if (n == 256 && pc % 32 != 0) || 32 < pc % 32 + n / 8 then none else some (w % 2 ^ n)

/-- Check the body of a loop in address order (R65): the instruction at `a` is body position `k`; `n` positions are left. The offsets
of the instructions and of the end come back, and the blocks that hold them. -/
def State.loopBody (s : State) (tid base : Nat) (x : LoopA) : Nat → Nat → Nat → State × Except FaultInfo (List Nat × List (Nat × Nat))
  | 0, _, a => (s, .ok ([a - base], []))
  | n + 1, k, a =>
    match s.fetchBlock tid a with
    | (s1, .error f) => (s1, .error { f with addr := if f.deferred then f.addr else a })
    | (s1, .ok data) =>
      match wordIn a data with
      | none => (s1, .error (fetchFlt .fetch a))
      | some w =>
        if bodyOk x k w then
          match s1.loopBody tid base x n (k + 1) (a + lenBits w / 8) with
          | (s2, .error f) => (s2, .error f)
          | (s2, .ok (offs, bs)) => (s2, .ok ((a - base) :: offs, (a / 32 * 32, data) :: bs))
        else (s1, .error (flt .illegal))

end Sys2Proof.Machine
end

