-- ==== Sys2Proof/Machine/Registers.lean ====
section
/-! DEFINITION. The register group (R92 to R108): moves, indexed moves, special registers, windows and the spill engine. -/

namespace Sys2Proof.Machine
open Sys2Proof

/-- R98. -/
def execMov (x : V96A) (s : State) : Host.Outcome State Fault Refusal :=
  s.run (.mov x) (resultBody x.d fun s t => s.opnd t x.a)

/-- R98: U selects zero extension. -/
def execMovi (x : M128A) (s : State) : Host.Outcome State Fault Refusal :=
  s.run (.movi x) (resultBody x.d fun _ _ => if x.opx.getLsbD 0 then x.i32.zeroExtend 64 else x.i32.signExtend 64)

/-- R98: D is read at issue. -/
def execMovh (x : M128A) (s : State) : Host.Outcome State Fault Refusal :=
  s.run (.movh x) (resultBody x.d fun s t => (x.i32 ++ (s.opnd t x.d).extractLsb' 0 32 : BitVec 64))

/-- The index of `movxr` and `movxw` (R99): exact and unbounded. -/
def State.movIndex (s : State) (tid : Nat) (reg off : Opnd) : Int := (s.opnd tid reg).toNat + (s.opnd tid off).toInt

/-- R99: an index outside 0 to the limit faults, for its own thread only; AUX holds it modulo 2^64. -/
def State.indexFault (s : State) (tid : Nat) (i : Int) : Option FaultInfo :=
  if i < 0 ∨ ((s.thread tid).limit : Int) ≤ i then some { flt .regrange with aux := (BitVec.ofInt 64 i).toNat } else none

/-- The faults of an instruction's lanes, as controls. -/
def faultsOf (ts : List Nat) (f : Nat → Option FaultInfo) : List (Nat × Ctl) := ts.filterMap fun t => (f t).map fun e => (t, .fault e)

/-- R99. -/
def execMovxr (x : V96A) (s : State) : Host.Outcome State Fault Refusal :=
  s.run (.movxr x) fun s ts =>
    let bad := fun t => s.indexFault t (s.movIndex t x.a x.b)
    (s.result (ts.filter fun t => (bad t).isNone) x.d fun t => s.readV t (s.movIndex t x.a x.b).toNat, faultsOf ts bad)

/-- R99: the destination is the register that the index names. -/
def execMovxw (x : V96A) (s : State) : Host.Outcome State Fault Refusal :=
  s.run (.movxw x) fun s ts =>
    let idx := fun t => s.movIndex t x.d x.b
    let bad := fun t => s.indexFault t (idx t)
    ((ts.filter fun t => (bad t).isNone).foldl
      (fun s1 t => s1.result [t] (.v (BitVec.ofNat 8 (idx t).toNat)) fun _ => s.opnd t x.a) s, faultsOf ts bad)

/-! ### Special registers (R96, R100) -/

/-- A segment-format register of the thread's workgroup; a fork task has none and reads 0 (R298). -/
def State.seg (s : State) (tid n : Nat) : Word :=
  match s.wgOf tid with
  | some g => g.segs.getD n 0
  | none => 0

/-- The value of a special register for a thread (R96, R272, R298). -/
def State.sreg (s : State) (tid n : Nat) : Word :=
  let t := s.thread tid
  let wg := s.wgOf tid
  match n with
  | 0x00 => BitVec.ofNat 64 (laneOf tid)
  | 0x01 => BitVec.ofNat 64 (if isCtx tid then 16 else slotOf tid)
  | 0x02 => BitVec.ofNat 64 (partOf tid)
  | 0x03 => BitVec.ofNat 64 (match wg with | some g => g.slot | none => 4)
  | 0x04 => BitVec.ofNat 64 (coreOf tid)
  | 0x05 => BitVec.ofNat 64 (match wg with | some g => g.rank | none => 0)
  | 0x06 => BitVec.ofNat 64 (match wg with | some g => g.clus | none => 0)
  | 0x07 => BitVec.ofNat 64 s.b.pkg
  | 0x08 => BitVec.ofNat 64 (t.region % 2 ^ 32)
  | 0x09 => BitVec.ofNat 64 s.clk
  | 0x0A => t.tpc
  | 0x0B => t.tcause
  | 0x0C => t.rseed
  | 0x0D => t.olthr
  | 0x0E => BitVec.ofNat 64 t.win.dep
  | n => if 0x10 ≤ n ∧ n < 0x20 then s.seg tid (n - 0x10) else 0

/-- LOG of DBG_RPCTL: the log's address and its number of entries. -/
def State.logBase (s : State) : Nat := slice (s.reg (rRpctl + 8)).toNat 51 12 * 4096
def State.logSize (s : State) : Nat := 2 ^ slice (s.reg (rRpctl + 8)).toNat 11 6 / 16

/-- A replay of the ASID is running (R461). -/
def State.replaying (s : State) (asid : Nat) : Bool := s.fld rRpctl 1 1 == 1 && s.fld rRpctl 63 48 == asid

/-- Fields [63:35] of a log entry: kind and place (R460). -/
def logPlace (kind core part slot lane : Nat) : Nat := lane + slot * 2 ^ 5 + part * 2 ^ 10 + core * 2 ^ 13 + kind * 2 ^ 21

/-- The first entry of the log that a test of its fields [63:35] accepts and that the replay has not reproduced: position and VAL. -/
def State.logNext (s : State) (p : Nat → Bool) : Option (Nat × Nat) :=
  ((List.range s.b.logSeq).find? fun n => !s.b.replayed.contains n && p (slice (s.rdNat (s.logBase + 16 * n) 8) 63 35)).map fun n =>
    (n, s.rdNat (s.logBase + 16 * n + 8) 8)

/-- Entry n has been reproduced; after the last one RPL reads 0 and the run goes on unrecorded (R461). -/
def State.reproduce (s : State) (n : Nat) : State :=
  let s1 := { s with b := { s.b with replayed := s.b.replayed ++ [n] } }
  if s1.b.logSeq ≤ s1.b.replayed.length then s1.setFld rRpctl 1 1 0 else s1

/-- The order log's entry for a value or an event (R460), while the region's ASID is recorded (R459): the entry goes to the log's next
position; a full log ends the recording. In a replay, the event is marked as reproduced. -/
def State.orderLog (s : State) (asid kind core part slot lane : Nat) (v : Word) : State :=
  if s.replaying asid then
    match s.logNext (fun x => x == logPlace kind core part slot lane) with
    | some q => s.reproduce q.1
    | none => s
  else if s.fld rRpctl 0 0 == 1 && s.fld rRpctl 63 48 == asid then
    if s.b.logSeq < s.logSize then
      let w := s.b.logSeq % 2 ^ 35 + logPlace kind core part slot lane * 2 ^ 35 + v.toNat * 2 ^ 64
      let s1 := s.devWrite (s.logBase + 16 * s.b.logSeq) 16 w
      let s2 := { s1 with b := { s1.b with logSeq := s1.b.logSeq + 1 } }
      if s2.b.logSeq == s.logSize then s2.setFld rRpctl 0 0 0 else s2
    else s.setFld rRpctl 0 0 0
  else s

/-- An order log entry of a thread. -/
def State.logOf (s : State) (tid kind : Nat) (v : Word) : State :=
  match s.regionOf tid with
  | some r => s.orderLog r.asid kind (coreOf tid) (partOf tid) (slotOf tid) (laneOf tid) v
  | none => s

/-- The value that an event of a thread has in a replay: the logged one (R461); else its own. -/
def State.logged (s : State) (tid kind : Nat) (v : Word) : Word :=
  match s.regionOf tid with
  | some r =>
    if s.replaying r.asid then
      match s.logNext fun x => x == logPlace kind (coreOf tid) (partOf tid) (slotOf tid) (laneOf tid) with
      | some q => BitVec.ofNat 64 q.2
      | none => v
    else v
  | none => v

/-- R100: a special register to D; a `%clock` read is logged (R460). -/
def execSrd (x : S64A) (s : State) : Host.Outcome State Fault Refusal :=
  s.run (.srd x) fun s ts =>
    let n := x.a.num
    let val := fun t => if n == 0x09 then s.logged t 5 (s.sreg t n) else s.sreg t n
    let s1 := s.result ts x.d val
    (if n == 0x09 then (s.targets ts x.d).foldl (fun s1 q => s1.logOf q.1 5 (val q.1)) s1 else s1, [])

/-- A value that `%segN` accepts (R159). -/
def segValueOk (v : Word) : Bool := slice v.toNat 15 9 == 0 && fmtGeoOk (slice v.toNat 5 0) (slice v.toNat 8 6)

/-- Write a thread-scope special register (R155: `%olthr` keeps its upper half zero). -/
def Thread.setSreg (t : Thread) (n : Nat) (v : Word) : Thread :=
  match n with
  | 0x0A => { t with tpc := v }
  | 0x0B => { t with tcause := v }
  | 0x0C => { t with rseed := v }
  | 0x0D => { t with olthr := (v.extractLsb' 0 32).zeroExtend 64 }
  | _ => t

/-- Set `%segN` of a workgroup. -/
def State.setSeg (s : State) (key n : Nat) (v : Word) : State := s.modWg key fun g => { g with segs := g.segs.set n v }

/-- R100: thread registers per lane; for a workgroup register the value of the executing thread with the highest (slot, lane) lands,
which is the last in ascending order. A `%segN` value that R159 refuses is ILLEGAL and the register keeps its value. -/
def execSwr (x : S64A) (s : State) : Host.Outcome State Fault Refusal :=
  s.run (.swr x) fun s ts =>
    let n := x.d.num
    if n < 0x10 then
      (s.setThreads (s.c.threads.map fun t => if ts.contains t.tid then t.setSreg n (s.opnd t.tid x.a) else t), [])
    else
      let bad := fun t => if segValueOk (s.opnd t x.a) then none else some (flt .illegal)
      ((ts.filter fun t => (bad t).isNone).foldl (fun s1 t =>
        match s.wgOf t with
        | some g => s1.setSeg g.key (n - 0x10) (s.opnd t x.a)
        | none => s1) s, faultsOf ts bad)

/-! ### Windows (R94, R101 to R106) -/

/-- The 8-byte tag of a window (R101). -/
def Win.tag (w : Win) : Nat := w.radr % 2 ^ 57 + w.size / 8 * 2 ^ 59

/-- Spill-area bytes of a window (R101). -/
def Win.bytes (w : Win) : Nat := 8 * w.size + 8

/-- How many of the oldest resident windows must go for `free` more registers to fit into a ring of `h` (R102). -/
def spillCount (h free : Nat) : List Win → Nat
  | [] => 0
  | w :: r => if ((w :: r).map (·.size)).sum + free ≤ h then 0 else 1 + spillCount h free r

/-- Ring position of the window at index `k` of the resident list: the current window's base less the sizes before it (R94). -/
def Thread.winBase (t : Thread) (k : Nat) : Nat :=
  let sizes := t.win.res.map (·.size)
  let back := ((sizes.drop k).dropLast).sum
  (t.win.b + t.ring * (back / max 1 t.ring + 1) - back) % max 1 t.ring

/-- The words a window holds, as they stand or as a result on its way gives them (R57), followed by its tag. -/
def State.winWords (s : State) (t : Thread) (k : Nat) : List Word :=
  match t.win.res[k]? with
  | some w => (List.range w.size).map (fun j => s.readPhys t.tid (16 + (t.winBase k + j) % max 1 t.ring)) ++ [BitVec.ofNat 64 w.tag]
  | none => []

/-- Start the spill of the `k` oldest resident windows (R101, R102): the bytes are fixed now and written by SPILL_COMPLETE. -/
def State.startSpill (s : State) (tid k pc : Nat) : State :=
  let t := s.thread tid
  let new := (List.range k).map fun j =>
    ({ off := t.win.spo + ((t.win.res.take j).map Win.bytes).sum, words := s.winWords t j, pc := pc } : Spill)
  s.modThread tid fun t =>
    { t with
      spills := t.spills ++ new
      win := { t.win with spo := t.win.spo + ((t.win.res.take k).map Win.bytes).sum, res := t.win.res.drop k } }

/-- The spilled windows fit into the spill area. -/
def Thread.spillFits (t : Thread) (k : Nat) : Bool := decide (t.win.spo + ((t.win.res.take k).map Win.bytes).sum ≤ t.spl)

/-- Target of a `call` (R102). -/
def State.callTarget (s : State) (tid : Nat) (x : M128A) : Option Nat :=
  if x.opx.getLsbD 5 then
    let a := (s.opnd tid x.a).toNat
    if slice a 63 57 != 0 || a % 4 != 0 then none else some a
  else some (BitVec.ofInt 64 (s.cur.pc + 4 * x.i32.toInt)).toNat

/-- The frame of a `call`: a context's window has no register, whatever the field (R273). -/
def callFrame (tid : Nat) (x : M128A) : Nat := if isCtx tid then 0 else 8 * (x.opx.extractLsb' 0 5).toNat

/-- The windows that a `call` spills: what the frame needs (R102); in a context the oldest tag when a ninth would be resident (R273). -/
def State.callSpills (s : State) (tid : Nat) (x : M128A) : Nat :=
  let t := s.thread tid
  if isCtx tid then (if 8 ≤ t.win.res.length then 1 else 0) else spillCount t.ring (callFrame tid x) t.win.res

/-- The fault of a `call`, in order (R102). -/
def State.callFault (s : State) (tid : Nat) (x : M128A) : Option FaultInfo :=
  let t := s.thread tid
  if (s.callTarget tid x).isNone then some (flt .fetch)
  else if t.ring < callFrame tid x then some (flt .regrange)
  else if !t.spillFits (s.callSpills tid x) then some (flt .stackovf)
  else none

/-- Open a window of a thread (R102). -/
def Thread.push (t : Thread) (fn radr : Nat) : Thread :=
  { t with win := { t.win with
    b := (t.win.b + t.win.f) % max 1 t.ring, f := fn, dep := t.win.dep + 1, res := t.win.res ++ [{ size := fn, radr := radr }] } }

/-- The ring registers of a thread's current window. -/
def Thread.inWindow (t : Thread) (ph : Nat) : Bool :=
  let h := max 1 t.ring
  decide (16 ≤ ph) && decide ((ph - 16 + h - t.win.b % h) % h < t.win.f)

/-- The registers of a window that has just opened: each holds what it held, or zero (R102, log entry 2). -/
def State.openRegs (s : State) (t : Thread) : Thread :=
  { t with v := (t.v.zip (List.range t.v.length)).map fun q => if t.inWindow q.2 && Config.freeChoice s.free (512 * t.tid + q.2) 6300 % 2 == 1 then 0 else q.1 }

/-- A spill whose thread has results on their way may read the window once they have landed (R57, R102, log entry 22). -/
def State.spillWaits (s : State) (tid k : Nat) : Bool := k != 0 && s.owes tid && Config.freeChoice s.free tid 6301 % 2 == 1

/-- R102. -/
def execCall (x : M128A) (s : State) : Host.Outcome State Fault Refusal :=
  s.run (.call x) fun s ts =>
    let bad := fun t => s.callFault t x
    let late := ts.filter fun t => (bad t).isNone && s.spillWaits t (s.callSpills t x)
    let ok := ts.filter fun t => (bad t).isNone && !s.spillWaits t (s.callSpills t x)
    (ok.foldl (fun s1 t =>
      (s1.startSpill t (s.callSpills t x) s.cur.pc).modThread t fun th => s.openRegs (th.push (callFrame t x) (s.cur.pc + 16))) { s with free := s.free + 1 },
     faultsOf ts bad ++ late.map (fun t => (t, .hold .results)) ++ ok.map fun t => (t, .jump ((s.callTarget t x).getD 0)))

/-- One 8-byte read of the spill engine (R106): kind spill or refill; a fault is deferred. -/
def State.spillRead (s : State) (tid va : Nat) : State × Except FaultInfo Nat :=
  match s.regionOf tid with
  | none => (s, .error (fltAt .page 5 0 va))
  | some r =>
    match s.vread (coreOf tid) r (va % 2 ^ 64) 8 with
    | (s1, .error e) => (s1, .error { e.flt 5 with deferred := true })
    | (s1, .ok x) => (s1, .ok x)

/-- The words below a tag, in ascending address. -/
def State.refillWords (s : State) (tid va : Nat) : Nat → State × Except FaultInfo (List Word)
  | 0 => (s, .ok [])
  | n + 1 =>
    match s.spillRead tid va with
    | (s1, .error f) => (s1, .error f)
    | (s1, .ok x) =>
      match s1.refillWords tid (va + 8) n with
      | (s2, .error f) => (s2, .error f)
      | (s2, .ok r) => (s2, .ok (BitVec.ofNat 64 x :: r))

/-- Discard the current window (R103). -/
def Thread.pop (t : Thread) : Thread :=
  let res := t.win.res.dropLast
  let f := match res.getLast? with | some w => w.size | none => 0
  { t with win := { t.win with
    b := (t.win.b + max 1 t.ring - f % max 1 t.ring) % max 1 t.ring, f := f, dep := t.win.dep - 1, res := res } }

/-- The refill of a `ret` (R103, R106): the caller's spilled tag is checked, then the words below it are read, and only then does
the `ret` take effect. A context reads its tags with H = 0 (R273). -/
def State.refill (s : State) (tid : Nat) : State × Except FaultInfo Unit :=
  let t := s.thread tid
  match s.spillRead tid (t.spb + t.win.spo - 8) with
  | (s1, .error f) => (s1, .error f)
  | (s1, .ok u) =>
    let fc := 8 * slice u 63 59
    if slice u 58 57 != 0 || t.ring < fc || t.win.spo < 8 * fc + 8 then (s1, .error (flt .illegal))
    else match s1.refillWords tid (t.spb + t.win.spo - 8 - 8 * fc) fc with
      | (s2, .error f) => (s2, .error f)
      | (s2, .ok ws) =>
        (s2.modThread tid fun t =>
          let b := t.win.b
          { t with
            win := { b := b, f := fc, dep := t.win.dep - 1, spo := t.win.spo - 8 * fc - 8,
                     res := [{ size := fc, radr := slice u 56 0 }] }
            v := (ws.zip (List.range fc)).foldl (fun v q => v.set (16 + (b + q.2) % max 1 t.ring) q.1) t.v }, .ok ())

/-- R103: the caller's window is resident, or is refilled from the spill area. A `ret` that needs a refill first waits for the
thread's own spills to be written (R106) and then for REFILL_COMPLETE. -/
def execRet (x : S64A) (s : State) : Host.Outcome State Fault Refusal :=
  s.run (.ret x) fun s ts =>
    let radr := fun (t : Thread) => match t.win.res.getLast? with | some w => w.radr | none => 0
    let res := ts.filter fun t => decide (2 ≤ (s.thread t).win.res.length) && (s.thread t).win.dep != 0
    (s.setThreads (s.c.threads.map fun t => if res.contains t.tid then t.pop else t),
     ts.map fun t =>
       let th := s.thread t
       (t, if th.win.dep == 0 then .fault (flt .illegal)
           else if res.contains t then .jump (radr th)
           else if th.spilled then .hold .refill
           else .hold .spill))

/-- R105: every resident window but the current one is spilled, and the thread parks until they are written. -/
def execWflush (x : S64A) (s : State) : Host.Outcome State Fault Refusal :=
  s.run (.wflush x) fun s ts =>
    let n := fun t => (s.thread t).win.res.length - 1
    let bad := fun t => if (s.thread t).spillFits (n t) then none else some (flt .stackovf)
    let late := ts.filter fun t => (bad t).isNone && s.spillWaits t (n t)
    let ok := ts.filter fun t => (bad t).isNone && !s.spillWaits t (n t)
    (ok.foldl (fun s1 t => s1.startSpill t (n t) s.cur.pc) { s with free := s.free + 1 },
     faultsOf ts bad ++ late.map (fun t => (t, .hold .results)) ++ ok.map fun t => (t, .wait .spill))

/-- SPILL_COMPLETE (R101, R106): the thread's oldest spill is written. A PAGE or PERM is deferred, with the pc of the instruction that
caused it; the spill stays, and is retried when the thread is resumed or returns from its handler, before it issues. -/
def State.writeSpill (s : State) (tid : Nat) (sp : Spill) : State × Option FaultInfo :=
  match s.regionOf tid with
  | none => (s, some (fltAt .page 5 0 0))
  | some r =>
    (sp.words.zip (List.range sp.words.length)).foldl (fun (acc : State × Option FaultInfo) q =>
      match acc with
      | (s1, some f) => (s1, some f)
      | (s1, none) =>
        let va := ((s.thread tid).spb + sp.off + 8 * q.2) % 2 ^ 64
        match s1.xlate (coreOf tid) r va .w with
        | (s2, .error e) => (s2, some { e.flt 5 with deferred := true })
        | (s2, .ok p) =>
          match s2.engWrite r.tenant (p.addr va) 8 q.1.toNat with
          | (s3, some c) => (s3, some { fltAt c 5 p.lvl va with deferred := true })
          | (s3, none) => (s3.l1Forget (coreOf tid) (p.addr va), none)) (s, none)

def execSpillComplete (tid : Nat) (s : State) : Host.Outcome State Fault Refusal :=
  .next (let t := s.thread tid
    match t.spills.findIdx? fun x => x.st != .held with
    | none => s
    | some k =>
      let sp := t.spills.getD k { off := 0, words := [], pc := 0 }
      if t.hostPark || !t.faults.isEmpty then s
      else match s.writeSpill tid sp with
        | (s1, none) => s1.modThread tid fun t => { t with spills := t.spills.eraseIdx k }
        | (s1, some f) => (s1.modThread tid fun t => { t with spills := t.spills.set k { sp with st := .held } }).raise tid { f with pc := sp.pc, resume := t.pc })

/-- REFILL_COMPLETE (R103, R106): the refill that a `ret` waits for is written, and the `ret` takes effect; a fault leaves everything
as it was before the `ret`, whose address is the resume address. -/
def execRefillComplete (tid : Nat) (s : State) : Host.Outcome State Fault Refusal :=
  .next (let t := s.thread tid
    if t.wait != .refill then s
    else match s.refill tid with
      | (s1, .ok _) => s1.modThread tid fun u => s1.bodyFetch { u.woken with pc := match t.win.res.getLast? with | some w => w.radr | none => 0 }
      | (s1, .error f) => (s1.modThread tid Thread.woken).raise tid { f with pc := t.pc, resume := t.pc })

end Sys2Proof.Machine
end

