-- ==== Sys2Proof/Machine/Path.lean ====
section
/-! DEFINITION. The path of a request: collector, stage A, stage B, home agent, and the answer back (R21 to R24, R195, R403 to R413, R418 to
R421, R234 to R239), with the walks that translations wait for (R221). -/

namespace Sys2Proof.Machine
open Sys2Proof

/-! ### Atomic operations (R185, R408) -/

/-- A word of n bytes as a signed number. -/
def sgn (n x : Nat) : Int := (BitVec.ofNat (8 * n) x).toInt

/-- The new value of `atom` on the old value v and the operand e (R185). -/
def atomNew (op n v e : Nat) : Nat :=
  match op with
  | 0 => (v + e) % 2 ^ (8 * n)
  | 1 => fltAdd fp32 .rne false false 0 v e
  | 2 => if sgn n v ≤ sgn n e then v else e
  | 3 => if sgn n e ≤ sgn n v then v else e
  | 4 => min v e
  | 5 => max v e
  | 6 => v &&& e
  | 7 => v ||| e
  | 8 => v ^^^ e
  | 9 => e
  | 10 => if e ≤ v then 0 else v + 1
  | _ => if v == 0 || e < v then e else v - 1

/-- The merged operand and the value that the follower receives (R408). -/
def mergeOperand (op n e f : Nat) : Nat := if op == 9 then f else atomNew op n e f
def applyValue (o : ReqOp) (n v e : Nat) : Nat :=
  match o with
  | .atom k => atomNew k.toNat n v e
  | .load => v
  | _ => 0

/-! ### Combining (R408, R409) -/

/-- The request can combine: no 16-byte operation does. -/
def reqCombines (w : WireReq) : Bool :=
  decide (w.ksz < 16) && match w.op with
  | .load | .store => true
  | .atom k => k != 10 && k != 11 && w.ord == .rlx
  | _ => false

/-- Equal combining keys (R408). -/
def keyEq (a b : WireReq) : Bool :=
  a.xpa == b.xpa && a.ksz == b.ksz && a.op == b.op && (a.op != .store || a.mask == b.mask) && a.sc == b.sc && a.ord == b.ord &&
  a.tenant == b.tenant

/-- Two requests touch a byte in common. -/
def reqsMeet (r q : Req) : Bool := decide (r.w.xpa < q.w.xpa + q.w.size) && decide (q.w.xpa < r.w.xpa + r.w.size)

/-- A later request that shares a thread and bytes with `r` keeps `r` from an earlier leader (R21). -/
def blocksMerge (r q : Req) : Bool := reqsMeet r q && r.thr.any q.thr.contains

/-- Nothing of the request has been performed. -/
def Req.fresh (r : Req) : Bool := r.todo == 2 ^ 32 - 1

/-- Position of the leader of an arrival: the most recently queued request of equal key (R409). -/
def leaderAt (r : Req) (same : Req → Bool) (q : List Req) : Option Nat :=
  let n := q.length
  ((List.range n).reverse.find? fun i => match q[i]? with
    | some l => same l && keyEq l.w r.w
    | none => false).bind fun i => if (q.drop (i + 1)).any fun x => same x && blocksMerge r x then none else some i

/-- The merged request in the leader's place (R409). -/
def mergedReq (l r : Req) : Req :=
  { l with
    w := { l.w with data := match l.w.op with
      | .atom k => mergeOperand k.toNat l.w.size l.w.data r.w.data
      | .store => r.w.data
      | _ => l.w.data }
    cut := l.cut &&& r.cut
    thr := (l.thr ++ r.thr).dedup }

/-- Merge an arrival into a queue at a combining point, or report that it has no leader there. -/
def tryMerge (point : Nat) (r : Req) (same : Req → Bool) (q : List Req) : Option (List Req × WaitEnt) :=
  if !reqCombines r.w then none
  else match leaderAt r same q with
    | none => none
    | some i => match q[i]? with
      | none => none
      | some l => some (q.set i (mergedReq l r), { point := point, lead := l.id, foll := r, e := l.w.data })

def State.addWait (s : State) (w : WaitEnt) : State := { s with m := { s.m with waits := s.m.waits ++ [w] } }
def State.setColQ (s : State) (q : List Req) : State := { s with m := { s.m with colQ := q } }
def State.setAQ (s : State) (q : List Req) : State := { s with m := { s.m with aQ := q } }
def State.setBQ (s : State) (q : List Req) : State := { s with m := { s.m with bQ := q } }
def State.setAnss (s : State) (a : List Ans) : State := { s with m := { s.m with anss := a } }
def State.answer (s : State) (a : Ans) : State := s.setAnss (s.m.anss ++ [a])
def State.newId (s : State) : State := { s with m := { s.m with nextId := s.m.nextId + 1 } }

/-- An operation of the home atomic unit, which the order log records (R460). -/
def isHomeOp : ReqOp → Bool
  | .atom _ | .cas | .rel | .acq => true
  | _ => false

/-- A home operation of a region that is being replayed is performed alone (R461). -/
def State.replayReq (s : State) (r : Req) : Bool :=
  isHomeOp r.w.op && match s.region? r.region with | some g => s.replaying g.asid | none => false

/-- The thread of a request of this module. -/
def State.reqThread (s : State) (r : Req) : Option Nat :=
  match r.org with
  | .part id _ => (s.m.ops.find? fun o => o.id == id).map (·.tid)
  | _ => none

/-- A replayed home operation whose turn in the log has not come (R461): an earlier home operation of the log is not reproduced. -/
def State.replayWait (s : State) (r : Req) : Bool :=
  s.replayReq r && match s.reqThread r with
    | none => false
    | some t =>
      let mine := logPlace 2 (coreOf t) (partOf t) (slotOf t) (laneOf t)
      match s.logNext fun x => x / 2 ^ 21 == 2 with
      | some q => slice (s.rdNat (s.logBase + 16 * q.1) 8) 63 35 != mine
      | none => false

/-- Arrival at the collector (R195, R409). The lanes of one instruction, whose requests are numbered from `since` on, merge among themselves: store lanes share
one write of a sector, the later lane's bytes on top; load lanes share one request of a sector; atomics of equal key make one set, in ascending lane order
(R22). -/
def State.collect (s : State) (since : Nat) (r : Req) : State :=
  let mate := (List.range s.m.colQ.length).find? fun i => match s.m.colQ[i]? with
    | some l => decide (since ≤ l.id) && l.core == r.core && !s.replayReq r &&
        (if r.w.op == .store || r.w.op == .load then l.w.op == r.w.op && l.w.xpa == r.w.xpa && l.w.sc == r.w.sc && l.w.tenant == r.w.tenant
         else reqCombines r.w && keyEq l.w r.w)
    | none => false
  match mate.bind fun i => (s.m.colQ[i]?).map fun l => (i, l) with
  | some (i, l) =>
    let m := mergedReq l r
    let data := (List.range 32).foldl (fun a k => a + (if r.w.mask.testBit k then byteOf r.w.data k else byteOf l.w.data k) * 256 ^ k) 0
    (s.setColQ (s.m.colQ.set i (if r.w.op == .store then { m with w := { l.w with data := data, mask := l.w.mask ||| r.w.mask } } else m))).addWait
      { point := 0, lead := l.id, foll := r, e := l.w.data }
  | none => s.setColQ (s.m.colQ ++ [r])

/-- The sets of an issue join the requests of equal key that still wait in the collector of their core, each set as a whole (R22, R195). -/
def State.joinOlder (s : State) (since : Nat) : State :=
  let new := s.m.colQ.filter fun r => decide (since ≤ r.id)
  new.foldl (fun s r =>
    let old := s.m.colQ.filter fun q => decide (q.id < since)
    match (if s.replayReq r then none else tryMerge 0 r (fun l => l.core == r.core && !s.replayReq l) old) with
    | some (q, w) => (s.setColQ (q ++ s.m.colQ.filter fun x => decide (since ≤ x.id) && x.id != r.id)).addWait w
    | none => s) s

/-! ### Stage A (R403, R405, R407, R409, R411) -/

/-- Entries in use at a stage, below its cap (R411). -/
def State.waitRoom (s : State) (point : Nat) : Bool :=
  let cap := if point == 1 then min 4096 (s.fld rFabWbcap 12 0) else min 8192 (s.fld rFabWbcap 29 16)
  decide ((s.m.waits.filter fun w => w.point == point).length < cap)

/-- Take the first element that a test selects out of a list. -/
def takeFirst {α : Type} (p : α → Bool) (l : List α) : Option (α × List α) :=
  match l.findIdx? p with
  | some i => match l[i]? with
    | some a => some (a, l.eraseIdx i)
    | none => none
  | none => none

/-- A thread has at most one access in flight to a sector, so that its reads of it stay in order when a visitor way serves one (R21, R201). -/
def State.aloneOn (s : State) (tid x : Nat) : Bool := decide (((s.opsOn none (sectorOf x) 32).filter fun o => o.tid == tid).length ≤ 1)

/-- STAGE_A_ARRIVAL: the oldest request of a core's collector leaves it. A load whose sector a visitor way holds is served there (R229,
R230); a request that cannot reach its home is answered with FABRIC (R407, R413); else it merges or takes a tag and a place (R405, R409). -/
def execStageAArrival (core : Nat) (s : State) : Host.Outcome State Fault Refusal :=
  .next (match takeFirst (fun (r : Req) => r.core == core) s.m.colQ with
    | none => s
    | some (r, q) =>
      let s1 := s.setColQ q
      match (if r.w.op == .load && !s.here r.w.xpa && (r.thr.all fun t => s.aloneOn t r.w.xpa) then s.visitorRead r.w.xpa else none) with
      | some x => ((match s1.l2Find r.w.xpa with | some l => s1.l2Hit l r.hint | none => s1)).answer { req := r, data := x, fault := none }
      | none =>
        if !s.reachable r.w.xpa then s1.answer { req := r, data := 0, fault := some .fabric }
        else
          match (if s1.waitRoom 1 && !s.replayReq r then tryMerge 1 r (fun l => !s.replayReq l && l.sent.isNone) s1.m.aQ else none) with
          | some (q, w) => ((s1.setAQ q).addWait w).satInc rFabStat 0 1
          | none =>
            let r1 := { r with w := { r.w with tag := s1.m.nextTag % 65536 } }
            let s2 := s1.setAQ (s1.m.aQ ++ [r1])
            { s2 with m := { s2.m with nextTag := s2.m.nextTag + 1 } })

/-- Requests that wait for an answer: of the module, and for one home module (R405). -/
def State.unanswered (s : State) (dst : Nat) : Nat × Nat :=
  let all := s.m.outst ++ s.m.bQ.filter (fun r => r.sent.isSome)
  (all.length, (all.filter fun r => r.w.dst == dst).length)

def State.tagRoom (s : State) (dst : Nat) : Bool := decide ((s.unanswered dst).1 < 65536) && decide ((s.unanswered dst).2 < 4096)

/-! ### Stage B (R409, R411, R431) -/

/-- A request enters stage B's queue, or merges there. -/
def State.intoB (s : State) (r : Req) : State :=
  match (if s.waitRoom 2 && !s.replayReq r then tryMerge 2 r (fun l => !s.replayReq l && l.fresh) s.m.bQ else none) with
  | some (q, w) => ((s.setBQ q).addWait w).satInc rFabStat 32 1
  | none => s.setBQ (s.m.bQ ++ [r])

/-- The duplicate filter (R431): a duplicate is discarded, and its answer sent again when it has been formed. -/
def State.fromLink (s : State) (r : Req) : State :=
  match s.m.dups.find? fun d => d.src == r.w.src && d.tag == r.w.tag with
  | some d => match d.ans with
    | some (x, f) => s.answer { req := r, data := x, fault := f }
    | none => s
  | none =>
    let mine := s.m.dups.filter fun d => d.src == r.w.src
    let old := if 8192 ≤ mine.length then s.m.dups.eraseP fun d => d.src == r.w.src else s.m.dups
    let d : DupEnt := { src := r.w.src, tag := r.w.tag, ans := none }
    ({ s with m := { s.m with dups := old ++ [d] } } : State).intoB r

/-- STAGE_B_ARRIVAL: through the loopback, when `port` is the module itself, or from the module `port` over a link (R403, R409). -/
def execStageBArrival (port : Nat) (s : State) : Host.Outcome State Fault Refusal :=
  .next (if port == s.b.pkg then
      match takeFirst (fun (r : Req) => s.here r.w.xpa) s.m.aQ with
      | none => s
      | some (r, q) =>
        if s.tagRoom s.b.pkg then (s.setAQ q).intoB { r with sent := some (r.sent.getD s.clk) } else s
    else match takeFirst (fun (r : Req) => r.w.src == port) s.m.rxQ with
      | none => s
      | some (r, q) => ({ s with m := { s.m with rxQ := q } }).fromLink r)

/-! ### The home agent (R234 to R239, R418 to R421) -/

/-- The rights that a request needs (R418). -/
def reqRd : ReqOp → Bool | .store => false | _ => true
def reqW : ReqOp → Bool | .load | .acq | .join => false | _ => true

/-- The protection word that a request needs, when its agent has not cached it (R420). -/
def State.pdtMiss (s : State) (r : Req) : Option Nat :=
  if r.w.tenant == 0 || s.nmod ≤ 16 || s.fld rFabPdt 0 0 == 0 then none
  else
    let a := s.pdtAddr r.w.tenant r.w.xpa
    if s.m.pdt.any fun e => e.1 == agentOf r.w.xpa && e.2.1 == a then none else some a

/-- Request r must wait for `h`, which is not performed whole. Behind a request that waits for its word: a later one of its source to the same line. Behind one
that is performed unit by unit (R200): a request of the same thread to its bytes (R21), and of two writes the later (R238). -/
def reqBehind (h r : Req) : Bool :=
  if h.fresh then h.w.src == r.w.src && lineOf h.w.xpa == lineOf r.w.xpa
  else blocksMerge r h || (reqsMeet r h && reqW h.w.op && reqW r.w.op)

/-- The request of an agent that is performed next: the first that is not held for its word, nor behind another; one that is being performed unit by unit may be
passed by others. -/
def State.homeNext (s : State) (agent : Nat) : List Req → List Req → Option Req
  | _, [] => none
  | held, r :: q =>
    if agentOf r.w.xpa != agent then s.homeNext agent held q
    else
      let wait := match s.pdtMiss r with
        | some a => s.m.held.any fun h => h.agent == agent && h.word == a
        | none => false
      let passed := !r.fresh && Config.freeChoice s.free r.id 7802 % 2 == 1
      if wait || passed || s.replayWait r || held.any fun h => reqBehind h r then s.homeNext agent (held ++ [r]) q
      else some r

/-! ### Performing a request -/

/-- The bytes of a number that a mask selects; the others are zero. -/
def maskBytes (mask x : Nat) : Nat := (List.range 32).foldl (fun a i => a + (if mask.testBit i then byteOf x i * 256 ^ i else 0)) 0

/-- The first byte of the single-copy atomic unit that holds byte i of a sector. -/
def unitHead (cut i : Nat) : Nat := ((List.range (i + 1)).reverse.find? fun j => cut.testBit j).getD 0

/-- The bytes of a request that its home performs now: all that are left, or the units that a free choice takes (R172, R200). An atomic is one unit. -/
def State.pieceOf (s : State) (r : Req) : Nat :=
  if (r.w.op != .load && r.w.op != .store) || Config.freeChoice s.free r.id 7800 % 2 == 0 then r.todo
  else (List.range 32).foldl (fun a i =>
    if r.todo.testBit i && Config.freeChoice s.free (unitHead r.cut i) (7900 + r.id) % 2 == 1 then a + 2 ^ i else a) 0

/-- The operation at the home (R237, R185 to R192, R219): the state after, and the value returned. -/
def State.performAt (s : State) (w : WireReq) : State × Nat :=
  let v := s.rdNat w.xpa w.size
  match w.op with
  | .load | .acq | .join => (s, v)
  | .store =>
    ((List.range 32).foldl (fun s i => if w.mask.testBit i then s.setByte (w.xpa + i) (BitVec.ofNat 8 (byteOf w.data i)) else s) s, 0)
  | .atom k => (s.wrNat w.xpa w.size (atomNew k.toNat w.size v w.data), v)
  | .cas => (if v == w.cmp then s.wrNat w.xpa w.size w.data else s, v)
  | .rel => (s.wrNat w.xpa w.size ((v + w.data) % 2 ^ 64), v)
  | .dty => (s.wrNat w.xpa 8 (v ||| 0x200), v)

/-- The order log entry of a home operation of this module's thread (R460): the word after it. A replay leaves the logged value (R461). -/
def State.logHome (s : State) (r : Req) : State :=
  match s.reqThread r with
  | none => s
  | some t =>
    if !isHomeOp r.w.op then s
    else
      let n := min 8 r.w.size
      let v := BitVec.ofNat 64 (s.rdNat r.w.xpa n)
      let w := s.logged t 2 v
      (if w == v then s else s.wrNat r.w.xpa n w.toNat).logOf t 2 w

/-- A request leaves its agent's queue with its answer. -/
def State.homeAnswer (s : State) (r : Req) (data : Nat) (f : Option Code) : State :=
  (s.setBQ (s.m.bQ.eraseP fun q => q.id == r.id)).answer { req := r, data := data, fault := f }

/-- A request is performed: tenant, placement, ECC, poison, then the operation (R226, R235, R418), on all of its units or on some of them (R200). -/
def State.homePerform (s : State) (r : Req) (e : Ecc) : State :=
  let x := r.w.xpa
  if r.fresh && !s.populated x then s.homeAnswer r 0 (some .fabric)
  else if r.fresh && !s.tenantOk r.w.tenant x (reqRd r.w.op) (reqW r.w.op) then s.homeAnswer r 0 (some .tenant)
  else
    let miss := (s.l2Find x).isNone
    let s1 := (s.ecc x e).findErrors x r.w.size
    let full := r.w.op == .store && r.w.mask == 2 ^ 32 - 1
    if s1.poisonedIn x r.w.size && !full && (r.fresh || r.w.op != .store) then s1.homeAnswer r 0 (some .poison)
    else
      let s2 := if full then s1.setPoison x false else s1
      let now := s1.pieceOf r
      let (s3, v) := (s2.l2Home x r.hint r.ef (reqW r.w.op)).performAt { r.w with mask := r.w.mask &&& now }
      let got := if r.w.op == .load then r.got + (if now == 2 ^ 32 - 1 then v else maskBytes now v) else v
      if now != r.todo then
        s3.setBQ (s3.m.bQ.map fun q => if q.id == r.id then { q with todo := r.todo - now, got := got } else q)
      else
        let s4 := s3.logHome r
        let s5 := if r.w.op == .load then s4.monEvent 1 (agentOf x) (Config.queueTime s.free 10) else s4
        let s6 := if miss then s5.monEvent 2 (agentOf x) (Config.queueTime s.free 11) else s5
        s6.homeAnswer r got none

/-- HOME_PERFORM: the agent takes its next request; one whose protection word is not cached is held (R420). -/
def execHomePerform (agent : Nat) (ecc : Ecc) (s : State) : Host.Outcome State Fault Refusal :=
  .next (match s.homeNext agent [] s.m.bQ with
    | none => s
    | some r =>
      match s.pdtMiss r with
      | some a => { s with m := { s.m with held := s.m.held ++ [{ agent := agent, word := a }] } }
      | none => { s with free := s.free + 1 }.homePerform r ecc)

/-- PDT_WORD_FILL (R420): the word of the agent's oldest held request is cached; an agent caches 256 words. -/
def execPdtWordFill (agent : Nat) (s : State) : Host.Outcome State Fault Refusal :=
  .next (match takeFirst (fun (h : Held) => h.agent == agent) s.m.held with
    | none => s
    | some (h, rest) =>
      let mine := s.m.pdt.filter fun e => e.1 == agent
      let kept := if 256 ≤ mine.length then s.m.pdt.eraseP fun e => e.1 == agent else s.m.pdt
      { s with m := { s.m with held := rest, pdt := kept ++ [(agent, h.word, BitVec.ofNat 64 (s.rdNat h.word 8))] } })

/-! ### Answers (R406, R410, R412) -/

/-- ANSWER_SPLIT: the answer of request n passes its oldest wait entry; the follower's answer stands right after it. -/
def execAnswerSplit (n : Nat) (s : State) : Host.Outcome State Fault Refusal :=
  .next (match s.m.anss.findIdx? (fun a => a.req.id == n), takeFirst (fun (w : WaitEnt) => w.lead == n) s.m.waits with
    | some i, some (w, rest) =>
      match s.m.anss[i]? with
      | none => s
      | some a =>
        let f : Ans := { req := w.foll, data := applyValue w.foll.w.op w.foll.w.size a.data w.e, fault := a.fault }
        ({ s with m := { s.m with waits := rest } }).setAnss (s.m.anss.take (i + 1) ++ f :: s.m.anss.drop (i + 1))
    | _, _ => s)

/-- The loaded value of a typed access: each element decoded, with its block's scale where it has one (R160). -/
def typedLoad (fmt : Nat) (ty : Ty) (rm : Rm) (satf : Bool) (ds : List Nat) (slot : Nat → Option Nat) (data : Nat) : Word :=
  mapEl ty fun i =>
    let x := (fmtCode' fmt).decode (data / 2 ^ (fmtBits fmt * i) % 2 ^ fmtBits fmt)
    (tyFmt ty).enc rm satf (ds.getD i 0) (match slot i with | some c => prod x c | none => x)
where
  fmtCode' (c : Nat) : Fmt := (fmtOf c).getD (unsignedFmt 8)

/-- The bytes that an access has read. -/
def MOp.data (o : MOp) : Nat := o.parts.foldl (fun a p => a + p.data % 256 ^ p.size * 256 ^ p.at_) 0

/-- The values that an access writes to its destinations, in order. -/
def MOp.values (o : MOp) : List Word :=
  let data := o.data
  match o.fmt with
  | .raw n => [BitVec.ofNat 64 (data % 256 ^ n)]
  | .pair => [BitVec.ofNat 64 data, BitVec.ofNat 64 (data / 2 ^ 64)]
  | .typed f t rm sf seed => [typedLoad f t rm sf (draws t.count seed).2 (fun _ => none) data]
  | .none | .join | .exit => []

/-- The results of an access become known. -/
def State.setVals (s : State) (o : MOp) : State :=
  let vs := o.dsts.zip (match o.values with | v :: rest => (if o.kind == 2 then s.logged o.tid 1 v else v) :: rest | [] => [])
  s.setPend (s.c.pend.map fun p =>
    if p.op == o.id then match vs.find? fun (q : RegRef × Word) => q.1 == p.dst with
      | some q => { p with val := some q.2 }
      | none => p
    else p)

def State.dropPend (s : State) (op : Nat) : State := s.setPend (s.c.pend.filter fun p => p.op != op)
def State.setOps (s : State) (l : List MOp) : State := { s with m := { s.m with ops := l } }

/-- An access that returns a value the order log records (R460). -/
def MOp.logged (o : MOp) : Bool := o.kind == 2 && !([.none, .join, .exit].contains o.fmt)

/-- A fence is over once every access that it waits for is performed; its acquire then removes copies (R177, R193, R231). -/
def State.fencesDone (s : State) (tid : Nat) : State :=
  let past := fun (f : Fence) => !(s.m.ops.any fun o => f.ids.contains o.id)
  let t := s.thread tid
  let s1 := t.fences.foldl (fun s f => match past f, f.acq, s.regionOf tid with
    | true, some sc, some r => s.acquire (coreOf tid) r sc none
    | _, _, _ => s) s
  if t.fences.any past then s1.modThread tid fun t => { t with fences := t.fences.filter fun f => !past f } else s1

/-- A fence of a thread whose earlier accesses are on their way (R193, R203): a release fence holds its later writes until every earlier access is performed, an
acquire fence everything until the earlier reads are, a full fence everything until all are. -/
def State.fenceOf (s : State) (tid kind : Nat) (sc : Sc) : Fence :=
  { ids := (s.m.ops.filter fun o => o.tid == tid && (kind != 0 || o.kind != 1)).map (·.id), reads := kind != 1,
    acq := if kind == 1 then none else some sc }

/-- A thread passes a fence: what it orders is held until it is over. -/
def State.passFence (s : State) (tid kind : Nat) (sc : Sc) : State :=
  let f := s.fenceOf tid kind sc
  (s.modThread tid fun t => { t with fences := t.fences ++ [f] }).fencesDone tid

/-- The lanes that wait with a thread at a `tjoin` go on past it (R302). -/
def State.joinGo (s : State) (tid : Nat) : State :=
  match (s.thread tid).wait with
  | .tjoin _ lanes => lanes.foldl (fun s t => s.modThread t fun t => s.bodyFetch (t.woken.advance 16)) s
  | _ => s

/-- The acquire of a `tjoin` that returns, with the order log's entry of its read (R302, R460). -/
def State.joinDone (s : State) (tid : Nat) : State :=
  match s.regionOf tid with
  | some r => (s.acquire (coreOf tid) r .pkg none).logOf tid 1 0
  | none => s

/-- An access with every part answered ends: its results, its acquire, its sample (R177, R231, R452). -/
def State.endOp (s : State) (o : MOp) : State :=
  let s1 := s.setOps (s.m.ops.filter fun p => p.id != o.id)
  let s2 := if o.parts.any fun p => p.fault.isSome then s1
    else
      let a := s1.setVals o
      let b := if o.logged then (o.values.take 1).foldl (fun s v => s.logOf o.tid 1 (s1.logged o.tid 1 v)) a else a
      match o.fmt, o.acq, b.regionOf o.tid with
      | .join, _, _ => if o.data == 0 then (b.joinDone o.tid).joinGo o.tid else b
      | _, some sc, some r => b.acquire (coreOf o.tid) r sc (some o.ranges)
      | _, _, _ => b
  (s2.fencesDone o.tid).sampleAnswer o.id o.tid

/-- A fault of an answer, deferred (R59, R182, R421); its results are not written. That of the read of a `tjoin` is every lane's that waits for it (R302);
that of an exit add is precise (R301). -/
def State.deferFault (s : State) (o : MOp) (c : Code) : State :=
  let f : FaultInfo := { code := c, pc := o.pc, resume := (s.thread o.tid).pc, kind := o.kind, addr := o.va, deferred := true }
  match o.fmt, (s.thread o.tid).wait with
  | .join, .tjoin _ lanes => lanes.foldl (fun s t => s.raise t { f with resume := (s.thread t).pc }) (s.joinGo o.tid)
  | .exit, _ => (s.modThread o.tid Thread.woken).raise o.tid { f with resume := o.pc, deferred := false }
  | _, _ => (s.dropPend o.id).raise o.tid f

/-- One part of an access is answered. A fault is raised as it arrives, but an `mst` waits for all its copies and raises that of the
lowest-numbered module (R416). -/
def State.partDone (s : State) (o : MOp) (k : Nat) (x : Nat) (f : Option Code) : State :=
  let parts := o.parts.modify k fun p => { p with done := true, data := x, fault := f }
  let o1 := { o with parts := parts }
  let s1 := s.setOps (s.m.ops.map fun p => if p.id == o.id then o1 else p)
  let first := !(o.parts.any fun p => p.fault.isSome)
  let s2 := match f with
    | some c => if o.mst || !first || o.kind == 16 then s1 else s1.deferFault o1 c
    | none => s1
  if parts.all (·.done) then
    let s3 := if o.mst then match parts.findSome? (·.fault) with | some c => s2.deferFault o1 c | none => s2 else s2
    s3.endOp o1
  else s2

/-- The answer of a part reaches its core: the L1 is filled or updated (R176, R201), the part is done. -/
def State.deliver (s : State) (a : Ans) (id k : Nat) : State :=
  match s.m.ops.find? fun o => o.id == id with
  | none => s
  | some o =>
    match o.parts[k]? with
    | none => s
    | some p =>
      if p.done then s
      else
        let core := coreOf o.tid
        let asid := match s.regionOf o.tid with | some r => r.asid | none => 0
        let s0 := s.setOps (s.m.ops.map fun q => if q.id == id then { q with parts := q.parts.modify k fun p => { p with done := true } } else q)
        let s1 :=
          if hostSpace p.xpa then s
          else match a.req.w.op, a.fault with
          | .load, none => s0.l1Return core asid (o.va + p.at_) p.xpa a.data o.fill
          | .load, _ => s0
          | .store, none => s0.l1Written core p.xpa a.req.w.mask a.req.w.data
          | _, _ => s0.l1Forget core p.xpa
        s1.partDone o k (if a.req.w.op == .load then a.data / 256 ^ (p.xpa % 32) % 256 ^ p.size else a.data) a.fault

/-- The answer of a request may return to its thread: that of an earlier access of the thread to the same bytes has returned (R21). -/
def State.mayReturn (s : State) (r : Req) : Bool :=
  match r.org with
  | .part id k =>
    match (s.m.ops.find? fun o => o.id == id).bind fun o => (o.parts[k]?).map fun p => (o, p) with
    | some (o, p) => !((s.opsOn none p.xpa p.size).any fun q => q.tid == o.tid && decide (q.id < o.id))
    | none => true
  | _ => true

/-- MEMORY_ANSWER: the answer of request n, with no wait entry left, returns to its core (R406). A load from another module fills the
visitor way; a write there has removed the line, and what was read before does not fill it (R230, R232). -/
def execMemoryAnswer (n : Nat) (s : State) : Host.Outcome State Fault Refusal :=
  .next (match takeFirst (fun (a : Ans) => a.req.id == n && a.req.org != .remote) s.m.anss with
    | none => s
    | some (a, rest) =>
      if (s.m.waits.any fun w => w.lead == n) || !s.mayReturn a.req then s
      else
        let s1 := { s.setAnss rest with free := s.free + 1 }
        let s3 := match a.req.sent with
          | some c => s1.monEvent 4 0 (s.clk - c)
          | none => s1
        let s4 := match a.req.org with
          | .part id k => s3.deliver a id k
          | _ => s3
        if s.here a.req.w.xpa || hostSpace a.req.w.xpa then s4
        else if a.req.w.op != .load then s4.visitorInvalidate a.req.w.xpa
        else if a.fault.isNone && a.req.sent.isSome then s4.visitorReturn a.req.w.xpa a.data a.req.hint a.req.ef a.req.vfill else s4)

/-- Requests whose answer has not returned within the limit after they were first sent (R413): in stage A, at their home, or with an answer that is on its
way. -/
def State.lateReqs (s : State) : List Req :=
  let back := (s.m.anss.filter fun a => a.fault != some .fabric).map (·.req)
  (s.m.aQ ++ s.m.outst ++ s.m.bQ ++ (s.m.waits.filter fun w => w.point == 2).map (·.foll) ++ back).filter fun r =>
    r.org != .dropped && (match r.sent with | some c => decide (c + 2 ^ s.fld rFabCfg 39 32 ≤ s.clk) | none => false)

/-- ANSWER_TIMEOUT (R413): request n is answered with FABRIC when its limit has passed, or when it waits in stage A and no path is usable.
A request of the loopback that its home still holds, or whose answer is on its way, goes on there without a source. -/
def execAnswerTimeout (n : Nat) (s : State) : Host.Outcome State Fault Refusal :=
  let late := fun (r : Req) => r.id == n && r.org != .dropped &&
    (match r.sent with | some c => decide (c + 2 ^ s.fld rFabCfg 39 32 ≤ s.clk) | none => false)
  .next (match takeFirst (fun (r : Req) => r.id == n && (!s.reachable r.w.xpa || late r)) s.m.aQ with
    | some (r, q) => (s.setAQ q).answer { req := r, data := 0, fault := some .fabric }
    | none =>
      match takeFirst late s.m.outst with
      | some (r, q) => ({ s with m := { s.m with outst := q } }).answer { req := r, data := 0, fault := some .fabric }
      | none =>
        match s.lateReqs.find? fun r => r.id == n with
        | none => s
        | some r =>
          let id := s.m.nextId
          let f := fun (q : Req) => if q.id == n then { q with id := id, org := .dropped } else q
          let g := fun (w : WaitEnt) => if w.point == 2 then { w with lead := if w.lead == n then id else w.lead, foll := f w.foll } else w
          let s1 := s.newId
          let h := fun (x : Ans) => { x with req := f x.req }
          ({ s1 with m := { s1.m with bQ := s.m.bQ.map f, waits := s.m.waits.map g, anss := s.m.anss.map h } }).answer
            { req := r, data := 0, fault := some .fabric })

/-- HOST_SPACE_ANSWER: the host answers request n (R170): a load takes the host's data, a store is performed there. The requests of one
thread to one sector are answered in order. -/
def execHostSpaceAnswer (n data : Nat) (s : State) : Host.Outcome State Fault Refusal :=
  .next (match takeFirst (fun (r : Req) => r.id == n) s.m.hostQ with
    | none => s
    | some (r, rest) =>
      if (s.m.hostQ.takeWhile fun q => q.id != n).any fun q => blocksMerge r q then s
      else
        let s1 := { s with m := { s.m with hostQ := rest } }
        let s2 := if r.w.op == .store then (s1.performAt r.w).1 else s1
        match r.org with
        | .part id k => s2.deliver { req := r, data := data % 2 ^ 256, fault := none } id k
        | _ => s2)

/-! ### Translation walks (R221) -/

/-- A miss joins the walk of its page in its die, or waits as a new one. -/
def State.addMiss (s : State) (tid va : Nat) : State :=
  match s.regionOf tid with
  | none => s
  | some r =>
    let die := dieOf (coreOf tid)
    let key := fun (w : Walk) => w.die == die && w.asid == r.asid && w.va / 65536 == va / 65536
    let ws := if s.m.walks.any key then s.m.walks.map fun w => if key w then { w with tids := (w.tids ++ [tid]).dedup } else w
      else s.m.walks ++ [{ die := die, core := coreOf tid, asid := r.asid, ttb := r.ttb, va := va, tenant := r.tenant, started := false,
                           tids := [tid] }]
    { s with m := { s.m with walks := ws } }

/-- WALK_START (R221): the die's oldest waiting miss takes one of its 256 walkers. -/
def execWalkStart (die : Nat) (s : State) : Host.Outcome State Fault Refusal :=
  .next (if 256 ≤ (s.m.walks.filter fun w => w.die == die && w.started).length then s
    else match s.m.walks.findIdx? fun w => w.die == die && !w.started with
      | some i => { s with m := { s.m with walks := s.m.walks.modify i fun w => { w with started := true } } }
      | none => s)

/-- WALK_COMPLETE (R215, R221): the n-th walk ends. -/
def execWalkComplete (n : Nat) (s : State) : Host.Outcome State Fault Refusal :=
  .next (match s.m.walks[n]? with
    | none => s
    | some w => if w.started then (s.endWalk w).1 else s)

end Sys2Proof.Machine
end

