-- ==== Sys2Proof/Machine/Stall.lean ====
section
/-! DEFINITION. Stall reasons (R448). -/

namespace Sys2Proof.Machine
open Sys2Proof

/-- Waits that R448 calls barrier, rejoin, park, decision queue empty, copy batch. -/
def Wait.isBarrier : Wait → Bool | .bar _ | .barAgain _ | .xbeg _ _ | .xend _ _ => true | _ => false
def Wait.isRejoin : Wait → Bool | .rjoin _ => true | _ => false
def Wait.isCopy : Wait → Bool | .batch _ | .batches | .node _ => true | _ => false
def Wait.isDq : Wait → Bool | .dqEmpty _ _ _ => true | _ => false
def Wait.isPark (w : Wait) : Bool := w != .none && !w.isBarrier && !w.isRejoin && !w.isCopy && !w.isDq

/-- The stall reason of a thread in this clock, by position (R448). -/
def State.stall (s : State) (tid : Nat) : Nat :=
  match s.thread? tid with
  | none => 15
  | some t =>
    if t.gone then 15
    else if t.issuedAt == s.clk then 0
    else if s.frozen (unitOf tid) then 1
    else if !t.faults.isEmpty then 2
    else if t.wait.isBarrier then 3
    else if t.wait.isRejoin then 4
    else if (t.park && s.owes tid) || (t.wait.isPark && !s.waitOver t) then 5
    else if t.wait.isDq then 6
    else if t.wait.isCopy && !s.waitOver t then 7
    else if t.lostAt == some s.clk then 8
    else if t.fetched then 9
    else 10

end Sys2Proof.Machine
end

