-- ==== Sys2Proof/Machine/Barrier.lean ====
section
/-! DEFINITION. The barrier engine (R312 to R327). Barrier 16 is the cluster barrier. -/

namespace Sys2Proof.Machine
open Sys2Proof

/-! ### Episodes by number -/

def State.clusOfWg (s : State) (key : Nat) : Option Clus := s.c.clusters.find? fun c => c.members.contains key
def State.modClus (s : State) (id : Nat) (f : Clus → Clus) : State :=
  { s with c := { s.c with clusters := s.c.clusters.map fun c => if c.id == id then f c else c } }

/-- The open episode of barrier n of a workgroup or of its cluster. -/
def State.episode (s : State) (key n : Nat) : Option Episode :=
  if n == 16 then (s.clusOfWg key).bind (·.ep) else (s.wg? key).bind fun g => g.eps.find? fun e => e.n == n

/-- Set or close the episode of barrier n. -/
def State.setEpisode (s : State) (key n : Nat) (e : Option Episode) : State :=
  if n == 16 then match s.clusOfWg key with
    | some c => s.modClus c.id fun c => { c with ep := e }
    | none => s
  else s.modWg key fun g => { g with eps := (g.eps.filter fun x => x.n != n) ++ e.toList }

def Episode.has (e : Episode) (tid : Nat) : Bool := e.arrs.any fun a => a.1 == tid
/-- The thread has an arrival in the open episode of barrier n. -/
def State.arrived (s : State) (key n tid : Nat) : Bool := match s.episode key n with | some e => e.has tid | none => false

/-- Threads of a warp that are not gone. -/
def State.liveOf (s : State) (wid : Nat) : List Nat := (s.c.threads.filter fun t => widOf t.tid == wid && !t.gone).map (·.tid)

/-- A warp has arrived (R314). -/
def State.warpArrived (s : State) (e : Episode) (wid : Nat) : Bool := let l := s.liveOf wid; !l.isEmpty && l.all e.has

/-- A workgroup has arrived at the cluster barrier (R314). -/
def State.wgArrived (s : State) (e : Episode) (key : Nat) : Bool :=
  match s.wg? key with
  | none => false
  | some g =>
    let ws := g.warps.filter fun w => !(s.liveOf w).isEmpty
    !ws.isEmpty && ws.all (s.warpArrived e)

/-- The warps of arrived warps, or of arrived workgroups for barrier 16. -/
def State.arrivedWarps (s : State) (key n : Nat) (e : Episode) : List Nat :=
  if n == 16 then match s.clusOfWg key with
    | some c => (c.members.filter (s.wgArrived e)).flatMap fun k => match s.wg? k with | some g => g.warps | none => []
    | none => []
  else match s.wg? key with
    | some g => g.warps.filter (s.warpArrived e)
    | none => []

/-- ARRN: arrived warps, or workgroups for barrier 16 (R323). -/
def State.arrn (s : State) (key n : Nat) (e : Episode) : Nat :=
  if n == 16 then match s.clusOfWg key with
    | some c => (c.members.filter (s.wgArrived e)).length
    | none => 0
  else (s.arrivedWarps key n e).length

/-- The acquire of a return from a wait (R208, R318): a full fence, at `.core` scope, or at `.clus` for the cluster barrier. -/
def State.barAcquire (s : State) (n tid : Nat) : State := s.passFence tid 2 (if n == 16 then .clus else .core)

/-- Threads that wait for barrier n go on (R315): the next instruction after a wait, the barrier instruction again after R317. -/
def State.releaseBar (s : State) (n : Nat) (ts : List Nat) : State :=
  let s1 := ts.foldl (fun s t => if (s.thread t).wait == .bar n then s.barAcquire n t else s) s
  s1.setThreads (s1.c.threads.map fun t =>
    if ts.contains t.tid && (t.wait == .bar n || t.wait == .barAgain n) then { t with wait := .none } else t)

/-- The core that a barrier completion names in the order log: of the workgroup, or of rank 0 (R460). -/
def State.barCore (s : State) (key n : Nat) : Nat :=
  match (if n == 16 then ((s.clusOfWg key).bind fun c => c.members[0]?) else some key).bind s.wg? with | some g => g.core | none => 0

/-- In a replay, a completion waits until it is the next in the log (R461). -/
def State.barTurn (s : State) (key n : Nat) : Bool :=
  match (s.wg? key).bind fun g => s.region? g.region with
  | none => true
  | some r => !s.replaying r.asid || match s.logNext fun x => x / 2 ^ 21 == 3 with
    | some q => slice (s.rdNat (s.logBase + 16 * q.1) 8) 63 35 == logPlace 3 (s.barCore key n) 0 0 0 && q.2 == n
    | none => true

/-- Test for completion (R315). Arrivals that remain open the next episode, with the same K. -/
def State.barTest (s : State) (key n : Nat) : State :=
  match s.episode key n with
  | none => s
  | some e =>
    if s.arrn key n e < e.k || e.k == 0 || !s.barTurn key n then s
    else
      let ws := s.arrivedWarps key n e
      let out := (e.arrs.filter fun a => ws.contains (widOf a.1)).map (·.1)
      let rest := e.arrs.filter fun a => !ws.contains (widOf a.1)
      let s1 := s.setEpisode key n (if rest.isEmpty then none else
        let o := rest.headD (0, 0, 0, none)
        some { e with cmis := false, oclk := s.clk, timer := 0, timedOut := false, op := (o.1, o.2.2.1), cop := o.2.2.2, arrs := rest })
      let s2 := s1.releaseBar n out
      match s.regionOf (out.headD 0) with
      | some r => s2.orderLog r.asid 3 (s.barCore key n) 0 0 0 (BitVec.ofNat 64 n)
      | none => s2

/-- K of an episode that an arrival opens (R313). -/
def State.barCount (s : State) (key n count : Nat) : Nat :=
  if n == 16 then match s.clusOfWg key with | some c => c.members.length | none => 1
  else if count == 0 then match s.wg? key with | some g => g.warps.length | none => 1
  else count

/-- The count operand of an arrival differs from the opening one (R313); `k` is the count that it asks for. -/
def Episode.differs (e : Episode) (count k : Nat) : Bool := match e.cop with | some c => count != c | none => k != e.k

/-- One arrival (R313 to R316): it opens the episode, or joins it; another count sets CMIS. -/
def State.arrive (s : State) (key n count tid : Nat) : State :=
  let k := s.barCount key n count
  let a := (tid, s.clk, s.cur.pc, some count)
  let e : Episode := match s.episode key n with
    | some e => { e with arrs := e.arrs ++ [a], cmis := e.cmis || e.differs count k }
    | none => { n := n, k := k, cmis := false, oclk := s.clk, timer := 0, timedOut := false, op := (tid, s.cur.pc), cop := some count, arrs := [a] }
  ((s.setEpisode key n (some e)).modThread tid fun t => { t with lastPc := s.cur.pc, lastClk := s.clk }).barTest key n

/-- The exit of a thread withdraws its arrivals, and tests every open episode of its workgroup and cluster again (R314). -/
def State.barExit (s : State) (key tid : Nat) : State :=
  (List.range 17).foldl (fun s n =>
    match s.episode key n with
    | none => s
    | some e =>
      let arrs := e.arrs.filter fun a => a.1 != tid
      (s.setEpisode key n (if arrs.isEmpty then none else some { e with arrs := arrs })).barTest key n) s

/-! ### Instructions (R319 to R323) -/

/-- The thread's workgroup, or the fault of a fork task (R312). -/
def State.barWg (s : State) (tid : Nat) : Except FaultInfo Nat :=
  match s.wgOf tid with
  | some g => .ok g.key
  | none => .error (flt .perm)

/-- Accesses of a thread that a barrier arrival waits for (R318). -/
def State.barBusy (s : State) (tid : Nat) : Bool := (s.m.ops.any fun o => o.tid == tid) || !(s.thread tid).spilled

/-- `bar`, `bara`, `barc`, `barc.arr` (R320, R322). A thread that has an arrival waits to arrive again (R317), unless a later arrival of the bundle completes
that episode. -/
def barBody (n count : Nat) (waits : Bool) : Body := fun s ts =>
  let (s1, cs0) := ts.foldl (fun (acc : State × List (Nat × Ctl)) t =>
    match acc.1.barWg t with
    | .error f => (acc.1, acc.2 ++ [(t, .fault f)])
    | .ok key =>
      if s.barBusy t then (acc.1, acc.2 ++ [(t, .hold .drain)])
      else if acc.1.arrived key n t then (acc.1.modThread t fun t => { t with wait := .barAgain n }, acc.2 ++ [(t, .hold (.barAgain n))])
      else (acc.1.arrive key n count t, acc.2)) (s, [])
  let cs := cs0.map fun c => (c.1, if c.2 == .hold (.barAgain n) then .hold (s1.thread c.1).wait else c.2)
  -- a thread still in the open episode waits for it; the others have been released by a later arrival of the bundle
  let mine := ts.filter fun t => !(cs.any fun c => c.1 == t)
  let inEp := fun t => match s1.barWg t with | .ok key => s1.arrived key n t | .error _ => false
  if waits then
    ((mine.filter fun t => !inEp t).foldl (fun s t => s.barAcquire n t) s1,
     cs ++ (mine.filter inEp).map fun t => (t, .wait (.bar n)))
  else (s1, cs)

/-- `barw`, `barc.wait` (R321). -/
def barwBody (n : Nat) : Body := fun s ts =>
  ts.foldl (fun (acc : State × List (Nat × Ctl)) t =>
    match acc.1.barWg t with
    | .error f => (acc.1, acc.2 ++ [(t, .fault f)])
    | .ok key =>
      if acc.1.arrived key n t then (acc.1, acc.2 ++ [(t, .wait (.bar n))]) else (acc.1.barAcquire n t, acc.2)) (s, [])

def execBar (x : S64A) (s : State) : Host.Outcome State Fault Refusal := s.run (.bar x) (barBody x.i16.toNat x.a.num true)
def execBara (x : S64A) (s : State) : Host.Outcome State Fault Refusal := s.run (.bara x) (barBody x.i16.toNat x.a.num false)
def execBarw (x : S64A) (s : State) : Host.Outcome State Fault Refusal := s.run (.barw x) (barwBody x.i16.toNat)
def execBarc (x : S64A) (s : State) : Host.Outcome State Fault Refusal := s.run (.barc x) (barBody 16 0 true)
def execBarcArr (x : S64A) (s : State) : Host.Outcome State Fault Refusal := s.run (.barcArr x) (barBody 16 0 false)
def execBarcWait (x : S64A) (s : State) : Host.Outcome State Fault Refusal := s.run (.barcWait x) (barwBody 16)

/-- The snapshot of barrier n for a thread (R323). -/
def State.barSnap (s : State) (key n tid : Nat) : Nat :=
  match s.episode key n with
  | none => 0
  | some e => s.arrn key n e % 256 + e.k % 256 * 2 ^ 8 + bit (e.has tid) * 2 ^ 16 + bit e.cmis * 2 ^ 17 + 2 ^ 18

/-- R323: a `w` destination takes the MINE bit of the highest executing lane. -/
def execBarq (x : S64A) (s : State) : Host.Outcome State Fault Refusal :=
  s.run (.barq x) fun s ts =>
    let bad := fun t => match s.barWg t with | .error f => some f | .ok _ => none
    let ok := ts.filter fun t => (bad t).isNone
    let who := fun t => if x.d.isW then (ok.filter fun u => widOf u == widOf t).getLastD t else t
    (s.result ok x.d fun t => match s.barWg t with
      | .ok key => BitVec.ofNat 64 (s.barSnap key x.i16.toNat (who t))
      | .error _ => 0, faultsOf ts bad)

/-! ### The broom wagon (R325 to R327) -/

/-- Place bytes at an offset of a block image. -/
def field (off v : Nat) : Nat := v * 256 ^ off

/-- The last exit of a warp: its lane and its program counter. -/
def State.lastExit (s : State) (wid : Nat) : Nat × Nat :=
  match (s.c.threads.filter fun t => widOf t.tid == wid && t.gone).foldl (fun (m : Option Thread) t => match m with
    | some u => if u.lastClk ≤ t.lastClk then some t else m
    | none => some t) none with
  | some t => (laneOf t.tid, t.lastPc)
  | none => (0, 0)

/-- WS and the fields of a warp entry (R326). -/
def State.warpEntry (s : State) (e : Episode) (wid : Nat) : Nat :=
  let live := s.liveOf wid
  let arrs := e.arrs.filter fun a => widOf a.1 == wid
  let amsk := arrs.foldl (fun m a => m ||| 2 ^ laneOf a.1) 0
  let next := (live.find? fun t => !e.has t).getD 0
  let (ws, lane, stl, pc) :=
    if live.isEmpty then (2, (s.lastExit wid).1, 0, (s.lastExit wid).2)
    else if live.all e.has then match arrs.getLast? with
      | some a => (1, laneOf a.1, 0, a.2.2.1)
      | none => (1, 0, 0, 0)
    else (if arrs.isEmpty then 4 else 3, laneOf next, s.stall next, (s.thread next).pc)
  pc % 2 ^ 57 + ws * 2 ^ 80 + lane * 2 ^ 83 + stl % 16 * 2 ^ 88 + amsk * 2 ^ 96

/-- A rank entry (R326); `past` is what is left of the rank when it has ended. -/
def State.rankEntry (s : State) (e : Episode) (key : Nat) (past : Option Ended) : Nat :=
  match s.wg? key with
  | none => match past with | some d => 2 * 2 ^ 64 + d.core * 2 ^ 88 + d.idx % 2 ^ 32 * 2 ^ 96 | none => 0
  | some g =>
    let live := g.warps.filter fun w => !(s.liveOf w).isEmpty
    let warr := (g.warps.zip (List.range g.warps.length)).foldl (fun m q => if s.warpArrived e q.1 then m ||| 2 ^ q.2 else m) 0
    let any := e.arrs.any fun a => g.warps.contains (widOf a.1)
    let ws := if live.isEmpty then 2 else if live.all (s.warpArrived e) then 1 else if any then 3 else 4
    warr + ws * 2 ^ 64 + live.length % 256 * 2 ^ 80 + g.core * 2 ^ 88 + g.idx % 2 ^ 32 * 2 ^ 96

/-- The diagnostic block of a timeout (R326). -/
def State.diagBlock (s : State) (seq key n : Nat) (e : Episode) : Nat :=
  let clus := if n == 16 then s.clusOfWg key else none
  let members := match clus with | some c => c.members | none => [key]
  let past := fun (rank : Nat) => clus.bind fun c => c.ended.find? fun d => d.rank == rank
  let g := s.wg? ((members[0]?).getD key)
  let warps := match g with | some g => g.warps | none => []
  let num := fun (f : Nat → Bool) (l : List Nat) => (l.zip (List.range l.length)).foldl (fun m q => if f q.1 then m ||| 2 ^ q.2 else m) 0
  let arrm := if n == 16 then num (s.wgArrived e) members else num (s.warpArrived e) warps
  let goneWg := fun k => match s.wg? k with | some g => g.warps.all fun w => (s.liveOf w).isEmpty | none => true
  let gone := if n == 16 then num goneWg members else num (fun w => (s.liveOf w).isEmpty) warps
  let exits := match g, past 0 with | none, some d => d.exits | _, _ => []
  let idx := match g, past 0 with | some g, _ => g.idx | none, some d => d.idx | none, none => 0
  let core := match g, past 0 with | some g, _ => g.core | none, some d => d.core | none, none => 0
  field 0 (seq % 2 ^ 32) + field 4 (idx % 2 ^ 32) + field 8 n + field 9 (e.k % 256) +
  field 10 (s.arrn key n e % 256) + field 11 (bit e.cmis + 2 * bit (n == 16)) + field 12 core +
  field 16 (e.oclk % 2 ^ 64) + field 24 (s.clk % 2 ^ 64) + field 32 arrm + field 40 gone +
  (warps.zip (List.range warps.length)).foldl (fun a q => a + field (64 + 16 * q.2) (s.warpEntry e q.1)) 0 +
  (exits.zip (List.range exits.length)).foldl (fun a q => a + field (64 + 16 * q.2) (q.1.2 % 2 ^ 57 + 2 * 2 ^ 80 + q.1.1 * 2 ^ 83)) 0 +
  (if n == 16 then (members.zip (List.range members.length)).foldl (fun a q => a + field (1088 + 16 * q.2) (s.rankEntry e q.1 (past q.2))) 0 else 0)

/-- Threads that wait on the episode of barrier n of a workgroup or its cluster: for the episode of their arrival, or to arrive again. -/
def State.waiters (s : State) (key n : Nat) : List Nat :=
  let keys := if n == 16 then match s.clusOfWg key with | some c => c.members | none => [key] else [key]
  let ws := keys.flatMap fun k => match s.wg? k with | some g => g.warps | none => []
  (s.c.threads.filter fun t => !t.gone && ws.contains (widOf t.tid) && (t.wait == .bar n || t.wait == .barAgain n)).map (·.tid)

/-- An episode is abandoned (R327): the arrivals go and the barrier closes. Under POL 3 the waiting threads enter the handler; after a
release under POL 2 they go on. A thread that waited to arrive again resumes at its barrier instruction. -/
def State.abandon (s : State) (key n : Nat) (handler : Bool) : State :=
  let ts := s.waiters key n
  let s1 := s.setEpisode key n none
  ts.foldl (fun s t =>
    let s1 := s.modThread t fun u => { u with wait := .none, replay := false }
    if !handler then s1
    else match s1.regionOf t with
      | none => s1
      | some r =>
        let th := s1.thread t
        let f : FaultInfo := { code := .bartimeout, pc := th.pc, resume := th.pc }
        s1.modThread t fun u => { (enterHandler r f u) with faults := u.faults }) s1

/-- BARTIMEOUT (R325 to R327): the diagnostic block, then the record, then the policy. -/
def execBartimeout (wg n : Nat) (s : State) : Host.Outcome State Fault Refusal :=
  .next (match s.episode wg n, (s.wg? wg).bind fun g => s.region? g.region with
    | some e, some r =>
      if e.timer < 2 ^ r.bto || e.timedOut then s
      else
        let seq := r.timeouts + 1
        let off := 2048 * ((seq - 1) % 2)
        let s1 := (s.devWrite (r.flta + off) 2048 (s.diagBlock seq wg n e)).modRegion r.num fun r => { r with timeouts := seq }
        let s2 := s1.setEpisode wg n (some { e with timedOut := true })
        let nested := r.pol == 3 && (s.waiters wg n).any fun t => (s.thread t).hm
        let f : FaultInfo := { code := .bartimeout, pc := e.op.2, resume := 0, aux := off, clk := s.clk }
        match s2.region? r.num with
        | none => s2
        | some r2 =>
          let s3 := s2.faultRecord r2 (s.wgi e.op.1) e.op.1 nested f
          if nested then s3.terminate r.num false
          else match r.pol with
            | 0 => s3.terminate r.num false
            | 1 => s3.terminate r.num true
            | 2 =>
              if r.state == 6 then s3
              else ((s3.modRegion r.num fun r => { r with state := 6 }).devWrite (r.rcb + 148) 1 6).msi 2
            | _ => s3.abandon wg n true
    | _, _ => s)

end Sys2Proof.Machine
end

