-- ==== Sys2Proof/Machine/Integer.lean ====
section
/-! DEFINITION. The integer group (R114 to R120) and the predicate group (R132). -/

namespace Sys2Proof.Machine
open Sys2Proof

/-- Sub-element e that an operand supplies to a thread (R111). -/
def State.el (s : State) (tid : Nat) (t : Ty) (o : Opnd) (e : Nat) : Nat := srcEl t o (s.opnd tid o) e

/-- One, two, three or four sources, sub-element by sub-element (R111). -/
def body1 (x : V96A) (f : Nat → Nat) : Body :=
  resultBody x.d fun s t => mapEl x.ty fun e => f (s.el t x.ty x.a e)
def body2 (x : V96A) (f : Nat → Nat → Nat) : Body :=
  resultBody x.d fun s t => mapEl x.ty fun e => f (s.el t x.ty x.a e) (s.el t x.ty x.b e)
def body3 (x : V96A) (f : Nat → Nat → Nat → Nat) : Body :=
  resultBody x.d fun s t => mapEl x.ty fun e => f (s.el t x.ty x.a e) (s.el t x.ty x.b e) (s.el t x.ty x.c e)
def body4 (x : V96A) (f : Nat → Nat → Nat → Nat → Nat) : Body :=
  resultBody x.d fun s t => mapEl x.ty fun e =>
    f (s.el t x.ty x.a e) (s.el t x.ty x.b e) (s.el t x.ty x.c e) (s.el t x.ty x.e e)

/-- The immediate form: I32 takes the place of B (R111, R114). -/
def bodyI (x : M128A) (f : Nat → Nat → Nat) : Body :=
  resultBody x.d fun s t => mapEl x.ty fun e => f (s.el t x.ty x.a e) (immEl x.ty x.i32)

/-- The bitwise instructions on all 64 bits (R111, R115). -/
def bodyBits (x : V96A) (f : Word → Word → Word) : Body := resultBody x.d fun s t => f (s.opnd t x.a) (s.opnd t x.b)
def bodyBitsI (x : M128A) (f : Word → Word → Word) : Body := resultBody x.d fun s t => f (s.opnd t x.a) (x.i32.signExtend 64)

/-- `.sat` is present. -/
def V96A.isSat (x : V96A) : Bool := x.sat == .sat
def M128A.isSat (x : M128A) : Bool := x.sat == .sat

def execIaddV96 (x : V96A) (s : State) : Host.Outcome State Fault Refusal := s.run (.iaddV96 x) (body2 x (elAdd x.ty (V96A.isSat x)))
def execIaddM128 (x : M128A) (s : State) : Host.Outcome State Fault Refusal := s.run (.iaddM128 x) (bodyI x (elAdd x.ty (M128A.isSat x)))
def execIsubV96 (x : V96A) (s : State) : Host.Outcome State Fault Refusal := s.run (.isubV96 x) (body2 x (elSub x.ty (V96A.isSat x)))
def execIsubM128 (x : M128A) (s : State) : Host.Outcome State Fault Refusal := s.run (.isubM128 x) (bodyI x (elSub x.ty (M128A.isSat x)))
def execImulV96 (x : V96A) (s : State) : Host.Outcome State Fault Refusal := s.run (.imulV96 x) (body2 x (elMul x.ty (V96A.isSat x)))
def execImulM128 (x : M128A) (s : State) : Host.Outcome State Fault Refusal := s.run (.imulM128 x) (bodyI x (elMul x.ty (M128A.isSat x)))
def execImulh (x : V96A) (s : State) : Host.Outcome State Fault Refusal := s.run (.imulh x) (body2 x (elMulh x.ty))
def execImad (x : V96A) (s : State) : Host.Outcome State Fault Refusal := s.run (.imad x) (body3 x (elMad x.ty (V96A.isSat x)))
def execIminV96 (x : V96A) (s : State) : Host.Outcome State Fault Refusal := s.run (.iminV96 x) (body2 x (elMin x.ty))
def execIminM128 (x : M128A) (s : State) : Host.Outcome State Fault Refusal := s.run (.iminM128 x) (bodyI x (elMin x.ty))
def execImaxV96 (x : V96A) (s : State) : Host.Outcome State Fault Refusal := s.run (.imaxV96 x) (body2 x (elMax x.ty))
def execImaxM128 (x : M128A) (s : State) : Host.Outcome State Fault Refusal := s.run (.imaxM128 x) (bodyI x (elMax x.ty))
def execIabs (x : V96A) (s : State) : Host.Outcome State Fault Refusal := s.run (.iabs x) (body1 x (elAbs x.ty (V96A.isSat x)))
def execIneg (x : V96A) (s : State) : Host.Outcome State Fault Refusal := s.run (.ineg x) (body1 x (elNeg x.ty (V96A.isSat x)))
def execBandV96 (x : V96A) (s : State) : Host.Outcome State Fault Refusal := s.run (.bandV96 x) (bodyBits x (· &&& ·))
def execBandM128 (x : M128A) (s : State) : Host.Outcome State Fault Refusal := s.run (.bandM128 x) (bodyBitsI x (· &&& ·))
def execBorV96 (x : V96A) (s : State) : Host.Outcome State Fault Refusal := s.run (.borV96 x) (bodyBits x (· ||| ·))
def execBorM128 (x : M128A) (s : State) : Host.Outcome State Fault Refusal := s.run (.borM128 x) (bodyBitsI x (· ||| ·))
def execBxorV96 (x : V96A) (s : State) : Host.Outcome State Fault Refusal := s.run (.bxorV96 x) (bodyBits x (· ^^^ ·))
def execBxorM128 (x : M128A) (s : State) : Host.Outcome State Fault Refusal := s.run (.bxorM128 x) (bodyBitsI x (· ^^^ ·))
def execBnot (x : V96A) (s : State) : Host.Outcome State Fault Refusal := s.run (.bnot x) (resultBody x.d fun s t => ~~~ (s.opnd t x.a))
def execShl (x : V96A) (s : State) : Host.Outcome State Fault Refusal := s.run (.shl x) (body2 x (elShl x.ty.width))
def execShr (x : V96A) (s : State) : Host.Outcome State Fault Refusal := s.run (.shr x) (body2 x (elShr x.ty.width))
def execSar (x : V96A) (s : State) : Host.Outcome State Fault Refusal := s.run (.sar x) (body2 x (elSar x.ty.width))
def execRol (x : V96A) (s : State) : Host.Outcome State Fault Refusal := s.run (.rol x) (body2 x (elRol x.ty.width))
def execClz (x : V96A) (s : State) : Host.Outcome State Fault Refusal := s.run (.clz x) (body1 x (elClz x.ty.width))
def execPopc (x : V96A) (s : State) : Host.Outcome State Fault Refusal := s.run (.popc x) (body1 x (elPopc x.ty.width))
def execBrev (x : V96A) (s : State) : Host.Outcome State Fault Refusal := s.run (.brev x) (body1 x (elBrev x.ty.width))

/-- R116. -/
def execBfx (x : V96A) (s : State) : Host.Outcome State Fault Refusal := s.run (.bfx x) (body3 x (elBfx x.ty))
def execBfi (x : V96A) (s : State) : Host.Outcome State Fault Refusal := s.run (.bfi x) (body4 x (elBfi x.ty.width))

/-- R117. -/
def execSel (x : V96A) (s : State) : Host.Outcome State Fault Refusal :=
  s.run (.sel x) (resultBody x.d fun s t => if s.readP t x.c.num then s.opnd t x.a else s.opnd t x.b)

/-- The result of a compare: a predicate, or a mask (R118). -/
def cmpResult (d : Opnd) (t : Ty) (any : Bool) (rs : List Bool) : Word := if d.isP then (if cmpPred any rs then 1 else 0) else cmpMask t rs

/-- R118. -/
def execIcmpV96 (x : V96A) (s : State) : Host.Outcome State Fault Refusal :=
  s.run (.icmpV96 x) (resultBody x.d fun s t => cmpResult x.d x.ty (x.opx.getLsbD 3) ((List.range x.ty.count).map fun e =>
    intCond (x.opx.extractLsb' 0 3).toNat (intVal x.ty (s.el t x.ty x.a e)) (intVal x.ty (s.el t x.ty x.b e))))

def execIcmpM128 (x : M128A) (s : State) : Host.Outcome State Fault Refusal :=
  s.run (.icmpM128 x) (resultBody x.d fun s t => cmpResult x.d x.ty (x.opx.getLsbD 3) ((List.range x.ty.count).map fun e =>
    intCond (x.opx.extractLsb' 0 3).toNat (intVal x.ty (s.el t x.ty x.a e)) (intVal x.ty (immEl x.ty x.i32))))

/-- R119: the sum and the carry out are two results of one issue. -/
def execIaddc (x : V96A) (s : State) : Host.Outcome State Fault Refusal :=
  s.run (.iaddc x) fun s ts =>
    let cin := fun t => s.readP t x.c.num
    let s1 := s.result ts x.d (fun t => s.opnd t x.a + s.opnd t x.b + (if cin t then 1 else 0)) (s.free + 1)
    (s1.result ts x.e (fun t => if carryOut (s.opnd t x.a) (s.opnd t x.b) (cin t) then 1 else 0) (s.free + 1), [])

/-- A source of a predicate instruction: a predicate or an immediate 0 or 1, and its inversion (R132). -/
def State.predIn (s : State) (tid : Nat) (o : Opnd) (inv : Bool) : Bool := ((s.opnd tid o).getLsbD 0) != inv

/-- R132. -/
def predBody (x : S64A) (f : Bool → Bool → Bool) : Body :=
  resultBody x.d fun s t =>
    if f (s.predIn t x.a (x.i16.getLsbD 0)) (s.predIn t x.b (x.i16.getLsbD 1)) then 1 else 0

def execPand (x : S64A) (s : State) : Host.Outcome State Fault Refusal := s.run (.pand x) (predBody x (predOp 0))
def execPor (x : S64A) (s : State) : Host.Outcome State Fault Refusal := s.run (.por x) (predBody x (predOp 1))
def execPxor (x : S64A) (s : State) : Host.Outcome State Fault Refusal := s.run (.pxor x) (predBody x (predOp 2))
def execPnot (x : S64A) (s : State) : Host.Outcome State Fault Refusal := s.run (.pnot x) (predBody x fun a _ => !a)
def execPmov (x : S64A) (s : State) : Host.Outcome State Fault Refusal := s.run (.pmov x) (predBody x fun a _ => a)

end Sys2Proof.Machine
end

