-- ==== Sys2Proof/Machine/CrossLane.lean ====
section
/-! DEFINITION. The cross-lane group (R133 to R140). A group is the set of threads of one warp that execute the instruction in the
bundle. -/

namespace Sys2Proof.Machine
open Sys2Proof

/-- The thread of a lane, when it is in the group of `tid` (R133). -/
def laneIn (ts : List Nat) (tid lane : Nat) : Option Nat :=
  let u := widOf tid * 32 + lane
  if lane < 32 && ts.contains u then some u else none

/-- The group of a thread. -/
def groupOf (ts : List Nat) (tid : Nat) : List Nat := ts.filter fun u => widOf u == widOf tid

/-- The source slot of `shfl` (R134). -/
def shflSrc (mode self n : Nat) : Int :=
  match mode with
  | 0 => n
  | 1 => (self : Int) - n
  | 2 => self + n
  | _ => (self ^^^ n : Nat)

/-- R134: a slot whose source is outside the group keeps its value. -/
def execShfl (x : V96A) (s : State) : Host.Outcome State Fault Refusal :=
  s.run (.shfl x) fun s ts =>
    let sz := x.ty.count
    (s.result ts x.d fun t => mapEl x.ty fun e =>
      let src := shflSrc x.opx.toNat (laneOf t * sz + e) (s.el t x.ty x.b e)
      let own := subEl x.ty (s.opnd t x.d) e
      if src < 0 ∨ ((32 * sz : Nat) : Int) ≤ src then own
      else match laneIn ts t (src.toNat / sz) with
        | some u => s.el u x.ty x.a (src.toNat % sz)
        | none => own, [])

/-- R135: a group in which lane n is not present changes nothing. -/
def execBcast (x : V96A) (s : State) : Host.Outcome State Fault Refusal :=
  s.run (.bcast x) fun s ts =>
    let src := fun t => laneIn ts t (s.opnd t x.b).toNat
    (s.result (ts.filter fun t => (src t).isSome) x.d fun t => s.opnd ((src t).getD t) x.a, [])

/-- R136. -/
def execVote (x : V96A) (s : State) : Host.Outcome State Fault Refusal :=
  s.run (.vote x) fun s ts =>
    (s.result ts x.d fun t =>
      if votePred x.opx.toNat ((groupOf ts t).map fun u => s.readP u x.a.num) then 1 else 0, [])

/-- R136. -/
def execBallot (x : V96A) (s : State) : Host.Outcome State Fault Refusal :=
  s.run (.ballot x) fun s ts =>
    (s.result ts x.d fun t => (groupOf ts t).foldl (fun (m : Word) u =>
      if s.readP u x.a.num then m ||| BitVec.ofNat 64 (2 ^ laneOf u) else m) 0, [])

/-- op(a, b) of a reduction (R137). -/
def redOp (o : Nat) (t : Ty) (rm : Rm) (sat : Bool) (a b : Nat) : Nat :=
  match o with
  | 0 => fltAdd (tyFlt t) rm false false 0 a b
  | 1 => fltMinMax (tyFlt t) false false a b
  | 2 => fltMinMax (tyFlt t) true false a b
  | 3 => elAdd t sat a b
  | 4 => elMin t a b
  | 5 => elMax t a b
  | 6 => a &&& b
  | _ => a ||| b

/-- The identity of a reduction (R137). -/
def redId (o : Nat) (t : Ty) : Nat :=
  let top := 2 ^ (t.width - 1)
  match o with
  | 0 => top
  | 1 => (tyFlt t).infCode false
  | 2 => (tyFlt t).infCode true
  | 4 => if t.signed then top - 1 else 2 * top - 1
  | 5 => if t.signed then top else 0
  | 6 => 2 * top - 1
  | _ => 0

/-- One level of the fixed tree from the level below it. -/
def pairUp (f : Nat → Nat → Nat) : List Nat → List Nat
  | a :: b :: r => f a b :: pairUp f r
  | r => r

/-- The levels of the fixed tree, leaves first (R137). -/
def treeLevels (f : Nat → Nat → Nat) : Nat → List Nat → List (List Nat)
  | 0, l => [l]
  | n + 1, l => l :: treeLevels f n (pairUp f l)

/-- The prefix over the first m slots, from the highest level down (R139). -/
def prefixOf (f : Nat → Nat → Nat) (lv : List (List Nat)) (m : Nat) : Nat → Nat → Option Nat → Option Nat
  | 0, _, acc => acc
  | l + 1, start, acc =>
    if m.testBit l then
      let blk := (lv.getD l []).getD (start / 2 ^ l) 0
      prefixOf f lv m l (start + 2 ^ l) (some (match acc with | some a => f a blk | none => blk))
    else prefixOf f lv m l start acc

/-- Levels above the leaves: 5 + log2 S (R137). -/
def treeDepth (t : Ty) : Nat := 5 + Nat.log2 t.count

/-- The fixed tree of a thread's group: lanes outside it supply the identity (R137). -/
def State.groupTree (s : State) (x : V96A) (ts : List Nat) (tid : Nat) : List (List Nat) :=
  let o := (x.opx.extractLsb' 0 3).toNat
  let sz := x.ty.count
  treeLevels (redOp o x.ty x.rm (V96A.isSat x)) (treeDepth x.ty) ((List.range (32 * sz)).map fun k =>
    match laneIn ts tid (k / sz) with
    | some u => s.el u x.ty x.a (k % sz)
    | none => redId o x.ty)

/-- R138: the root in every sub-element. -/
def execVred (x : V96A) (s : State) : Host.Outcome State Fault Refusal :=
  s.run (.vred x) fun s ts =>
    (s.result ts x.d fun t =>
      let root := ((s.groupTree x ts t).getD (treeDepth x.ty) []).getD 0 0
      mapEl x.ty fun _ => root, [])

/-- R139. -/
def execVscan (x : V96A) (s : State) : Host.Outcome State Fault Refusal :=
  s.run (.vscan x) fun s ts =>
    (s.result ts x.d fun t =>
      let lv := s.groupTree x ts t
      let o := (x.opx.extractLsb' 0 3).toNat
      mapEl x.ty fun e =>
        let k := laneOf t * x.ty.count + e + (if x.opx.getLsbD 3 then 0 else 1)
        (prefixOf (redOp o x.ty x.rm (V96A.isSat x)) lv k (treeDepth x.ty + 1) 0 none).getD (redId o x.ty), [])

/-- A byte that `vperm` selects from C:A (R140). -/
def permByte (a c : Word) (sel : Nat) : Nat :=
  if 128 ≤ sel then 0
  else if sel % 16 < 8 then byteOf a.toNat (sel % 16) else byteOf c.toNat (sel % 16 - 8)

/-- R140. -/
def execVperm (x : V96A) (s : State) : Host.Outcome State Fault Refusal :=
  s.run (.vperm x) (resultBody x.d fun s t =>
    mapEl .u8x8 fun j => permByte (s.opnd t x.a) (s.opnd t x.c) (byteOf (s.opnd t x.b).toNat j))

end Sys2Proof.Machine
end

