-- ==== Sys2Proof/Machine/Float.lean ====
section
/-! DEFINITION. The float group (R121 to R125) and the special functions (R126). -/

namespace Sys2Proof.Machine
open Sys2Proof

/-- The thread whose draw sequence a result uses (R155): its own; of a uniform form, which thread of the warp is free. -/
def State.drawer (s : State) (rep : Nat) (owners : List Nat) : Nat :=
  if owners.length ≤ 1 then rep else owners.getD (Config.freeChoice s.free (widOf rep) 4000 % owners.length) rep

/-- Results whose `k` values each use one draw under `.rs` (R154, R155): the draws are made and `%rseed` advances at issue. -/
def drawBody (rm : Rm) (d : Opnd) (k : Nat) (f : State → Nat → (Nat → Nat) → Word) : Body := fun s ts =>
  if rm != .rs then (s.result ts d fun t => f s t fun _ => 0, [])
  else
    let from_ := fun (q : Nat × RegRef × List Nat) => s.drawer q.1 q.2.2
    let tg := s.targets ts d
    let mine := fun t => (draws k (s.thread (match tg.find? fun q => q.1 == t with | some q => from_ q | none => t)).rseed)
    let s1 := s.result ts d fun t => f s t fun e => (mine t).2.getD e 0
    (tg.foldl (fun s1 q => s1.modThread (from_ q) fun t => { t with rseed := (mine q.1).1 }) s1, [])

/-- Modifiers of a float instruction: `.satf`, `.ftz` (R40, R122). -/
def V96A.isSatf (x : V96A) : Bool := x.sat == .satf
def V96A.isFtz (x : V96A) : Bool := x.opx.getLsbD 3

/-- Two float sources. -/
def fbody2 (x : V96A) (f : Flt → Rm → Bool → Bool → Nat → Nat → Nat → Nat) : Body :=
  drawBody x.rm x.d x.ty.count fun s t dr => mapEl x.ty fun e =>
    f (tyFlt x.ty) x.rm (V96A.isSatf x) (V96A.isFtz x) (dr e) (s.el t x.ty x.a e) (s.el t x.ty x.b e)

def execFadd (x : V96A) (s : State) : Host.Outcome State Fault Refusal := s.run (.fadd x) (fbody2 x fltAdd)
def execFsub (x : V96A) (s : State) : Host.Outcome State Fault Refusal := s.run (.fsub x) (fbody2 x fltSub)
def execFmul (x : V96A) (s : State) : Host.Outcome State Fault Refusal := s.run (.fmul x) (fbody2 x fltMul)

/-- R124: one rounding of A × B + C. -/
def execFfma (x : V96A) (s : State) : Host.Outcome State Fault Refusal :=
  s.run (.ffma x) (drawBody x.rm x.d x.ty.count fun s t dr => mapEl x.ty fun e =>
    fltFma (tyFlt x.ty) x.rm (V96A.isSatf x) (V96A.isFtz x) (dr e) (s.el t x.ty x.a e) (s.el t x.ty x.b e) (s.el t x.ty x.c e))

def execFmin (x : V96A) (s : State) : Host.Outcome State Fault Refusal :=
  s.run (.fmin x) (body2 x (fltMinMax (tyFlt x.ty) false (V96A.isFtz x)))
def execFmax (x : V96A) (s : State) : Host.Outcome State Fault Refusal :=
  s.run (.fmax x) (body2 x (fltMinMax (tyFlt x.ty) true (V96A.isFtz x)))

/-- R124, with the results of R118. -/
def execFcmp (x : V96A) (s : State) : Host.Outcome State Fault Refusal :=
  s.run (.fcmp x) (resultBody x.d fun s t => cmpResult x.d x.ty (x.opx.getLsbD 3) ((List.range x.ty.count).map fun e =>
    fltCond (x.opx.extractLsb' 0 3).toNat ((tyFlt x.ty).decode (s.el t x.ty x.a e)) ((tyFlt x.ty).decode (s.el t x.ty x.b e))))

def execFclass (x : V96A) (s : State) : Host.Outcome State Fault Refusal := s.run (.fclass x) (body1 x (fltClass (tyFlt x.ty)))
def execFrnd (x : V96A) (s : State) : Host.Outcome State Fault Refusal :=
  s.run (.frnd x) (body1 x (fltRnd (tyFlt x.ty) x.rm (V96A.isFtz x)))

/-- R125: the conversion of each sub-element, with Q choosing the part of D that is written or of A that is read. -/
def cvtBody (x : V96A) : Body :=
  let sd := x.ty.count
  let ss := x.ty2.count
  let q := (x.opx.extractLsb' 0 2).toNat
  let conv := convEl x.ty x.ty2 x.rm (V96A.isSatf x) (V96A.isFtz x)
  drawBody x.rm x.d (min sd ss) fun s t dr =>
    if ss ≤ sd then
      (List.range ss).foldl (fun d e => setEl x.ty d (q * ss + e) (conv (dr e) (s.el t x.ty2 x.a e)))
        (if sd == ss then 0 else s.opnd t x.d)
    else mapEl x.ty fun e => conv (dr e) (s.el t x.ty2 x.a (q * sd + e))

def execFcvt (x : V96A) (s : State) : Host.Outcome State Fault Refusal := s.run (.fcvt x) (cvtBody x)
def execIcvtf (x : V96A) (s : State) : Host.Outcome State Fault Refusal := s.run (.icvtf x) (cvtBody x)
def execFcvti (x : V96A) (s : State) : Host.Outcome State Fault Refusal := s.run (.fcvti x) (cvtBody x)

/-- R126. -/
def sfuBody (k : Sfu) (x : V96A) : Body := body1 x (sfuEl k (tyFlt x.ty) (V96A.isSatf x) (V96A.isFtz x))

def execFrcp (x : V96A) (s : State) : Host.Outcome State Fault Refusal := s.run (.frcp x) (sfuBody .rcp x)
def execFrsq (x : V96A) (s : State) : Host.Outcome State Fault Refusal := s.run (.frsq x) (sfuBody .rsq x)
def execFsqrt (x : V96A) (s : State) : Host.Outcome State Fault Refusal := s.run (.fsqrt x) (sfuBody .sqrt x)
def execFex2 (x : V96A) (s : State) : Host.Outcome State Fault Refusal := s.run (.fex2 x) (sfuBody .ex2 x)
def execFlg2 (x : V96A) (s : State) : Host.Outcome State Fault Refusal := s.run (.flg2 x) (sfuBody .lg2 x)
def execFsin (x : V96A) (s : State) : Host.Outcome State Fault Refusal := s.run (.fsin x) (sfuBody .sin x)
def execFcos (x : V96A) (s : State) : Host.Outcome State Fault Refusal := s.run (.fcos x) (sfuBody .cos x)
def execFtanh (x : V96A) (s : State) : Host.Outcome State Fault Refusal := s.run (.ftanh x) (sfuBody .tanh x)

end Sys2Proof.Machine
end

