-- ==== Sys2Proof/Machine/Access.lean ====
section
/-! DEFINITION. What the load-store instructions share: the plan of one lane's access with its faults in order (R170 to R172, R182, R186,
R216), the codec stage on it (R158 to R163), and the access itself (R195, R176). -/

namespace Sys2Proof.Machine
open Sys2Proof

/-- What an instruction asks of each lane: space, bytes of a raw access, a register type when the codec stage may act, the permission, the
alignment that it requires, and whether it is an atomic, a store. -/
structure Ask where
  sp : Sp
  n : Nat
  ty : Ty := .none
  need : Need
  al : Nat := 1
  store : Bool := false
  /-- A virtual watchpoint sees the access (R439). -/
  watch : Bool := true
  deriving DecidableEq, Repr

/-- The access kind of a fault record (R217) and of a watchpoint (R438). -/
def Need.kind : Need → Nat
  | .rd => 0
  | .w => 1
  | .watom | .ratom => 2
  | .x => 3

/-- The kind under which a watchpoint sees an access (R439): an `acq` is a read. -/
def Need.watchKind : Need → Nat
  | .rd | .ratom | .x => 0
  | .w => 1
  | .watom => 2

/-- The access of one lane once its checks are made: a precise or returned fault, a translation miss, an access of a scratch window, an
access of memory. `fmt` is the stored format, 0 when the codec stage does not act; `slots` names the scale slot of each block: the block, its
slot's offset or virtual address, and its slot's physical address; `blk` is the block of each element. -/
inductive Plan where
  | fault (f : FaultInfo)
  | miss (va : Nat)
  | scr (key off n fmt : Nat) (blk : List Nat) (slots : List (Nat × Nat))
  | mem (p : Pte) (va xpa n fmt : Nat) (slots : List (Nat × Nat × Nat))
  deriving DecidableEq, Repr

/-- MISALIGN of a raw or an atomic access (R171, R172). -/
def rawMis (n al ea : Nat) : Bool := decide (128 < ea % 128 + n) || ea % al != 0

/-- Bytes that n elements of a format take. -/
def elemBytes (fmt n : Nat) : Nat := (n * fmtBits fmt + 7) / 8

/-- MISALIGN of an access that the codec stage acts on (R163, R171). -/
def typedMis (fmt n ea : Nat) (store : Bool) : Bool :=
  (decide (8 ≤ fmtBits fmt) && ea % (fmtBits fmt / 8) != 0) || decide (128 < ea % 128 + elemBytes fmt n) ||
  (store && fmtBits fmt == 4 && n % 2 == 1)

/-- The block of element i of an access at a byte address (R157, R158). -/
def blockOf (fmt geo a i : Nat) : Nat := (a + i * fmtBits fmt / 8) / blockBytes fmt geo
def blocksOf (fmt geo a n : Nat) : List Nat := ((List.range n).map (blockOf fmt geo a)).dedup

/-- Translation of one lane's address: a fault, or a miss (R221). -/
def State.laneXlate (s : State) (tid va : Nat) (need : Need) (kind : Nat) : Except (Option FaultInfo) Pte :=
  if 2 ^ 57 ≤ va then .error (some (fltAt .page kind 0 va))
  else match s.regionOf tid with
    | none => .error (some (fltAt .page kind 0 va))
    | some r =>
      match s.tlbHit (coreOf tid) r.asid va with
      | some e => match e.pte.check need va with
        | .ok p => .ok p
        | .error e => .error (some (e.flt kind))
      | none =>
        match (s.thread tid).walked.find? fun w => w.1 == va / 65536 with
        | some (_, c, lvl, addr) => .error (some { fltAt c kind lvl (if c == .page then va else addr) with deferred := c != .page })
        | none => .error none

/-- The virtual address of a block's scale slot (R158). -/
def slotVa (shb b : Nat) : Nat := (shb / 2 * 2 + 2 * b) % 2 ^ 57

/-- The slots of a `.gv` access translated, as reads of kind scale (R162, R163). -/
def State.slotPlan (s : State) (tid shb : Nat) : List Nat → Except (Option FaultInfo × Nat) (List (Nat × Nat × Nat))
  | [] => .ok []
  | b :: r =>
    let a := slotVa shb b
    match s.laneXlate tid a .rd 4 with
    | .error e => .error (e, a)
    | .ok p => match s.slotPlan tid shb r with
      | .error e => .error e
      | .ok l => .ok ((b, a, p.addr a) :: l)

/-- The plan of a `.gv` access (R170, R182). -/
def State.planGv (s : State) (q : Ask) (tid ea : Nat) : Plan :=
  let k := q.need.kind
  if q.ty == .none && rawMis q.n q.al ea then .fault (fltAt .misalign k 0 ea)
  else match s.laneXlate tid ea q.need k with
    | .error none => .miss ea
    | .error (some f) => .fault f
    | .ok p =>
      if q.ty == .none then .mem p ea (p.addr ea) q.n 0 []
      else if p.fmt == 0 then
        if rawMis 8 1 ea then .fault (fltAt .misalign k 0 ea) else .mem p ea (p.addr ea) 8 0 []
      else if typedMis p.fmt q.ty.count ea q.store then .fault (fltAt .misalign k 0 ea)
      else if p.geo == 0 then .mem p ea (p.addr ea) (elemBytes p.fmt q.ty.count) p.fmt []
      else
        let shb := match s.regionOf tid with | some r => r.shb | none => 0
        match s.slotPlan tid shb (blocksOf p.fmt p.geo ea q.ty.count) with
        | .error (none, a) => .miss a
        | .error (some f, _) => .fault f
        | .ok l => .mem p ea (p.addr ea) (elemBytes p.fmt q.ty.count) p.fmt l

/-- The plan of a scratch access (R159, R170, R182). The segment goes by the offset, whether or not the window reaches it. -/
def State.planScr (s : State) (q : Ask) (tid ea : Nat) : Plan :=
  let k := q.need.kind
  let seg := (s.windowOf tid q.sp ea).bind fun (w : Wg × Nat) => segOf w.1 w.2
  let v := seg.getD 0
  let fmt := if q.ty == .none then 0 else slice v 5 0
  let geo := if q.ty == .none then 0 else slice v 8 6
  let n := if fmt == 0 then q.n else elemBytes fmt q.ty.count
  let mis := if fmt == 0 then rawMis q.n q.al ea else typedMis fmt q.ty.count ea q.store
  if mis then .fault (fltAt .misalign k 0 ea)
  else match s.window tid q.sp ea n with
    | none => .fault (fltAt .perm k 0 ea)
    | some (key, off) =>
      if fmt == 0 || geo == 0 then .scr key off n fmt [] []
      else
        let slots := (blocksOf fmt geo (off - 16 * slice v 31 16) q.ty.count).map fun b => (b, 16 * slice v 63 48 + 2 * b)
        let size := match s.wg? key with | some g => g.win | none => 0
        match slots.find? fun x => decide (size < x.2 + 2) with
        | some x => .fault (fltAt .perm 4 0 x.2)
        | none => .scr key off n fmt ((List.range q.ty.count).map (blockOf fmt geo (off - 16 * slice v 31 16))) slots

def State.plan (s : State) (q : Ask) (tid ea : Nat) : Plan := if q.sp == .gv then s.planGv q tid ea else s.planScr q tid ea

/-- The access must wait until the thread's earlier accesses have been performed: its scale slots are read in program order (R162). -/
def Plan.ordered : Plan → Bool
  | .mem _ _ _ _ _ slots => !slots.isEmpty
  | _ => false

/-! ### The codec on an access (R160) -/

def fmtAt (c : Nat) : Fmt := (fmtOf c).getD (unsignedFmt 8)

/-- The bytes that a typed store writes. -/
def typedStore (fmt : Nat) (ty : Ty) (rm : Rm) (satf : Bool) (ds : List Nat) (slot : Nat → Option Nat) (v : Word) : Nat :=
  (List.range ty.count).foldl (fun a i =>
    let x := (tyFmt ty).decode (subEl ty v i)
    a + (fmtAt fmt).enc rm satf (ds.getD i 0) (match slot i with | some c => quot x c | none => x) % 2 ^ fmtBits fmt * 2 ^ (fmtBits fmt * i)) 0

/-- The draws of a lane's access: k values under `.rs` (R154, R155); the draw state before them. -/
def State.takeDraws (s : State) (tid : Nat) (rm : Rm) (k : Nat) : State × Word :=
  let d := (s.thread tid).rseed
  (if rm == .rs then s.modThread tid fun t => { t with rseed := (draws k d).1 } else s, d)

/-! ### An access that goes to its home -/

/-- One lane's access to memory. -/
structure Access where
  tid : Nat
  p : Pte
  va : Nat
  xpa : Nat
  n : Nat
  op : ReqOp
  data : Nat := 0
  cmp : Nat := 0
  sc : Sc := .thread
  ord : MOrd := .rlx
  hint : Hint := .dflt
  nr : Bool := false
  kind : Nat
  dsts : List Opnd := []
  fmt : LoadFmt := .none
  acq : Option Sc := none
  since : Nat
  mst : Bool := false
  /-- Bytes of its single-copy atomic units; 0 when it is one (R172). -/
  unit : Nat := 0
  deriving DecidableEq, Repr

/-- The ranges bound to a sync word (R190). -/
def Region.bound (r : Region) (va : Nat) : List (Nat × Nat) :=
  r.binds.filterMap fun b => if b.2.1 == va then some (b.2.2.1, b.2.2.1 + b.2.2.2) else none

/-- An outstanding access of a thread touches a sector: its later loads take their place behind it (R21, R201). -/
def State.inFlight (s : State) (tid x : Nat) : Bool :=
  s.m.ops.any fun o => o.tid == tid && o.parts.any fun p => sectorOf p.xpa == sectorOf x

/-- The L1 sector that serves a load (R176). -/
def State.l1Hit (s : State) (tid asid va x : Nat) : Option Nat :=
  if s.inFlight tid x then none
  else (s.c.l1.find? fun e => e.core == coreOf tid && e.asid == asid && e.va == sectorOf va && e.xpa == sectorOf x).map (·.data)

/-- The single-copy atomic units of a plain access (R171, R172): `al` is its atomicity, `fmt` the stored format of a typed one. -/
def unitOfAccess (fmt n al ea : Nat) : Nat :=
  if fmt != 0 then max 1 (min 4 (fmtBits fmt / 8))
  else if ea % n != 0 then 1
  else min n (max 4 al)

/-- The bytes of a sector before which a unit of an access may begin (R172): all but those inside its own units. -/
def cutOf (x n unit : Nat) : Nat :=
  if unit == 0 then 0
  else (List.range 32).foldl (fun a i => if x % 32 < i ∧ i < x % 32 + n ∧ i % unit != 0 then a else a + 2 ^ i) 0

/-- The request of a part of an access (R405, R408, R417). -/
def accessReq (a : Access) (s : State) (r : Region) (id op idx : Nat) (p : Part) : Req :=
  let whole := a.op == .load || a.op == .store
  { id := id, core := coreOf a.tid, org := .part op idx, hint := a.hint, ef := a.p.ef, region := r.num, sent := none, thr := [a.tid],
    vfill := true, cut := if whole then cutOf p.xpa p.size a.unit else 0, todo := 2 ^ 32 - 1, got := 0
    w := { src := s.b.pkg, tag := 0, dst := s.homeOf p.xpa, vc := 0, op := a.op, xpa := if whole then sectorOf p.xpa else p.xpa,
           size := if whole then 32 else p.size, ksz := a.n, mask := if a.op == .store then (2 ^ p.size - 1) * 2 ^ (p.xpa % 32) else 0,
           data := if a.op == .store then a.data / 256 ^ p.at_ % 256 ^ p.size * 256 ^ (p.xpa % 32) else a.data, cmp := a.cmp, sc := a.sc,
           ord := a.ord, tenant := r.tenant, nr := a.nr } }

/-- What the issue of a store or an atomic does to the copies of its line (R176, R230). -/
def State.copiesOf (s : State) (core : Nat) (op : ReqOp) (p : Part) : State :=
  let s1 := match op with
    | .load => s
    | .store => s.dropFill core fun o => o.parts.any fun q => sectorOf q.xpa == sectorOf p.xpa
    | _ => s.l1Drop core p.xpa
  if op == .load || s.here p.xpa then s1 else s1.visitorInvalidate p.xpa

/-- Issue an access: its destinations become outstanding, its parts go to the collector, or to the host interface for host space. A load's
sector that the L1 holds is served at once. An access that needs W first sets DTY; where that is refused it is not made, and the fault is its own (R219). -/
def State.access (s : State) (a : Access) (parts : List Part) : State × Option FaultInfo :=
  match s.regionOf a.tid with
  | none => (s, none)
  | some r =>
    match (if reqW a.op then s.setDty r.tenant a.p else (s, none)) with
    | (s0, some c) => (s0, some { fltAt c a.kind a.p.lvl a.va with deferred := true })
    | (s0, none) =>
      let id := s.m.nextId
      let core := coreOf a.tid
      let host := hostSpace a.xpa
      let ps := parts.map fun p =>
        if a.op == .load && !host then match s.l1Hit a.tid r.asid (a.va + p.at_) p.xpa with
          | some x => { p with done := true, data := x / 256 ^ (p.xpa % 32) % 256 ^ p.size }
          | none => p
        else p
      let o : MOp :=
        { id := id, tid := a.tid, pc := s.cur.pc, kind := a.kind, va := a.va, dsts := a.dsts.filterMap (s.dest a.tid), parts := ps, fmt := a.fmt,
          acq := a.acq, ranges := if a.acq.isSome then r.bound a.va else [], fill := a.op == .load && !host && a.hint != .nl1 && a.hint != .nl1ef,
          clk := s.clk, sample := some a.since, mst := a.mst }
      let s1 := a.dsts.foldl (fun s d => s.emit [a.tid] d id fun _ => none) s0.newId
      let s2 := ps.foldl (fun s p => if host then s else s.copiesOf core a.op p) s1
      let s3 := s2.setOps (s2.m.ops ++ [o])
      let s4 := (ps.zip (List.range ps.length)).foldl (fun s (q : Part × Nat) =>
        if q.1.done then s
        else
          let rq := accessReq a s r s.m.nextId id q.2 q.1
          if host then { s.newId with m := { s.newId.m with hostQ := s.m.hostQ ++ [rq] } } else s.newId.collect a.since rq) s3
      (if ps.all (·.done) then s4.endOp o else s4, none)

/-- The parts of a load or a store: one for each sector; of any other request: one. -/
def Access.parts (a : Access) : List Part :=
  if a.op == .load || a.op == .store then
    (sectorParts a.xpa a.n).map fun (q : Nat × Nat × Nat) => { xpa := q.1, size := q.2.2, at_ := q.2.1, done := false, data := 0, fault := none }
  else [{ xpa := a.xpa, size := a.n, at_ := 0, done := false, data := 0, fault := none }]

/-! ### Accesses made at once, for a lane whose earlier accesses are all performed -/

/-- Bytes inside one sector, read for a thread through the L1 of its core (R176, R178). -/
def State.coreRead (s : State) (core : Nat) (r : Region) (va x n : Nat) (hint : Hint) (ef : Bool) : State × Except Code Nat :=
  let pick := fun (d : Nat) => d / 256 ^ (x % 32) % 256 ^ n
  if hostSpace x then s.engRead r.tenant x n
  else match s.c.l1.find? fun e => e.core == core && e.asid == r.asid && e.va == sectorOf va && e.xpa == sectorOf x with
    | some e => (s, .ok (pick e.data))
    | none =>
      match s.engRead r.tenant (sectorOf x) 32 hint ef with
      | (s1, .error c) => (s1, .error c)
      | (s1, .ok d) => (s1.l1Return core r.asid va x d (hint != .nl1 && hint != .nl1ef), .ok (pick d))

/-- The bytes of an access, sector by sector. -/
def State.coreReads (s : State) (core : Nat) (r : Region) (va x : Nat) (hint : Hint) (ef : Bool) : List (Nat × Nat × Nat) → State × Except Code Nat
  | [] => (s, .ok 0)
  | q :: rest =>
    match s.coreRead core r (va + q.2.1) q.1 q.2.2 hint ef with
    | (s1, .error c) => (s1, .error c)
    | (s1, .ok d) =>
      match s1.coreReads core r va x hint ef rest with
      | (s2, .error c) => (s2, .error c)
      | (s2, .ok e) => (s2, .ok (d * 256 ^ q.2.1 + e))

/-- The scale code of each block of a `.gv` access (R162): POISON, TENANT or FABRIC is deferred, with the slot's address. -/
def State.readSlots (s : State) (core : Nat) (r : Region) : List (Nat × Nat × Nat) → State × Except FaultInfo (List (Nat × Nat))
  | [] => (s, .ok [])
  | (b, a, x) :: rest =>
    match s.coreRead core r a x 2 .dflt false with
    | (s1, .error c) => (s1, .error { fltAt c 4 0 a with deferred := true })
    | (s1, .ok v) =>
      match s1.readSlots core r rest with
      | (s2, .error f) => (s2, .error f)
      | (s2, .ok l) => (s2, .ok ((b, v) :: l))

def State.readScrSlots (s : State) (key : Nat) (src : Src) (slots : List (Nat × Nat)) : State × List (Nat × Nat) :=
  slots.foldl (fun (acc : State × List (Nat × Nat)) x =>
    let (s1, v) := acc.1.scrRead key src akRead x.2 2
    (s1, acc.2 ++ [(x.1, v)])) (s, [])

def codeOf (codes : List (Nat × Nat)) (b : Nat) : Option Nat := (codes.find? fun c => c.1 == b).map (·.2)

/-- A store performed at once at its homes, sector by sector, with what it does to copies (R176, R230). -/
def State.writeNow (s : State) (core tenant : Nat) (x n v : Nat) : State × Option Code :=
  (sectorParts x n).foldl (fun (acc : State × Option Code) (q : Nat × Nat × Nat) =>
    match acc with
    | (s, some c) => (s, some c)
    | (s, none) =>
      let d := v / 256 ^ q.2.1 % 256 ^ q.2.2
      match s.engWrite tenant q.1 q.2.2 d with
      | (s1, some c) => (s1.l1Forget core q.1, some c)
      | (s1, none) => (s1.l1Written core q.1 ((2 ^ q.2.2 - 1) * 2 ^ (q.1 % 32)) (d * 256 ^ (q.1 % 32)), none)) (s, none)

/-! ### Scratch accesses that take time (R200, R207) -/

/-- The scratch accesses of the issuing bundle are not performed at once: a lane's take time in this clock, or wait behind one that does. -/
def State.lagging (s : State) : Bool := s.cur.tids.any fun t => s.c.lag.contains t || s.c.scrQ.any fun e => e.tid == t

/-- Queue a scratch access of a lane: it stands among the accesses in flight until it is performed. -/
def State.scrQueue (s : State) (since tid key off n : Nat) (dsts : List Opnd) (fmt : LoadFmt) (store : Bool) (data : Nat) : State :=
  let id := s.m.nextId
  let o : MOp :=
    { id := id, tid := tid, pc := s.cur.pc, kind := bit store, va := off, dsts := dsts.filterMap (s.dest tid),
      parts := [{ xpa := 2 ^ 70 + off, size := n, at_ := 0, done := false, data := 0, fault := none }], fmt := fmt, acq := none, ranges := [], fill := false,
      clk := s.clk, sample := some since, mst := false }
  let s1 := dsts.foldl (fun s d => s.emit [tid] d id fun _ => none) s.newId
  let s2 := s1.setOps (s1.m.ops ++ [o])
  { s2 with c := { s2.c with scrQ := s2.c.scrQ ++
    [{ op := id, since := since, tid := tid, pc := s.cur.pc, key := key, off := off, n := n, store := store, data := data }] } }

/-- Two queued accesses touch an 8-byte unit in common (R174). -/
def ScrAcc.meets (a b : ScrAcc) : Bool :=
  a.key == b.key && decide (a.off / 8 ≤ (b.off + b.n - 1) / 8) && decide (b.off / 8 ≤ (a.off + a.n - 1) / 8)

/-- The accesses of one instruction that are served together with one of them: they reach it through common units (R174). -/
def ScrAcc.group (e : ScrAcc) (q : List ScrAcc) : List ScrAcc :=
  let mine := q.filter fun x => x.since == e.since
  let reach := mine.foldl (fun (l : List ScrAcc) _ => mine.filter fun x => l.contains x || l.any x.meets) [e]
  mine.filter reach.contains

/-- Perform a queued access, with those served together with it, in ascending lane order, unless an earlier access of one of their threads to the same core's
scratch is still queued (R207). -/
def State.scrServe (s : State) (op : Nat) : State :=
  match s.c.scrQ.find? fun e => e.op == op with
  | none => s
  | some e =>
    let es := e.group s.c.scrQ
    let core := fun (k : Nat) => (s.wg? k).map (·.core)
    let early := es.any fun x => s.c.scrQ.any fun y => y.tid == x.tid && decide (y.op < x.op) && core y.key == core x.key
    if early then s
    else es.foldl (fun s x =>
      let src : Src := ⟨x.tid, x.pc, 0⟩
      let (s1, v) := if x.store then (s.scrWrite x.key src akWrite x.off x.n x.data, 0) else s.scrRead x.key src akRead x.off x.n
      match s1.m.ops.find? fun o => o.id == x.op with
      | some o => s1.partDone o 0 v none
      | none => s1) { s with c := { s.c with scrQ := s.c.scrQ.filter fun x => !es.contains x } }

/-! ### The common body -/

/-- Threads with an access, or a spill, that has not been performed. -/
def State.busy (s : State) (tid : Nat) : Bool := (s.m.ops.any fun o => o.tid == tid) || !(s.thread tid).spilled
/-- An acquire of the thread has not returned: its later accesses wait (R177). -/
def State.acquiring (s : State) (tid : Nat) : Bool := s.m.ops.any fun o => o.tid == tid && o.acq.isSome

/-- Sectors, or 8-byte units, that an instruction's accesses touch (R452). -/
def planUnits (ps : List Plan) : List Nat :=
  (ps.flatMap fun p => match p with
    | .mem _ _ x n _ _ => (sectorParts x n).map fun q => q.1 / 32
    | .scr key off n _ _ _ => (List.range ((off + n + 7) / 8 - off / 8)).map fun i => off / 8 + i + 2 ^ 20 * key
    | _ => []).dedup

/-- The sample of an issue, with the accesses that it made (R452). -/
def State.sampleOpen (s : State) (tag : Option Nat) (ts : List Nat) (since : Nat) (units : List Nat) (gv : Bool) : State :=
  match tag, ts with
  | some tag, t :: _ =>
    let open_ := (s.m.ops.filter fun o => decide (since ≤ o.id)).map (·.id) ++ (s.c.xfers.filter fun x => decide (since ≤ x.id)).map (·.id)
    let salt := match s.regionOf t with | some r => r.salt | none => 0
    let x : Sample :=
      { id := since, unit := s.cur.unit, slot := slotOf' t, pc := s.cur.pc, mask := ts.foldl (fun m t => m ||| 2 ^ laneOf t) 0, tag := tag,
        sect := units.length, clk := (s.thread t).issuedAt, open_ := open_, last := laneOf t, lastAt := s.clk, gv := gv
        repl := if gv then (units.length + 3) / 4 - 1 else bankRounds salt (units.map (· % 2 ^ 20)) - 1 }
    if open_.isEmpty then s.sampleDone x else { s with b := { s.b with samples := s.b.samples ++ [x] } }
  | _, _ => s
where
  slotOf' (t : Nat) : Nat := if isCtx t then (match s.wgOf t with | some g => g.slot | none => 0) else slotOf t

/-- The virtual watchpoints see the bytes that the lanes of an issue name (R439): once, at the first execution of the instruction whose lane's bytes are known. -/
def State.watchIssue (s : State) (ak : Nat) (ls : List (Nat × Nat × Nat)) : State :=
  let new := ls.filter fun l => (s.thread l.1).stage == 0
  let s1 := s.vwatchAll s.cur.pc ak new
  s1.setThreads (s1.c.threads.map fun t => if new.any fun l => l.1 == t.tid then { t with stage := 1 } else t)

/-- The bytes that the lanes of a load-store instruction name, where they are known: those of a typed access are not until its page's format is. -/
def Ask.lanes (q : Ask) (ea : Nat → Nat) (ps : List (Nat × Plan)) : List (Nat × Nat × Nat) :=
  if q.sp != .gv || !q.watch then []
  else ps.filterMap fun p => match p.2 with
    | .mem _ _ _ n _ _ => some (p.1, ea p.1, n)
    | .miss _ => if q.ty == .none then some (p.1, ea p.1, q.n) else none
    | _ => some (p.1, ea p.1, q.n)

/-- The accesses that a fence of the thread still waits for and that a later access of the thread must not overtake (R193, R203). -/
def State.fenceIds (s : State) (tid : Nat) (write : Bool) : List Nat :=
  ((s.thread tid).fences.filter fun f => f.reads || write).flatMap (·.ids)

/-- Rows of the thread are being moved, and its access must not overtake them: one of scratch, or one of the same sectors (R201, R207). -/
def State.rowBlocks (s : State) (tid : Nat) : Plan → Bool
  | .scr _ _ _ _ _ _ => s.c.rows.any fun j => j.lanes.any fun l => l.tid == tid
  | .mem _ _ x n _ _ => s.c.rows.any fun j => (j.lanes.any fun l => l.tid == tid) &&
      j.els.any fun e => let a := e.p.addr e.va; decide (sectorOf x < a + 16) && decide (a < sectorOf (x + n) + 32)
  | _ => false

/-- What the lanes of a load-store instruction wait for before they make their accesses, if anything. `drain` says that every earlier access must have been
performed. -/
def memWait (q : Ask) (drain : Bool) (s : State) (ps : List (Nat × Plan)) : Option Wait :=
  let ids := ps.flatMap fun p => s.fenceIds p.1 q.need.writes
  if ps.any fun p => (drain && s.busy p.1) || s.acquiring p.1 || s.rowBlocks p.1 p.2 then some .drain
  else if !ids.isEmpty then some (.ids ids)
  else if ps.any fun p => match p.2 with | .miss _ => true | _ => false then some .walk
  else if ps.any fun p => (p.2.ordered || (match p.2 with | .scr _ _ _ _ _ sl => q.need.atomic || !sl.isEmpty | _ => false)) && s.busy p.1 then some .drain
  else none

/-- The body of a load-store instruction: it waits while a lane's translation is missing or its order asks for it; then every lane faults
or makes its access, in ascending order, with the plans of all lanes at hand. -/
def memBody (q : Ask) (drain : Bool) (ea : State → Nat → Nat) (go : Nat → List (Nat × Plan) → State → Nat → Plan → State × Option FaultInfo) : Body :=
  fun s ts =>
    let ps := ts.map fun t => (t, s.plan q t (ea s t))
    match memWait q drain s ps with
    | some w =>
      let misses := if w == .walk then ps.filterMap fun p => match p.2 with | .miss a => some (p.1, a) | _ => none else []
      (misses.foldl (fun s m => s.addMiss m.1 m.2) (s.watchIssue q.need.watchKind (q.lanes (ea s) ps)), ts.map fun t => (t, .hold w))
    | none =>
      let (s1, tag) := s.sampleTake ts
      let s2 := s1.watchIssue q.need.watchKind (q.lanes (ea s) ps)
      let since := s2.m.nextId
      let (s3, cs) := ps.foldl (fun (acc : State × List (Nat × Ctl)) p =>
        match p.2 with
        | .fault f => (acc.1, acc.2 ++ [(p.1, .fault f)])
        | .mem pte _ _ _ _ _ =>
          let asid := match s.regionOf p.1 with | some r => r.asid | none => 0
          let (s1, f) := go since ps (acc.1.tlbFill (coreOf p.1) asid pte) p.1 p.2
          (s1, acc.2 ++ match f with | some f => [(p.1, .fault f)] | none => [])
        | pl =>
          let (s1, f) := go since ps acc.1 p.1 pl
          (s1, acc.2 ++ match f with | some f => [(p.1, .fault f)] | none => [])) (s2.newId, [])
      ((s3.joinOlder since).sampleOpen tag ts since (planUnits (ps.map (·.2))) (q.sp == .gv), cs)

end Sys2Proof.Machine
end

