-- ==== Sys2Proof/Machine/LoadStore.lean ====
section
/-! DEFINITION. The load-store group (R170 to R197, R414 to R416): loads, stores, atomics, acquire and release, bindings, fences, prefetch,
gathers and scatters, the multicast store. -/

namespace Sys2Proof.Machine
open Sys2Proof

/-! ### Fields -/

/-- Bytes of SZ. -/
def szBytes : Sz → Nat
  | .b8 => 1 | .b16 => 2 | .b32 => 4 | .b64 | .none => 8 | .b128 => 16

/-- Alignment that AT requires (R172). -/
def atmAlign : Atm → Nat
  | .dflt => 1 | .a8 => 8 | .a16 => 16

/-- base + index + offset, modulo 2^64 (R170). -/
def State.ea2 (s : State) (tid : Nat) (a b : Opnd) : Nat := (s.opnd tid a + s.opnd tid b).toNat
def State.ea3 (s : State) (tid : Nat) (a b : Opnd) (i : BitVec 32) : Nat := (s.opnd tid a + s.opnd tid b + i.signExtend 64).toNat

/-- The index register of an M128 load or store, when BX names one (R179). -/
def M128A.ea (x : M128A) (s : State) (tid : Nat) : Nat :=
  if x.opx.getLsbD 1 then s.ea3 tid x.a x.b x.i32 else s.ea3 tid x.a (.imm 0) x.i32
/-- base + I32. -/
def M128A.eaI (x : M128A) (s : State) (tid : Nat) : Nat := s.ea3 tid x.a (.imm 0) x.i32

/-- A register or a pair as a number (R184, R185). -/
def State.data (s : State) (tid : Nat) (o : Opnd) (two : Bool) : Nat :=
  (s.opnd tid o).toNat + if two then 2 ^ 64 * (s.opnd tid o.succ).toNat else 0

/-- A load or store as its fields give it. -/
structure LdSt where
  sp : Sp
  n : Nat
  ty : Ty
  al : Nat
  rm : Rm
  satf : Bool
  hint : Hint

def V96A.ldst (x : V96A) : LdSt :=
  { sp := x.sp?.getD .gv, n := 8, ty := if x.opx.getLsbD 2 then .none else x.ty, al := 1, rm := x.rm, satf := x.sat == .satf, hint := x.hint }
def M128A.ldst (x : M128A) : LdSt :=
  { sp := x.sp, n := szBytes x.sz, ty := if x.opx.getLsbD 0 then .none else x.ty, al := atmAlign x.atm, rm := x.rm, satf := x.sat == .satf,
    hint := x.hint }

/-! ### Loads (R183) -/

/-- The load of one lane by its plan. -/
def loadLane (l : LdSt) (d : Opnd) (since : Nat) (_ps : List (Nat × Plan)) (s : State) (tid : Nat) : Plan → State × Option FaultInfo
  | .mem p va xpa n fmt [] =>
    let (s1, seed) := s.takeDraws tid l.rm (if fmt == 0 then 0 else l.ty.count)
    let a : Access :=
      { tid := tid, p := p, va := va, xpa := xpa, n := n, op := .load, hint := l.hint, kind := 0, since := since,
        dsts := if n == 16 && fmt == 0 then [d, d.succ] else [d], unit := unitOfAccess fmt n l.al va
        fmt := if fmt != 0 then .typed fmt l.ty l.rm l.satf seed else if n == 16 then .pair else .raw n }
    s1.access a a.parts
  | .mem p va xpa n fmt slots =>
    let (s1, seed) := s.takeDraws tid l.rm l.ty.count
    match s.regionOf tid with
    | none => (s1, none)
    | some r =>
      match s1.readSlots (coreOf tid) r slots with
      | (s2, .error f) => (s2, some f)
      | (s2, .ok codes) =>
        match s2.coreReads (coreOf tid) r va xpa l.hint p.ef (sectorParts xpa n) with
        | (s3, .error c) => (s3, some { fltAt c 0 0 va with deferred := true })
        | (s3, .ok x) =>
          (s3.result [tid] d fun _ => typedLoad fmt l.ty l.rm l.satf (draws l.ty.count seed).2 (fun i => codeOf codes (blockOf fmt p.geo va i)) x, none)
  | .scr key off n fmt blk slots =>
    let src : Src := ⟨tid, s.cur.pc, 0⟩
    let (s1, seed) := s.takeDraws tid l.rm (if fmt == 0 then 0 else l.ty.count)
    if s.lagging && slots.isEmpty then
      (s1.scrQueue since tid key off n (if n == 16 && fmt == 0 then [d, d.succ] else [d])
        (if fmt != 0 then .typed fmt l.ty l.rm l.satf seed else if n == 16 then .pair else .raw n) false 0, none)
    else
      let (s2, codes) := s1.readScrSlots key src slots
      let (s3, x) := s2.scrRead key src akRead off n
      if fmt == 0 then
        let s4 := s3.result [tid] d fun _ => BitVec.ofNat 64 x
        (if n == 16 then s4.result [tid] d.succ fun _ => BitVec.ofNat 64 (x / 2 ^ 64) else s4, none)
      else (s3.result [tid] d fun _ => typedLoad fmt l.ty l.rm l.satf (draws l.ty.count seed).2
        (fun i => (blk[i]?).bind (codeOf codes)) x, none)
  | _ => (s, none)

def LdSt.ask (l : LdSt) (store : Bool) : Ask :=
  { sp := l.sp, n := l.n, ty := l.ty, need := if store then .w else .rd, al := l.al, store := store }

def execLdV96 (x : V96A) (s : State) : Host.Outcome State Fault Refusal :=
  s.run (.ldV96 x) (memBody (LdSt.ask (V96A.ldst x) false) false (fun s t => s.ea2 t x.a x.b) (loadLane (V96A.ldst x) x.d))
def execLdM128 (x : M128A) (s : State) : Host.Outcome State Fault Refusal :=
  s.run (.ldM128 x) (memBody (LdSt.ask (M128A.ldst x) false) false (M128A.ea x) (loadLane (M128A.ldst x) x.d))

/-! ### Stores (R184) -/

/-- The store of one lane by its plan. -/
def storeLane (l : LdSt) (c : Opnd) (since : Nat) (_ps : List (Nat × Plan)) (s : State) (tid : Nat) : Plan → State × Option FaultInfo
  | .mem p va xpa n fmt [] =>
    let (s1, seed) := s.takeDraws tid l.rm (if fmt == 0 then 0 else l.ty.count)
    let a : Access :=
      { tid := tid, p := p, va := va, xpa := xpa, n := n, op := .store, hint := l.hint, kind := 1, since := since, unit := unitOfAccess fmt n l.al va
        data := if fmt == 0 then s.data tid c (n == 16)
          else typedStore fmt l.ty l.rm l.satf (draws l.ty.count seed).2 (fun _ => none) (s.opnd tid c) }
    s1.access a a.parts
  | .mem p va xpa n fmt slots =>
    let (s1, seed) := s.takeDraws tid l.rm l.ty.count
    match s.regionOf tid with
    | none => (s1, none)
    | some r =>
      match s1.readSlots (coreOf tid) r slots with
      | (s2, .error f) => (s2, some f)
      | (s2, .ok codes) =>
        match s2.setDty r.tenant p with
        | (s3, some e) => (s3, some { fltAt e 1 p.lvl va with deferred := true })
        | (s3, none) =>
          match s3.writeNow (coreOf tid) r.tenant xpa n (typedStore fmt l.ty l.rm l.satf (draws l.ty.count seed).2
              (fun i => codeOf codes (blockOf fmt p.geo va i)) (s.opnd tid c)) with
          | (s4, none) => (s4, none)
          | (s4, some e) => (s4, some { fltAt e 1 0 va with deferred := true })
  | .scr key off n fmt blk slots =>
    let src : Src := ⟨tid, s.cur.pc, 0⟩
    let (s1, seed) := s.takeDraws tid l.rm (if fmt == 0 then 0 else l.ty.count)
    let x := fun (codes : List (Nat × Nat)) => if fmt == 0 then s.data tid c (n == 16) else
      typedStore fmt l.ty l.rm l.satf (draws l.ty.count seed).2 (fun i => (blk[i]?).bind (codeOf codes)) (s.opnd tid c)
    if s.lagging && slots.isEmpty then (s1.scrQueue since tid key off n [] .none true (x []), none)
    else
      let (s2, codes) := s1.readScrSlots key src slots
      (s2.scrWrite key src akWrite off n (x codes), none)
  | _ => (s, none)

def execStV96 (x : V96A) (s : State) : Host.Outcome State Fault Refusal :=
  s.run (.stV96 x) (memBody (LdSt.ask (V96A.ldst x) true) false (fun s t => s.ea2 t x.a x.b) (storeLane (V96A.ldst x) x.c))
def execStM128 (x : M128A) (s : State) : Host.Outcome State Fault Refusal :=
  s.run (.stM128 x) (memBody (LdSt.ask (M128A.ldst x) true) false (M128A.ea x) (storeLane (M128A.ldst x) x.c))

/-! ### Atomics (R175, R185 to R188) -/

/-- An operation of the scratch atomic unit: the value received, and the new value if one is written. -/
def State.scrAtomic (s : State) (key : Nat) (src : Src) (off n : Nat) (f : Nat → Nat × Option Nat) : State × Nat :=
  match s.wg? key with
  | none => (s, 0)
  | some g =>
    let v := memNat g.scr off n
    (match (f v).2 with
      | some x => s.scrWrite key src akAtomic off n x
      | none => s.swatch g g src akAtomic off n, (f v).1)

/-- The ask of an atomic on a word of n bytes. -/
def atomAsk (sp : Sp) (n : Nat) : Ask := { sp := sp, n := n, need := .watom, al := n }

/-- The lanes of an instruction whose scratch atomics have the key of a lane's (R175), before it or behind it. -/
def scrMates (ps : List (Nat × Plan)) (key off : Nat) (p : Nat → Bool) : List Nat :=
  ps.filterMap fun q => match q.2 with | .scr k o _ _ _ _ => if k == key && o == off && p q.1 then some q.1 else none | _ => none

/-- The operands of lanes merged in their order (R22, R187). -/
def mergedOperand (op n : Nat) (e : Nat → Nat) : List Nat → Option Nat
  | [] => none
  | t :: r => some (r.foldl (fun a u => mergeOperand op n a (e u)) (e t))

/-- What one lane of a scratch `atom` does to the word (R175): the lanes of equal key merge where the operation combines; the value that the lane receives
and, for the last of them, the value that the word takes. -/
def scrAtom (op n : Nat) (comb : Bool) (e : Nat → Nat) (ps : List (Nat × Plan)) (key off tid : Nat) (v : Nat) : Nat × Option Nat :=
  if !comb then (v, some (atomNew op n v (e tid)))
  else
    let before := mergedOperand op n e (scrMates ps key off fun t => decide (t < tid))
    let upTo := mergedOperand op n e (scrMates ps key off fun t => decide (t ≤ tid))
    ((match before with | some x => atomNew op n v x | none => v),
     if (scrMates ps key off fun t => decide (tid < t)).isEmpty then some (atomNew op n v (upTo.getD (e tid))) else none)

/-- One lane of an atomic: at the word's home, or at once in scratch; D takes the value received unless `nr`. -/
def atomLane (n : Nat) (op : ReqOp) (d : Opnd) (nr : Bool) (sc : Sc) (ord : MOrd) (hint : Hint) (e c : State → Nat → Nat)
    (f : List (Nat × Plan) → State → Nat → Nat → Nat → Nat → Nat × Option Nat) (since : Nat) (ps : List (Nat × Plan)) (s : State) (tid : Nat) :
    Plan → State × Option FaultInfo
  | .mem p va xpa _ _ _ =>
    let a : Access :=
      { tid := tid, p := p, va := va, xpa := xpa, n := n, op := op, data := e s tid % 256 ^ n, cmp := c s tid % 256 ^ n, sc := sc, ord := ord,
        hint := hint, nr := nr, kind := 2, since := since, dsts := if nr then [] else if n == 16 then [d, d.succ] else [d]
        fmt := if nr then .none else if n == 16 then .pair else .raw n, acq := if ord == .acq then some sc else none }
    s.access a a.parts
  | .scr key off _ _ _ _ =>
    let (s1, v) := s.scrAtomic key ⟨tid, s.cur.pc, 0⟩ off n (f ps s tid key off)
    if nr then (s1, none)
    else
      let x := s1.logged tid 1 (BitVec.ofNat 64 v)
      let s2 := (s1.logOf tid 1 x).result [tid] d fun _ => x
      (if n == 16 then s2.result [tid] d.succ fun _ => BitVec.ofNat 64 (v / 2 ^ 64) else s2, none)
  | _ => (s, none)

/-- R185, R187. A release waits for the thread's earlier accesses (R203, R204). -/
def execAtom (x : M128A) (s : State) : Host.Outcome State Fault Refusal :=
  let n := szBytes x.sz
  let op := x.opx.extractLsb' 0 4
  let e := fun (s : State) t => s.data t x.b (n == 16) % 256 ^ n
  s.run (.atom x) (memBody (atomAsk x.sp n) (x.sp == .gv && x.ord == .rel) (M128A.eaI x)
    (atomLane n (.atom op) x.d (x.opx.getLsbD 4) x.sc x.ord x.hint e (fun _ _ => 0) fun ps s t key off =>
      scrAtom op.toNat n (op != 10 && op != 11 && x.ord == .rlx && decide (n ≤ 8)) (e s) ps key off t))

/-- R188. -/
def execCas (x : M128A) (s : State) : Host.Outcome State Fault Refusal :=
  let n := szBytes x.sz
  let new := fun (s : State) t => s.data t x.c (n == 16) % 256 ^ n
  let cmp := fun (s : State) t => s.data t x.b (n == 16) % 256 ^ n
  s.run (.cas x) (memBody (atomAsk x.sp n) (x.sp == .gv && x.ord == .rel) (M128A.eaI x)
    (atomLane n .cas x.d false x.sc x.ord x.hint new cmp fun _ s t _ _ v => (v, if v == cmp s t then some (new s t) else none)))

/-- R191: an acquire on its word; it needs RD and AT (R186). -/
def execAcq (x : M128A) (s : State) : Host.Outcome State Fault Refusal :=
  s.run (.acq x) (memBody { sp := .gv, n := 8, need := .ratom, al := 8 } false (M128A.eaI x)
    (atomLane 8 .acq x.d false x.sc .acq .dflt (fun _ _ => 0) (fun _ _ => 0) fun _ _ _ _ _ v => (v, none)))

/-- R192: a release on its word. -/
def execRel (x : M128A) (s : State) : Host.Outcome State Fault Refusal :=
  s.run (.rel x) (memBody (atomAsk .gv 8) true (M128A.eaI x)
    (atomLane 8 .rel x.d (x.opx.getLsbD 4) x.sc .rel .dflt (fun s t => (s.opnd t x.b).toNat) (fun _ _ => 0) fun _ _ _ _ _ v => (v, none)))

/-! ### Bindings, fences, prefetch (R189, R190, R193, R194) -/

/-- MISALIGN of a binding (R189). -/
def bindMis (word base len : Nat) : Bool :=
  word % 8 != 0 || base % 128 != 0 || len % 128 != 0 || decide (len < 128) || decide (2 ^ 57 < base + len)

/-- R189: once per warp, in ascending slot; the slot is in force at once on every core of the module. -/
def execBind (x : M128A) (s : State) : Host.Outcome State Fault Refusal :=
  s.run (.bind x) fun s ts =>
    let (s0, tag) := s.sampleTake ts
    let (s1, cs) := (warpsOf ts).foldl (fun (acc : State × List (Nat × Ctl)) (w : Nat × List Nat) =>
      let t := w.2.headD 0
      let a := (s.opnd t x.a).toNat
      let b := (s.opnd t x.b).toNat
      let c := (s.opnd t x.c).toNat
      if bindMis a b c then (acc.1, acc.2 ++ w.2.map fun t => (t, .fault (fltAt .misalign 0 0 a)))
      else match acc.1.regionOf t with
        | none => acc
        | some r =>
          match (List.range 64).find? fun i => !(r.binds.any fun e => e.1 == i) with
          | some i => ((acc.1.modRegion r.num fun r => { r with binds := r.binds ++ [(i, a, b, c)] }).result w.2 x.d fun _ => BitVec.ofNat 64 i, acc.2)
          | none => (acc.1.result w.2 x.d fun _ => BitVec.allOnes 64, acc.2)) (s0, [])
    (s1.sampleOpen tag ts s1.m.nextId [] true, cs)

/-- R190. -/
def execUnbind (x : M128A) (s : State) : Host.Outcome State Fault Refusal :=
  s.run (.unbind x) fun s ts =>
    let (s0, tag) := s.sampleTake ts
    let s1 := (warpsOf ts).foldl (fun (s1 : State) (w : Nat × List Nat) =>
      let t := w.2.headD 0
      match s1.regionOf t with
      | none => s1
      | some r => s1.modRegion r.num fun r => { r with binds := r.binds.filter fun e => e.1 != (s.opnd t x.a).toNat }) s0
    (s1.sampleOpen tag ts s1.m.nextId [] true, [])

/-- The scope of a fence (R179). -/
def fenceScope (k : Nat) : Sc :=
  match k with
  | 1 => .warp | 2 => .core | 3 => .clus | 4 => .pkg | _ => .pod

/-- R193: with `park` the thread goes on once every earlier access has been performed; without it, it goes on, and what the fence orders behind it is held. An
acquire fence removes copies (R177, R231). -/
def execFence (x : S64A) (s : State) : Host.Outcome State Fault Refusal :=
  s.run (.fence x) fun s ts =>
    if x.park && ts.any s.busy then (s, ts.map fun t => (t, .hold .drain))
    else
      let (s0, tag) := s.sampleTake ts
      let s1 := ts.foldl (fun s t => s.passFence t (x.i16.extractLsb' 0 2).toNat (fenceScope (x.i16.extractLsb' 2 3).toNat)) s0
      (s1.sampleOpen tag ts s1.m.nextId [] true, [])

/-- The kind of a prefetch's access: it is no fault's kind, and its answer raises none (R194). -/
def prefetchKind : Nat := 16

/-- The hint of a prefetch's read: with L2 = 1 it fills no L1, and keeps the L2 insertion of its own hint (R194). A page's EF counts unless the hint is `.l2k`. -/
def prefetchHint (l2 : Bool) (h : Hint) (ef : Bool) : Hint × Bool :=
  if !l2 then (h, ef)
  else match h with
    | .ef | .nl1ef => (.nl1ef, ef)
    | .l2k => (.nl1, false)
    | _ => (.nl1, ef)

/-- R194: the line of ea is read through its home; a failed translation, a page without RD and host space drop it. -/
def execPrf (x : M128A) (s : State) : Host.Outcome State Fault Refusal :=
  s.run (.prf x) fun s ts =>
    let (s1, cs) := memBody { sp := .gv, n := 1, need := .rd, watch := false } false (M128A.eaI x) (fun since _ s tid pl =>
      match pl with
      | .mem p va xpa _ _ _ =>
        if hostSpace xpa then (s, none)
        else
          let h := prefetchHint (x.opx.getLsbD 0) x.hint p.ef
          let a : Access := { tid := tid, p := { p with ef := h.2 }, va := lineOf va, xpa := lineOf xpa, n := 128, op := .load, kind := prefetchKind, since := since,
                              hint := h.1, unit := 1 }
          s.access a a.parts
      | _ => (s, none)) s ts
    (s1, cs.filter fun c => match c.2 with | .fault _ => false | _ => true)

/-! ### Gathers and scatters (R196, R197) -/

/-- Element bytes of T on the scratch side. -/
def rowElem (t : Ty) : Nat := if t == .none then 1 else t.width / 8

/-- One lane's row once it is checked: its place in scratch, its address, its elements in order. -/
structure Row where
  tid : Nat
  key : Nat
  so : Nat
  ra : Nat
  els : List RowEl
  /-- The slots: virtual and physical address. -/
  slots : List (Nat × Nat × Nat)

/-- Bits of a stored element: as T holds it where the codec stage does not act. -/
def RowEl.bits (e : RowEl) (ty : Ty) : Nat := if e.fmt == 0 then 8 * rowElem ty else fmtBits e.fmt

/-- Address of element i of a row whose elements have `bits` bits. -/
def rowAddr (ra bits i : Nat) : Nat := (ra + i * bits / 8) % 2 ^ 64

/-- The elements of a row translated in order (R182, R197), each under its own page (R160); an element begins where the one before it ends (log entry 100). -/
def State.rowEls (s : State) (tid : Nat) (need : Need) (ty : Ty) (shb ra : Nat) : List Nat → Nat → Except (Option FaultInfo × Nat) (List RowEl)
  | [], _ => .ok []
  | i :: r, b =>
    let a := (ra + b / 8) % 2 ^ 64
    match s.laneXlate tid a need need.kind with
    | .error e => .error (e, a)
    | .ok p =>
      if need == .watom && p.fmt != 0 then .error (some (fltAt .perm 2 p.lvl a), a)
      else
        let fmt := if ty == .none || need == .watom then 0 else p.fmt
        let e : RowEl := { i := i, bit := b, va := a, p := p, fmt := fmt,
                           slot := if fmt == 0 || p.geo == 0 then none else some (slotVa shb (a / blockBytes fmt p.geo)) }
        match s.rowEls tid need ty shb ra r (b + e.bits ty) with
        | .error e => .error e
        | .ok l => .ok (e :: l)

/-- MISALIGN of an element, once its format is known (R163, R171): an INT4 or UINT4 element that a store would leave alone in its byte too. -/
def rowElMis (e : RowEl) (ty : Ty) (store last : Bool) : Bool :=
  let n := (e.bits ty + 7) / 8
  decide (128 < e.va % 128 + n) || (e.fmt != 0 && decide (8 ≤ e.bits ty) && e.va % n != 0) || (store && last && e.bits ty == 4 && e.bit % 8 == 0)

/-- The slots of a row, translated as reads of kind scale. -/
def State.rowSlots (s : State) (tid : Nat) : List Nat → Except (Option FaultInfo × Nat) (List (Nat × Nat × Nat))
  | [] => .ok []
  | a :: r =>
    match s.laneXlate tid a .rd 4 with
    | .error e => .error (e, a)
    | .ok p => match s.rowSlots tid r with
      | .error e => .error e
      | .ok l => .ok ((a, a, p.addr a) :: l)

/-- A row's checks in the order of R182: MISALIGN where the size is known, PERM of the scratch range, the translations, MISALIGN of the elements, their slots; a miss
is reported without a fault. -/
def State.rowPlan (s : State) (tid : Nat) (need : Need) (ty : Ty) (n so ra : Nat) : Except (Option FaultInfo × Nat) Row :=
  let sb := rowElem ty
  if so % sb != 0 then .error (some (fltAt .misalign need.kind 0 so), 0)
  else if need == .watom && ra % sb != 0 then .error (some (fltAt .misalign 2 0 ra), ra)
  else match s.window tid .own so (n * sb) with
    | none => .error (some (fltAt .perm need.kind 0 so), 0)
    | some (key, off) =>
      let shb := match s.regionOf tid with | some r => r.shb | none => 0
      match s.rowEls tid need ty shb ra (List.range n) 0 with
      | .error e => .error e
      | .ok els =>
        match els.find? fun e => rowElMis e ty (need == .w) (e.i + 1 == n) with
        | some e => .error (some (fltAt .misalign need.kind 0 e.va), e.va)
        | none =>
          match s.rowSlots tid (els.filterMap (·.slot)).dedup with
          | .error e => .error e
          | .ok slots => .ok { tid := tid, key := key, so := off, ra := ra, els := els, slots := slots }

/-- The value of an element, as T holds it (R160, R197): decoded, or its bytes; and the stored code of a value. -/
def rowDecode (e : RowEl) (ty : Ty) (rm : Rm) (satf : Bool) (codes : List (Nat × Nat)) (dr c : Nat) : Nat :=
  if e.fmt == 0 then c
  else
    let x := (fmtAt e.fmt).decode c
    (tyFmt ty).enc rm satf dr (match e.slot.bind (codeOf codes) with | some k => prod x k | none => x)
def rowEncode (e : RowEl) (ty : Ty) (rm : Rm) (satf : Bool) (codes : List (Nat × Nat)) (dr c : Nat) : Nat :=
  if e.fmt == 0 then c
  else
    let x := (tyFmt ty).decode c
    (fmtAt e.fmt).enc rm satf dr (match e.slot.bind (codeOf codes) with | some k => quot x k | none => x)

/-- The draw that a lane's element takes: one for each element that the codec stage converts, in order (R154, R155). -/
def RowJob.draw (j : RowJob) (l : RowLane) (e : RowEl) : Nat :=
  let k := (j.els.filter fun x => x.fmt != 0 && decide (x.i < e.i)).length
  (draws (k + 1) l.seed).2.getD k 0

/-! #### Moving a row -/

/-- A deferred fault of a row goes to each of its lanes, once (R59, R197). -/
def State.rowFault (s : State) (j : RowJob) (c : Code) (va : Nat) : State :=
  if j.fault then s
  else j.lanes.foldl (fun s l => s.raise l.tid { fltAt c (bit j.store) 0 va with pc := j.pc, resume := (s.thread l.tid).pc, deferred := true })
    { s with c := { s.c with rows := s.c.rows.map fun k => if k.id == j.id then { k with fault := true } else k } }

/-- Element e of a `gth` row (R197): read through the core, decoded and written to each lane's scratch. -/
def State.gthEl (s : State) (r : Region) (j : RowJob) (e : RowEl) : State :=
  let core := match j.lanes with | l :: _ => coreOf l.tid | [] => 0
  let bits := e.bits j.ty
  match s.coreReads core r e.va (e.p.addr e.va) j.hint e.p.ef (sectorParts (e.p.addr e.va) ((bits + 7) / 8)) with
  | (s1, .error c) => s1.rowFault j c e.va
  | (s1, .ok x) =>
    let c := if bits == 4 then x / 2 ^ (e.bit % 8) % 16 else x
    let sb := rowElem j.ty
    j.lanes.foldl (fun s l => s.scrWrite l.key ⟨l.tid, j.pc, 0⟩ akWrite (l.so + e.i * sb) sb (rowDecode e j.ty j.rm j.satf j.codes (j.draw l e) c)) s1

/-- Element e of a `sct` row, with the one behind it in its byte (R197): read from scratch, encoded and stored. -/
def State.sctEl (s : State) (r : Region) (j : RowJob) (l : RowLane) (e : RowEl) : State :=
  let sb := rowElem j.ty
  let src : Src := ⟨l.tid, j.pc, 0⟩
  let code := fun (s : State) (e : RowEl) =>
    let (s1, a) := s.scrRead l.key src akRead (l.so + e.i * sb) sb
    (s1, rowEncode e j.ty j.rm j.satf j.codes (j.draw l e) a)
  let (s1, lo) := code s e
  let (s2, v) := if e.bits j.ty == 4 then match j.els[e.i + 1]? with
      | some h => let (s2, hi) := code s1 h; (s2, lo % 16 + 16 * (hi % 16))
      | none => (s1, lo)
    else (s1, lo)
  match s2.setDty r.tenant e.p with
  | (s3, some c) => s3.rowFault j c e.va
  | (s3, none) =>
    match s3.writeNow (coreOf l.tid) r.tenant (e.p.addr e.va) ((e.bits j.ty + 7) / 8) v with
    | (s4, some c) => s4.rowFault j c e.va
    | (s4, none) => s4

/-- Two elements touch a byte in common. -/
def RowEl.meets (a b : RowEl) : Bool := decide (a.p.addr a.va < b.p.addr b.va + 8) && decide (b.p.addr b.va < a.p.addr a.va + 8)

/-- The elements of a row that may be moved now: no earlier one of the row reads or writes the same bytes (R200), nor, for a store, one of a lane before it (R197). -/
def State.rowReady (s : State) (j : RowJob) : List RowEl :=
  let left := fun (k : RowJob) => k.els.filter fun e => k.todo.contains e.i
  let before := s.c.rows.filter fun k => k.store && j.store && decide (k.id < j.id)
  (left j).filter fun e => !((left j).any fun x => decide (x.i < e.i) && x.meets e) && !(before.any fun k => (left k).any e.meets)

/-- An element of a row is moved; after the last one the accesses that stand for the row are performed. -/
def State.rowPiece (s : State) (id key : Nat) : State :=
  match s.c.rows.find? fun j => j.id == id with
  | none => s
  | some j =>
    let ready := s.rowReady j
    match ready[Config.freeChoice s.free key 8000 % ready.length]?, j.lanes, s.regionOf ((j.lanes.map (·.tid)).headD 0) with
    | some e, l :: _, some r =>
      let pair := j.store && e.bits j.ty == 4
      let todo := j.todo.filter fun i => !(i == e.i || (pair && i == e.i + 1))
      let s1 := if j.store then s.sctEl r j l e else s.gthEl r j e
      let s2 := { s1 with free := s1.free + 1, c := { s1.c with rows := s1.c.rows.map fun k => if k.id == id then { k with todo := todo } else k } }
      if !todo.isEmpty then s2
      else j.lanes.foldl (fun s l => match s.m.ops.find? fun o => o.id == l.op with
        | some o => s.partDone o 0 0 none
        | none => s) { s2 with c := { s2.c with rows := s2.c.rows.filter fun k => k.id != id } }
    | _, _, _ => s

/-- Rows begin to be moved (R196): those of one `gth` with one address and length are read once. The access that stands for each lane is in flight. -/
def State.startRows (s : State) (store : Bool) (x : M128A) (rows : List (Row × Word × List (Nat × Nat))) : State :=
  rows.foldl (fun s q =>
    let r := q.1
    let id := s.m.nextId
    let o : MOp :=
      { id := id, tid := r.tid, pc := s.cur.pc, kind := bit store, va := r.ra, dsts := [], parts := [{ xpa := 2 ^ 70, size := 1, at_ := 0, done := false, data := 0, fault := none }],
        fmt := .none, acq := none, ranges := [], fill := false, clk := s.clk, sample := some id, mst := false }
    let l : RowLane := { op := id, tid := r.tid, key := r.key, so := r.so, seed := q.2.1 }
    let s1 := s.newId.setOps (s.m.ops ++ [o])
    match (if store then none else s.c.rows.find? fun j => !j.store && j.pc == s.cur.pc && j.els == r.els &&
        j.lanes.all fun m => (rows.map fun y => y.1.tid).contains m.tid) with
    | some j => { s1 with c := { s1.c with rows := s1.c.rows.map fun k => if k.id == j.id then { k with lanes := k.lanes ++ [l] } else k } }
    | none => { s1 with c := { s1.c with rows := s1.c.rows ++
        [{ id := id, store := store, pc := s.cur.pc, lanes := [l], ty := x.ty, rm := x.rm, satf := x.sat == .satf, hint := x.hint, els := r.els,
           todo := r.els.map (·.i), codes := q.2.2, fault := false }] } }) s

/-- A row of `gth` or `sct` starts: its draws are taken and its slots read (R154, R162). -/
def rowStart (x : M128A) (_since : Nat) (s : State) (r : Row) : State × Option FaultInfo × List (Row × Word × List (Nat × Nat)) :=
  match s.regionOf r.tid with
  | none => (s, none, [])
  | some g =>
    let (s1, seed) := s.takeDraws r.tid x.rm (r.els.filter fun e => e.fmt != 0).length
    match s1.readSlots (coreOf r.tid) g r.slots with
    | (s2, .error f) => (s2, some f, [])
    | (s2, .ok codes) => (s2, none, [(r, seed, codes)])

/-- R197, `sctr`: each element is an atomic add without return. -/
def sctrRow (x : M128A) (since : Nat) (s : State) (r : Row) : State × Option FaultInfo × List (Row × Word × List (Nat × Nat)) :=
  let sb := rowElem x.ty
  let (s1, f) := r.els.foldl (fun (acc : State × Option FaultInfo) (e : RowEl) =>
    let (s1, v) := acc.1.scrRead r.key ⟨r.tid, s.cur.pc, 0⟩ akRead (r.so + e.i * sb) sb
    let a : Access :=
      { tid := r.tid, p := e.p, va := e.va, xpa := e.p.addr e.va, n := sb, op := .atom (if x.ty == .f32x2 then 1 else 0), data := v, sc := x.sc,
        hint := x.hint, nr := true, kind := 2, since := since }
    let (s2, f) := s1.access a a.parts
    (s2, acc.2.or f)) (s, none)
  (s1, f, [])

/-- The bytes that the rows of an issue name to a watchpoint (R439): a row's, once its pages' formats are known; each element of an `sctr`. -/
def rowLanes (x : M128A) (need : Need) (ra n : Nat → Nat) (ps : List (Nat × Except (Option FaultInfo × Nat) Row)) : List (Nat × Nat × Nat) :=
  let sb := rowElem x.ty
  ps.flatMap fun p =>
    if need == .watom then (List.range (n p.1)).map fun i => (p.1, (ra p.1 + i * sb) % 2 ^ 64, sb)
    else match p.2 with
      | .ok r => [(p.1, ra p.1, ((r.els.map fun e => e.bits x.ty).sum + 7) / 8)]
      | .error (none, _) => if x.ty == .none then [(p.1, ra p.1, n p.1 * sb)] else []
      | .error (some _, _) => [(p.1, ra p.1, n p.1 * sb)]

/-- The body of `gth`, `sct`, `sctr`: one row for each executing lane, after the lane's earlier accesses. -/
def rowBody (x : M128A) (need : Need) (go : Nat → State → Row → State × Option FaultInfo × List (Row × Word × List (Nat × Nat))) : Body := fun s ts =>
  let n := fun t => (s.opnd t x.c).toNat % 4096 + 1
  let ra := fun t => (s.opnd t x.a + BitVec.ofNat 64 ((s.opnd t x.b).toNat % 2 ^ 32) * x.i32.signExtend 64).toNat
  let so := fun t => (s.opnd t x.d).toNat + laneOf t * (n t * rowElem x.ty)
  let ps := ts.map fun t => (t, s.rowPlan t need x.ty (n t) (so t) (ra t))
  let misses := ps.filterMap fun p => match p.2 with | .error (none, a) => some (p.1, a) | _ => none
  let seen := s.watchIssue need.kind (rowLanes x need ra n ps)
  if ts.any s.busy then (seen, ts.map fun t => (t, .hold .drain))
  else if !misses.isEmpty then (misses.foldl (fun s m => s.addMiss m.1 m.2) seen, ts.map fun t => (t, .hold .walk))
  else
    let (s2, tag) := seen.sampleTake ts
    let since := s2.m.nextId
    let (s3, cs, rows) := ps.foldl (fun (acc : State × List (Nat × Ctl) × List (Row × Word × List (Nat × Nat))) p =>
      match p.2 with
      | .error (some f, _) => (acc.1, acc.2.1 ++ [(p.1, .fault f)], acc.2.2)
      | .error (none, _) => acc
      | .ok r =>
        let s := match acc.1.regionOf p.1 with
          | some g => r.els.foldl (fun s (e : RowEl) => s.tlbFill (coreOf p.1) g.asid e.p) acc.1
          | none => acc.1
        let (s1, f, rs) := go since s r
        (s1, acc.2.1 ++ (match f with | some f => [(p.1, .fault f)] | none => []), acc.2.2 ++ rs)) (s2.newId, [], [])
    let units := (ps.flatMap fun p => match p.2 with | .ok r => r.els.map fun e => e.p.addr e.va / 32 | _ => []).dedup
    (((s3.startRows (need == .w) x rows).joinOlder since).sampleOpen tag ts since units true, cs)

def execGth (x : M128A) (s : State) : Host.Outcome State Fault Refusal := s.run (.gth x) (rowBody x .rd (rowStart x))
def execSct (x : M128A) (s : State) : Host.Outcome State Fault Refusal := s.run (.sct x) (rowBody x .w (rowStart x))
def execSctr (x : M128A) (s : State) : Host.Outcome State Fault Refusal := s.run (.sctr x) (rowBody x .watom (sctrRow x))

/-! ### The multicast store (R414 to R416) -/

/-- A module mask names a module at or beyond NMOD (R415). -/
def maskBad (mask n : Nat) : Bool := mask / 2 ^ n != 0

/-- R415, R416: one copy for each module of the mask, each a module-local store there. -/
def execMst (x : M128A) (s : State) : Host.Outcome State Fault Refusal :=
  let n := szBytes x.sz
  s.run (.mst x) (memBody { sp := .gv, n := n, need := .w, al := atmAlign x.atm, store := true } false (fun s t => s.ea3 t x.b (.imm 0) x.i32)
    fun since _ s tid pl =>
      match pl with
      | .mem p va xpa _ _ _ =>
        let mask := (s.opnd tid x.a).toNat
        if p.plc != 1 || maskBad mask s.nmod then (s, some (fltAt .perm 1 p.lvl va))
        else
          let mods := (List.range 64).filter fun m => mask.testBit m
          let a : Access := { tid := tid, p := p, va := va, xpa := xpa, n := n, op := .store, data := s.data tid x.c (n == 16), hint := x.hint, kind := 1,
                              since := since, mst := true, unit := unitOfAccess 0 n (atmAlign x.atm) va }
          if mods.isEmpty then (s, none)
          else s.access a (mods.flatMap fun m => a.parts.map fun q => { q with xpa := qualify 1 m (paOf q.xpa) })
      | _ => (s, none))

end Sys2Proof.Machine
end

