-- ==== Sys2Proof/Machine/Copy.lean ====
section
/-! DEFINITION. The copy engine and its batches (R247 to R257), and `gthl` (R198, R199). -/

namespace Sys2Proof.Machine
open Sys2Proof

/-! ### Descriptors (R248) -/

/-- The fields of a copy descriptor (R248): RB and RN as counts, GST signed. -/
structure CpDesc where
  gva : Nat
  segv : Bool
  n : Nat
  scb : Nat
  sof : Nat
  gst : Int
  rb : Nat
  rn : Nat
  sst : Nat
  deriving DecidableEq, Repr

/-- A descriptor from its four words. -/
def cpDesc (ws : List Word) : CpDesc :=
  let f := fun (k hi lo : Nat) => slice (ws.getD k 0).toNat hi lo
  { gva := f 0 56 0, segv := f 1 52 52 == 1, n := f 1 51 48, scb := f 1 47 32, sof := f 1 31 0, gst := sext 32 (f 2 63 32),
    rb := f 2 31 16 + 1, rn := f 2 15 0 + 1, sst := f 3 31 0 }

/-- The reserved fields of a descriptor are zero (R248). -/
def cpReserved (ws : List Word) : Bool :=
  slice (ws.getD 0 0).toNat 63 57 == 0 && slice (ws.getD 1 0).toNat 63 53 == 0 && slice (ws.getD 3 0).toNat 63 32 == 0

/-- Scratch bytes from the first byte of row 0 to the last byte of the last row. -/
def CpDesc.ext (d : CpDesc) : Nat := (d.rn - 1) * d.sst + d.rb

/-- LIM of the segment that a copy writes (R251). -/
def CpDesc.lim (d : CpDesc) : Nat := d.sof / 16 + (d.ext + 15) / 16

/-- Block bytes under a format and geometry, 0 when there are no blocks (R157). -/
def segBlock (fmt geo : Nat) : Nat := if geo == 0 then 0 else blockBytes fmt geo

/-- PERM of a slot area [16·SCB, + 2·blocks) outside the configured scratch (R250, R251): the first offset outside. -/
def slotArea (size scb bb ext : Nat) : Option Nat :=
  if bb != 0 && decide (size < 16 * scb + 2 * ((ext + bb - 1) / bb)) then some (max size (16 * scb)) else none

/-- The checks of a descriptor at issue, after REGRANGE, in order (R250); `seg` is `%segN` as it stands. -/
def cpCheck (ws : List Word) (size : Nat) (s2g : Bool) (seg : Nat) : Option FaultInfo :=
  let d := cpDesc ws
  let kind := if s2g then 6 else 7
  if !cpReserved ws then some (flt .illegal)
  else if size < d.sof + d.ext then some (fltAt .perm kind 0 (max d.sof size))
  else match (if s2g && d.segv then slotArea size (slice seg 63 48) (segBlock (slice seg 5 0) (slice seg 8 6)) d.ext else none) with
    | some a => some (fltAt .perm kind 0 a)
    | none => if d.segv && (d.sof % 16 != 0 || decide (0xFFFF < d.lim)) then some (flt .misalign) else none

/-! ### Transfers (R251, R252) -/

/-- What an engine's partial work leaves: the state, with a fault or a value. -/
abbrev Work (α : Type) := State × Except FaultInfo α

/-- Translate one address for a copy: `want` is the format and geometry that every row page must carry (R251). -/
def State.cpXlate (s : State) (core : Nat) (r : Region) (va : Nat) (n : Need) (kind : Nat) (want : Option (Nat × Nat)) : Work Pte :=
  match s.xlate core r va n with
  | (s1, .error e) => (s1, .error (e.flt kind))
  | (s1, .ok p) =>
    match want with
    | some w => if w == (p.fmt, p.geo) then (s1, .ok p) else (s1, .error (fltAt .perm kind p.lvl va))
    | none => (s1, .ok p)

/-- The single-copy atomic units of the bytes [x, x + n): each aligned 4-byte unit that lies wholly inside, else each byte (R252): start, place, bytes. -/
def wordParts (x n : Nat) : List (Nat × Nat × Nat) :=
  (List.range (n / 4 + 2)).flatMap fun i =>
    let b := x / 4 * 4 + 4 * i
    let lo := max b x
    let hi := min (b + 4) (x + n)
    if hi - lo == 4 then [(lo, lo - x, 4)] else (List.range (hi - lo)).map fun j => (lo + j, lo + j - x, 1)

/-- The pieces of the virtual range [va, va + n), one for each sector: address, place, bytes. -/
def vaParts (va n : Nat) : List (Nat × Nat × Nat) := (sectorParts va n).map fun q => (q.1 % 2 ^ 64, q.2.1, q.2.2)

/-- Who copies what: the core, the region, the workgroup, the source of the watch records, the direction, the format, the geometry, the
segment's start and slot area. -/
structure CpJob where
  core : Nat
  r : Region
  key : Nat
  src : Src
  s2g : Bool
  fmt : Nat
  geo : Nat
  base : Nat
  scb : Nat
  size : Nat
  d : CpDesc

/-- One piece of a copy: a virtual address, a scratch offset, the bytes, and whether it is a scale slot. -/
structure CpPiece where
  va : Nat
  off : Int
  n : Nat
  slot : Bool

/-- The pieces of row i (R251, R252): its units, then the slots of its blocks. -/
def CpJob.pieces (j : CpJob) (i : Nat) : List CpPiece :=
  let va := (BitVec.ofInt 64 (j.d.gva + i * j.d.gst)).toNat
  let off := j.d.sof + i * j.d.sst
  let bb := segBlock j.fmt j.geo
  let slot := fun (k : Nat) => (slotVa j.r.shb ((va + k * bb) / bb), 16 * (j.scb : Int) + 2 * (((off + k * bb : Nat) - (16 * j.base : Nat) : Int) / (bb : Int)))
  (wordParts va j.d.rb).map (fun q => { va := q.1 % 2 ^ 64, off := off + q.2.1, n := q.2.2, slot := false }) ++
  (if j.d.segv && j.geo != 0 then (List.range (j.d.rb / bb)).map fun k => { va := (slot k).1, off := (slot k).2, n := 2, slot := true } else [])

/-- Move one piece: between a virtual address and a scratch offset. A slot outside the configured scratch is PERM (R250, R251). -/
def CpJob.move (j : CpJob) (s : State) (q : CpPiece) : State × Option FaultInfo :=
  let kind := if j.s2g then 7 else 6
  if q.off < 0 ∨ (j.size : Int) < q.off + q.n then (s, some (fltAt .perm (if j.s2g then 6 else 7) 0 (BitVec.ofInt 64 q.off).toNat))
  else match s.cpXlate j.core j.r q.va (if j.s2g then .w else .rd) kind (if j.d.segv && !q.slot then some (j.fmt, j.geo) else none) with
    | (s1, .error f) => (s1, some f)
    | (s1, .ok p) =>
      if j.s2g then
        let (s2, x) := s1.scrRead j.key j.src akRead q.off.toNat q.n
        match s2.writeNow j.core j.r.tenant (p.addr q.va) q.n x with
        | (s3, some c) => (s3, some (fltAt c 7 p.lvl q.va))
        | (s3, none) => (s3, none)
      else match s1.engRead j.r.tenant (p.addr q.va) q.n .dflt p.ef with
        | (s2, .error c) => (s2, some (fltAt c 6 p.lvl q.va))
        | (s2, .ok x) => ((s2.l1Forget j.core (p.addr q.va)).scrWrite j.key j.src akWrite q.off.toNat q.n x, none)

/-- Move the pieces of a list in order, until one faults. -/
def CpJob.moves (j : CpJob) : List CpPiece → State → State × Option FaultInfo
  | [], s => (s, none)
  | q :: rest, s =>
    match j.move s q with
    | (s1, some f) => (s1, some f)
    | (s1, none) => j.moves rest s1

/-- The rows that are left of a copy, in ascending order: `done` names the pieces that have been moved. -/
def CpJob.rows (j : CpJob) (done : List (Nat × Nat)) : List Nat → State → State × Option FaultInfo
  | [], s => (s, none)
  | i :: rest, s =>
    let ps := j.pieces i
    match j.moves (((ps.zip (List.range ps.length)).filter fun q => !done.contains (i, q.2)).map (·.1)) s with
    | (s1, some f) => (s1, some f)
    | (s1, none) => j.rows done rest s1

/-- `%segN` as a `.g2s` copy writes it (R251). -/
def CpDesc.segWord (d : CpDesc) (fmt geo : Nat) : Nat := fmt + geo * 2 ^ 6 + d.sof / 16 * 2 ^ 16 + d.lim * 2 ^ 32 + d.scb * 2 ^ 48

/-- The format and geometry of a copy (R251): of `%segN` as it stood at issue, or of the page of GVA. -/
def State.copyPage (s : State) (g : Wg) (r : Region) (x : Xfer) : Work (Nat × Nat) :=
  let d := cpDesc x.desc
  match x.page with
  | some q => (s, .ok q)
  | none =>
    if !d.segv then (s, .ok (0, 0))
    else if x.s2g then (s, .ok (slice x.seg 5 0, slice x.seg 8 6))
    else match s.cpXlate g.core r d.gva .rd 6 none with
      | (s1, .error e) => (s1, .error e)
      | (s1, .ok p) => (s1, .ok (p.fmt, p.geo))

/-- The copy that a transfer makes, once its page is known. -/
def copyJob (g : Wg) (r : Region) (x : Xfer) (q : Nat × Nat) : CpJob :=
  let d := cpDesc x.desc
  { core := g.core, r := r, key := g.key, src := ⟨x.tid, x.pc, 1⟩, s2g := x.s2g, fmt := q.1, geo := q.2,
    base := if x.s2g then slice x.seg 31 16 else d.sof / 16, scb := if x.s2g then slice x.seg 63 48 else d.scb, size := g.win, d := d }

/-- The checks of a copy that need its page (R251): the block alignment, then the slot area. -/
def CpJob.check (j : CpJob) : Option FaultInfo :=
  let bb := segBlock j.fmt j.geo
  let off := fun (x : Int) => x % (bb : Int) != 0
  if j.d.segv && bb != 0 && (off j.d.gva || off j.d.rb || off j.d.gst || off j.d.sst || off (j.d.sof - 16 * j.base : Int)) then
    some (fltAt .misalign (if j.s2g then 7 else 6) 0 j.d.gva)
  else if j.d.segv && !j.s2g then (slotArea j.size j.d.scb bb j.d.ext).map fun a => fltAt .perm 7 0 a
  else none

/-- The rest of a copy (R251): the checks that need the page, the pieces that are left, the segment register. -/
def State.copyRun (s : State) (g : Wg) (r : Region) (x : Xfer) : State × Option FaultInfo :=
  match s.copyPage g r x with
  | (s1, .error f) => (s1, some f)
  | (s1, .ok q) =>
    let j := copyJob g r x q
    match (if x.done.isEmpty then j.check else none) with
    | some f => (s1, some f)
    | none =>
      match j.rows x.done (List.range j.d.rn) s1 with
      | (s2, some f) => (s2, some f)
      | (s2, none) => (if j.d.segv && !j.s2g then s2.setSeg g.key j.d.n (BitVec.ofNat 64 (j.d.segWord j.fmt j.geo)) else s2, none)

/-! ### `gthl` (R198, R199) -/

/-- The fields of a `gthl` descriptor (R198): base, list, rows, destination, stride, row length. -/
structure GlDesc where
  base : Nat
  list : Nat
  c : Nat
  dst : Nat
  stride : Int
  n : Nat

def glDesc (ws : List Word) : GlDesc :=
  let f := fun (k hi lo : Nat) => slice (ws.getD k 0).toNat hi lo
  { base := f 0 63 0, list := f 1 63 0, c := f 2 47 32 + 1, dst := f 2 31 0, stride := sext 32 (f 3 63 32), n := f 3 11 0 + 1 }

/-- The checks of `gthl` at issue (R198): MISALIGN of the list and of the destination, PERM of a scratch range. -/
def glCheck (ws : List Word) (size : Nat) (own : Bool) (ty : Ty) : Option FaultInfo :=
  let d := glDesc ws
  let rb := d.n * rowElem ty
  if d.list % 4 != 0 then some (fltAt .misalign 9 0 d.list)
  else if d.dst % rowElem ty != 0 then some (fltAt .misalign 0 0 d.dst)
  else if size < d.dst + d.c * rb then some (fltAt .perm 0 0 (max d.dst size))
  else if own && decide (size < d.list + 4 * d.c) then some (fltAt .perm 9 0 (max d.list size))
  else none

/-- Who gathers what: the transfer, its core, region and window. -/
structure GlJob where
  core : Nat
  r : Region
  key : Nat
  src : Src
  own : Bool
  ty : Ty
  rm : Rm
  satf : Bool
  hint : Hint
  seed : Word
  d : GlDesc

/-- The entry of row i in the list (R198): one read of 4 bytes. -/
def GlJob.entry (j : GlJob) (s : State) (i : Nat) : Work Nat :=
  let la := (j.d.list + 4 * i) % 2 ^ 64
  if j.own then
    let (s1, k) := s.scrRead j.key j.src akRead la 4
    (s1, .ok k)
  else match s.vread j.core j.r la 4 with
    | (s1, .error e) => (s1, .error (e.flt 9))
    | (s1, .ok k) => (s1, .ok k)

/-- Address of the row that an index names. -/
def GlJob.rowAt (j : GlJob) (k : Nat) : Nat := (BitVec.ofInt 64 (j.d.base + k * j.d.stride)).toNat

/-- The elements of a row, each translated under its own page (R160): those before the first that does not translate, and its fault. -/
def GlJob.els (j : GlJob) (ra : Nat) : List Nat → Nat → State → State × List RowEl × Option FaultInfo
  | [], _, s => (s, [], none)
  | i :: rest, b, s =>
    let a := (ra + b / 8) % 2 ^ 64
    match s.cpXlate j.core j.r a .rd 0 none with
    | (s1, .error f) => (s1, [], some f)
    | (s1, .ok p) =>
      let fmt := if j.ty == .none then 0 else p.fmt
      let e : RowEl := { i := i, bit := b, va := a, p := p, fmt := fmt, slot := if fmt == 0 || p.geo == 0 then none else some (slotVa j.r.shb (a / blockBytes fmt p.geo)) }
      let (s2, l, f) := j.els ra rest (b + e.bits j.ty) s1
      (s2, e :: l, f)

/-- The values that the rows below row i convert (R154), as the list and the pages stand now; `idx` are the entries already read. -/
def GlJob.converted (j : GlJob) (s : State) (idx : List (Nat × Nat)) (i : Nat) : Nat :=
  ((List.range i).map fun k =>
    match (match idx.find? fun q => q.1 == k with | some q => some q.2 | none => (j.entry s k).2.toOption) with
    | none => 0
    | some x => ((j.els (j.rowAt x) (List.range j.d.n) 0 s).2.1.filter fun e => e.fmt != 0).length).sum

/-- Element e of row i, whose draws begin at `first`: read, decoded, written to scratch (R197, R198). -/
def GlJob.el (j : GlJob) (i first : Nat) (els : List RowEl) (e : RowEl) (s : State) : State × Option FaultInfo :=
  let sb := rowElem j.ty
  let bits := e.bits j.ty
  let k := first + (els.filter fun x => x.fmt != 0 && decide (x.i < e.i)).length
  if rowElMis e j.ty false false then (s, some (fltAt .misalign 0 0 e.va))
  else
    let codes : Work (List (Nat × Nat)) := match e.slot with
      | none => (s, .ok [])
      | some a => match s.vread j.core j.r a 2 with
        | (s1, .error f) => (s1, .error (f.flt 4))
        | (s1, .ok c) => (s1, .ok [(a, c)])
    match codes with
    | (s1, .error f) => (s1, some f)
    | (s1, .ok cs) =>
      match s1.coreReads j.core j.r e.va (e.p.addr e.va) j.hint e.p.ef (sectorParts (e.p.addr e.va) ((bits + 7) / 8)) with
      | (s2, .error c) => (s2, some (fltAt c 0 e.p.lvl e.va))
      | (s2, .ok x) =>
        let c := if bits == 4 then x / 2 ^ (e.bit % 8) % 16 else x
        (s2.scrWrite j.key j.src akWrite (j.d.dst + i * (j.d.n * sb) + e.i * sb) sb
          (rowDecode e j.ty j.rm j.satf cs ((draws (k + 1) j.seed).2.getD k 0) c), none)

/-- Elements of a row in order, until one faults. -/
def GlJob.elems (j : GlJob) (i first : Nat) (all : List RowEl) : List RowEl → State → State × Option FaultInfo
  | [], s => (s, none)
  | e :: rest, s =>
    match j.el i first all e s with
    | (s1, some f) => (s1, some f)
    | (s1, none) => j.elems i first all rest s1

/-- The gathering that a transfer makes, if it is a `gthl`. -/
def glJob (g : Wg) (r : Region) (x : Xfer) : Option GlJob :=
  x.gthl.map fun (q : Bool × Ty × Rm × Bool × Hint × Word) =>
    { core := g.core, r := r, key := g.key, src := ⟨x.tid, x.pc, 1⟩, own := q.1, ty := q.2.1, rm := q.2.2.1, satf := q.2.2.2.1, hint := q.2.2.2.2.1, seed := q.2.2.2.2.2,
      d := glDesc x.desc }

/-- The rows that are left of a `gthl`, in list order (R199): `idx` are the entries already read, `done` the elements already moved. -/
def GlJob.rows (j : GlJob) (idx done : List (Nat × Nat)) : List Nat → State → State × Option FaultInfo
  | [], s => (s, none)
  | i :: rest, s =>
    match (match idx.find? fun q => q.1 == i with | some q => ((s, .ok q.2) : Work Nat) | none => j.entry s i) with
    | (s1, .error f) => (s1, some f)
    | (s1, .ok k) =>
      let (s2, els, bad) := j.els (j.rowAt k) (List.range j.d.n) 0 s1
      match j.elems i (j.converted s2 idx i) els (els.filter fun e => !done.contains (i, e.i)) s2 with
      | (s3, some f) => (s3, some f)
      | (s3, none) =>
        match bad with
        | some f => (s3, some f)
        | none => j.rows idx done rest s3

/-! ### Batches (R253 to R257) -/

def State.setXfers (s : State) (l : List Xfer) : State := { s with c := { s.c with xfers := l } }

/-- A copy fault has been recorded for the thread and not raised: the record holds an address (R256). -/
def Batches.hasFault (b : Batches) : Bool := b.opn.isSome || b.bs.any fun x => x.f.isSome

/-- Note the fault of a transfer in its batch (R256): the first of the batch; only the first of the record keeps its address. -/
def Batches.note (b : Batches) (num : Option Nat) (f : FaultInfo) : Batches :=
  let f := if b.hasFault then { f with addr := 0, lost := true } else f
  match num with
  | .none => { b with opn := b.opn.orElse fun _ => some f }
  | .some n => { b with bs := b.bs.map fun x => if x.num == n && x.f.isNone then { x with f := some f } else x }

/-- The batch of a thread still has a transfer. -/
def State.batchBusy (s : State) (tid n : Nat) : Bool := s.c.xfers.any fun x => x.tids.contains (tid, some n)

/-- The oldest batch marked faulted (R256). -/
def State.faultedBatch (s : State) (tid : Nat) : Option (Nat × FaultInfo) :=
  (s.thread tid).batches.bs.findSome? fun x => match x.f with
    | some f => if s.batchBusy tid x.num then none else some (x.num, f)
    | none => none

/-- Free a batch's number. -/
def State.freeBatch (s : State) (tid n : Nat) : State :=
  s.modThread tid fun t => { t with batches := { t.batches with bs := t.batches.bs.filter fun x => x.num != n } }

def State.inUse (s : State) (tid n : Nat) : Bool := (s.thread tid).batches.bs.any fun x => x.num == n

/-- Seal the open batch of a thread (R253). -/
def State.sealBatch (s : State) (tid : Nat) : State :=
  let n := (s.thread tid).batches.next
  (s.modThread tid fun t =>
    { t with batches := { bs := t.batches.bs ++ [{ num := n, f := t.batches.opn }], opn := none, next := (n + 1) % 8 } }).setXfers
    (s.c.xfers.map fun x => { x with tids := x.tids.map fun q => if q == (tid, none) then (tid, some n) else q })

/-- A wait for batch n (R254, R256): a marked fault first, then the wait, then the number is free. -/
def State.waitBatch (s : State) (tid n : Nat) : State × Option Ctl :=
  match s.faultedBatch tid with
  | some (k, f) => (s.freeBatch tid k, some (.fault f))
  | none =>
    if s.inUse tid n && s.batchBusy tid n then (s, some (.hold (.batch n)))
    else (s.freeBatch tid n, none)

/-- Each thread in ascending order, with the control that it takes, if any. -/
def eachThread (f : State → Nat → State × Option Ctl) : Body := fun s ts =>
  ts.foldl (fun (acc : State × List (Nat × Ctl)) t =>
    let (s1, c) := f acc.1 t
    (s1, acc.2 ++ match c with | some c => [(t, c)] | none => [])) (s, [])

/-- Each warp in ascending order; the control goes to every executing thread of it. -/
def eachWarp (f : State → List Nat → Nat → State × Option Ctl) : Body := fun s ts =>
  (warpsOf ts).foldl (fun (acc : State × List (Nat × Ctl)) (w : Nat × List Nat) =>
    let (s1, c) := f acc.1 w.2 (w.2.headD 0)
    (s1, acc.2 ++ match c with | some c => w.2.map fun t => (t, c) | none => [])) (s, [])

/-- Put a transfer into the open batch of every thread of a list. -/
def State.startXfer (s : State) (key : Nat) (ts : List Nat) (x : Xfer) : State :=
  let s1 := s.newId
  s1.setXfers (s1.c.xfers ++ [{ x with id := s.m.nextId, wg := key, tids := ts.map fun t => (t, none) }])

/-- A transfer with nothing filled in. -/
def Xfer.blank (pc tid : Nat) : Xfer :=
  { id := 0, wg := 0, tids := [], node := none, desc := [], s2g := false, seg := 0, gthl := none, pc := pc, tid := tid, page := none, idx := [], done := [], fault := none }

/-- The four registers from a `w` operand on. -/
def State.wFour (s : State) (tid : Nat) (a : Opnd) : List Word := (List.range 4).map fun i => s.readW tid (a.num + i)

/-- R250: `cp`, once per warp, after the threads' earlier accesses (R252). -/
def execCp (x : M128A) (s : State) : Host.Outcome State Fault Refusal :=
  s.run (.cp x) fun s ts =>
    if ts.any s.busy then (s, ts.map fun t => (t, .hold .drain))
    else eachWarp (fun s ts t =>
      let ws := s.wFour t x.a
      let w0 := ws.getD 0 0
      let gva := (BitVec.ofInt 57 (slice w0.toNat 56 0 + x.i32.toInt)).toNat + slice w0.toNat 63 57 * 2 ^ 57
      let ws := ws.set 0 (BitVec.ofNat 64 gva)
      let s2g := x.opx == 1
      match s.wgOf t with
      | none => (s, some (.fault (flt .perm)))
      | some g =>
        let seg := (g.segs.getD (cpDesc ws).n 0).toNat
        match cpCheck ws g.win s2g seg with
        | some f => (s, some (.fault f))
        | none => (s.startXfer g.key ts { Xfer.blank s.cur.pc t with desc := ws, s2g := s2g, seg := seg }, none)) s ts

/-- R198: `gthl`, once per warp. -/
def execGthl (x : M128A) (s : State) : Host.Outcome State Fault Refusal :=
  s.run (.gthl x) fun s ts =>
    let lists := if x.opx.getLsbD 1 then [] else ts.map fun t => let d := glDesc (s.wFour t x.a); (t, d.list, 4 * d.c)
    let s := s.watchIssue akRead lists
    if ts.any s.busy then (s, ts.map fun t => (t, .hold .drain))
    else
      let (s0, tag) := s.sampleTake ts
      let since := s0.m.nextId
      let (s1, cs) := eachWarp (fun s ts t =>
        let ws := s.wFour t x.a
        let own := x.opx.getLsbD 1
        match s.wgOf t with
        | none => (s, some (.fault (fltAt .perm 0 0 (glDesc ws).dst)))
        | some g =>
          match glCheck ws g.win own x.ty with
          | some f => (s, some (.fault f))
          | none =>
            let y := { Xfer.blank s.cur.pc t with desc := ws, gthl := some (own, x.ty, x.rm, x.sat == .satf, x.hint, (s.thread t).rseed) }
            let k := match s.regionOf t, x.rm with
              | some r, .rs => ((glJob g r y).map fun j => j.converted s [] j.d.c).getD 0
              | _, _ => 0
            ((s.takeDraws t x.rm k).1.startXfer g.key ts y, none)) s0.newId ts
      (s1.sampleOpen tag ts since [] true, cs)

/-- R253: a seal waits when its number is still in use, and then raises a marked fault. -/
def execCpseal (x : S64A) (s : State) : Host.Outcome State Fault Refusal :=
  s.run (.cpseal x) (eachThread fun s t =>
    let n := (s.thread t).batches.next
    let (s1, c) := if s.inUse t n then s.waitBatch t n else (s, none)
    match c with
    | some c => (s1, some c)
    | none => ((s1.sealBatch t).result [t] x.d fun _ => BitVec.ofNat 64 n, none))

/-- R254. -/
def execCpwait (x : S64A) (s : State) : Host.Outcome State Fault Refusal :=
  s.run (.cpwait x) (eachThread fun s t => s.waitBatch t ((s.opnd t x.a).toNat % 8))

/-- R255: it never parks. -/
def execCppoll (x : S64A) (s : State) : Host.Outcome State Fault Refusal :=
  s.run (.cppoll x) (eachThread fun s t =>
    match s.waitBatch t ((s.opnd t x.a).toNat % 8) with
    | (s1, some (.hold _)) => (s1.result [t] x.d fun _ => 0, none)
    | (s1, some c) => (s1, some c)
    | (s1, none) => (s1.result [t] x.d fun _ => 1, none))

/-- What a transfer does when it runs to its end; the fault of an earlier piece ends it at once. -/
def State.xferRun (s : State) (x : Xfer) (g : Wg) (r : Region) : State × Option FaultInfo :=
  match x.fault, glJob g r x with
  | some f, _ => (s, some f)
  | none, some j => j.rows x.idx x.done (List.range j.d.c) s
  | none, none => s.copyRun g r x

/-- Change a transfer that is running. -/
def State.modXfer (s : State) (id : Nat) (f : Xfer → Xfer) : State := s.setXfers (s.c.xfers.map fun x => if x.id == id then f x else x)

/-- A piece of a copy is moved before its end, whichever a free choice takes (R252, R200, R208); one that faults ends the copy. -/
def State.copyPiece (s : State) (x : Xfer) (g : Wg) (r : Region) (key : Nat) : State :=
  match s.copyPage g r x with
  | (s1, .error f) => s1.modXfer x.id fun x => { x with fault := some f }
  | (s1, .ok q) =>
    let j := copyJob g r x q
    match (if x.done.isEmpty then j.check else none) with
    | some f => s1.modXfer x.id fun x => { x with fault := some f }
    | none =>
      let i := Config.freeChoice s.free key 8100 % j.d.rn
      let ps := j.pieces i
      let k := Config.freeChoice s.free key 8101 % ps.length
      match ps[k]? with
      | some p =>
        if x.done.contains (i, k) then s
        else match j.move s1 p with
          | (s2, f) => s2.modXfer x.id fun x => { x with page := some q, done := (i, k) :: x.done, fault := f }
      | none => s

/-- A piece of a `gthl` before its end (R198, R199): a list entry, read once, or an element of a row whose entry is read. One that would fault is left to the end,
which meets the faults in list order. -/
def State.glPiece (s : State) (x : Xfer) (j : GlJob) (key : Nat) : State :=
  let i := Config.freeChoice s.free key 8100 % j.d.c
  match x.idx.find? fun q => q.1 == i with
  | none =>
    match j.entry s i with
    | (s1, .ok k) => s1.modXfer x.id fun x => { x with idx := (i, k) :: x.idx }
    | _ => s
  | some q =>
    let (s1, els, _) := j.els (j.rowAt q.2) (List.range j.d.n) 0 s
    match els[Config.freeChoice s.free key 8101 % j.d.n]? with
    | some e =>
      if x.done.contains (i, e.i) then s
      else match j.el i (j.converted s1 x.idx i) els e s1 with
        | (s2, none) => s2.modXfer x.id fun x => { x with done := (i, e.i) :: x.done }
        | _ => s
    | none => s

/-- A piece of a running transfer is performed. -/
def State.xferPiece (s : State) (id key : Nat) : State :=
  match s.c.xfers.find? fun x => x.id == id with
  | none => s
  | some x =>
    match x.fault, s.wg? x.wg, (s.wg? x.wg).bind fun g => s.region? g.region with
    | none, some g, some r => { (match glJob g r x with | some j => s.glPiece x j key | none => s.copyPiece x g r key) with free := s.free + 1 }
    | _, _, _ => s

/-- A batch transfer has ended, with or without a fault: its batches know (R253, R256). -/
def State.batchEnd (s : State) (x : Xfer) (f : Option FaultInfo) : State :=
  let s1 := (s.setXfers (s.c.xfers.filter fun y => y.id != x.id)).sampleAnswer x.id ((x.tids.head?.map (·.1)).getD 0)
  match f with
  | none => s1
  | some f => s1.setThreads (s1.c.threads.map fun t => match x.tids.find? fun q => q.1 == t.tid with
      | some q => { t with batches := t.batches.note q.2 { f with deferred := false } }
      | none => t)

end Sys2Proof.Machine
end

