-- ==== Sys2Proof/Machine/Graph.lean ====
section
/-! DEFINITION. The dependence graph: the node arena, its instructions, completion and cancellation (R258 to R268). -/

namespace Sys2Proof.Machine
open Sys2Proof

/-! ### Nodes (R258, R259) -/

/-- Replace bits [hi:lo] of a number. -/
def putBits (x hi lo v : Nat) : Nat := x - slice x hi lo * 2 ^ lo + v % 2 ^ (hi + 1 - lo) * 2 ^ lo

def State.nodeNN (s : State) (g : Wg) : Nat := match s.region? g.region with | some r => r.nn | none => 0
def State.nodeAt (s : State) (g : Wg) (i : Nat) : Nat := (match s.region? g.region with | some r => r.nab | none => 0) + 32 * i

/-- The 32 bytes of node i. -/
def State.node (s : State) (key i : Nat) : Nat :=
  match s.wg? key with
  | some g => memNat g.scr (s.nodeAt g i) 32
  | none => 0
def State.setNode (s : State) (key i v : Nat) : State :=
  match s.wg? key with
  | some g => s.modWg key fun g' => { g' with scr := memPut g'.scr (s.nodeAt g i) 32 v }
  | none => s

def nKind (v : Nat) : Nat := slice v 2 0
def nSt (v : Nat) : Nat := slice v 6 4
def nCnt (v : Nat) : Nat := slice v 26 16
def nCode (v : Nat) : Nat := slice v 15 8
def nPay (v : Nat) : Nat := slice v 50 32
/-- A built node (R263). -/
def nBuilt (v : Nat) : Bool := decide (1 ≤ nKind v) && decide (nKind v ≤ 4) && nSt v == 0
/-- Successor slot k: a node number when valid. -/
def nSucc (v k : Nat) : Option Nat := if v.testBit (74 + 11 * k) then some (slice v (73 + 11 * k) (64 + 11 * k)) else none
def nOvf (v : Nat) : Option Nat := if v.testBit 118 then some (slice v 117 108) else none

/-- A reserved KIND or ST, or a reserved bit set (R260). -/
def nodeBad (v : Nat) : Bool :=
  decide (6 ≤ nKind v) || nSt v == 7 || slice v 3 3 != 0 || slice v 7 7 != 0 || slice v 31 27 != 0 || slice v 63 51 != 0 ||
  slice v 127 119 != 0 || slice v 255 192 != 0

/-- The nodes of a chain: i, then its extension nodes (R263), and the extension node at which it ends because that one is bad (R260). -/
def State.chainTo (s : State) (key : Nat) : Nat → Nat → List Nat × Option Nat
  | 0, _ => ([], none)
  | n + 1, i => match nOvf (s.node key i) with
    | some j =>
      if nodeBad (s.node key j) then ([i], some j)
      else
        let (l, bad) := s.chainTo key n j
        (i :: l, bad)
    | none => ([i], none)

/-- The nodes of a chain. -/
def State.chain (s : State) (key n i : Nat) : List Nat := (s.chainTo key n i).1

def arenaMax : Nat := 1024

/-- Every successor along a node's chain, in chain order. -/
def State.succs (s : State) (key i : Nat) : List Nat :=
  (s.chain key arenaMax i).flatMap fun c => (List.range 4).filterMap (nSucc (s.node key c))

/-- A node of kind 1 to 4, or one found bad, that is done, faulted or cancelled. -/
def nEnded (v : Nat) : Bool := nKind v != 0 && nKind v != 5 && decide (4 ≤ nSt v) && decide (nSt v ≤ 6)

/-- The extension node is linked into a chain, whose owner the test accepts. -/
def State.ownerOf (s : State) (key e : Nat) (p : Nat → Bool) : Bool :=
  match s.wg? key with
  | none => false
  | some g => (List.range (s.nodeNN g)).any fun i =>
      let v := s.node key i
      nKind v != 5 && nKind v != 0 && p v && ((s.chain key arenaMax i).drop 1).contains e

/-- A node is idle (R259). -/
def State.nodeIdle (s : State) (key i : Nat) : Bool :=
  let v := s.node key i
  nKind v == 0 || nEnded v || (nKind v == 5 && s.ownerOf key i nEnded)

/-- An extension node that no chain holds: no node links to it. -/
def State.extFree (s : State) (key e : Nat) : Bool :=
  match s.wg? key with
  | none => false
  | some g => nKind (s.node key e) == 5 && !((List.range (s.nodeNN g)).any fun i => nKind (s.node key i) != 0 && nOvf (s.node key i) == some e)

/-! ### The walker (R260, R265, R266) -/

/-- Threads that wait for an idle node go on (R267). -/
def State.wakeNodes (s : State) (key : Nat) : State :=
  s.setThreads (s.c.threads.map fun t =>
    match t.wait with
    | .node i => if (match s.wgOf t.tid with | some g => g.key == key | none => false) && s.nodeIdle key i then { t with wait := .none } else t
    | _ => t)

/-- What the walker does to a node: it completes; it is faulted or cancelled with a code. -/
inductive WalkAct where
  | done
  | fail (st code fadr : Nat)
  deriving DecidableEq, Repr

/-- A node with a new ST, code and fault address. -/
def nEnd (v st code fadr : Nat) : Nat := putBits (putBits (putBits v 6 4 st) 15 8 code) 191 128 fadr

/-- A successor of a node that has completed: its count goes down; it is queued at 0; a wake-up node then completes in the same step. -/
def State.succDone (s : State) (key j : Nat) : State × List (Nat × WalkAct) :=
  let v := s.node key j
  if nodeBad v then (s, [(j, .fail 5 Code.illegal.num 0)])
  else if !(decide (1 ≤ nKind v) && decide (nKind v ≤ 4) && decide (nSt v ≤ 1)) then (s, [])
  else
    let w := putBits v 26 16 (nCnt v - 1)
    if nSt v == 1 && nCnt v ≤ 1 then (s.setNode key j (putBits w 6 4 2), if nKind v == 4 then [(j, .done)] else [])
    else (s.setNode key j w, [])

/-- A successor of a node that has failed is cancelled unless it was queued (R266). -/
def State.succFail (s : State) (key j code : Nat) : State × List (Nat × WalkAct) :=
  let v := s.node key j
  if nodeBad v then (s, [(j, .fail 5 Code.illegal.num 0)])
  else if decide (1 ≤ nKind v) && decide (nKind v ≤ 4) && decide (nSt v ≤ 1) then (s, [(j, .fail 6 code 0)]) else (s, [])

/-- The bad extension node that the walker meets at the end of a chain fails (R260); one that has failed before does not fail again. -/
def State.chainFail (s : State) (key i : Nat) : List (Nat × WalkAct) :=
  match (s.chainTo key arenaMax i).2 with
  | some e => if nSt (s.node key e) == 5 then [] else [(e, .fail 5 Code.illegal.num 0)]
  | none => []

/-- One walker step: the acts of a list, and those that they lead to. -/
def State.walker (s : State) (key : Nat) : Nat → List (Nat × WalkAct) → State
  | 0, _ => s
  | _, [] => s
  | n + 1, (i, .done) :: rest =>
    let (s1, more) := (s.succs key i).foldl (fun (acc : State × List (Nat × WalkAct)) j =>
      let (s2, m) := acc.1.succDone key j
      (s2, acc.2 ++ m)) (s.setNode key i (putBits (s.node key i) 6 4 4), [])
    s1.walker key n (rest ++ more ++ s1.chainFail key i)
  | n + 1, (i, .fail st code fadr) :: rest =>
    let (s1, more) := (s.succs key i).foldl (fun (acc : State × List (Nat × WalkAct)) j =>
      let (s2, m) := acc.1.succFail key j code
      (s2, acc.2 ++ m)) (s.setNode key i (nEnd (s.node key i) st code fadr), [])
    s1.walker key n (rest ++ more ++ s1.chainFail key i)

/-- A walker step with its effect on waiting threads. -/
def State.walk1 (s : State) (key i : Nat) (a : WalkAct) : State := (s.walker key 4096 [(i, a)]).wakeNodes key

/-- The walker reads a node: a bad one fails with ILLEGAL (R260). -/
def State.readNode (s : State) (key i : Nat) : State :=
  if nodeBad (s.node key i) && nSt (s.node key i) != 5 then s.walk1 key i (.fail 5 Code.illegal.num 0) else s

/-- The walker reads a node's chain. -/
def State.readChain (s : State) (key i : Nat) : State := (s.chainFail key i).foldl (fun s q => s.walk1 key q.1 q.2) s

/-! ### Instructions (R262 to R264, R267) -/

/-- A node number: PERM at or above NN (R258). -/
def State.nodeNum (s : State) (g : Wg) (v : Nat) : Option Nat := if v < s.nodeNN g then some v else none

/-- The workgroup of a node instruction's thread; PERM for a fork task (R247). -/
def State.inArena (s : State) (t : Nat) (f : Wg → State × Option Ctl) : State × Option Ctl :=
  match s.wgOf t with
  | none => (s, some (.fault (flt .perm)))
  | some g => f g

/-- No node links to node i any more: a new extension node is not yet linked (R262, log entry 101). -/
def State.unlink (s : State) (g : Wg) (i : Nat) : State :=
  (List.range (s.nodeNN g)).foldl (fun s j =>
    let v := s.node g.key j
    if nKind v != 0 && nOvf v == some i then s.setNode g.key j (putBits v 118 108 0) else s) s

/-- R262. -/
def execNnew (x : M128A) (s : State) : Host.Outcome State Fault Refusal :=
  s.run (.nnew x) (eachWarp fun s ts t => s.inArena t fun g =>
    let a := (s.opnd t x.a).toNat
    let kind := x.opx.toNat % 8
    let pay := slice (s.opnd t x.b).toNat 18 0
    match s.nodeNum g a with
    | none => (s, some (.fault (flt .perm)))
    | some i =>
      if kind == 1 && (pay % 8 != 0 || decide (g.win < pay + 40)) then (s, some (.fault (fltAt .perm 0 0 pay)))
      else
        let s1 := s.readNode g.key i
        if !s1.nodeIdle g.key i then (s1.result ts x.d fun _ => 1, none)
        else
          let s2 := if kind == 5 then s1.unlink g i else s1
          ((s2.setNode g.key i (kind + pay * 2 ^ 32)).result ts x.d fun _ => 0, none))

/-- The first free successor slot along a chain: its node and slot. -/
def State.freeSlot (s : State) (key i : Nat) : Option (Nat × Nat) :=
  (s.chain key arenaMax i).findSome? fun c => ((List.range 4).find? fun k => (nSucc (s.node key c) k).isNone).map fun k => (c, k)

/-- Put a valid successor into a slot. -/
def State.putSucc (s : State) (key c k j : Nat) : State :=
  s.setNode key c (putBits (s.node key c) (74 + 11 * k) (64 + 11 * k) (1024 + j))

/-- The status of a link and its effect (R263). -/
def State.link (s : State) (key i j : Nat) (c : Option Nat) : State × Nat :=
  let vi := s.node key i
  let vj := s.node key j
  let join := fun (s : State) (q : Nat × Nat) =>
    let s1 := s.putSucc key q.1 q.2 j
    (s1.setNode key j (putBits (s1.node key j) 26 16 (nCnt (s1.node key j) + 1)), 0)
  if !nBuilt vj || nKind vi == 0 || nKind vi == 5 then (s, 1)
  else if nSt vi == 4 then (s, 0)
  else if nSt vi == 5 || nSt vi == 6 then (s.walk1 key j (.fail 6 (nCode vi) 0), 3)
  else if nCnt vj == 1024 then (s, 4)
  else match s.freeSlot key i with
    | some q => join s q
    | none =>
      match c, (s.chainTo key arenaMax i).2 with
      | none, _ | _, some _ => (s, 2)
      | some e, none =>
        if !s.extFree key e || nodeBad (s.node key e) then (s, 2)
        else
          let last := (s.chain key arenaMax i).getLastD i
          join (s.setNode key last (putBits (s.node key last) 118 108 (1024 + e))) (e, 0)

/-- R263: both numbers, and that of C when it is given, are checked first. -/
def execNlink (x : M128A) (s : State) : Host.Outcome State Fault Refusal :=
  s.run (.nlink x) (eachWarp fun s ts t => s.inArena t fun g =>
    let num := fun (o : Opnd) => s.nodeNum g (s.opnd t o).toNat
    let c : Option (Option Nat) := match x.c with
      | .w _ => (num x.c).map some
      | _ => some none
    match num x.a, num x.b, c with
    | some i, some j, some c =>
      let s0 := (s.readNode g.key i).readNode g.key j
      let s1 := (match c with | some e => s0.readNode g.key e | none => s0).readChain g.key i
      let (s2, d) := s1.link g.key i j c
      (s2.result ts x.d fun _ => BitVec.ofNat 64 d, none)
    | _, _, _ => (s, some (.fault (flt .perm))))

/-- The status of a submission and its effect (R264). -/
def State.submit (s : State) (key i : Nat) : State × Nat :=
  let v := s.node key i
  if decide (1 ≤ nKind v) && decide (nKind v ≤ 4) && nSt v == 6 then (s, 2)
  else if !nBuilt v then (s, 1)
  else if nCnt v != 0 then (s.setNode key i (putBits v 6 4 1), 0)
  else
    let s1 := s.setNode key i (putBits v 6 4 2)
    (if nKind v == 4 then s1.walk1 key i .done else s1, 0)

/-- R264: after the issuing threads' earlier accesses (R265). -/
def execNsub (x : M128A) (s : State) : Host.Outcome State Fault Refusal :=
  s.run (.nsub x) fun s ts =>
    if ts.any s.busy then (s, ts.map fun t => (t, .hold .drain))
    else eachWarp (fun s ts t => s.inArena t fun g =>
      match s.nodeNum g (s.opnd t x.a).toNat with
      | none => (s, some (.fault (flt .perm)))
      | some i =>
        let (s1, d) := (s.readNode g.key i).submit g.key i
        let s2 := if d == 0 then s1.modWg g.key fun g => { g with nsubs := (i, t, s.cur.pc) :: g.nsubs.filter fun q => q.1 != i } else s1
        (s2.result ts x.d fun _ => BitVec.ofNat 64 d, none)) s ts

/-- The fault code of a number (R308). -/
def codeOfNum (n : Nat) : Code :=
  ([Code.illegal, .fetch, .misalign, .page, .perm, .regrange, .rejoin, .yieldovr, .bartimeout, .poison, .tenant, .dqempty, .matrix, .expand,
    .stackovf, .trap, .brk, .fabric].find? fun c => c.num == n).getD .illegal

/-- R267: R256 first, then the node. -/
def execNwait (x : S64A) (s : State) : Host.Outcome State Fault Refusal :=
  s.run (.nwait x) (eachThread fun s t => s.inArena t fun g =>
    match s.faultedBatch t with
    | some (k, f) => (s.freeBatch t k, some (.fault f))
    | none =>
      match s.nodeNum g ((s.opnd t x.a).toNat % 1024) with
      | none => (s, some (.fault (flt .perm)))
      | some i =>
        let s1 := s.readNode g.key i
        let v := s1.node g.key i
        if !s1.nodeIdle g.key i then (s1, some (.hold (.node i)))
        else if nEnded v && nSt v != 4 then
          (s1, some (.fault (fltAt (codeOfNum (nCode v)) 0 0 (if nSt v == 5 then slice v 191 128 else 0))))
        else (s1, none))

/-! ### Copy nodes (R265, R266) -/

/-- COPY_TRANSFER_END (R256, R266): transfer n runs to its end; its batches or its node know of a fault. A node without one completes by
NODE_COMPLETE. -/
def execCopyTransferEnd (n : Nat) (s : State) : Host.Outcome State Fault Refusal :=
  .next (match s.c.xfers.find? fun x => x.id == n with
    | none => s
    | some x =>
      match s.wg? x.wg, (s.wg? x.wg).bind fun g => s.region? g.region with
      | some g, some r =>
        let (s1, f) := s.xferRun x g r
        match x.node with
        | none => s1.batchEnd x f
        | some i =>
          let s2 := s1.setXfers (s1.c.xfers.filter fun y => y.id != n)
          match f with
          | some f => s2.walk1 x.wg i (.fail 5 f.code.num f.addr)
          | none => s2
      | _, _ => s)

/-- The thread and program counter that a watch record names for a node's accesses (R442). -/
def Wg.nsubOf (g : Wg) (i : Nat) : Nat × Nat :=
  match g.nsubs.find? fun q => q.1 == i with
  | some (_, t, pc) => (t, pc)
  | none => (32 * (g.warps.headD 0), 0)

/-- A copy node starts (R248, R259): its descriptor and direction word are read and checked; it runs, or fails. -/
def State.startCopyNode (s : State) (g : Wg) (i : Nat) : State :=
  let pay := nPay (s.node g.key i)
  let ws := (List.range 4).map fun k => BitVec.ofNat 64 (memNat g.scr (pay + 8 * k) 8)
  let dir := memNat g.scr (pay + 32) 8
  let seg := (g.segs.getD (cpDesc ws).n 0).toNat
  let bad := if g.win < pay + 40 then some (fltAt .perm 6 0 (max pay g.win)) else if 2 ≤ dir then some (flt .illegal) else cpCheck ws g.win (dir == 1) seg
  match bad with
  | some f => s.walk1 g.key i (.fail 5 f.code.num f.addr)
  | none =>
    let s1 := (s.setNode g.key i (putBits (s.node g.key i) 6 4 3)).newId
    s1.setXfers (s1.c.xfers ++
      [{ Xfer.blank (g.nsubOf i).2 (g.nsubOf i).1 with id := s.m.nextId, wg := g.key, node := some i, desc := ws, s2g := dir == 1, seg := seg }])

end Sys2Proof.Machine
end

