-- ==== Sys2Proof/Machine/Home.lean ====
section
/-! DEFINITION. The translation and home instructions: `tlbinv`, `pprobe`, `rpin`, `runpin`, `l2wb`, `l2inv` (R222 to R224, R240 to R246). -/

namespace Sys2Proof.Machine
open Sys2Proof

/-- The modules of the pod but this one. -/
def State.others (s : State) : List Nat := (List.range s.nmod).filter fun m => m != s.b.pkg
/-- Ask every other module for an act over the management channel (R223, R246). -/
def State.tellOthers (s : State) (m : Msg) : State := { s with m := { s.m with mgmt := s.m.mgmt ++ s.others.map fun k => (k, m) } }

def State.setJobs (s : State) (l : List EngineJob) : State := { s with c := { s.c with jobs := l } }

/-- An engine act begins, under the next number. -/
def State.startJob (s : State) (j : EngineJob) : State := (s.newId).setJobs (s.c.jobs ++ [{ j with id := s.m.nextId }])

/-- An engine act of this module is over; the module that asked for it is told. -/
def State.endJob (s : State) (j : EngineJob) : State :=
  let s1 := s.setJobs (s.c.jobs.filter fun k => k.id != j.id)
  match j.back with
  | some (m, id) => { s1 with m := { s1.m with mgmt := s1.m.mgmt ++ [(m, .ended s.b.pkg id)] } }
  | none => s1

/-- Module `src` reports the end of its part of job `id`. -/
def State.jobReport (s : State) (src id : Nat) : State :=
  s.setJobs (s.c.jobs.map fun j => if j.id == id then { j with mods := j.mods.filter (· != src) } else j)

/-! ### `tlbinv` (R223) -/

/-- Drop the TLB entries of an ASID, of one page or all; a walk of the ASID that is in progress starts again, so that what it read before is
not kept. -/
def State.tlbDrop (s : State) (asid : Nat) (va : Option Nat) : State :=
  let s1 := s.setTlb (s.m.tlb.filter fun e => !(e.asid == asid && match va with | some a => e.pte.covers a | none => true))
  { s1 with m := { s1.m with walks := s1.m.walks.map fun w => if w.asid == asid then { w with started := false } else w } }

/-- The accesses of an ASID that are in flight (R223). -/
def State.opsOf (s : State) (asid : Nat) : List Nat :=
  (s.m.ops.filter fun o => match s.regionOf o.tid with | some q => q.asid == asid | none => false).map (·.id)

/-- The part of a module in a `tlbinv`: what it drops, and the act that waits for the accesses of the ASID in flight. -/
def State.tlbJob (s : State) (asid : Nat) (va : Option Nat) (j : EngineJob) : State :=
  (s.tlbDrop asid va).startJob { j with kind := 3, asid := asid, ids := s.opsOf asid }

/-- The `tlbinv` acts whose accesses are performed, and whose other modules have reported, are over. -/
def State.tlbEnds (s : State) : State :=
  (s.c.jobs.filter fun j => j.kind == 3 && j.mods.isEmpty && !(s.m.ops.any fun o => j.ids.contains o.id)).foldl State.endJob s

/-- An engine act with nothing filled in. -/
def EngineJob.blank : EngineJob :=
  { id := 0, kind := 0, core := 0, region := 0, asid := 0, lo := 0, hi := 0, pod := false, tids := [], mods := [], ids := [], back := none }

/-- R223: after the threads' earlier accesses; the threads wait for the accesses of the ASID that are in flight, here and in the modules in scope. -/
def execTlbinv (x : M128A) (s : State) : Host.Outcome State Fault Refusal :=
  s.run (.tlbinv x) fun s ts =>
    if ts.any s.busy then (s, ts.map fun t => (t, .hold .drain))
    else eachWarp (fun s _ t =>
      match s.regionOf t with
      | none => (s, none)
      | some r =>
        let a := (s.opnd t x.a + x.i32.signExtend 64).toNat
        let va := if x.opx == 0 then some a else none
        if x.opx == 0 && decide (2 ^ 57 ≤ a) then (s, none)
        else
          let id := s.m.nextId
          let pod := x.sc == .pod
          let s1 := s.tlbJob r.asid va { EngineJob.blank with core := coreOf t, region := r.num, pod := pod, tids := ts, mods := if pod then s.others else [] }
          (if pod then s1.tellOthers (.tlbinv s.b.pkg id r.asid va) else s1, some (.wait (.engine id)))) s ts

/-! ### `pprobe` (R224) -/

/-- What an access of kind PK needs. -/
def probeNeed (k : Nat) : Need :=
  match k with
  | 0 => .rd | 1 => .w | 2 => .watom | _ => .x

/-- The attribute fields of a probed page. -/
def probeBits (p : Pte) (code : Nat) : Nat :=
  p.lvl * 2 ^ 33 + code * 2 ^ 36 + bit p.dty * 2 ^ 39 + p.perm * 2 ^ 40 + p.own * 2 ^ 44 +
  (if p.size == 16 then 0 else if p.size == 21 then 1 else 2) * 2 ^ 50 + p.plc * 2 ^ 52 + bit p.ef * 2 ^ 54 + p.geo * 2 ^ 55 + p.fmt * 2 ^ 58

/-- D and D+1 of a probe. -/
def State.probe (s : State) (core : Nat) (r : Region) (va k : Nat) : State × Nat × Nat :=
  if 2 ^ 57 ≤ va then (s, 0, 3 * 2 ^ 36)
  else match s.pageOf core r va with
    | (s1, .error e) => (s1, 0, (if e.code == .page then 1 else 4) * 2 ^ 36 + e.lvl * 2 ^ 33)
    | (s1, .ok p) =>
      let code := match p.check (probeNeed k) va with | .ok _ => 0 | .error _ => 2
      (s1, p.pa + va % 2 ^ p.size, probeBits p code)

/-- R224. -/
def execPprobe (x : M128A) (s : State) : Host.Outcome State Fault Refusal :=
  s.run (.pprobe x) fun s ts =>
    let lead := match x.d with | .w _ => (warpsOf ts).map fun (w : Nat × List Nat) => (w.2.headD 0, w.2) | _ => ts.map fun t => (t, [t])
    (lead.foldl (fun s1 (q : Nat × List Nat) =>
      match s.regionOf q.1 with
      | none => s1
      | some r =>
        let (s2, a, b) := s1.probe (coreOf q.1) r (s.opnd q.1 x.a + x.i32.signExtend 64).toNat x.opx.toNat
        (s2.result q.2 x.d fun _ => BitVec.ofNat 64 a).result q.2 x.d.succ fun _ => BitVec.ofNat 64 b) s, [])

/-! ### Retention registers (R240 to R245) -/

/-- The checks of a range (R243): the page of its first byte, or the fault. A range that no page can hold is found before the translation. -/
def State.homeRange (s : State) (tid va n : Nat) : State × Except FaultInfo Pte :=
  if va % 128 != 0 || n % 128 != 0 || decide (n < 128) || decide (2 ^ 30 < va % 2 ^ 30 + n) then (s, .error (fltAt .misalign 0 0 va))
  else if 2 ^ 57 ≤ va then (s, .error (fltAt .page 0 0 va))
  else match s.regionOf tid with
    | none => (s, .error (fltAt .page 0 0 va))
    | some r =>
      match s.pageOf (coreOf tid) r va with
      | (s1, .error e) => (s1, .error (e.flt 0))
      | (s1, .ok p) =>
        if 2 ^ p.size < va % 2 ^ p.size + n then (s1, .error (fltAt .misalign 0 0 va))
        else match p.check .rd va with
          | .error e => (s1, .error (e.flt 0))
          | .ok p => (s1, if p.plc == 2 then .error (fltAt .perm 0 p.lvl va) else .ok p)

/-- The reserved ways that an activation takes: the highest unreserved home ways (R240); none when NWAY + 1 do not remain. -/
def State.chooseWays (s : State) (n : Nat) : Option Nat :=
  let free := (List.range 16).filter fun w => s.hway.testBit w && !s.reservedWays.testBit w
  if free.length < n + 1 then none else some ((free.drop (free.length - n)).foldl (fun a w => a + 2 ^ w) 0)

/-- HOME_RETi written whole (R241). -/
def State.setRet (s : State) (i : Nat) (v : Nat) : State :=
  (List.range 4).foldl (fun s k => s.setReg (rHomeRet i + 8 * k) (BitVec.ofNat 64 (v / 2 ^ (64 * k)))) s

/-- R244. -/
def execRpin (x : M128A) (s : State) : Host.Outcome State Fault Refusal :=
  s.run (.rpin x) (eachWarp fun s ts t =>
    let n := (s.opnd t x.b).toNat
    let va := (s.opnd t x.a + x.i32.signExtend 64).toNat
    match s.homeRange t va n with
    | (s1, .error f) => (s1, some (.fault f))
    | (s1, .ok p) =>
      let d := fun (s : State) (v : Word) => (s.result ts x.d fun _ => v, some (Ctl.wait .results))
      match (List.range 8).find? fun i => !s1.retOn i, s1.chooseWays (x.opx.toNat % 16) with
      | some i, some ways =>
        let base := (p.pa + va % 2 ^ p.size) / 128 % 2 ^ 39
        let loc := p.plc == 1
        d (s1.setRet i (1 + ways * 2 + base * 2 ^ 89 + bit loc * 2 ^ 146 + (if loc then p.own else 0) * 2 ^ 147 +
          (base + n / 128) % 2 ^ 39 * 2 ^ 153 + (s.thread t).region % 2 ^ 32 * 2 ^ 192)) (BitVec.ofNat 64 i)
      | _, _ => d s1 (BitVec.allOnes 64))

/-- R245. -/
def execRunpin (x : M128A) (s : State) : Host.Outcome State Fault Refusal :=
  s.run (.runpin x) (eachWarp fun s ts t =>
    let i := (s.opnd t x.a).toNat
    let d := fun (s : State) (v : Word) => (s.result ts x.d fun _ => v, some (Ctl.wait .results))
    if i ≤ 7 ∧ s.retOn i ∧ s.fld (rHomeRet i + 24) 31 0 = (s.thread t).region % 2 ^ 32 then
      d (s.setRet i 0) (BitVec.ofNat 64 (s.fld (rHomeRet i + 24) 63 32))
    else d s (BitVec.allOnes 64))

/-! ### `l2wb`, `l2inv` (R246) -/

/-- An act on the lines of [lo, hi) in this module's L2: dirty home lines are written and become clean; `inv` removes every line. -/
def State.l2Act (s : State) (inv : Bool) (lo hi : Nat) : State :=
  let mine := fun (l : L2Line) => decide (lo ≤ l.xpa) && decide (l.xpa < hi)
  let s1 := s.setL2 (if inv then s.m.l2.filter fun l => !mine l else s.m.l2.map fun l => if mine l then { l with dirty := false } else l)
  if inv then s1.dropVfill fun r => decide (lo ≤ lineOf r.w.xpa) && decide (lineOf r.w.xpa < hi) else s1

/-- The body of both: checks, the earlier accesses, then an engine job that L2WB_COMPLETE performs. -/
def l2Body (inv : Bool) (x : M128A) : Body := fun s ts =>
  if ts.any s.busy then (s, ts.map fun t => (t, .hold .drain))
  else eachWarp (fun s ts t =>
    let n := (s.opnd t x.b).toNat
    let va := (s.opnd t x.a + x.i32.signExtend 64).toNat
    match s.homeRange t va n with
    | (s1, .error f) => (s1, some (.fault f))
    | (s1, .ok p) =>
      let lo := p.addr va
      let id := s1.m.nextId
      let pod := x.sc == .pod
      let s2 := s1.startJob { EngineJob.blank with
        kind := if inv then 2 else 1, core := coreOf t, region := (s.thread t).region, lo := lo, hi := lo + n, pod := pod, tids := ts,
        mods := if pod then s.others else [] }
      (if pod then s2.tellOthers (.l2op s.b.pkg id inv (lo / 128) (n / 128)) else s2, some (.wait (.engine id)))) s ts

def execL2wb (x : M128A) (s : State) : Host.Outcome State Fault Refusal := s.run (.l2wb x) (l2Body false x)
def execL2inv (x : M128A) (s : State) : Host.Outcome State Fault Refusal := s.run (.l2inv x) (l2Body true x)

/-- L2WB_COMPLETE: job n has written, and for `l2inv` invalidated, its lines in this module; over the pod it ends once the other modules have reported
(R246); its threads go on. -/
def execL2wbComplete (n : Nat) (s : State) : Host.Outcome State Fault Refusal :=
  .next (match s.c.jobs.find? fun j => j.id == n && j.kind != 3 && j.mods.isEmpty with
    | none => s
    | some j => (s.endJob j).l2Act (j.kind == 2) j.lo j.hi)

end Sys2Proof.Machine
end

