-- ==== Sys2Proof/Machine/Launch.lean ====
section
/-! DEFINITION. Regions and clusters: intake, placement, the start of a workgroup (R287 to R297). -/

namespace Sys2Proof.Machine
open Sys2Proof

/-! ### Reading a region control block (R287 to R290) -/

/-- Kernel header fields that a region uses (R290). -/
structure Header where
  restart : Bool
  dqp : Bool
  vreg : Nat
  wreg : Nat
  kreg : Nat
  scr : Nat
  cls : Nat
  ymx : Nat
  dqo : Nat
  len : Nat

/-- n bytes of a virtual address as an engine reads them, sector by sector. -/
def State.vreadAll (s : State) (r : Region) : List (Nat × Nat × Nat) → Nat → State × Option Nat
  | [], acc => (s, some acc)
  | q :: rest, acc =>
    match s.vread 0 r q.1 q.2.2 with
    | (s1, .ok x) => s1.vreadAll r rest (acc + x * 256 ^ q.2.1)
    | (s1, .error _) => (s1, none)

/-- The header in the 64 bytes at KHA: none when it is invalid (R290). -/
def headerOf (x : Nat) : Option Header :=
  let f := fun (off n : Nat) => x / 256 ^ off % 256 ^ n
  let h : Header := { restart := (f 3 1).testBit 0, dqp := (f 3 1).testBit 1, vreg := f 4 2, wreg := f 6 1, kreg := f 7 1, scr := f 8 4,
                      cls := f 12 1, ymx := f 14 2, dqo := f 16 4, len := f 20 4 }
  if f 0 2 == 0x4B5A && f 2 1 == 1 && decide (f 3 1 < 4) && decide (1 ≤ h.vreg) && decide (h.vreg ≤ 256) && decide (h.wreg ≤ 64) &&
     decide (h.kreg ≤ 16) && decide (h.scr ≤ 0x70000) && decide (h.cls ≤ 4) && f 13 1 == 0 && f 24 40 == 0 &&
     (if h.dqp then h.dqo % 32 == 0 && decide (64 ≤ h.dqo) && decide (h.dqo < 64 + h.len) else h.dqo == 0) then some h
  else none

/-- The header at KHA, a virtual address (R287, log entry 103): none when it cannot be read or is invalid (R289). -/
def State.header (s : State) (r : Region) : State × Option Header :=
  match s.vreadAll r (vaParts r.kha 64) 0 with
  | (s1, x) => (s1, x.bind headerOf)

/-- A field of an RCB whose bytes are `x`. -/
def rcbF (x off n : Nat) : Nat := x / 256 ^ off % 256 ^ n

/-- The reserved bytes and bits of an RCB are zero (R287). -/
def rcbReserved (x : Nat) : Bool :=
  rcbF x 20 1 < 8 && rcbF x 21 1 < 4 && rcbF x 22 2 < 512 && rcbF x 92 4 == 0 && rcbF x 150 106 == 0

/-- The resolved fields of a region before its header is read. -/
def rcbRegion (x rcb num : Nat) (parent : Option Region) (ring : Option Nat) : Region :=
  let inh := rcbF x 22 2
  let g := fun (n : Nat) (own : Nat) (p : Region → Nat) => match parent with
    | some q => if inh.testBit n then p q else own
    | none => own
  let pri := match ring with
    | some p => p
    | none => let own := g 2 (rcbF x 20 1 % 8) (·.pri); match parent with | some q => min own q.pri | none => own
  { num := num, rcb := rcb, parent := parent.map (·.num), lineage := (parent.map fun q => q.num :: q.lineage).getD [], kha := rcbF x 0 8, ttb := g 0 (rcbF x 8 8) (·.ttb), asid := g 0 (rcbF x 16 2) (·.asid),
    salt := g 1 (rcbF x 18 2) (·.salt), pri := pri, pol := g 3 (rcbF x 21 1 % 4) (·.pol), hnd := g 3 (rcbF x 24 8) (·.hnd),
    ymax := g 4 (rcbF x 32 2) (·.ymax), y := 0, bto := g 5 (rcbF x 34 1) (·.bto), wgw := rcbF x 35 1, nwg := rcbF x 36 4, bcore := g 6 (rcbF x 40 2) (·.bcore),
    bwarp := g 6 (rcbF x 42 2) (·.bwarp), bscr := g 6 (rcbF x 44 2) (·.bscr), zacc := rcbF x 46 2, shb := g 7 (rcbF x 48 8) (·.shb),
    nab := rcbF x 56 4, nn := rcbF x 60 2, msiv := rcbF x 62 2, sav := rcbF x 64 8, savl := rcbF x 72 8, spb := rcbF x 80 8, spl := rcbF x 88 4,
    flta := g 8 (rcbF x 96 8) (·.flta), fltn := g 8 (rcbF x 104 4) (·.fltn), fwr := 0, cca := rcbF x 112 8, arg := rcbF x 120 8,
    rsb := rcbF x 128 8, tenant := 0, va := 0, wa := 0, kc := 0, scr := 0, cls := 0, dqo := 0, dqp := false, restart := false, state := 1, lerr := 0,
    endedWgs := 0, timeouts := 0, binds := [] }

/-- A power of 2 from 1 to 2^20. -/
def pow2Ok (n : Nat) : Bool := (List.range 21).any fun k => n == 2 ^ k

/-- The limits of code 8 that need no header (R289). -/
def Region.fieldsOk (r : Region) : Bool :=
  r.kha % 32 == 0 && r.ttb % 2 ^ 21 == 0 && !r.ttb.testBit 51 && (r.bto == 0 || (decide (10 ≤ r.bto) && decide (r.bto ≤ 40))) && decide (r.wgw ≤ 63) &&
  decide (1 ≤ r.bcore) && decide (r.bcore ≤ 192) && decide (1 ≤ r.bwarp) && decide (r.bwarp ≤ 12288) && decide (r.bscr ≤ 1344) &&
  decide (r.zacc ≤ 16) && decide (r.nn ≤ 1024) && r.nab % 32 == 0 && r.sav % 4096 == 0 && !r.sav.testBit 51 && r.spl % 8 == 0 &&
  r.flta % 4096 == 0 && !r.flta.testBit 51 && pow2Ok r.fltn

/-- SCR rounded up to 64 KiB. -/
def winBytes (scr : Nat) : Nat := (scr + 65535) / 65536 * 65536
/-- Registers that one warp takes in a lane (R294). -/
def Region.lane (r : Region) : Nat := r.va + bit (decide (1 ≤ r.kc))
/-- Workgroups of a cluster. -/
def Region.size (r : Region) : Nat := 2 ^ r.cls

/-- One cluster needs more than the budget allows, or than one physical cluster can hold (R289, code 4): the warps of each partition, the
registers of each lane, the windows and the entries of one core, 16 cores. -/
def Region.tooBig (r : Region) : Bool :=
  let warps := r.wgw + 1
  let perPart := (warps + 3) / 4
  decide (r.bcore < r.size) || decide (r.bwarp < warps * r.size) || decide (r.bscr < winBytes r.scr / 65536 * r.size) ||
  decide (16 < perPart) || decide (512 < perPart * r.lane) || decide (16 < r.size)

/-- Bytes of a warp section and of a workgroup save block (R305). -/
def Region.warpRb (r : Region) : Nat := 256 * r.lane + 9792 + 8 * r.wa
def Region.warpSection (r : Region) : Nat := (r.warpRb + 255) / 256 * 256 + 2304
def Region.wsz (r : Region) : Nat :=
  (256 + 3840 + 8448 + 32768 + (256 + 32768 * r.zacc) + winBytes r.scr + (r.wgw + 1) * r.warpSection + 4095) / 4096 * 4096

/-- Y of a region (R290). -/
def yieldMax (a b : Nat) : Nat := if a == 0 then (if b == 0 then 4096 else b) else if b == 0 then a else min a b

/-- The tenant of a region (R417). -/
def State.tenantOf (s : State) (asid : Nat) : Nat :=
  if s.fld rFabTmap 0 0 == 0 then 0
  else s.rdNat (qualify 1 s.b.pkg (s.fld rFabTmap 51 17 * 2 ^ 17 + 2 * asid)) 2 % 4096

/-- The RCB can be read (R289, code 7). -/
def State.rcbReadable (s : State) (rcb : Nat) : Bool :=
  s.populated rcb && (List.range 8).all fun i => match s.homeRead 0 (rcb + 32 * i) 32 with | .ok _ => true | .error _ => false

/-- Intake of one RCB (R287 to R291): the resolved region with its launch error, 0 when there is none. -/
def State.resolve (s : State) (rcb num : Nat) (parent : Option Region) (ring : Option Nat) : State × Region :=
  let x := s.rdNat rcb 256
  let r0 := rcbRegion x rcb num parent ring
  let r1 := { r0 with tenant := s.tenantOf r0.asid, bto := if r0.bto == 0 then 30 else r0.bto }
  let (s1, hd) := if s.rcbReadable rcb then s.header r1 else (s, none)
  let r2 := match hd with
    | some h => { r1 with
        va := (h.vreg + 7) / 8 * 8, wa := (h.wreg + 7) / 8 * 8, kc := h.kreg, scr := h.scr, cls := h.cls, dqo := h.dqo, dqp := h.dqp,
        restart := h.restart, y := yieldMax r1.ymax h.ymx }
    | none => r1
  let lerr :=
    if !s.rcbReadable rcb then 7
    else if !rcbReserved x then 2
    else if parent.isNone && rcbF x 22 2 != 0 then 5
    else if !r0.fieldsOk then 8
    else if hd.isSome && decide (winBytes r2.scr < r2.nab + 32 * r2.nn) then 8
    else if hd.isNone then 1
    else if r2.nwg == 0 || r2.nwg % r2.size != 0 then 3
    else if r2.tooBig then 4
    else if r2.savl < r2.wsz then 6
    else 0
  (s1, { r2 with lerr := lerr })

/-- The first cluster of a region waits for its placement (R296). -/
def Waiting.first (num : Nat) : Waiting :=
  { region := num, clid := 0, saved := none, absent := [], kept := [], ctxs := [], relaunch := 0, passed := none, blocking := false, victims := [], keep := [],
    parked := false, eps := [], ended := [], nests := [] }

/-- A region enters the engine (R291): REGION, STATE and, for a root, PARENT are written; a rejected one ends (R289). -/
def State.intake (s : State) (rcb : Nat) (parent : Option Region) (ring : Option Nat) : State :=
  let num := s.l.nextRegion
  let (s0, r) := s.resolve rcb num parent ring
  let s1 := { s0 with l := { s0.l with nextRegion := num + 1, regions := s0.l.regions ++ [r] } }
  let s2 := (if ring.isSome then s1.devWrite (rcb + 136) 8 0 else s1).devWrite (rcb + 144) 4 num
  let s3 := s2.rcbState rcb 1 0
  if r.lerr != 0 then s3.finishRegion r 5
  else { s3 with l := { s3.l with waiting := s3.l.waiting ++ [Waiting.first num] } }

/-! ### Rings (R291, R466, R467) -/

/-- HEAD and TAIL of ring p. -/
def State.ringHead (s : State) (p : Nat) : Nat := s.fld (rSubqPtr p) 31 0
def State.ringTail (s : State) (p : Nat) : Nat := s.fld (rSubqPtr p) 63 32

/-- SQERR is set and vector 5 raised (R467). -/
def State.sqErr (s : State) : State := if s.fld rHostStat 1 1 == 1 then s else (s.setFld rHostStat 1 1 1).msi 5

/-- Take the next entry of ring p. -/
def State.takeRing (s : State) (p : Nat) : State :=
  let h := s.ringHead p
  let log := s.fld (rSubqBase p) 4 0
  let e := s.rdNat (s.fld (rSubqBase p) 51 12 * 4096 + 8 * (h % 2 ^ log)) 8
  let s1 := s.setFld (rSubqPtr p) 31 0 ((h + 1) % 2 ^ 32)
  if slice e 63 51 != 0 || e % 256 != 0 then s1.sqErr else s1.intake e none (some p)

/-- Take a spawned child (R303): its number is the result of its `spawn`, whose threads go on. -/
def State.takeSpawn (s : State) (c : Spawn) : State :=
  match s.region? c.parent with
  | none => s
  | some p =>
    let num := s.l.nextRegion
    let s1 := s.intake c.rcb (some p) none
    let s2 := match c.dst with
      | some d => s1.addPend [{ dst := d, val := some (BitVec.ofNat 64 num), owners := c.tids, pc := c.pc, opd := c.opd }]
      | none => s1
    s2.setThreads (s2.c.threads.map fun t => if c.tids.contains t.tid && t.wait == .spawn then { t with wait := .none } else t)

/-- REGION_INTAKE (R291, R303): from the highest priority down, the ring before the spawned children, each in order; no ring entry while LEN = 0 (R465), and
nothing while 4,096 regions are live. -/
def execRegionIntake (s : State) : Host.Outcome State Fault Refusal :=
  .next (if 4096 ≤ s.l.regions.length then s
    else
      let pick := (List.range 8).reverse.findSome? fun p =>
        if s.fld rHostCtl 0 0 == 1 && s.ringHead p != s.ringTail p then some (s.takeRing p)
        else match s.l.spawned.findIdx? fun c => c.pri == p with
          | some i => (s.l.spawned[i]?).map fun c => { s with l := { s.l with spawned := s.l.spawned.eraseIdx i } }.takeSpawn c
          | none => none
      pick.getD s)

/-! ### Resources (R294, R288) -/

def State.wgsOn (s : State) (core : Nat) : List Wg := s.c.wgs.filter fun g => g.core == core
/-- Warps in a partition: their slots and the registers that each takes in a lane. -/
def State.partWarps (s : State) (unit : Nat) : List (Nat × Nat) :=
  (s.c.warps.filter fun w => w.wid / 16 == unit).map fun w => (w.wid % 16, match s.region? w.region with | some r => r.lane | none => 0)

/-- The lowest n free warp slots of a partition. -/
def State.freeSlots (s : State) (unit n : Nat) : List Nat :=
  ((List.range 16).filter fun k => !((s.partWarps unit).any fun w => w.1 == k)).take n

/-- Warps of a workgroup in partition q: i mod 4 = q. -/
def warpsIn (n q : Nat) : Nat := (n + 3 - q) / 4

/-- A partition admits n more warps of a region (R294). -/
def State.partFits (s : State) (unit n : Nat) (r : Region) : Bool :=
  let ws := s.partWarps unit
  decide (ws.length + n ≤ 16) && decide ((ws.map (·.2)).sum + n * r.lane ≤ 512)

/-- A checkpoint of the ASID is being taken (R459). -/
def State.ckptBusy (s : State) (asid : Nat) : Bool := match s.b.ckpt with | some c => c.busy && s.fld rRpctl 63 48 == asid | none => false

/-- Physical cluster k is gated (R474). -/
def State.gated (s : State) (k : Nat) : Bool := (s.fld rPgate 27 16).testBit k

/-- A core may receive work: no unit of it is frozen (R433), and its cluster is neither gated nor asked to be (R474). -/
def State.coreOpen (s : State) (core : Nat) : Bool :=
  !((unitsOfCore core).any s.frozen) && !(s.fld rPgate 11 0).testBit (clusOf core) && !s.gated (clusOf core)

/-- A core is kept for a waiting cluster of a higher priority (R304, log entry 102). -/
def State.keptFrom (s : State) (pri core : Nat) : Bool :=
  s.l.waiting.any fun w => w.keep.contains core && match s.region? w.region with | some r => decide (pri < r.pri) | none => false

/-- A core admits one workgroup of a region, its saved warp places when it resumes (R294, R306). -/
def State.coreFits (s : State) (r : Region) (core : Nat) (saved : Option (List Nat)) : Bool :=
  let gs := s.wgsOn core
  s.coreOpen core && !s.keptFrom r.pri core && decide (gs.length < 4) && decide ((gs.map (·.win)).sum + winBytes r.scr ≤ 448 * 1024) &&
  decide ((gs.map fun g => match s.region? g.region with | some q => 4096 * q.zacc | none => 0).sum + 4096 * r.zacc ≤ 65536) &&
  (match saved with
   | some ps => ps.all fun p => !((s.partWarps (5 * core + p / 16)).any fun w => w.1 == p % 16) && decide (p < 64)
   | none => true) &&
  (List.range 4).all fun q => s.partFits (5 * core + q) (warpsIn (r.wgw + 1) q) r

/-- The region of a number belongs to the subtree of region n (R288). -/
def State.inSubtree (s : State) (n m : Nat) : Bool := match s.region? m with | some r => r.under n | none => false

/-- Cores, warps and windows that the subtree of a region holds (R288). -/
def State.usage (s : State) (n : Nat) : List Nat × Nat × Nat :=
  let ws := s.c.warps.filter fun w => w.wid / 16 % 5 != 4 && s.inSubtree n w.region
  let gs := s.c.wgs.filter fun g => s.inSubtree n g.region
  ((ws.map fun w => w.wid / 80).dedup ++ (gs.map (·.core)).filter fun c => !(ws.any fun w => w.wid / 80 == c), ws.length, (gs.map fun g => g.win / 65536).sum)

/-- Every budget admits more warps and windows on a list of cores (R288). -/
def State.budgetOk (s : State) (r : Region) (cores : List Nat) (warps scr : Nat) : Bool :=
  (s.l.regions.filter fun a => r.under a.num).all fun a =>
    let (cs, w, k) := s.usage a.num
    decide ((cs ++ cores).dedup.length ≤ a.bcore) && decide (w + warps ≤ a.bwarp) && decide (k + scr ≤ a.bscr)

/-- The lexicographically lowest set of cores out of an ascending list, one for each member, that a test of a member on a core and a test
of the whole accept (R296). -/
def pickCores (one : Nat → Nat → Bool) (all : List Nat → Bool) : List Nat → Nat → List Nat → Option (List Nat)
  | _, 0, acc => if all acc then some acc else none
  | [], _ + 1, _ => none
  | c :: rest, n + 1, acc =>
    if rest.length < n then none
    else match (if one acc.length c then pickCores one all rest n (acc ++ [c]) else none) with
      | some l => some l
      | none => pickCores one all rest (n + 1) acc

/-- The members of a waiting cluster that are placed, by rank, with the warp places that a resumed one must have again (R305, R306). -/
def State.seats (s : State) (r : Region) (w : Waiting) : List (Nat × Option (List Nat)) :=
  let ranks := (List.range r.size).filter fun i => !w.absent.contains i
  (ranks.zip (List.range ranks.length)).map fun q => (q.1, (w.saved.bind fun ks => ks[q.2]?).map fun k =>
    (List.range (r.wgw + 1)).map fun i => s.rdNat (r.sav + r.wsz * k + 8 + i) 1)

/-- The cores that the members would take in a physical cluster. -/
def State.fitIn (s : State) (r : Region) (seats : List (Nat × Option (List Nat))) (k : Nat) : Option (List Nat) :=
  let n := seats.length
  pickCores (fun i c => s.coreFits r c ((seats[i]?).bind (·.2))) (fun cs => s.budgetOk r cs ((r.wgw + 1) * n) (winBytes r.scr / 65536 * n))
    ((List.range 16).map (16 * k + ·)) n []

/-- The first physical cluster, and its cores, on which a waiting cluster fits. -/
def State.fit (s : State) (w : Waiting) (r : Region) : Option (Nat × List Nat) :=
  (List.range 12).findSome? fun k => (s.fitIn r (s.seats r w) k).map fun l => (k, l)

/-! ### The start of a workgroup (R297) -/

/-- The seed of a thread number (R297, R301). -/
def seedOf (rsb g : Nat) : Word := BitVec.ofNat 64 (rsb + 0x9E3779B97F4A7C15 * (g + 1))

/-- A thread at its launch values. -/
def launchThread (r : Region) (tid g pc spl : Nat) : Thread :=
  let h := r.va - 16
  { Thread.blank tid with
    region := r.num, gone := false, pc := pc % 2 ^ 57, v := if isCtx tid then [] else List.replicate r.va 0, rseed := seedOf r.rsb g, olthr := 0x7F800000,
    win := { b := 0, f := if isCtx tid then 0 else h, dep := 0, spo := 0, res := [{ size := if isCtx tid then 0 else h, radr := 0 }] },
    spb := (r.spb + r.spl * g) % 2 ^ 64, spl := spl, ybud := r.y }

/-- The `w` registers at launch. -/
def launchW (n : Nat) (w0 w1 : Word) : List Word := if 8 ≤ n then w0 :: w1 :: List.replicate (n - 2) 0 else List.replicate n 0

def Macro.none : Macro := { valid := false, desc := 0, seg := 0, cols := [], more := [] }
def Matrix.start : Matrix :=
  { t := List.replicate 16 0, z := List.replicate 16 0, acc := [], mac0 := Macro.none, mac1 := Macro.none, active := false, stream := [], tasks := [], nodes := [],
    sgCfg0 := 0, sgCfg1 := 0, sgs := 0 }
def TableSlot.start : TableSlot := { bank0 := 0, bank1 := 0, active := false, jobs := [] }
def DQueue.start (dqp : Bool) : DQueue := { ents := [], pushn := 0, dqp := dqp, dqx := !dqp, pend := none, retClk := 0, retN := 0 }

/-- The lowest free workgroup slot of a core. -/
def State.wgSlot (s : State) (core : Nat) : Nat := ((List.range 4).find? fun k => !((s.wgsOn core).any fun g => g.slot == k)).getD 0

/-- The wids of a workgroup's warps on a core: the saved places, or the lowest free slots (R294, R306). -/
def State.warpPlaces (s : State) (r : Region) (core : Nat) (saved : Option (List Nat)) : List Nat :=
  match saved with
  | some ps => ps.map fun p => 16 * (5 * core + p / 16) + p % 16
  | none => (List.range (r.wgw + 1)).map fun i => 16 * (5 * core + i % 4) + (s.freeSlots (5 * core + i % 4) 16).getD (i / 4) 0

/-- Start one workgroup of a cluster with launch values: its threads and its context are ready at once. -/
def State.startWg (s : State) (r : Region) (idx core rank clid relaunch : Nat) (saved : Option (List Nat)) : State :=
  let key := s.l.nextKey
  let slot := s.wgSlot core
  let wids := s.warpPlaces r core saved
  let g : Wg :=
    { key := key, region := r.num, idx := idx, core := core, slot := slot, rank := rank, clus := clid, win := winBytes r.scr, scr := [],
      segs := List.replicate 16 0, dq := DQueue.start r.dqp, table := TableSlot.start, eps := [], mx := Matrix.start, xp := [], nsubs := [], relaunch := relaunch,
      warps := wids, placed := s.clk, preempt := false }
  let warp := fun (wid i n : Nat) (lanes : BitVec 32) =>
    ({ wid := wid, wg := some key, region := r.num, idx := i, w := launchW n (BitVec.ofNat 64 r.arg) (BitVec.ofNat 64 idx), lanes := lanes, jca := none,
       smpl := none } : Warp)
  let warps := (wids.zip (List.range wids.length)).map fun q => warp q.1 q.2 r.wa (BitVec.allOnes 32)
  let gnum := fun (wid j : Nat) => 2049 * idx + 512 * (wid / 16 % 5) + 32 * (wid % 16) + j
  let threads := wids.flatMap fun wid => (List.range 32).map fun j => launchThread r (32 * wid + j) (gnum wid j) (r.kha + 64) r.spl
  let cw := 16 * (5 * core + 4) + slot
  let ctxW := if r.dqp then [warp cw 0 64 1] else []
  let ctxT := if r.dqp then [launchThread r (32 * cw) (2049 * idx + 2048) (r.kha + r.dqo) r.spl] else []
  { s with
    l := { s.l with nextKey := key + 1 }
    c := { s.c with
      wgs := s.c.wgs ++ [g]
      warps := s.c.warps ++ warps ++ ctxW
      threads := sortBy (fun a b => decide (a.tid ≤ b.tid)) (s.c.threads ++ threads ++ ctxT) } }

/-- Start a cluster on its cores, ranks in ascending core number (R296). -/
def State.startCluster (s : State) (r : Region) (w : Waiting) (k : Nat) (cores : List Nat) : State :=
  let seats := s.seats r w
  let id := s.l.nextKey
  let s1 := { s with l := { s.l with nextKey := id + 1 } }
  let s2 := (cores.zip seats).foldl (fun s q => s.startWg r (w.clid * r.size + q.2.1) q.1 q.2.1 w.clid w.relaunch q.2.2) s1
  let keyOf := fun (rank : Nat) => match seats.findIdx? fun q => q.1 == rank with | some i => id + 1 + i | none => 0
  let clus : Clus := { id := id, region := r.num, clid := w.clid, phys := k, members := (List.range r.size).map keyOf, ep := none, ended := w.ended }
  let s3 := { s2 with c := { s2.c with clusters := s2.c.clusters ++ [clus] } }
  if r.state == 1 then (s3.modRegion r.num fun r => { r with state := 2 }).devWrite (r.rcb + 148) 1 2 else s3

end Sys2Proof.Machine
end

