-- ==== Sys2Proof/Machine/Expand.lean ====
section
/-! DEFINITION. The expand unit (R385 to R399). -/

namespace Sys2Proof.Machine
open Sys2Proof

/-! ### The state of an expansion -/

/-- Replace or remove the expansion of a workgroup in a partition. -/
def State.setExpand (s : State) (key part : Nat) (x : Option Expand) : State :=
  s.modWg key fun g => { g with xp := insertAll (g.xp.filter fun y => y.part != part) x }
where
  insertAll (l : List Expand) : Option Expand → List Expand
    | none => l
    | some x => insertBy (fun a b => decide (a.part ≤ b.part)) x l

def XLane.none : XLane := { start := 0, len := 0, arr := false, taken := false, sub := false, done := false, c := 0, sum := 0 }

/-- The operation of an expansion's type on its values, and its identity (R391, R393). -/
def xOp (ty : Nat) (a b : Nat) : Nat := if ty == 11 then fltAdd fp32 .rne false false 0 a b else (a + b) % 2 ^ 32
def xId (ty : Nat) : BitVec 32 := if ty == 11 then 0x80000000 else 0

/-- Change a global lane. -/
def Expand.modLane (x : Expand) (g : Nat) (f : XLane → XLane) : Expand := { x with lanes := x.lanes.modify g f }
def Expand.lane (x : Expand) (g : Nat) : XLane := x.lanes.getD g XLane.none

/-- The participating threads that are not gone: global lane and thread (R385). -/
def State.xLive (s : State) (g : Wg) (x : Expand) : List (Nat × Nat) :=
  (List.range (2 ^ x.nc)).flatMap fun p => match g.warps[4 * (x.base + p) + x.part]? with
    | some wid => (s.liveOf wid).map fun t => (32 * p + laneOf t, t)
    | none => []

/-! ### Waiting threads -/

/-- A register result for one thread. -/
def State.putResult (s : State) (tid : Nat) (d : Opnd) (x : Word) : State :=
  match s.dest tid d with
  | some r => s.addPend [{ dst := r, val := some x, owners := [tid], pc := (s.thread tid).pc, opd := d.code }]
  | none => s

/-- A thread waits at its expand instruction. -/
def State.xWait (s : State) (tid : Nat) (w : Wait) : State := s.modThread tid fun t => { t with wait := w, replay := true, bundle := none, age := none }
/-- It goes on past it. -/
def State.xGo (s : State) (tid : Nat) (park : Bool) : State :=
  s.modThread tid fun t => s.bodyFetch (({ t.woken with park := park } : Thread).advance 12)

/-! ### Gathering (R390) -/

/-- Gathering is complete: the pairs of gone lanes are empty; TOTAL beyond 32 bits is a fault of every arrived thread; else dealing starts. -/
def State.xGathered (s : State) (g : Wg) (x : Expand) : State :=
  let live := s.xLive g x
  let lanes := (x.lanes.zip (List.range x.lanes.length)).map fun q =>
    if live.any fun l => l.1 == q.2 then q.1 else { q.1 with start := 0, len := 0 }
  let y := { x with lanes := lanes }
  if 2 ^ 32 ≤ y.total then
    live.foldl (fun s q =>
      let t := s.thread q.2
      (s.modThread q.2 fun t => { t with wait := .none, replay := false }).raise q.2 { flt .expand with pc := t.pc, resume := t.pc })
      (s.setExpand g.key x.part none)
  else
    let z := { y with dealing := true, fold := 0, lanes := (lanes.zip (List.range lanes.length)).map fun q =>
      { q.1 with arr := false, taken := false, sub := false, done := !(live.any fun l => l.1 == q.2), sum := 0 } }
    live.foldl (fun s q =>
      match (s.thread q.2).wait with
      | .xbeg d park => (s.putResult q.2 d (BitVec.ofNat 64 (z.pfx q.1 + z.total * 2 ^ 32))).xGo q.2 park
      | _ => s) (s.setExpand g.key x.part (some z))

/-! ### Dealing and folding (R391, R393, R394) -/

/-- Thread T takes deal FOLD (R391): the expansion after, the offset, the iteration with its owner, whether the slot is valid. -/
def Expand.deal (x : Expand) (g : Nat) : Expand × Word × Word × Bool :=
  let y := x.modLane g fun l => { l with taken := true, sub := false, c := xId x.ty }
  let f := x.fold * x.width + g
  match x.owner f with
  | some (o, off) => (y, BitVec.ofNat 64 off, BitVec.ofNat 64 (f * 2 ^ 32 + o), true)
  | none => (y, 0, 0, false)

/-- The results of an `xdeal`. -/
def State.dealOut (s : State) (tid : Nat) (d c e : Opnd) (r : Word × Word × Bool) : State :=
  ((s.putResult tid d r.1).putResult tid c r.2.1).putResult tid e (if r.2.2 then 1 else 0)

/-- The fold of deal FOLD into the owner sums (R393). -/
def Expand.folded (x : Expand) : Expand :=
  let own := (List.range x.width).map fun g => (x.owner (x.fold * x.width + g)).map (·.1)
  let val := fun (g : Nat) => if (x.lane g).sub && (own.getD g none).isSome then (x.lane g).c else xId x.ty
  let seg := fun (o : Nat) => ((treeLevels (xOp x.ty) (5 + x.nc) ((List.range x.width).map fun g =>
    (if own.getD g none == some o then val g else xId x.ty).toNat)).getD (5 + x.nc) []).getD 0 0
  { x with fold := x.fold + 1, lanes := (x.lanes.zip (List.range x.lanes.length)).map fun q =>
    let l := if own.contains (some q.2) then { q.1 with sum := BitVec.ofNat 32 (xOp x.ty q.1.sum.toNat (seg q.2)) } else q.1
    if l.sub then { l with sub := false, taken := false } else l }

/-- The tests after an event of an expansion (R396): gathering complete; a fold, with the threads that wait for it; the end, which a resumed thread that has
not yet executed its `xend` again holds back, so that the order after a resume does not matter (R394, R401). -/
def State.xTest (s : State) (key part : Nat) : State :=
  match (s.wg? key).bind fun g => (g.xp.find? fun x => x.part == part).map fun x => (g, x) with
  | none => s
  | some (g, x) =>
    let live := s.xLive g x
    if !x.dealing then (if live.all fun q => (x.lane q.1).arr then s.xGathered g x else s)
    else
      let canFold := (x.lanes.any (·.sub)) && live.all fun q => (x.lane q.1).sub || (x.lane q.1).done
      let s1 :=
        if !canFold then s
        else
          let (y, s') := live.foldl (fun (acc : Expand × State) q =>
            match (acc.2.thread q.2).wait with
            | .xdeal d c e park =>
              let (z, r) := acc.1.deal q.1
              (z, (acc.2.dealOut q.2 d c e r).xGo q.2 park)
            | _ => acc) (x.folded, s)
          s'.setExpand key part (some y)
      match (s1.wg? key).bind fun g => g.xp.find? fun x => x.part == part with
      | none => s1
      | some y =>
        let again := fun (q : Nat × Nat) => (s1.thread q.2).replay && (s1.thread q.2).wait == .none
        if (live.all fun q => (y.lane q.1).done && !again q) && !(y.lanes.any (·.sub)) then
          live.foldl (fun s q =>
            match (s.thread q.2).wait with
            | .xend d park => (s.putResult q.2 d (BitVec.ofNat 64 (y.lane q.1).sum.toNat)).xGo q.2 park
            | _ => s) (s1.setExpand key part none)
        else s1

/-! ### Instructions (R390 to R394, R397, R398) -/

/-- The group of an `xbeg`: the partition rank of participant 0, and whether every rank of the group exists (R385, R398). -/
def State.xGroup (s : State) (g : Wg) (tid nc : Nat) : Nat × Bool :=
  let r := s.partRank tid
  let b := r / 2 ^ nc * 2 ^ nc
  (b, decide (b + 2 ^ nc ≤ warpsIn g.warps.length (partOf tid)))

/-- One thread's `xbeg`. -/
def xbegLane (x : V96A) (s : State) (t : Nat) : State × Option Ctl :=
  match s.wgOf t with
  | none => (s, some (.fault (flt .expand)))
  | some g =>
    let nc := x.opx.toNat % 4
    let ty := x.ty.code
    let (base, ok) := s.xGroup g t nc
    let y : Expand := (s.expandOf t).getD
      { part := partOf t, dealing := false, nc := nc, base := base, ty := ty, fold := 0, lanes := List.replicate (32 * 2 ^ nc) XLane.none }
    if !ok || y.dealing || y.nc != nc || y.base != base || y.ty != ty then (s, some (.fault (flt .expand)))
    else
      let gl := 32 * (s.partRank t - base) + laneOf t
      let z := y.modLane gl fun l => if l.arr then l else { l with start := s.opnd t x.a, len := (s.opnd t x.b).setWidth 32, arr := true }
      (((s.setExpand g.key y.part (some z)).xWait t (.xbeg x.d x.park)).xTest g.key y.part, some .stay)

/-- R390. -/
def execXbeg (x : V96A) (s : State) : Host.Outcome State Fault Refusal := s.run (.xbeg x) (eachThread (xbegLane x))

/-- The expansion, workgroup and global lane of a thread that may deal: dealing, participating, not done (R398). A thread that resumes at the
`xend` at which it waited executes it again (R400). -/
def State.xPart (s : State) (t : Nat) (again : Bool) : Option (Wg × Expand × Nat) :=
  match s.wgOf t, s.expandOf t with
  | some g, some x =>
    match s.globalLane x t with
    | some gl => if x.dealing && (again || !(x.lane gl).done) then some (g, x, gl) else none
    | none => none
  | _, _ => none

/-- Submit the open deal (R391, R394). -/
def XLane.submit (l : XLane) : XLane := if l.taken && !l.sub then { l with sub := true } else l

/-- One thread's `xdeal`. -/
def xdealLane (x : V96A) (s : State) (t : Nat) : State × Option Ctl :=
  match s.xPart t false with
  | none => (s, some (.fault (flt .expand)))
  | some (g, y, gl) =>
    if !(y.lane gl).taken then
      let (z, r) := y.deal gl
      ((s.setExpand g.key y.part (some z)).dealOut t x.d x.c x.e r, none)
    else
      (((s.setExpand g.key y.part (some (y.modLane gl XLane.submit))).xWait t (.xdeal x.d x.c x.e x.park)).xTest g.key y.part, some .stay)

/-- R391. -/
def execXdeal (x : V96A) (s : State) : Host.Outcome State Fault Refusal := s.run (.xdeal x) (eachThread (xdealLane x))

/-- R392. -/
def execXred (x : V96A) (s : State) : Host.Outcome State Fault Refusal :=
  s.run (.xred x) (eachThread fun s t =>
    match s.xPart t false with
    | none => (s, some (.fault (flt .expand)))
    | some (g, y, gl) =>
      if y.ty != x.ty.code || (y.fold == 0 && !(y.lane gl).taken) then (s, some (.fault (flt .expand)))
      else
        let v := srcEl x.ty x.a (s.opnd t x.a) 0
        (s.setExpand g.key y.part (some (y.modLane gl fun l => { l with c := BitVec.ofNat 32 (xOp y.ty l.c.toNat v) })), none))

/-- One thread's `xend`. -/
def xendLane (x : V96A) (s : State) (t : Nat) : State × Option Ctl :=
  match s.xPart t (s.thread t).replay with
  | none => (s, some (.fault (flt .expand)))
  | some (g, y, gl) =>
    (((s.setExpand g.key y.part (some (y.modLane gl fun l => { l.submit with done := true }))).xWait t (.xend x.d x.park)).xTest g.key y.part, some .stay)

/-- R394. -/
def execXend (x : V96A) (s : State) : Host.Outcome State Fault Refusal := s.run (.xend x) (eachThread (xendLane x))

/-- The value of `xst` (R397). -/
def State.xstVal (s : State) (x : V96A) (t : Nat) : Nat :=
  let y := s.expandOf t
  match x.opx.toNat % 4 with
  | 0 => match y with
    | some y => match s.globalLane y t with
      | some gl => if y.dealing then y.fold + bit (y.lane gl).taken + y.fold * 2 ^ 32 else 0
      | none => 0
    | none => 0
  | 1 => match y with
    | some y => (if y.dealing then y.total + 2 * 2 ^ 32 else 2 ^ 32) + y.nc * 2 ^ 34 + y.base % 256 * 2 ^ 40
    | none => 0
  | 2 =>
    let f := (s.opnd t x.a).toNat % 2 ^ 32
    match y with
    | some y => match (if y.dealing then y.owner f else none) with
      | some (o, _) => o + 2 ^ 8 + y.pfx o * 2 ^ 32
      | none => 0
    | none => 0
  | _ => s.partRank t % 256 + (match s.warp? (widOf t) with | some w => w.idx % 256 | none => 0) * 2 ^ 8

/-- R397. -/
def execXst (x : V96A) (s : State) : Host.Outcome State Fault Refusal :=
  s.run (.xst x) fun s ts =>
    let bad := fun t => if s.forkTask t then some (flt .expand) else none
    (s.result (ts.filter fun t => (bad t).isNone) x.d fun t => BitVec.ofNat 64 (s.xstVal x t), faultsOf ts bad)

/-- The exit of a thread (R395), which is gone: in dealing an `xend` that does not wait. -/
def State.expandExit (s : State) (tid : Nat) : State :=
  match s.wgOf tid, s.expandOf tid with
  | some g, some y =>
    match s.globalLane y tid with
    | none => s
    | some gl =>
      let z := if y.dealing then y.modLane gl fun l => { l.submit with done := true } else y
      (s.setExpand g.key y.part (some z)).xTest g.key y.part
  | _, _ => s

end Sys2Proof.Machine
end

