-- ==== Sys2Proof/Machine/Flow.lean ====
section
/-! DEFINITION. The flow group (R71 to R89), apart from `exit`. -/

namespace Sys2Proof.Machine
open Sys2Proof

/-- R74. -/
def execBra (x : SBrA) (s : State) : Host.Outcome State Fault Refusal :=
  s.run (.bra x) fun s ts => (s, ts.map fun t => (t, .jump (BitVec.ofInt 64 (s.cur.pc + 4 * x.off.toInt)).toNat))

/-- R75: FETCH, precise, at a target that is no instruction address. -/
def execBrx (x : V96A) (s : State) : Host.Outcome State Fault Refusal :=
  s.run (.brx x) fun s ts => (s, ts.map fun t =>
    let a := (s.opnd t x.a).toNat
    (t, if slice a 63 57 != 0 || a % 4 != 0 then .fault (flt .fetch) else .jump a))

/-! ### Rejoin masks (R76 to R80) -/

/-- Every episode of mask n of a warp that is complete ends (R77): its waiting threads go on, ARR and LFT are cleared. -/
def State.rejoinTest (s : State) (wid n : Nat) : State :=
  let mine := s.c.threads.filter fun t => widOf t.tid == wid
  if mine.any (fun t => t.arr.getLsbD n) && mine.all fun t => t.gone || !t.msk.getLsbD n || t.arr.getLsbD n || t.lft.getLsbD n then
    let off := ~~~ (BitVec.ofNat 16 (2 ^ n))
    s.setThreads (s.c.threads.map fun t =>
      if widOf t.tid == wid then
        { t with arr := t.arr &&& off, lft := t.lft &&& off, wait := if t.wait == .rjoin n then .none else t.wait }
      else t)
  else s

/-- The rejoin test of mask n for the warps of a list of threads. -/
def State.rejoinTests (s : State) (n : Nat) (ts : List Nat) : State := (ts.map widOf).dedup.foldl (fun s w => s.rejoinTest w n) s

/-- Set or clear a bit. -/
def setBit16 (x : BitVec 16) (n : Nat) (b : Bool) : BitVec 16 :=
  if b then x ||| BitVec.ofNat 16 (2 ^ n) else x &&& ~~~ (BitVec.ofNat 16 (2 ^ n))

/-- R78. The rejoin register of a lane whose thread is gone takes the bit too. -/
def execJmark (x : S64A) (s : State) : Host.Outcome State Fault Refusal :=
  s.run (.jmark x) fun s ts =>
    let n := x.d.num
    let s1 := (warpsOf ts).foldl (fun (s1 : State) (w : Nat × List Nat) =>
      s1.setThreads (s1.c.threads.map fun t =>
        if widOf t.tid != w.1 then t
        else match x.i16.toNat with
          | 0 => { t with msk := setBit16 t.msk n (w.2.contains t.tid) }
          | 1 => if w.2.contains t.tid then { t with msk := setBit16 t.msk n true } else t
          | _ => { t with msk := setBit16 t.msk n ((s.opnd (w.2.headD 0) x.a).getLsbD (laneOf t.tid)) })) s
    (s1.rejoinTests n ts, [])

/-- R79: a thread of the mask arrives and waits at its next instruction. -/
def execRjoin (x : S64A) (s : State) : Host.Outcome State Fault Refusal :=
  s.run (.rjoin x) fun s ts =>
    let n := x.d.num
    let arrive := ts.filter fun t => (s.thread t).msk.getLsbD n
    let s1 := (s.setThreads (s.c.threads.map fun t =>
      if arrive.contains t.tid then { t with arr := setBit16 t.arr n true } else t)).rejoinTests n ts
    (s1, arrive.filterMap fun t => if (s1.thread t).arr.getLsbD n then some (t, .wait (.rjoin n)) else none)

/-- R80. -/
def execJleave (x : S64A) (s : State) : Host.Outcome State Fault Refusal :=
  s.run (.jleave x) fun s ts =>
    let n := x.d.num
    ((s.setThreads (s.c.threads.map fun t =>
      if ts.contains t.tid && t.msk.getLsbD n then { t with lft := setBit16 t.lft n true } else t)).rejoinTests n ts, [])

/-! ### Yield (R82, R83) -/

/-- R83. -/
def execYield (x : S64A) (s : State) : Host.Outcome State Fault Refusal :=
  s.run (.yield x) fun s ts =>
    let y := fun (t : Thread) => match s.region? t.region with | some r => r.y | none => 0
    let d := x.i16.toNat
    (s.setThreads (s.c.threads.map fun t =>
      if ts.contains t.tid then { t with ycnt := 0, ybud := if d == 0 then y t else min d (y t) } else t),
     ts.filterMap fun t => if s.preempting t then some (t, .wait (.yieldHold ((liveCount x.b).getD 0))) else none)

/-- The next instruction would make YCNT exceed YBUD (R82). A thread that executes an instruction again has counted it already; `yields` is
a `yield` whose guard is true for the thread. -/
def State.overBudget (s : State) (tid : Nat) (yields : Bool) : Bool :=
  let t := s.thread tid
  !t.replay && !yields && decide (t.ybud < t.ycnt + 1)

/-- YIELDOVR (R82): raised, precisely, for a thread whose budget is used up. -/
def execYieldovr (tid : Nat) (s : State) : Host.Outcome State Fault Refusal :=
  .next (if (s.thread tid).gone || !(s.overBudget tid false) then s
    else s.raise tid { flt .yieldovr with pc := (s.thread tid).pc, resume := (s.thread tid).pc })

/-! ### Traps, breakpoints, the return from the handler (R85 to R89) -/

/-- R87. -/
def execTrap (x : S64A) (s : State) : Host.Outcome State Fault Refusal :=
  s.run (.trap x) fun s ts => (s, ts.map fun t => (t, .fault { flt .trap with aux := x.i16.toNat }))

/-- R88: with BRKEN the unit stops, and the thread goes on at the next instruction; else BRK. -/
def execBrk (x : S64A) (s : State) : Host.Outcome State Fault Refusal :=
  s.run (.brk x) fun s ts =>
    if s.fld (rPctl s.cur.unit) 6 6 == 1 then (if ts.isEmpty then s else s.trigger s.cur.unit 2 false, [])
    else (s, ts.map fun t => (t, .fault { flt .brk with aux := x.i16.toNat }))

/-- R89. -/
def execRfe (x : S64A) (s : State) : Host.Outcome State Fault Refusal :=
  s.run (.rfe x) fun s ts =>
    (s.setThreads (s.c.threads.map fun t =>
      if ts.contains t.tid then match leaveHandler t with | .ok _ => { t with hm := false, spills := t.spills.map Spill.retry } | .error _ => t else t),
     ts.map fun t => (t, match leaveHandler (s.thread t) with | .ok u => .jump u.pc | .error c => .fault (flt c)))

end Sys2Proof.Machine
end

