-- ==== Sys2Proof/Machine/Fork.lean ====
section
/-! DEFINITION. Fork tasks, joins and spawned regions (R26, R27, R298 to R303). -/

namespace Sys2Proof.Machine
open Sys2Proof

/-- Entries that a core's deque and its overflow area hold together (R27, R299). -/
def dequeMax : Nat := 64 + 65536

/-- The on-chip entries of a core's deque, head first, and the places in its overflow area of the rest (R27, R299). -/
def State.deque (s : State) (core : Nat) : List ForkTask := (s.c.deques.filter fun d => d.1 == core).map (·.2)
def State.setDeque (s : State) (core : Nat) (l : List ForkTask) : State :=
  { s with c := { s.c with deques := l.map (fun t => (core, t)) ++ s.c.deques.filter fun d => d.1 != core } }
def State.overPlaces (s : State) (core : Nat) : List Nat := (s.c.over_.filter fun d => d.1 == core).map (·.2)
def State.setOver (s : State) (core : Nat) (l : List Nat) : State :=
  { s with c := { s.c with over_ := l.map (fun k => (core, k)) ++ s.c.over_.filter fun d => d.1 != core } }

/-- Entries of a core's deque. -/
def State.dequeLen (s : State) (core : Nat) : Nat := (s.deque core).length + (s.overPlaces core).length

/-- A deque entry's 32 bytes (R299), and the entry of 32 bytes. -/
def ForkTask.bits (k : ForkTask) : Nat :=
  k.region % 2 ^ 32 * 2 ^ 224 + k.mask.toNat * 2 ^ 192 + k.jca % 2 ^ 57 * 2 ^ 128 + k.arg.toNat * 2 ^ 64 + k.pc % 2 ^ 57
def ForkTask.ofBits (x : Nat) : ForkTask :=
  { region := slice x 255 224, mask := BitVec.ofNat 32 (slice x 223 192), jca := slice x 184 128, arg := BitVec.ofNat 64 (slice x 127 64), pc := slice x 56 0 }

/-- The address of a place of a core's overflow area (R299). -/
def State.overAddr (s : State) (core k : Nat) : Nat := s.fld rTovf 51 29 * 2 ^ 29 + 2 ^ 21 * core + 32 * k

/-- Entry n of a core's deque, counted from the head: on the chip, or in memory (R299). -/
def State.dequeAt (s : State) (core n : Nat) : Option ForkTask :=
  match (s.deque core)[n]? with
  | some k => some k
  | none => ((s.overPlaces core)[n - (s.deque core).length]?).map fun k => ForkTask.ofBits (s.rdNat (s.overAddr core k) 32)

/-- Entry n leaves the deque. -/
def State.dequeDrop (s : State) (core n : Nat) : State :=
  let m := (s.deque core).length
  if n < m then s.setDeque core ((s.deque core).eraseIdx n) else s.setOver core ((s.overPlaces core).eraseIdx (n - m))

/-- A push on a core's deque that is full on the chip moves the tail entry there to memory, to a free place of the area (R27, R299, log entry 78). -/
def State.overflow (s : State) (core : Nat) : State :=
  match (s.deque core)[63]? with
  | none => s
  | some k =>
    let used := s.overPlaces core
    let first := Config.freeChoice s.free core 7100 % 65536
    let place := ((List.range (used.length + 1)).map fun i => (first + i) % 65536).find? fun i => !used.contains i
    match place with
    | none => s
    | some i => { ((s.devWrite (s.overAddr core i) 32 k.bits).setDeque core ((s.deque core).take 63)).setOver core (i :: used) with free := s.free + 1 }

/-- R301: once per warp, after the threads' earlier accesses (the release of R26). -/
def execFork (x : M128A) (s : State) : Host.Outcome State Fault Refusal :=
  s.run (.fork x) fun s ts =>
    if ts.any s.busy then (s, ts.map fun t => (t, .hold .drain))
    else eachWarp (fun s ts t =>
      let c := (s.opnd t x.c).toNat
      let core := coreOf t
      if c % 8 != 0 then (s, some (.fault (fltAt .misalign 2 0 c)))
      else if 2 ^ 57 ≤ c then (s, some (.fault (fltAt .page 2 0 (c % 2 ^ 57))))
      else if dequeMax ≤ s.dequeLen core then (s, some (.fault (flt .stackovf)))
      else
        let k : ForkTask :=
          { region := (s.thread t).region, mask := BitVec.ofNat 32 (ts.foldl (fun m t => m ||| 2 ^ laneOf t) 0), jca := c, arg := s.opnd t x.b,
            pc := (BitVec.ofInt 57 (s.cur.pc + 4 * x.i32.toInt)).toNat }
        let s1 := s.overflow core
        (s1.setDeque core (k :: s1.deque core), none)) s ts

/-! ### Start of a task (R27, R298, R301) -/

/-- Discard the entries of regions that have ended at the head of a core's deque, or at its tail, as a pop or a steal reaches them (R299). -/
def State.discard (s : State) (core : Nat) (tail : Bool) : Nat → State
  | 0 => s
  | f + 1 =>
    let n := if tail then s.dequeLen core - 1 else 0
    match s.dequeAt core n with
    | some k => if (s.region? k.region).isNone then (s.dequeDrop core n).discard core tail f else s
    | none => s

/-- The partition and slot in which a core starts a task of a region: the lowest partition that admits it (R298). -/
def State.taskPlace (s : State) (core : Nat) (r : Region) : Option Nat :=
  ((List.range 4).find? fun q => s.partFits (5 * core + q) 1 r).bind fun q =>
    ((s.freeSlots (5 * core + q) 1)[0]?).map fun k => 16 * (5 * core + q) + k

/-- The cores whose deques a thief probes, in order (R27). -/
def stealOrder (core : Nat) : List Nat :=
  ((List.range 15).map fun i => core / 16 * 16 + (core % 16 + 1 + i) % 16) ++
  ((List.range 48).map (core / 48 * 48 + ·)).filter fun c => c / 16 != core / 16

/-- A core neither pops nor steals while a pre-emption request is pending for one of its workgroups (R298), while a unit of it is frozen, or
while its cluster is gated or about to be. -/
def State.mayTake (s : State) (core : Nat) : Bool := s.coreOpen core && !((s.wgsOn core).any (·.preempt))

/-- Start a task in a warp slot (R298, R301); `src` is the core whose deque gave it and its position there (R460). -/
def State.startTask (s : State) (r : Region) (wid : Nat) (k : ForkTask) (src : Nat × Nat) : State :=
  let lanes := (List.range 32).filter fun j => k.mask.getLsbD j
  let warp : Warp :=
    { wid := wid, wg := none, region := r.num, idx := 0, w := if 8 ≤ r.wa then BitVec.ofNat 64 k.jca :: List.replicate (r.wa - 1) 0 else List.replicate r.wa 0,
      lanes := k.mask, jca := some k.jca, smpl := none }
  let thread := fun (j : Nat) =>
    let t := launchThread r (32 * wid + j) 0 k.pc 0
    { t with v := t.v.set 0 k.arg, rseed := seedOf r.rsb (k.jca + j) }
  let s1 := { s with c := { s.c with
    warps := s.c.warps ++ [warp]
    threads := sortBy (fun a b => decide (a.tid ≤ b.tid)) (s.c.threads ++ lanes.map thread) } }
  (s1.acquire (wid / 80) r .pkg none).orderLog r.asid 4 (wid / 80) (wid / 16 % 5) (wid % 16) (lanes.headD 0) (BitVec.ofNat 64 (src.1 + 256 * src.2))

/-- A core starts a task of its region: the region, and the warp slot; no task starts while a checkpoint of the ASID is being taken (R459). -/
def State.taskRoom (s : State) (core : Nat) (k : ForkTask) : Option (Region × Nat) :=
  (s.region? k.region).bind fun r => if s.ckptBusy r.asid || s.replaying r.asid then none else (s.taskPlace core r).map fun w => (r, w)

/-- In a replay a core takes the task that the log names next, when the log names this core (R461). -/
def State.taskAgain (s : State) (core : Nat) : Option State :=
  (s.logNext fun x => x / 2 ^ 21 == 4).bind fun q =>
    let c := q.2 % 256
    let n := q.2 / 256
    if slice (s.rdNat (s.logBase + 16 * q.1) 8) 55 48 != core then none
    else (s.dequeAt c n).bind fun k => (s.region? k.region).bind fun r =>
      if !s.replaying r.asid then none
      else (s.taskPlace core r).map fun wid => (s.dequeDrop c n).startTask r wid k (c, n)

/-- The steal of a thief (R27): it probes the tails in order and takes the first that its budgets admit. -/
def State.steal (s : State) (core : Nat) : List Nat → State
  | [] => s
  | c :: rest =>
    let s1 := s.discard c true (s.dequeLen c)
    let n := s1.dequeLen c - 1
    match (s1.dequeAt c n).bind fun k => (s1.taskRoom core k).map fun q => (k, q) with
    | some (k, r, wid) => if s1.budgetOk r [core] 1 0 then (s1.dequeDrop c n).startTask r wid k (c, n) else s1.steal core rest
    | none => s1.steal core rest

/-- FORK_TASK_START: a core with a free warp slot pops the head of its own deque, or steals the tail of another (R27). -/
def execForkTaskStart (core : Nat) (s : State) : Host.Outcome State Fault Refusal :=
  .next (if !s.mayTake core then s
    else match s.taskAgain core with
    | some s1 => s1
    | none =>
      let s1 := s.discard core false (s.dequeLen core)
      match s1.dequeAt core 0 with
      | some k =>
        match s1.taskRoom core k with
        | some (r, wid) => (s1.dequeDrop core 0).startTask r wid k (core, 0)
        | none => s1
      | none => s1.steal core (stealOrder core))

/-! ### Joins (R26, R302) -/

/-- A request for the word of a join counter that another module homes: the next access's number is its own. -/
def State.joinAsk (s : State) (tid va pc : Nat) (p : Pte) (op : ReqOp) (fmt : LoadFmt) : State × Option FaultInfo :=
  let id := s.m.nextId
  let a : Access := { tid := tid, p := p, va := va, xpa := p.addr va, n := 8, op := op, data := 2 ^ 64 - 1, sc := .pkg, ord := .rel, kind := 2, fmt := fmt, since := id }
  match s.access a a.parts with
  | (s1, some f) => (s1, some f)
  | (s1, none) => (s1.setOps (s1.m.ops.map fun o => if o.id == id then { o with pc := pc } else o), none)

/-- A read of the word of a `tjoin` (R302): its value, at a home of this module; none while the home on another module has not answered; or its fault. -/
def State.joinRead (s : State) (tid va pc : Nat) : State × Except FaultInfo (Option Nat) :=
  match s.regionOf tid with
  | none => (s, .error (fltAt .page 2 0 va))
  | some r =>
    match s.xlate (coreOf tid) r va .ratom with
    | (s1, .error e) => (s1, .error (e.flt 2))
    | (s1, .ok p) =>
      if s1.here (p.addr va) then
        match s1.engRead r.tenant (p.addr va) 8 with
        | (s2, .error c) => (s2, .error { fltAt c 2 p.lvl va with deferred := true })
        | (s2, .ok x) => (s2, .ok (some x))
      else match s1.joinAsk tid va pc p .join .join with
        | (s2, some f) => (s2, .error f)
        | (s2, none) => (s2, .ok none)

/-- R302: the checks of an 8-byte atomic that needs RD and AT; a lane, or the lanes of a warp that share a `w` operand, waits until its own read returns 0. -/
def execTjoin (x : M128A) (s : State) : Host.Outcome State Fault Refusal :=
  s.run (.tjoin x) fun s ts =>
    let ea := fun t => (s.opnd t x.a + x.i32.signExtend 64).toNat
    let s := s.watchIssue akRead (ts.map fun t => (t, ea t, 8))
    if ts.any s.busy then (s, ts.map fun t => (t, .hold .drain))
    else
      let q : Ask := { sp := .gv, n := 8, need := .ratom, al := 8 }
      let leads := match x.a with | .w _ => (warpsOf ts).map fun (w : Nat × List Nat) => (w.2.headD 0, w.2) | _ => ts.map fun t => (t, [t])
      let ps := leads.map fun l => (l, s.plan q l.1 (ea l.1))
      let misses := ps.flatMap fun p => match p.2 with | .miss a => p.1.2.map fun t => (t, a) | _ => []
      if !misses.isEmpty then (misses.foldl (fun s m => s.addMiss m.1 m.2) s, ts.map fun t => (t, .hold .walk))
      else ps.foldl (fun (acc : State × List (Nat × Ctl)) p =>
        let all := fun (c : Ctl) => p.1.2.map fun t => (t, c)
        match p.2 with
        | .fault f => (acc.1, acc.2 ++ all (.fault f))
        | _ =>
          match acc.1.joinRead p.1.1 (ea p.1.1) s.cur.pc with
          | (s1, .error f) => (s1, acc.2 ++ all (.fault f))
          | (s1, .ok v) => if v == some 0 then (s1.joinDone p.1.1, acc.2) else (s1, acc.2 ++ all (.hold (.tjoin (ea p.1.1) p.1.2)))) (s, [])

/-- The engine reads the word of a waiting lane again (R302), unless a read of it is on its way: at 0 the lanes that share the read go on past their
`tjoin`. -/
def State.reread (s : State) (tid : Nat) : State :=
  match (s.thread tid).wait with
  | .tjoin va lanes =>
    let t := s.thread tid
    if lanes.head? != some tid || (s.m.ops.any fun o => o.tid == tid) then s
    else match s.joinRead tid va t.pc with
    | (s1, .error f) =>
      let go := fun (t : Thread) => if f.deferred then s.bodyFetch (t.woken.advance 16) else t.woken
      let s2 := lanes.foldl (fun s t => s.modThread t go) s1
      lanes.foldl (fun s k => s.raise k { f with pc := t.pc, resume := (s.thread k).pc }) s2
    | (s1, .ok v) => if v == some 0 then (s1.joinDone tid).joinGo tid else s1
  | _ => s

/-- TJOIN_REREAD (R302). -/
def execTjoinReread (tid : Nat) (s : State) : Host.Outcome State Fault Refusal := .next (s.reread tid)

/-- Every lane that waits at a `tjoin` reads its word again, as after an exit add on this module. -/
def State.rereadAll (s : State) : State :=
  (s.c.threads.filterMap fun t => match t.wait with | .tjoin _ _ => some t.tid | _ => none).foldl State.reread s

/-- The exit add of a fork task (R26, R301): −1 at the join counter, as a release; its fault leaves the word alone. It is performed at a home of this module,
or asked of the home on another one, whose answer the `exit` waits for. -/
def State.joinAdd (s : State) (tid jca : Nat) : State × Except FaultInfo (Option Wait) :=
  match s.regionOf tid with
  | none => (s, .error (fltAt .page 2 0 jca))
  | some r =>
    match s.xlate (coreOf tid) r jca .watom with
    | (s1, .error e) => (s1, .error { e.flt 2 with deferred := false })
    | (s1, .ok p) =>
      let x := p.addr jca
      if s1.here x then
        match s1.engWrite r.tenant x 8 ((s1.rdNat x 8 + 2 ^ 64 - 1) % 2 ^ 64) true with
        | (s2, some c) => (s2, .error (fltAt c 2 p.lvl jca))
        | (s2, none) => (s2.rereadAll, .ok none)
      else match s1.joinAsk tid jca (s.thread tid).pc p (.atom 0) .exit with
        | (s2, some f) => (s2, .error { f with deferred := false })
        | (s2, none) => (s2, .ok (some (.ids [s1.m.nextId])))

/-! ### `spawn` (R303) -/

/-- The priority of a child (R288). -/
def State.childPri (s : State) (rcb : Nat) (p : Region) : Nat :=
  let x := s.rdNat rcb 256
  if (rcbF x 22 2).testBit 2 then p.pri else min (rcbF x 20 1 % 8) p.pri

/-- R303: once per warp; the threads wait until the child is taken in. -/
def execSpawn (x : M128A) (s : State) : Host.Outcome State Fault Refusal :=
  s.run (.spawn x) fun s ts =>
    if ts.any s.busy then (s, ts.map fun t => (t, .hold .drain))
    else eachWarp (fun s ts t =>
      let va := (s.opnd t x.a + x.i32.signExtend 64).toNat
      match s.regionOf t with
      | none => (s, none)
      | some r =>
        if va % 256 != 0 then (s, some (.fault (fltAt .misalign 0 0 va)))
        else match s.xlate (coreOf t) r va .rd with
          | (s1, .error e) => (s1, some (.fault (e.flt 0)))
          | (s1, .ok _) =>
            match s1.xlate (coreOf t) r va .w with
            | (s2, .error e) => (s2, some (.fault (e.flt 1)))
            | (s2, .ok p) =>
              if 4096 ≤ s2.l.regions.length then (s2.result ts x.d fun _ => BitVec.allOnes 64, none)
              else
                let rcb := p.addr va
                let s3 := s2.devWrite (rcb + 136) 8 r.rcb
                let c : Spawn := { rcb := rcb, parent := r.num, pri := s3.childPri rcb r, tids := ts, dst := s.dest t x.d, opd := x.d.code, pc := s.cur.pc }
                ({ s3 with l := { s3.l with spawned := s3.l.spawned ++ [c] } }, some (.wait .spawn))) s ts

end Sys2Proof.Machine
end

