-- ==== Sys2Proof/Machine/MxMath.lean ====
section
/-! DEFINITION. The arithmetic of the matrix engine and of the signature stage (R335 to R339, R363 to R369). -/

namespace Sys2Proof.Machine
open Sys2Proof

/-- An operand format that R335 accepts. -/
def mxFmt (f : Nat) : Bool := (decide (1 ≤ f) && decide (f ≤ 6)) || (decide (0x10 ≤ f) && decide (f ≤ 0x2E) && (fmtOf f).isSome)
/-- An integer operand: INT4, UINT4, INT8, UINT8 with geometry 0 (R335). -/
def mxInt (f geo : Nat) : Bool := decide (1 ≤ f) && decide (f ≤ 4) && geo == 0
/-- The integer-mode widths of an operand (R335). -/
def mxWidthOk (f w : Nat) : Bool := if f ≤ 2 then decide (4 ≤ w) else decide (8 ≤ w)

/-- Length of an alignment block (R335). -/
def alignLen (geo : Nat) : Nat := if geo == 0 then 16 else blockElems geo

/-- An element of an aligned row or column (R336): sign, magnitude, the exponent and scale code of its block (none for geometry 0), and its
value with its scale, prod(x, s) of R338. -/
structure AEl where
  neg : Bool
  mag : Nat
  e : Int
  sc : Option Nat
  v : X
  deriving DecidableEq, Repr

/-- ⌊log2 |y|⌋ of a finite nonzero value. -/
def X.expo (x : X) : Option Int :=
  match x with
  | .fin _ n d => if n == 0 then none else some (floorLog2 n d)
  | _ => none

/-- The alignment exponent of a block: the greatest, or 0 (R336). -/
def blockExp (xs : List X) : Int :=
  match xs.filterMap X.expo with
  | [] => 0
  | e :: r => r.foldl max e

/-- ⌊|x| / 2^k⌋ of a finite value. -/
def X.magAt (x : X) (k : Int) : Nat :=
  match x with
  | .fin _ n d => if 0 ≤ k then n / (d * 2 ^ k.toNat) else n * 2 ^ (-k).toNat / d
  | _ => 0

/-- The value of an operand element, without its scale (R335). -/
def OpdEl.val (q : OpdEl) : X := ((fmtOf q.fmt).getD (unsignedFmt 8)).decode q.code

/-- Align the elements of a row or column, each under its own format and geometry, at width w (R335, R336); in integer mode nothing is aligned. An alignment
block is of elements of one geometry. -/
def alignEls (w : Nat) (int : Bool) (els : List OpdEl) : List AEl :=
  (els.zip (List.range els.length)).map fun (q : OpdEl × Nat) =>
    let x := q.1.val
    let l := alignLen q.1.geo
    let e := if int then 0 else blockExp ((((els.drop (q.2 / l * l)).take l).filter fun y => y.geo == q.1.geo).map OpdEl.val)
    { neg := x.signBit, mag := if int then x.magAt 0 else x.magAt (e - w + 1), e := e, sc := if q.1.geo == 0 then none else some q.1.slot,
      v := if q.1.geo == 0 then x else prod x q.1.slot }

/-- The same for elements of one format and geometry, given as code and slot code. -/
def alignRow (fmt geo w : Nat) (int : Bool) (els : List (Nat × Nat)) : List AEl := alignEls w int (els.map fun q => ⟨fmt, geo, q.1, q.2⟩)

/-- The shortest alignment block of a row or column: its segments are no longer (R337). -/
def alignMin (els : List OpdEl) : Nat := (els.map fun q => alignLen q.geo).foldl min 64

/-- The signed aligned value. -/
def AEl.val (a : AEl) : Int := if a.neg then -(a.mag : Int) else a.mag

/-- The products P of a row and a column (R338). -/
def mxProds (a b : List AEl) : List X := (a.zip b).map fun q => q.1.v.mul q.2.v

/-- The special result, if there is one (R338). -/
def mxSpecial (c : X) (ps : List X) : Option X :=
  let all := c :: ps
  if all.any (·.isNan) then some .nan
  else
    let pos := all.any fun x => x == .inf false
    let neg := all.any fun x => x == .inf true
    if pos && neg then some .nan else if pos then some (.inf false) else if neg then some (.inf true) else none

/-- A scale's value; 1.0 when its geometry is 0. A NaN scale has given a special result before. -/
def scaleX (s : Option Nat) : X :=
  match s with
  | none => .fin false 1 1
  | some k => (scaleOf k).getD (.fin false 0 1)

/-- The block value of a segment (R337). -/
def segValue (wa wb : Nat) (a b : List AEl) : X :=
  match a, b with
  | x :: _, y :: _ =>
    let n : Int := ((a.zip b).map fun q => q.1.val * q.2.val).sum
    ((X.scaled (decide (n < 0)) n.natAbs (x.e + y.e - ((wa : Int) - 1) - ((wb : Int) - 1))).mul (scaleX x.sc)).mul (scaleX y.sc)
  | _, _ => .fin false 0 1

/-- Cut into runs of g. -/
def runsOf {α : Type} (g : Nat) (l : List α) : Nat → List (List α)
  | 0 => []
  | n + 1 => l.take g :: runsOf g (l.drop g) n

/-- t truncated toward zero to a multiple of 2^k, in units of 2^k. -/
def X.units (x : X) (k : Int) : Int := let m : Int := x.magAt k; if x.signBit then -m else m

/-- The group of one entry in float mode (R337, R338): the entry's code before and after. -/
def gFloat (satf : Bool) (wa wb g : Nat) (c : Nat) (a b : List AEl) : Nat :=
  let cx := acc36.decode c
  match mxSpecial cx (mxProds a b) with
  | some s => acc36.enc .rne satf 0 s
  | none =>
    let n := a.length / g
    let ts := cx :: ((runsOf g a n).zip (runsOf g b n)).map fun q => segValue wa wb q.1 q.2
    match ts.filterMap X.expo with
    | [] => 0
    | e :: r =>
      let k := r.foldl max e - 47
      let sum : Int := (ts.map fun t => t.units k).sum
      acc36.enc .rne satf 0 (X.scaled (decide (sum < 0)) sum.natAbs k)

/-- The group of one entry in integer mode (R339). -/
def gInt (c : Nat) (a b : List AEl) : Nat :=
  let v := (BitVec.ofNat 36 c).toInt + ((a.zip b).map fun q => q.1.val * q.2.val).sum
  (BitVec.ofInt 36 (max (-(2 ^ 35)) (min (2 ^ 35 - 1) v))).toNat

/-- g(c, row, column) (R337 to R339). -/
def mxGroup (int satf : Bool) (wa wb g c : Nat) (a b : List AEl) : Nat := if int then gInt c a b else gFloat satf wa wb g c a b

/-! ### Signatures (R363 to R368) -/

/-- mix32 (R364). -/
def mix32 (x : Nat) : Nat :=
  let a := (x ^^^ (x / 2 ^ 16)) * 0x7A3C5E2B % 2 ^ 32
  let b := (a ^^^ (a / 2 ^ 15)) * 0x91D4C6A5 % 2 ^ 32
  b ^^^ (b / 2 ^ 16)

/-- h(seed, j, k) is +1 (R364). -/
def hashPlus (seed j k : Nat) : Bool := mix32 ((seed ^^^ (j * 2 ^ 16) ^^^ k) % 2 ^ 32) % 2 == 0

/-- A row is irregular (R363). -/
def irregular (a : List AEl) : Bool := a.any fun x => x.v.isNan || x.v.isInf

/-- The signature of a row (R365). -/
def signature (seed b : Nat) (a : List AEl) : Nat :=
  (List.range b).foldl (fun s j =>
    let sum : Int := ((a.zip (List.range a.length)).map fun q => if hashPlus seed j q.2 then q.1.val else -q.1.val).sum
    if 0 ≤ sum then s + 2 ^ j else s) 0

/-- A bucket: its signature while it is open, and its members in ascending order. -/
structure Bucket where
  sig : Option Nat
  mem : List Nat
  deriving DecidableEq, Repr

/-- The grouping of rows (R366). -/
def grouping (seed b lim : Nat) (rows : List (List AEl)) : List Bucket :=
  (rows.zip (List.range rows.length)).foldl (fun (bs : List Bucket) q =>
    if irregular q.1 then bs ++ [{ sig := none, mem := [q.2] }]
    else
      let s := signature seed b q.1
      match bs.findIdx? fun k => k.sig == some s with
      | some i => bs.modify i fun k => { sig := if k.mem.length + 1 == lim then none else k.sig, mem := k.mem ++ [q.2] }
      | none => bs ++ [{ sig := if lim == 1 then none else some s, mem := [q.2] }]) []

/-- Sum of the aligned magnitudes of a row. -/
def rowNorm (a : List AEl) : Nat := (a.map (·.mag)).sum

/-- The named row of a bucket (R367). -/
def namedRow (rule : Nat) (rows : List (List AEl)) (k : Bucket) : Nat :=
  if rule == 2 then k.mem.foldl (fun m i => if rowNorm (rows.getD m []) < rowNorm (rows.getD i []) then i else m) (k.mem.headD 0)
  else k.mem.headD 0

/-- The representative row of a bucket (R367). -/
def repRow (rule w : Nat) (int : Bool) (rows : List (List AEl)) (k : Bucket) : List AEl :=
  let low := rows.getD (k.mem.headD 0) []
  if rule == 1 && !irregular low then
    let n := k.mem.length
    (low.zip (List.range low.length)).map fun q =>
      let sum : Int := (k.mem.map fun m => match (rows.getD m [])[q.2]? with | some a => a.val | none => 0).sum
      let v := Int.tdiv sum n
      let x := if int then X.scaled (decide (v < 0)) v.natAbs 0 else X.scaled (decide (v < 0)) v.natAbs (q.1.e - w + 1)
      { neg := decide (v < 0), mag := v.natAbs, e := q.1.e, sc := q.1.sc, v := match q.1.sc with | some c => prod x c | none => x }
  else rows.getD (namedRow rule rows k) []

/-- A membership-map entry (R369). -/
def mapEntry (rp : Bool) (bkt rep : Nat) : Nat := rep % 128 + bkt % 128 * 2 ^ 7 + bit' rp * 2 ^ 15
where
  bit' (b : Bool) : Nat := if b then 1 else 0

/-- The map of a grouping: one entry for each row. -/
def groupMap (rule : Nat) (rows : List (List AEl)) (bs : List Bucket) : List Nat :=
  (List.range rows.length).map fun i =>
    match bs.findIdx? fun k => k.mem.contains i with
    | some n => match bs[n]? with
      | some k => mapEntry (namedRow rule rows k == i) n (namedRow rule rows k)
      | none => 0
    | none => 0

/-- The map is valid up to row R (R377): the first row that breaks a condition. -/
def mapBad (es : List Nat) : Option Nat :=
  let rep := fun (e : Nat) => e % 128
  let bkt := fun (e : Nat) => e / 128 % 256
  let rp := fun (e : Nat) => e / 2 ^ 15 % 2 == 1
  (List.range es.length).find? fun i =>
    let e := es.getD i 0
    let r := rep e
    let f := es.getD r 0
    !(decide (r < es.length) && rp f && rep f == r && bkt f == bkt e && (!rp e || r == i))

end Sys2Proof.Machine
end

