-- ==== Sys2Proof/Machine/Matrix.lean ====
section
/-! DEFINITION. The matrix engine: descriptors, the stream and its instructions, the signature stage (R330 to R352, R360, R363 to R381). -/

namespace Sys2Proof.Machine
open Sys2Proof

/-! ### Descriptors (R333, R334) -/

/-- A tile descriptor's fields, as counts (R333). -/
structure Tile where
  base : Nat
  rows : Nat
  cols : Nat
  str : Nat
  seg : Nat
  w : Nat
  deriving DecidableEq, Repr

def tileOf (d : Nat) : Tile :=
  { base := slice d 18 0, rows := slice d 28 19 + 1, cols := slice d 38 29 + 1, str := slice d 58 39, seg := slice d 62 59, w := slice d 65 64 }
/-- The width of a tile in bits: 4, 8 or 16. -/
def Tile.width (t : Tile) : Nat := 4 * 2 ^ t.w
/-- A tile descriptor that `mmap` accepts (R346). -/
def tileOk (d : Nat) : Bool := slice d 127 66 == 0 && slice d 63 63 == 0 && slice d 65 64 != 3
/-- An accumulator descriptor's rows, columns and first entry (R334). -/
def zRows (z : Nat) : Nat := slice z 25 16 + 1
def zCols (z : Nat) : Nat := slice z 35 26 + 1
def zFirst (z : Nat) : Nat := slice z 15 0

/-- The fields of a segment register, offsets in bytes (R159). -/
def segFmt (v : Nat) : Nat := slice v 5 0
def segGeo (v : Nat) : Nat := slice v 8 6
def segBase (v : Nat) : Nat := 16 * slice v 31 16
def segLim (v : Nat) : Nat := 16 * slice v 47 32
def segScb (v : Nat) : Nat := 16 * slice v 63 48

/-- Bytes of a stored row, and the offset past the last row. -/
def Tile.rowBytes (t : Tile) (fmt : Nat) : Nat := elemBytes fmt t.cols
def Tile.end_ (t : Tile) (fmt : Nat) : Nat := t.base + (t.rows - 1) * t.str + t.rowBytes fmt

/-- PERM of a tile (R17, R347): a byte of a row, or a slot, at or beyond the window's end. -/
def tilePerm (win : Nat) (t : Tile) (seg : Nat) : Option FaultInfo :=
  let e := t.end_ (segFmt seg)
  let bb := segBlock (segFmt seg) (segGeo seg)
  let slot := segScb seg + 2 * ((e - 1 - segBase seg) / bb)
  if win < e then some (fltAt .perm 8 0 (max t.base win))
  else if bb != 0 && decide (segBase seg ≤ t.base) && decide (win < slot + 2) then some (fltAt .perm 8 0 slot)
  else none

/-- A tile's rows lie in its segment, on block boundaries (R347). -/
def tilePlaced (t : Tile) (seg : Nat) : Bool :=
  let bb := segBlock (segFmt seg) (segGeo seg)
  decide (segBase seg ≤ t.base) && decide (t.end_ (segFmt seg) ≤ segLim seg) &&
  (bb == 0 || ((t.base - segBase seg) % bb == 0 && t.str % bb == 0))

/-! ### Accumulators (R334) -/

def accGet : List (Nat × Nat) → Nat → Nat
  | [], _ => 0
  | c :: r, e => if c.1 == e then c.2 else accGet r e
/-- Set an entry, keeping entry numbers rising and zero entries unlisted. -/
def accSet : List (Nat × Nat) → Nat → Nat → List (Nat × Nat)
  | [], e, v => if v == 0 then [] else [(e, v)]
  | c :: r, e, v =>
    if e < c.1 then (if v == 0 then c :: r else (e, v) :: c :: r)
    else if c.1 == e then (if v == 0 then r else (e, v) :: r)
    else c :: accSet r e v

def State.modMx (s : State) (key : Nat) (f : Matrix → Matrix) : State := s.modWg key fun g => { g with mx := f g.mx }
/-- Accumulator entries of a workgroup's allocation (R294). -/
def State.accSize (s : State) (g : Wg) : Nat := match s.region? g.region with | some r => 4096 * r.zacc | none => 0
/-- An accumulator descriptor is in range (R334). -/
def State.zOk (s : State) (g : Wg) (z : Nat) : Bool := decide (zFirst z + zRows z * zCols z ≤ s.accSize g)

/-- Change a block of entries: row i, column j. -/
def State.accMap (s : State) (key first rows cols : Nat) (f : Nat → Nat → Nat → Nat) : State :=
  s.modMx key fun m =>
    let row (a : List (Nat × Nat)) (i : Nat) : List (Nat × Nat) := (List.range cols).foldl (fun a j =>
      accSet a (first + i * cols + j) (f i j (accGet a (first + i * cols + j)))) a
    { m with acc := (List.range rows).foldl row m.acc }

/-! ### Reading operands -/

/-- Codes of n elements of a format in bytes read from their first byte. -/
def codesOf (fmt n x : Nat) : List Nat := (List.range n).map fun k => x / 2 ^ (fmtBits fmt * k) % 2 ^ fmtBits fmt

/-- The slot codes of n elements at an offset of a segment, each block's slot read once (R159). -/
def State.slotCodes (s : State) (key : Nat) (src : Src) (seg off n : Nat) : State × List Nat :=
  if segGeo seg == 0 then (s, List.replicate n 0)
  else
    let fmt := segFmt seg
    let bl := (List.range n).map fun k => (off + k * fmtBits fmt / 8 - segBase seg) / segBlock fmt (segGeo seg)
    let (s1, cs) := s.readScrSlots key src (bl.dedup.map fun b => (b, segScb seg + 2 * b))
    (s1, bl.map fun b => (codeOf cs b).getD 0)

/-- Row r of a tile in a window: each element's code and slot code. -/
def State.tileRow (s : State) (key : Nat) (src : Src) (t : Tile) (seg r : Nat) : State × List (Nat × Nat) :=
  let off := t.base + r * t.str
  let (s1, x) := s.scrRead key src akRead off (t.rowBytes (segFmt seg))
  let (s2, sl) := s1.slotCodes key src seg off t.cols
  (s2, (codesOf (segFmt seg) t.cols x).zip sl)

/-- Rows of a tile, from the first. -/
def State.tileRows (s : State) (key : Nat) (src : Src) (t : Tile) (seg n : Nat) : State × List (List (Nat × Nat)) :=
  (List.range n).foldl (fun (acc : State × List (List (Nat × Nat))) r =>
    let (s1, l) := acc.1.tileRow key src t seg r
    (s1, acc.2 ++ [l])) (s, [])

/-! ### The signature configuration (R370, R371) -/

def Matrix.sgc (m : Matrix) : Nat := m.sgCfg0.toNat + 2 ^ 64 * m.sgCfg1.toNat
def sgSeed (c : Nat) : Nat := slice c 31 0
def sgB (c : Nat) : Nat := slice c 36 32
def sgLim (c : Nat) : Nat := slice c 44 38 + 1
def sgRule (c : Nat) : Nat := slice c 46 45
def sgMap (c : Nat) : Nat := 8 * slice c 79 64
/-- A configuration that R373 accepts. -/
def sgcOk (c : Nat) : Bool :=
  slice c 127 80 == 0 && slice c 63 47 == 0 && slice c 37 37 == 0 && decide (sgB c ≤ 24) && sgRule c != 3

/-- SGS after a grouping of m rows into k buckets; a subtask leaves ROWS and BKT (R371). -/
def sgsAfter (v : Word) (m k : Nat) (sub : Bool) : Word :=
  let x := v.toNat
  BitVec.ofNat 64 ((if sub then x % 2 ^ 16 else k % 256 + m % 256 * 2 ^ 8) + min 0xFFFF (slice x 31 16 + 1) * 2 ^ 16 +
    min 0xFFFFFFFF (slice x 63 32 + (m - k)) * 2 ^ 32)

/-- Write map entries at MAP + 2·(first + i) (R369). -/
def State.writeMap (s : State) (key : Nat) (src : Src) (map first : Nat) (es : List Nat) : State :=
  (es.zip (List.range es.length)).foldl (fun s q => s.scrWrite key src akWrite (map + 2 * (first + q.2)) 2 q.1) s

/-! ### The stream (R341) -/

/-- The thread of a workgroup's context. -/
def Wg.ctx (g : Wg) : Nat := 32 * (16 * (5 * g.core + 4) + g.slot)

/-- Logical macros and the active one as the stream leaves them once its instructions so far are performed: loads and exchanges. -/
def Matrix.ahead (m : Matrix) : Macro × Macro × Bool :=
  m.stream.foldl (fun (q : Macro × Macro × Bool) o =>
    if o.op == 0x181 then
      let n : Macro := { valid := true, desc := o.t.headD 0, seg := o.segs.headD 0, cols := [], more := [] }
      if q.2.2 then (n, q.2.1, q.2.2) else (q.1, n, q.2.2)
    else if o.op == 0x182 then (q.1, q.2.1, !q.2.2) else q) (m.mac0, m.mac1, m.active)
/-- The active logical macro of such a triple; `active` says that macro 1 is. -/
def activeOf (q : Macro × Macro × Bool) : Macro := if q.2.2 then q.2.1 else q.1
/-- SGC as the stream leaves it. -/
def Matrix.sgcAhead (m : Matrix) : Nat := m.stream.foldl (fun c o => if o.op == 0x190 then o.args.headD 0 else c) m.sgc

/-- Put a checked instruction into the stream; a 17th waits before it is checked. -/
def State.enstream (s : State) (g : Wg) (t : Nat) (chk : Work StreamOp) : State × Option Ctl :=
  if 16 ≤ g.mx.stream.length then (s, some (.hold .stream))
  else match chk with
    | (s1, .error f) => (s1, some (.fault f))
    | (s1, .ok o) =>
      let after := (s.m.ops.filter fun a => a.tid == t).map (·.id)
      (s1.modMx g.key fun m => { m with stream := m.stream ++ [{ o with pc := (s.thread t).pc, after := after }] }, none)

def opBlank (op : Nat) : StreamOp :=
  { op := op, pc := 0, t := [], z := [], args := [], segs := [], rm := .rne, satf := false, after := [], early := [], done := [] }

/-- The body of an instruction of a context, given its workgroup. -/
def ctxBody (f : State → Wg → Nat → State × Option Ctl) : Body :=
  eachThread fun s t => match s.wgOf t with
    | some g => f s g t
    | none => (s, some (.fault (flt .illegal)))

def State.tReg (g : Wg) (n : Nat) : Nat := (g.mx.t.getD n 0).toNat
def State.zReg (g : Wg) (n : Nat) : Nat := (g.mx.z.getD n 0).toNat
/-- The segment register that a tile names. -/
def Wg.segOfTile (g : Wg) (d : Nat) : Nat := (g.segs.getD (tileOf d).seg 0).toNat

/-- R346. -/
def execMmap (x : M128A) (s : State) : Host.Outcome State Fault Refusal :=
  s.run (.mmap x) (ctxBody fun s g t =>
    match x.d with
    | .t n =>
      let v := (s.opnd t x.a).toNat + 2 ^ 64 * (s.opnd t x.b).toNat
      if tileOk v then (s.modMx g.key fun m => { m with t := m.t.set n.toNat (BitVec.ofNat 128 v) }, none) else (s, some (.fault (flt .illegal)))
    | d =>
      let v := (s.opnd t x.a).toNat
      if slice v 63 36 == 0 then (s.modMx g.key fun m => { m with z := m.z.set d.num (BitVec.ofNat 64 v) }, none)
      else (s, some (.fault (flt .illegal))))

/-- The checks of `mldb` (R347). -/
def mldbCheck (g : Wg) (d seg : Nat) : Option FaultInfo :=
  let t := tileOf d
  match tilePerm g.win t seg with
  | some f => some f
  | none =>
    if !mxFmt (segFmt seg) || t.cols != 1024 / t.width || t.rows % 16 != 0 || !tilePlaced t seg then some (flt .matrix) else none

def execMldb (x : V96A) (s : State) : Host.Outcome State Fault Refusal :=
  s.run (.mldb x) (ctxBody fun s g t =>
    let d := State.tReg g x.a.num
    let seg := g.segOfTile d
    s.enstream g t (match mldbCheck g d seg with
      | some f => (s, .error f)
      | none => (s, .ok { opBlank 0x181 with t := [d], segs := [seg] })))

/-- R348. -/
def execMswp (x : S64A) (s : State) : Host.Outcome State Fault Refusal :=
  s.run (.mswp x) (ctxBody fun s g t => s.enstream g t (s, .ok (opBlank 0x182)))

/-- N and M of an `mmul` (R345). -/
def mmulN (n : Nat) : Nat := if n == 0 then 1024 else 16 * n
def mmulM (opx : BitVec 4) : Nat := 32 * 2 ^ (opx.extractLsb' 0 2).toNat

/-- The checks of `mmul` (R349, R374): `mac` the active macro as the stream leaves it. -/
def State.mmulCheck (s : State) (g : Wg) (d seg z n m : Nat) (half sig : Bool) (mac : Macro) (sgc : Nat) : Option FaultInfo :=
  let t := tileOf d
  let b := tileOf mac.desc
  let wb := b.width
  let wa := if half then wb / 2 else wb
  let int := mxInt (segFmt seg) (segGeo seg) && mxInt (segFmt mac.seg) (segGeo mac.seg)
  match tilePerm g.win t seg with
  | some f => some f
  | none =>
    if sig && sgB sgc != 0 && decide (g.win < sgMap sgc + 2 * m) then some (fltAt .perm 8 0 (max g.win (sgMap sgc)))
    else if !mac.valid || decide (b.rows < n) || (half && wb == 4) || t.width != wa || decide (t.rows < m) || t.cols != 1024 / wb ||
      !mxFmt (segFmt seg) || !tilePlaced t seg || zRows z != m || zCols z != n || !s.zOk g z ||
      (int && !(mxWidthOk (segFmt seg) wa && mxWidthOk (segFmt mac.seg) wb)) then some (flt .matrix)
    else none

def execMmul (x : V96A) (s : State) : Host.Outcome State Fault Refusal :=
  s.run (.mmul x) (ctxBody fun s g t =>
    let d := State.tReg g x.a.num
    let z := State.zReg g x.d.num
    let n := mmulN (x.b.num % 64)
    let m := mmulM x.opx
    let half := x.opx.getLsbD 2
    let sig := x.opx.getLsbD 3
    let seg := g.segOfTile d
    s.enstream g t (match s.mmulCheck g d seg z n m half sig (activeOf g.mx.ahead) g.mx.sgcAhead with
      | some f => (s, .error f)
      | none => (s, .ok { opBlank 0x183 with t := [d], z := [z], args := [n, m, bit half, bit sig], segs := [seg], satf := x.sat == .satf })))

/-- R350. -/
def execMzero (x : S64A) (s : State) : Host.Outcome State Fault Refusal :=
  s.run (.mzero x) (ctxBody fun s g t =>
    let z := State.zReg g x.d.num
    s.enstream g t (s, if s.zOk g z then .ok { opBlank 0x184 with z := [z] } else .error (flt .matrix)))

/-- A format that `mrd` writes (R351). -/
def mrdFmt (f : Nat) : Bool := mxFmt f || f == 7 || f == 8

/-- The destination elements of an `mrd` to memory: address of (i, j) for elements of `bits` bits (R351). -/
def mrdAddr (base : Nat) (str : Int) (bits i j : Nat) : Nat := (BitVec.ofInt 64 (base + i * str + (j * bits / 8 : Nat))).toNat

/-- The destination elements in ascending (i, j). -/
def mrdEls (z base : Nat) (str : Int) (bits : Nat) : List Nat :=
  (List.range (zRows z)).flatMap fun i => (List.range (zCols z)).map fun j => mrdAddr base str bits i j
/-- One address for each 64 KiB that a list of addresses reaches: the first of the list. -/
def firstInPage (l : List Nat) : List Nat := l.foldl (fun acc a => if acc.any fun b => b / 65536 == a / 65536 then acc else acc ++ [a]) []

/-- Translate a list of addresses for an `mrd` (R351, step 3): PAGE and PERM, PERM for host space. A fault that a walk gives is deferred (R215). -/
def State.mrdPages (s : State) (core : Nat) (r : Region) (need : Need) : List Nat → Work (List (Nat × Pte))
  | [] => (s, .ok [])
  | a :: rest =>
    match s.xpage core r a need with
    | (s1, .error e) => (s1, .error (e.flt (if need == .rd then 4 else 1)))
    | (s1, .ok p) =>
      if need == .w && p.plc == 2 then (s1, .error (fltAt .perm 1 p.lvl a))
      else match s1.mrdPages core r need rest with
        | (s2, .error f) => (s2, .error f)
        | (s2, .ok l) => (s2, .ok ((a / 65536, p) :: l))

/-- The checks of `mrd` to memory, in the order of R351; the element size in bits comes back. -/
def State.mrdGvCheck (s : State) (g : Wg) (r : Region) (z base : Nat) (str : Int) : Work Nat :=
  match s.xpage g.core r base .w with
  | (s1, .error e) => (s1, .error (e.flt 1))
  | (s1, .ok p) =>
    let bits := fmtBits p.fmt
    let eb := (bits + 7) / 8
    if base % eb != 0 || str % (eb : Int) != 0 || (bits == 4 && zCols z % 2 == 1) then (s1, .error (fltAt .misalign 1 0 base))
    else
      let els := mrdEls z base str bits
      match s1.mrdPages g.core r .w (firstInPage els) with
      | (s2, .error f) => (s2, .error f)
      | (s2, .ok ps) =>
        let slots := (els.filterMap fun a => (ps.find? fun q => q.1 == a / 65536).bind fun q =>
          if q.2.geo == 0 then none else some (slotVa r.shb (a / blockBytes q.2.fmt q.2.geo))).dedup
        match s2.mrdPages g.core r .rd (firstInPage slots) with
        | (s3, .error f) => (s3, .error f)
        | (s3, .ok _) =>
          (s3, if (ps.any fun q => !mrdFmt q.2.fmt || fmtBits q.2.fmt != bits) || !s3.zOk g z then .error (flt .matrix) else .ok bits)

/-- The checks of `mrd` to scratch (R351, R360). -/
def State.mrdCheck (s : State) (g : Wg) (d seg z : Nat) : Option FaultInfo :=
  let t := tileOf d
  match tilePerm g.win t seg with
  | some f => some f
  | none =>
    if fmtBits (segFmt seg) == 4 && t.cols % 2 == 1 then some (fltAt .misalign 1 0 t.base)
    else if !s.zOk g z || t.rows != zRows z || t.cols != zCols z || !tilePlaced t seg || !mrdFmt (segFmt seg) then some (flt .matrix)
    else none

def execMrd (x : V96A) (s : State) : Host.Outcome State Fault Refusal :=
  s.run (.mrd x) (ctxBody fun s g t =>
    let z := State.zReg g x.a.num
    let gv := x.opx.getLsbD 0
    let int := bit (x.opx.getLsbD 1)
    let go : State → Nat → StreamOp → Work StreamOp := fun s bits o =>
      let (s1, seed) := s.takeDraws t x.rm (zRows z * zCols z)
      (s1, .ok { o with z := [z], args := o.args ++ [int, seed.toNat, bits], rm := x.rm, satf := x.sat == .satf })
    s.enstream g t (if gv then
      let base := (s.opnd t x.d).toNat
      let str := s.opnd t x.c
      match s.regionOf t with
      | none => (s, .error (fltAt .page 1 0 base))
      | some r => match s.mrdGvCheck g r z base str.toInt with
        | (s1, .error f) => (s1, .error f)
        | (s1, .ok bits) => go s1 bits { opBlank 0x185 with args := [1, base, str.toNat] }
    else
      let d := State.tReg g x.d.num
      let seg := g.segOfTile d
      match s.mrdCheck g d seg z with
      | some f => (s, .error f)
      | none => go s (fmtBits (segFmt seg)) { opBlank 0x185 with t := [d], segs := [seg], args := [0, 0, 0] }))

/-! ### Signature instructions (R372 to R380) -/

/-- R373. -/
def execSgcfg (x : M128A) (s : State) : Host.Outcome State Fault Refusal :=
  s.run (.sgcfg x) (ctxBody fun s g t =>
    let v := (s.opnd t x.a).toNat + 2 ^ 64 * (s.opnd t x.b).toNat
    s.enstream g t (s, if sgcOk v then .ok { opBlank 0x190 with args := [v] } else .error (flt .illegal)))

/-- The checks of `sgmap` (R376). -/
def sgmapCheck (g : Wg) (d seg sgc : Nat) : Option FaultInfo :=
  let t := tileOf d
  match tilePerm g.win t seg with
  | some f => some f
  | none =>
    if g.win < sgMap sgc + 2 * t.rows then some (fltAt .perm 8 0 (max g.win (sgMap sgc)))
    else if decide (128 < t.rows) || !mxFmt (segFmt seg) || !tilePlaced t seg then some (flt .matrix) else none

def execSgmap (x : M128A) (s : State) : Host.Outcome State Fault Refusal :=
  s.run (.sgmap x) (ctxBody fun s g t =>
    let d := State.tReg g x.a.num
    let seg := g.segOfTile d
    s.enstream g t (match sgmapCheck g d seg g.mx.sgcAhead with
      | some f => (s, .error f)
      | none => (s, .ok { opBlank 0x191 with t := [d], segs := [seg] })))

/-- Checks 1 to 5 of `sggth` and `sgsct` (R377). -/
def sgMoveCheck (g : Wg) (dd da sd sa sgc : Nat) : Option FaultInfo :=
  let td := tileOf dd
  let ta := tileOf da
  let fmt3 := fun (v : Nat) => (segFmt v == 5 || segFmt v == 6 || segFmt v == 7) && segGeo v == 0
  match (tilePerm g.win ta sa).orElse fun _ => tilePerm g.win td sd with
  | some f => some f
  | none =>
    if g.win < sgMap sgc + 2 * ta.rows then some (fltAt .perm 8 0 (max g.win (sgMap sgc)))
    else if decide (128 < ta.rows) || td.rows != ta.rows || td.cols != ta.cols || !fmt3 sd || !fmt3 sa || !tilePlaced td sd || !tilePlaced ta sa then
      some (flt .matrix)
    else none

/-- `sggth` and `sgsct` at issue. -/
def sgMoveBody (op : Nat) (x : M128A) : Body := ctxBody fun s g t =>
  let dd := State.tReg g x.d.num
  let da := State.tReg g x.a.num
  let sd := g.segOfTile dd
  let sa := g.segOfTile da
  s.enstream g t (match sgMoveCheck g dd da sd sa g.mx.sgcAhead with
    | some f => (s, .error f)
    | none => (s, .ok { opBlank op with t := [dd, da], segs := [sd, sa] }))

def execSgsct (x : M128A) (s : State) : Host.Outcome State Fault Refusal := s.run (.sgsct x) (sgMoveBody 0x192 x)
def execSggth (x : M128A) (s : State) : Host.Outcome State Fault Refusal := s.run (.sggth x) (sgMoveBody 0x193 x)

/-- R380: D is outstanding until the stream reaches the instruction. -/
def execSgstat (x : S64A) (s : State) : Host.Outcome State Fault Refusal :=
  s.run (.sgstat x) (ctxBody fun s g t =>
    let id := s.m.nextId
    s.enstream g t (s.newId.emit [t] x.d id fun _ => none, .ok { opBlank 0x194 with args := [id, x.i16.toNat % 2] }))

/-! ### Performing the stream -/

/-- The rows of A of an `mmul`, aligned, and the effect of the signature stage: each row's own vector or its representative's, and the map
(R349, R368, R374). -/
def sigRows (sgc w : Nat) (int : Bool) (rows : List (List AEl)) : List (List AEl) × List Nat × Nat :=
  let bs := grouping (sgSeed sgc) (sgB sgc) (sgLim sgc) rows
  ((List.range rows.length).map fun i => match bs.find? fun k => k.mem.contains i with
      | some k => repRow (sgRule sgc) w int rows k
      | none => rows.getD i [],
   groupMap (sgRule sgc) rows bs, bs.length)

/-- Of two readings of a row list, each element is the earlier one or the later one (R342, R357). -/
def mixRows {α : Type} (free place : Nat) (old new : List (List α)) : List (List α) :=
  (new.zip (List.range new.length)).map fun q => (q.1.zip (List.range q.1.length)).map fun z =>
    if Config.freeChoice free (1024 * q.2 + z.2) place % 2 == 0 then z.1 else ((old[q.2]?).bind fun r => r[z.2]?).getD z.1

/-- The tile that a stream instruction reads, with its segment and the rows that it uses. -/
def StreamOp.reads (o : StreamOp) : Option (Tile × Nat × Nat) :=
  let d := tileOf (o.t.headD 0)
  match o.op with
  | 0x181 | 0x191 => some (d, o.segs.headD 0, d.rows)
  | 0x183 => some (d, o.segs.headD 0, o.args.getD 1 0)
  | 0x192 | 0x193 => some (tileOf (o.t.getD 1 0), o.segs.getD 1 0, (tileOf (o.t.getD 1 0)).rows)
  | _ => none

/-- The rows that a stream instruction reads: as they stand, or as it has read them while it was being performed (R342). -/
def State.opRows (s : State) (key : Nat) (src : Src) (o : StreamOp) (t : Tile) (seg n : Nat) : State × List (List (Nat × Nat)) :=
  let (s1, rows) := s.tileRows key src t seg n
  (s1, if o.early.isEmpty then rows else mixRows s.free 5100 o.early rows)

/-- `mldb` is performed (R347). -/
def State.doMldb (s : State) (g : Wg) (src : Src) (o : StreamOp) : State :=
  let d := o.t.headD 0
  let seg := o.segs.headD 0
  let (s1, cols) := s.opRows g.key src o (tileOf d) seg (tileOf d).rows
  let m : Macro := { valid := true, desc := d, seg := seg, cols := cols, more := [] }
  s1.modMx g.key fun q => if q.active then { q with mac0 := m } else { q with mac1 := m }

/-- The image that an `mmul` uses: each element as the load found it, or some reload (R343). -/
def Macro.image (m : Macro) (free : Nat) : List (List (Nat × Nat)) :=
  if m.more.isEmpty then m.cols
  else (m.cols.zip (List.range m.cols.length)).map fun q => (q.1.zip (List.range q.1.length)).map fun z =>
    let all := z.1 :: m.more.map fun im => ((im[q.2]?).bind fun col => col[z.2]?).getD z.1
    all.getD (Config.freeChoice free (1024 * q.2 + z.2) 5001 % all.length) z.1

/-- The active logical macro at an `mmul`: no physical macro need hold its image, and then its last load is performed again on scratch as it stands (R343). -/
def State.reload (s : State) (g : Wg) (src : Src) : State × Macro :=
  let m := if g.mx.active then g.mx.mac1 else g.mx.mac0
  if Config.freeChoice s.free g.key 5000 % 2 == 0 then (s, m)
  else
    let (s1, im) := s.tileRows g.key src (tileOf m.desc) m.seg (tileOf m.desc).rows
    let m1 := if (m.cols :: m.more).contains im then m else { m with more := m.more ++ [im] }
    (s1.modMx g.key fun q => if q.active then { q with mac1 := m1 } else { q with mac0 := m1 }, m1)

/-- `mmul` is performed (R349, R374). -/
def State.doMmul (s : State) (g : Wg) (src : Src) (o : StreamOp) : State :=
  let a := fun (k : Nat) => o.args.getD k 0
  let (s0, mac) := s.reload g src
  let seg := o.segs.headD 0
  let wb := (tileOf mac.desc).width
  let wa := if a 2 == 1 then wb / 2 else wb
  let int := mxInt (segFmt seg) (segGeo seg) && mxInt (segFmt mac.seg) (segGeo mac.seg)
  let (s1, raw) := s0.opRows g.key src o (tileOf (o.t.headD 0)) seg (a 1)
  let rows := raw.map (alignRow (segFmt seg) (segGeo seg) wa int)
  let cols := (mac.image s.free).map (alignRow (segFmt mac.seg) (segGeo mac.seg) wb int)
  let sgc := g.mx.sgc
  let on := a 3 == 1 && sgB sgc != 0
  let (use, map, nb) := if on then sigRows sgc wa int rows else (rows, [], 0)
  let len := min (alignLen (segGeo seg)) (alignLen (segGeo mac.seg))
  let z := o.z.headD 0
  let s2 := s1.accMap g.key (zFirst z) (a 1) (a 0) fun i j c => mxGroup int o.satf wa wb len c (use.getD i []) (cols.getD j [])
  if on then (s2.writeMap g.key src (sgMap sgc) 0 map).modMx g.key fun m => { m with sgs := sgsAfter m.sgs (a 1) nb false } else s2

/-- The exact value of an entry, as ACC36 or INT36. -/
def entryVal (int : Bool) (c : Nat) : X := if int then X.ofInt (BitVec.ofNat 36 c).toInt else acc36.decode c

/-- The code that `mrd` stores for an entry (R351, R160). -/
def mrdCode (fmt : Nat) (rm : Rm) (satf : Bool) (dr : Nat) (slot : Option Nat) (x : X) : Nat :=
  (fmtAt fmt).enc rm satf dr (match slot with | some c => quot x c | none => x) % 2 ^ fmtBits fmt

/-- `mrd` to scratch is performed: row by row. -/
def State.doMrdScr (s : State) (g : Wg) (src : Src) (t : Tile) (seg z : Nat) (int : Bool) (rm : Rm) (satf : Bool) (ds : List Nat)
    (rows : List Nat) : State :=
  rows.foldl (fun s i =>
    let off := t.base + i * t.str
    let (s1, sl) := s.slotCodes g.key src seg off t.cols
    let v := (List.range t.cols).foldl (fun v j =>
      v + mrdCode (segFmt seg) rm satf (ds.getD (i * t.cols + j) 0) (if segGeo seg == 0 then none else sl[j]?)
        (entryVal int (accGet g.mx.acc (zFirst z + i * t.cols + j))) * 2 ^ (fmtBits (segFmt seg) * j)) 0
    s1.scrWrite g.key src akWrite off (t.rowBytes (segFmt seg)) v) s

/-- One stored unit of an `mrd` or a task to memory: an element, or a pair of 4-bit elements. A fault is the element's. -/
def State.putGv (s : State) (core : Nat) (r : Region) (rm : Rm) (satf : Bool) (va : Nat) (xs : List (X × Nat)) :
    State × Option FaultInfo :=
  match s.xlate core r va .w with
  | (s1, .error e) => (s1, some (e.flt 1))
  | (s1, .ok p) =>
    let fmt := p.fmt
    let slot : State × Except XErr (Option Nat) :=
      if p.geo == 0 then (s1, .ok none)
      else match s1.vread core r (slotVa r.shb (va / blockBytes fmt p.geo)) 2 with
        | (s2, .ok c) => (s2, .ok (some c))
        | (s2, .error e) => (s2, .error e)
    match slot with
    | (s2, .error e) => (s2, some (e.flt 4))
    | (s2, .ok sl) =>
      let v := (xs.zip (List.range xs.length)).foldl (fun v q => v + mrdCode fmt rm satf q.1.2 sl q.1.1 * 2 ^ (fmtBits fmt * q.2)) 0
      match s2.writeNow core r.tenant (p.addr va) (elemBytes fmt xs.length) v with
      | (s3, none) => (s3, none)
      | (s3, some c) => (s3, some (fltAt c 1 p.lvl va))

/-- `mrd` to memory is performed: every element, whatever faults the others meet; the first fault comes back. -/
def State.doMrdGv (s : State) (g : Wg) (r : Region) (base : Nat) (str : Int) (bits z : Nat) (int : Bool) (rm : Rm) (satf : Bool) (ds : List Nat)
    (rows : List Nat) : State × Option FaultInfo :=
  let step := if bits == 4 then 2 else 1
  rows.foldl (fun (acc : State × Option FaultInfo) i =>
    ((List.range (zCols z / step)).map (step * ·)).foldl (fun (acc : State × Option FaultInfo) j =>
      let el := fun (k : Nat) => (entryVal int (accGet g.mx.acc (zFirst z + i * zCols z + k)), ds.getD (i * zCols z + k) 0)
      let (s1, f) := acc.1.putGv g.core r rm satf (mrdAddr base str bits i j) ((List.range step).map fun k => el (j + k))
      (s1, acc.2.or f)) acc) (s, none)

/-- A fault of a stream instruction that has issued, deferred to the context (R59). -/
def State.ctxFault (s : State) (g : Wg) (pc : Nat) (f : FaultInfo) : State :=
  s.raise g.ctx { f with deferred := true, pc := pc, resume := (s.thread g.ctx).pc }

/-- Rows of an `mrd` are written (R351). -/
def State.doMrd (s : State) (g : Wg) (src : Src) (o : StreamOp) (rows : List Nat) : State :=
  let a := fun (k : Nat) => o.args.getD k 0
  let z := o.z.headD 0
  let ds := (draws (zRows z * zCols z) (BitVec.ofNat 64 (a 4))).2
  if a 0 == 0 then s.doMrdScr g src (tileOf (o.t.headD 0)) (o.segs.headD 0) z (a 3 == 1) o.rm o.satf ds rows
  else match s.region? g.region with
    | none => s
    | some r =>
      let (s1, f) := s.doMrdGv g r (a 1) (BitVec.ofNat 64 (a 2)).toInt (a 5) z (a 3 == 1) o.rm o.satf ds rows
      match f with
      | some f => s1.ctxFault g o.pc f
      | none => s1

/-- The grouping of `sgmap` or of a signature node: the map and the number of buckets (R376, R363). -/
def State.tileGroup (s : State) (g : Wg) (src : Src) (o : StreamOp) (d seg sgc : Nat) : State × List Nat × Nat :=
  let t := tileOf d
  if sgB sgc == 0 then (s, (List.range t.rows).map fun i => mapEntry true i i, t.rows)
  else
    let int := mxInt (segFmt seg) (segGeo seg)
    let (s1, raw) := s.opRows g.key src o t seg t.rows
    let rows := raw.map (alignRow (segFmt seg) (segGeo seg) t.width int)
    let bs := grouping (sgSeed sgc) (sgB sgc) (sgLim sgc) rows
    (s1, groupMap (sgRule sgc) rows bs, bs.length)

/-- Read map entries (R377). -/
def State.readMap (s : State) (g : Wg) (src : Src) (map n : Nat) : State × List Nat :=
  (List.range n).foldl (fun (acc : State × List Nat) i =>
    let (s1, v) := acc.1.scrRead g.key src akRead (map + 2 * i) 2
    (s1, acc.2 ++ [v])) (s, [])

/-- Write the elements of one row of a tile. -/
def State.putRow (s : State) (g : Wg) (src : Src) (t : Tile) (seg i : Nat) (cs : List Nat) : State :=
  s.scrWrite g.key src akWrite (t.base + i * t.str) (t.rowBytes (segFmt seg))
    ((cs.zip (List.range cs.length)).foldl (fun v q => v + q.1 % 2 ^ fmtBits (segFmt seg) * 2 ^ (fmtBits (segFmt seg) * q.2)) 0)

/-- `sggth` and `sgsct` on their tiles (R378, R379): the state after, or the offset of the map entry that breaks a condition (R377). -/
def State.sgMove (s : State) (g : Wg) (src : Src) (o : StreamOp) (gather : Bool) (dd da sd sa map : Nat) : State × Option Nat :=
  let td := tileOf dd
  let ta := tileOf da
  let (s1, es) := s.readMap g src map ta.rows
  match mapBad es with
  | some i => (s1, some (map + 2 * i))
  | none =>
    let (s2, rows) := s1.opRows g.key src o ta sa ta.rows
    let val := fun (m c : Nat) => (fmtAt (segFmt sa)).decode (((rows.getD m [])[c]?).elim 0 (·.1))
    let rep := fun (i : Nat) => es.getD i 0 % 128
    let enc := fun (x : X) => (fmtAt (segFmt sd)).enc .rne false 0 x
    let out := (List.range ta.rows).filterMap fun i =>
      if gather then
        if rep i == i then
          let mem := (List.range ta.rows).filter fun m => rep m == i
          some (i, (List.range ta.cols).map fun c =>
            let first := fp32.enc .rne false 0 (val (mem.headD i) c)
            let sum := (mem.drop 1).foldl (fun acc m => fp32.enc .rne false 0 ((fp32.decode acc).add false (val m c))) first
            enc (fp32.decode sum))
        else none
      else some (i, (List.range ta.cols).map fun c =>
        if segFmt sa == segFmt sd then ((rows.getD (rep i) [])[c]?).elim 0 (·.1) else enc (val (rep i) c))
    (out.foldl (fun s q => s.putRow g src td sd q.1 q.2) s2, none)

/-- One stream instruction is performed. -/
def State.doStream (s : State) (g : Wg) (o : StreamOp) : State :=
  let src : Src := ⟨g.ctx, o.pc, 2⟩
  match o.op with
  | 0x181 => s.doMldb g src o
  | 0x182 => s.modMx g.key fun m => { m with active := !m.active }
  | 0x183 => s.doMmul g src o
  | 0x184 => s.accMap g.key (zFirst (o.z.headD 0)) (zRows (o.z.headD 0)) (zCols (o.z.headD 0)) fun _ _ _ => 0
  | 0x185 => s.doMrd g src o ((List.range (zRows (o.z.headD 0))).filter fun i => !o.done.contains i)
  | 0x190 =>
    let v := o.args.headD 0
    s.modMx g.key fun m => { m with sgCfg0 := BitVec.ofNat 64 v, sgCfg1 := BitVec.ofNat 64 (v / 2 ^ 64) }
  | 0x191 =>
    let d := o.t.headD 0
    let (s1, map, nb) := s.tileGroup g src o d (o.segs.headD 0) g.mx.sgc
    (s1.writeMap g.key src (sgMap g.mx.sgc) 0 map).modMx g.key fun m => { m with sgs := sgsAfter m.sgs (tileOf d).rows nb false }
  | 0x194 =>
    let id := o.args.headD 0
    let s1 := s.setPend (s.c.pend.map fun p => if p.op == id then { p with val := some g.mx.sgs } else p)
    if o.args.getD 1 0 == 1 then s1.modMx g.key fun m => { m with sgs := 0 } else s1
  | _ =>
    match s.sgMove g src o (o.op == 0x193) (o.t.headD 0) (o.t.getD 1 0) (o.segs.headD 0) (o.segs.getD 1 0) (sgMap g.mx.sgc) with
    | (s1, none) => s1
    | (s1, some a) => s1.ctxFault g o.pc { flt .matrix with addr := a }

/-- A task that has ended and waits for its `msync` (R358). -/
def Task.ended (t : Task) : Bool := t.todo.isEmpty && t.running == 0 && t.node.isNone

/-- A context that waits for room in the stream, or at `msync`, goes on when it may (R341, R352, R354). A queued task whose node has failed is
discarded (R354). -/
def State.wakeStream (s : State) (key : Nat) : State :=
  let s0 := s.modMx key fun m => { m with tasks := m.tasks.filter fun t => match t.node with
    | some i => !(t.running == 0 && (nSt (s.node key i) == 5 || nSt (s.node key i) == 6))
    | none => true }
  match s0.wg? key with
  | none => s0
  | some g =>
    let room := decide (g.mx.stream.length < 16)
    let place := decide ((g.mx.tasks.filter fun t => !t.ended).length < 16)
    let quiet := g.mx.stream.isEmpty && g.mx.tasks.all Task.ended
    s0.modThread g.ctx fun t =>
      if (t.wait == .stream && room) || (t.wait == .tasks && place) || (t.wait == .msync && quiet) then { t with wait := .none } else t

/-- Every access of the context that comes before the instruction has been performed (R342). -/
def State.streamReady (s : State) (o : StreamOp) : Bool := !(s.m.ops.any fun a => o.after.contains a.id)

/-- The first part of an instruction of the stream that takes time (R342): it has read its rows once, or written some of them. -/
def State.streamBegin (s : State) (g : Wg) (o : StreamOp) : State :=
  let src : Src := ⟨g.ctx, o.pc, 2⟩
  let set := fun (s : State) (o : StreamOp) => s.modMx g.key fun m => { m with stream := o :: m.stream.drop 1 }
  match o.reads with
  | some (t, seg, n) => set s { o with early := (s.tileRows g.key src t seg n).2 }
  | none =>
    if o.op == 0x185 then
      let rows := (List.range (zRows (o.z.headD 0))).filter fun i => Config.freeChoice s.free i 5201 % 2 == 1
      set (s.doMrd g src o rows) { o with done := rows }
    else s

/-- MATRIX_STREAM_COMPLETE (R341): the oldest instruction of a workgroup's stream is performed, in one part or in two (log entry 105). -/
def execMatrixStreamComplete (wg : Nat) (s : State) : Host.Outcome State Fault Refusal :=
  .next (match s.wg? wg with
    | none => s
    | some g => match g.mx.stream with
      | [] => s
      | o :: rest =>
        let s1 := { s with free := s.free + 1 }
        if !s.streamReady o then s
        else if o.early.isEmpty && o.done.isEmpty && Config.freeChoice s.free wg 5200 % 2 == 1 then s1.streamBegin g o
        else ((s1.doStream g o).modMx wg fun m => { m with stream := rest }).wakeStream wg)

/-- R352: the context waits for its stream and its tasks; then the oldest task that ended with a fault is raised, precisely (R358). -/
def execMsync (x : S64A) (s : State) : Host.Outcome State Fault Refusal :=
  s.run (.msync x) (ctxBody fun s0 g0 _ =>
    let s := s0.wakeStream g0.key
    let g := (s.wg? g0.key).getD g0
    if !g.mx.stream.isEmpty || g.mx.tasks.any fun t => !t.ended then (s, some (.hold .msync))
    else match g.mx.tasks.find? fun t => t.fault.isSome with
      | some t => (s.modMx g.key fun m => { m with tasks := m.tasks.filter fun u => u.id != t.id }, t.fault.map fun f => .fault { f with deferred := false })
      | none => (s, none))

end Sys2Proof.Machine
end

