-- ==== Sys2Proof/Machine/Tasks.lean ====
section
/-! DEFINITION. Tile tasks (R353 to R360, R375), the kill of a cluster (R311), signature nodes (R382, R383), and the start and the end of
the nodes of a graph (R265). -/

namespace Sys2Proof.Machine
open Sys2Proof

/-! ### Workgroups that leave (R292, R305, R310, R311) -/

/-- Remove workgroups and everything that belongs to them inside the cores; results outstanding are discarded. -/
def State.purgeWgs (s : State) (keys : List Nat) : State :=
  let wids := (s.c.warps.filter fun w => match w.wg with | some k => keys.contains k | none => false).map (·.wid)
  let mine := fun (tid : Nat) => wids.contains (widOf tid)
  let keepDst := fun (d : RegRef) => match d with
    | .v t _ | .p t _ => !mine t
    | .w w _ => !wids.contains w
  let wgs := s.c.wgs.filter fun g => !keys.contains g.key
  { s with
    c := { s.c with
      threads := s.c.threads.filter fun t => !mine t.tid
      warps := s.c.warps.filter fun w => !wids.contains w.wid
      wgs := wgs
      clusters := s.c.clusters.filter fun c => c.members.any fun k => wgs.any fun g => g.key == k
      pend := s.c.pend.filter fun p => keepDst p.dst
      nests := s.c.nests.filter fun x => !wids.contains x.wid
      xfers := s.c.xfers.filter fun x => !keys.contains x.wg
      rows := s.c.rows.filter fun j => !(j.lanes.any fun l => mine l.tid)
      scrQ := s.c.scrQ.filter fun x => !mine x.tid
      subtasks := s.c.subtasks.filter fun x => !keys.contains x.wg
      jobs := s.c.jobs.filter fun j => !(j.tids.any mine) }
    m := { s.m with
      ops := s.m.ops.filter fun o => !mine o.tid
      walks := s.m.walks.map fun w => { w with tids := w.tids.filter fun t => !mine t } } }

/-- STATE becomes 6 and vector 2 is raised, unless it stands at 6 (R310). -/
def State.markParked (s : State) (r : Region) : State :=
  if r.state == 6 then s else ((s.modRegion r.num fun r => { r with state := 6 }).devWrite (r.rcb + 148) 1 6).msi 2

/-- A kill of a workgroup and its cluster (R311): the record, then the end of the region, or the cluster parks for the host. -/
def State.killCluster (s : State) (key pc : Nat) (f : FaultInfo) : State :=
  match s.wg? key, s.clusOfWg key with
  | some g, some c =>
    match s.region? g.region with
    | none => s
    | some r =>
      let s1 := s.faultRecord r g.idx g.ctx false { f with kill := true, kind := 8, pc := pc, clk := s.clk }
      let s2 := { s1 with c := { s1.c with imgs := s1.c.imgs.filter fun i => i.clus != c.id } }
      if !r.restart || decide (3 ≤ g.relaunch) || r.pol == 0 then s2.terminate r.num false
      else if r.pol == 1 then s2.terminate r.num true
      else
        let s3 := (s2.purgeWgs c.members).markParked r
        { s3 with l := { s3.l with waiting := s3.l.waiting ++
          [{ Waiting.first r.num with
             clid := c.clid, relaunch := g.relaunch + 1, parked := true, ended := c.ended
             absent := (List.range c.members.length).filter fun i => ((c.members[i]?).bind s.wg?).isNone }] } }
  | _, _ => s

/-! ### Task records (R353, R354) -/

/-- The fields of a task record. -/
structure TaskRec where
  m : Nat
  n : Nat
  ks : Nat
  wc : Nat
  half : Bool
  sig : Bool
  cin : Bool
  rm : Nat
  satf : Bool
  tzf : Nat
  btag : Nat
  deriving DecidableEq, Repr

/-- Word k of a record. -/
def recWord (ws : List Word) (k : Nat) : Nat := (ws.getD k 0).toNat

def taskRec (ws : List Word) : TaskRec :=
  let x := recWord ws 6
  { m := slice x 9 0 + 1, n := slice x 19 10 + 1, ks := slice x 25 20 + 1, wc := slice x 27 26, half := x.testBit 28, sig := x.testBit 29,
    cin := x.testBit 30, rm := slice x 34 32, satf := x.testBit 35, tzf := slice x 51 36, btag := slice (recWord ws 3) 51 36 }

/-- Width of B, width of A, K. -/
def TaskRec.wb (t : TaskRec) : Nat := 4 * 2 ^ t.wc
def TaskRec.wa (t : TaskRec) : Nat := if t.half then t.wb / 2 else t.wb
def TaskRec.k (t : TaskRec) : Nat := 1024 / t.wb

/-- The address word of an operand: bit 63 says `.gv`; reserved bits zero. -/
def adrOk (w : Nat) : Bool := slice w 62 57 == 0 && (w.testBit 63 || slice w 56 23 == 0)

/-- Check 4 of R354. -/
def recOk (ws : List Word) (zacc : Nat) : Bool :=
  let t := taskRec ws
  adrOk (recWord ws 0) && slice (recWord ws 1) 63 36 == 0 && adrOk (recWord ws 2) && slice (recWord ws 3) 63 52 == 0 && adrOk (recWord ws 4) &&
  slice (recWord ws 5) 63 32 == 0 && slice (recWord ws 6) 63 52 == 0 && !(recWord ws 6).testBit 31 && recWord ws 7 == 0 &&
  t.wc != 3 && !(t.half && t.wc == 0) && decide (t.rm ≤ 4) && t.m % 32 == 0 && t.n % 16 == 0 && decide (min 64 t.m * t.n + t.tzf ≤ 4096 * zacc)

/-- The eight words of a record, read from the window. -/
def State.readRec (s : State) (g : Wg) (src : Src) (off : Nat) : State × List Word :=
  (List.range 8).foldl (fun (acc : State × List Word) k =>
    let (s1, v) := acc.1.scrRead g.key src akRead (off + 8 * k) 8
    (s1, acc.2 ++ [BitVec.ofNat 64 v])) (s, [])

/-- The checks and the effect of `mtask` for a record offset; `nd` is its node. -/
def State.enqueue (s : State) (g : Wg) (t off : Nat) (nd : Option Nat) : State × Option Ctl :=
  let v := match nd with | some i => s.node g.key i | none => 0
  let bad := nd.isSome && (nKind v != 2 || nSt v == 4 || g.mx.tasks.any fun k => k.node == nd)
  if g.win < off + 64 then (s, some (.fault (fltAt .perm 8 0 (max off g.win))))
  else if off % 64 != 0 then (s, some (.fault (fltAt .misalign 8 0 off)))
  else if bad then (s, some (.fault (flt .matrix)))
  else
    let (s1, ws) := s.readRec g ⟨t, (s.thread t).pc, 0⟩ off
    let zacc := match s.region? g.region with | some r => r.zacc | none => 0
    if !recOk ws zacc then (s1, some (.fault (flt .matrix)))
    else if nd.isSome && (nSt v == 5 || nSt v == 6) then (s1, none)
    else
      let k : Task :=
        { id := s1.m.nextId, off := off, node := nd, record := ws, todo := List.range (((taskRec ws).m + 63) / 64), running := 0, fault := none,
          pc := (s.thread t).pc, seed := (s.thread t).rseed, sgc := g.mx.sgcAhead }
      (s1.newId.modMx g.key fun m => { m with tasks := m.tasks ++ [k] }, none)

/-- R354. -/
def execMtask (x : M128A) (s : State) : Host.Outcome State Fault Refusal :=
  s.run (.mtask x) (ctxBody fun s g t =>
    if s.busy t then (s, some (.hold .drain))
    else if 16 ≤ (g.mx.tasks.filter fun k => !k.ended).length then (s, some (.hold .tasks))
    else
      let a := (s.opnd t x.a).toNat
      if x.opx == 1 then
        match s.nodeNum g (a % 1024) with
        | none => (s, some (.fault (flt .perm)))
        | some i => let s1 := s.readNode g.key i; s1.enqueue g t (nPay (s1.node g.key i) % 2 ^ 19) (some i)
      else s.enqueue g t (a % 2 ^ 19) none)

/-! ### Operands of a subtask (R353, R356) -/

/-- An operand as a subtask finds it: its space, its window, row 0, the stride, the format and geometry of its segment or of its first page, its segment in a
window, and the format and geometry of each page that its rows reach. -/
structure TOpd where
  gv : Bool
  key : Nat
  win : Nat
  base : Nat
  str : Int
  fmt : Nat
  geo : Nat
  seg : Nat
  pages : List (Nat × Nat × Nat)

/-- A fault of an operand read: PAGE, PERM and POISON of `.gv` bytes kill the workgroup (R358). -/
def opdFault (f : FaultInfo) : FaultInfo := { f with kind := 8, kill := f.code == .page || f.code == .perm || f.code == .poison }

/-- The window that a `.clw` address names: the member of the rank, and the offset (R170, R353). -/
def State.clwOf (s : State) (c : Clus) (a : Nat) : Option (Wg × Nat) := (c.members[slice a 22 19]?.bind s.wg?).map fun m => (m, slice a 18 0)

/-- The offset or address of row i, of element k of row i. -/
def TOpd.rowOff (o : TOpd) (i : Nat) : Int := o.base + i * o.str
def TOpd.rowVa (o : TOpd) (i : Nat) : Nat := (BitVec.ofInt 64 (o.rowOff i)).toNat
def TOpd.elVa (o : TOpd) (i k : Nat) : Nat := (o.rowVa i + k * fmtBits o.fmt / 8) % 2 ^ 64
/-- The format and geometry of an element: its segment's, or its page's (R335). -/
def TOpd.fmtAt (o : TOpd) (va : Nat) : Nat × Nat :=
  match o.pages.find? fun q => q.1 == va / 65536 with
  | some q => q.2
  | none => (o.fmt, o.geo)
/-- Every format and geometry of the operand. -/
def TOpd.kinds (o : TOpd) : List (Nat × Nat) := ((o.fmt, o.geo) :: o.pages.map (·.2)).dedup

/-- The pages of a `.gv` operand. -/
def State.opdPages (s : State) (core : Nat) (r : Region) : List Nat → Work (List (Nat × Nat × Nat))
  | [] => (s, .ok [])
  | a :: rest =>
    match s.xlate core r a .rd with
    | (s1, .error e) => (s1, .error (opdFault (e.flt 8)))
    | (s1, .ok p) =>
      match s1.opdPages core r rest with
      | (s2, .error f) => (s2, .error f)
      | (s2, .ok l) => (s2, .ok ((a / 65536, p.fmt, p.geo) :: l))

/-- A source operand over rows r0 to r0 + n − 1 of `cols` elements: address word, segment number, stride. -/
def State.srcOpd (s : State) (core : Nat) (r : Region) (c : Clus) (w seg str r0 n cols : Nat) : Work TOpd :=
  if w.testBit 63 then
    let o : TOpd := { gv := true, key := 0, win := 0, base := slice w 56 0, str := sext 32 str, fmt := 0, geo := 0, seg := 0, pages := [] }
    match s.opdPages core r [o.rowVa r0] with
    | (s1, .error f) => (s1, .error f)
    | (s1, .ok l) =>
      let k := match l with | q :: _ => q.2 | [] => (0, 0)
      let last := fun (i : Nat) => (o.rowVa i + elemBytes k.1 cols - 1) % 2 ^ 64
      let ends := (List.range n).flatMap fun i => [o.rowVa (r0 + i), max (o.rowVa (r0 + i)) (last (r0 + i) / 65536 * 65536)]
      match s1.opdPages core r (firstInPage ends) with
      | (s2, .error f) => (s2, .error f)
      | (s2, .ok l) => (s2, .ok { o with fmt := k.1, geo := k.2, pages := l })
  else match s.clwOf c w with
    | none => (s, .error (fltAt .perm 8 0 (w % 2 ^ 19)))
    | some (m, off) =>
      let v := (m.segs.getD seg 0).toNat
      (s, .ok { gv := false, key := m.key, win := m.win, base := off, str := sext 32 str, fmt := segFmt v, geo := segGeo v, seg := v, pages := [] })

/-- The checks of a source operand over rows r0 to r0 + n − 1 of `cols` elements (R347, R349, R351, R17). The pages of a `.gv` operand may differ in format
where their elements have one size (log entry 104). -/
def TOpd.check (o : TOpd) (r0 n cols : Nat) : Option FaultInfo :=
  let rb := elemBytes o.fmt cols
  let bb := segBlock o.fmt o.geo
  let rows := (List.range n).map fun i => o.rowOff (r0 + i)
  if o.gv then
    let eb : Int := (fmtBits o.fmt + 7) / 8
    let bad := fun (k : Nat × Nat) => let b := segBlock k.1 k.2
      !mxFmt k.1 || fmtBits k.1 != fmtBits o.fmt || (b != 0 && (o.base % b != 0 || o.str % (b : Int) != 0))
    if (o.base : Int) % eb != 0 || o.str % eb != 0 then some (fltAt .misalign 8 0 o.base) else if o.kinds.any bad then some (flt .matrix) else none
  else
    match rows.find? fun x => decide (x < 0) || decide ((o.win : Int) < x + rb) with
    | some x => some (fltAt .perm 8 0 (BitVec.ofInt 19 (max x (o.win : Int))).toNat)
    | none =>
      let slot := fun (x : Int) => segScb o.seg + 2 * (x.toNat + rb - 1 - segBase o.seg) / bb + 2
      match (if bb == 0 then none else rows.find? fun x => decide (o.win < slot x)) with
      | some x => some (fltAt .perm 8 0 (slot x - 2))
      | none =>
        if !mxFmt o.fmt || (rows.any fun x => decide (x < segBase o.seg) || decide ((segLim o.seg : Int) < x + rb)) ||
          (bb != 0 && (((o.base : Int) - segBase o.seg) % (bb : Int) != 0 || o.str % (bb : Int) != 0)) then some (flt .matrix) else none

/-- Bytes of a `.gv` operand. -/
def State.opdBytes (s : State) (core : Nat) (r : Region) : List (Nat × Nat × Nat) → Nat → Work Nat
  | [], acc => (s, .ok acc)
  | q :: rest, acc =>
    match s.vread core r q.1 q.2.2 with
    | (s1, .error e) => (s1, .error (opdFault (e.flt 8)))
    | (s1, .ok x) => s1.opdBytes core r rest (acc + x * 256 ^ q.2.1)

/-- Scale slots of `.gv` blocks, by address. -/
def State.opdSlots (s : State) (core : Nat) (r : Region) : List Nat → List (Nat × Nat) → Work (List (Nat × Nat))
  | [], acc => (s, .ok acc)
  | a :: rest, acc =>
    match s.vread core r a 2 with
    | (s1, .error e) => (s1, .error (opdFault (e.flt 8)))
    | (s1, .ok x) => s1.opdSlots core r rest (acc ++ [(a, x)])

/-- n elements of row i from column c0, each under its own page (R335). -/
def State.opdRow (s : State) (core : Nat) (r : Region) (o : TOpd) (src : Src) (c0 n i : Nat) : Work (List OpdEl) :=
  if o.gv then
    match s.opdBytes core r (vaParts (o.elVa i c0) (elemBytes o.fmt n)) 0 with
    | (s1, .error f) => (s1, .error f)
    | (s1, .ok x) =>
      let els := (codesOf o.fmt n x).zip ((List.range n).map fun k => o.elVa i (c0 + k))
      let slot := fun (va : Nat) => let k := o.fmtAt va; if k.2 == 0 then none else some (slotVa r.shb (va / blockBytes k.1 k.2))
      match s1.opdSlots core r (els.filterMap fun q => slot q.2).dedup [] with
      | (s2, .error f) => (s2, .error f)
      | (s2, .ok ss) => (s2, .ok (els.map fun q => ⟨(o.fmtAt q.2).1, (o.fmtAt q.2).2, q.1, ((slot q.2).bind (codeOf ss)).getD 0⟩))
  else
    let off := (o.rowOff i).toNat + c0 * fmtBits o.fmt / 8
    let (s1, x) := s.scrRead o.key src akRead off (elemBytes o.fmt n)
    let (s2, sl) := s1.slotCodes o.key src o.seg off n
    (s2, .ok (((codesOf o.fmt n x).zip sl).map fun q => ⟨o.fmt, o.geo, q.1, q.2⟩))

/-- The same for a list of rows. -/
def State.opdRows (s : State) (core : Nat) (r : Region) (o : TOpd) (src : Src) (c0 n : Nat) : List Nat → Work (List (List OpdEl))
  | [] => (s, .ok [])
  | i :: rest =>
    match s.opdRow core r o src c0 n i with
    | (s1, .error f) => (s1, .error f)
    | (s1, .ok l) => match s1.opdRows core r o src c0 n rest with
      | (s2, .error f) => (s2, .error f)
      | (s2, .ok ls) => (s2, .ok (l :: ls))

/-! ### The destination (R160, R351, R356) -/

/-- The destination operand: `.gv`, or a window; the element size is that of the segment that holds its row 0, and each element goes by its own segment
(R159, R160). -/
def State.dstOpd (s : State) (c : Clus) (w str : Nat) : Except FaultInfo TOpd :=
  if w.testBit 63 then .ok { gv := true, key := 0, win := 0, base := slice w 56 0, str := sext 32 str, fmt := 0, geo := 0, seg := 0, pages := [] }
  else match s.clwOf c w with
    | none => .error (fltAt .perm 8 0 (w % 2 ^ 19))
    | some (m, off) =>
      let v := (segOf m off).getD 0
      .ok { gv := false, key := m.key, win := m.win, base := off, str := sext 32 str, fmt := segFmt v, geo := segGeo v, seg := v, pages := [] }

/-- The offset of a destination element in its window, and the offset of its slot in a segment (R159). -/
def TOpd.elOff (o : TOpd) (i k : Nat) : Int := o.rowOff i + (k * fmtBits o.fmt / 8 : Nat)
def dstSlot (v off : Nat) : Option Nat := if segGeo v == 0 then none else some (segScb v + 2 * ((off - segBase v) / segBlock (segFmt v) (segGeo v)))

/-- The checks of a destination in a window over rows r0 to r0 + n − 1 of `cols` elements, as typed stores (R160, R163, R351, R360). -/
def State.dstCheck (s : State) (o : TOpd) (r0 n cols : Nat) : Option FaultInfo :=
  let bits := fmtBits o.fmt
  let eb := (bits + 7) / 8
  let els := (List.range n).flatMap fun i => (List.range cols).map fun k => o.elOff (r0 + i) k
  let seg := fun (x : Nat) => match s.wg? o.key with | some m => (segOf m x).getD 0 | none => 0
  match els.find? fun x => decide (x < 0) || decide ((o.win : Int) < x + eb) with
  | some x => some (fltAt .perm 8 0 (BitVec.ofInt 19 (max x (o.win : Int))).toNat)
  | none =>
    match (els.filterMap fun x => dstSlot (seg x.toNat) x.toNat).find? fun a => decide (o.win < a + 2) with
    | some a => some (fltAt .perm 8 0 a)
    | none =>
      match els.find? fun x => x % (eb : Int) != 0 with
      | some x => some (fltAt .misalign 8 0 x.toNat)
      | none => if els.any fun x => !mrdFmt (segFmt (seg x.toNat)) || fmtBits (segFmt (seg x.toNat)) != bits then some (flt .matrix) else none

/-- One stored value of a `.gv` destination, decoded under its page (R160). -/
def State.dstGvVal (s : State) (core : Nat) (r : Region) (va k : Nat) : Work X :=
  match s.xlate core r va .rd with
  | (s1, .error e) => (s1, .error (e.flt 0))
  | (s1, .ok p) =>
    let bits := fmtBits p.fmt
    match s1.vread core r va ((bits + 7) / 8) with
    | (s2, .error e) => (s2, .error (e.flt 0))
    | (s2, .ok x) =>
      let v := (fmtAt p.fmt).decode (if bits == 4 then x / 16 ^ (k % 2) % 16 else x)
      if p.geo == 0 then (s2, .ok v)
      else match s2.vread core r (slotVa r.shb (va / blockBytes p.fmt p.geo)) 2 with
        | (s3, .error e) => (s3, .error (e.flt 4))
        | (s3, .ok sl) => (s3, .ok (prod v sl))

/-- The slot code of a destination element in a window. -/
def State.dstScrSlot (s : State) (key : Nat) (src : Src) (v off : Nat) : State × Option Nat :=
  match dstSlot v off with
  | none => (s, none)
  | some a => let (s1, c) := s.scrRead key src akRead a 2; (s1, some c)

/-- One stored value of a destination in a window, decoded under its segment. -/
def State.dstScrVal (s : State) (o : TOpd) (src : Src) (off k : Nat) : State × X :=
  match s.wg? o.key with
  | none => (s, .nan)
  | some m =>
    let v := (segOf m off).getD 0
    let bits := fmtBits (segFmt v)
    let (s1, x) := s.scrRead o.key src akRead off ((bits + 7) / 8)
    let (s2, sl) := s1.dstScrSlot o.key src v off
    let y := (fmtAt (segFmt v)).decode (if bits == 4 then x / 16 ^ (k % 2) % 16 else x)
    (s2, match sl with | some c => prod y c | none => y)

/-- The values of row i of the destination. -/
def State.dstRow (s : State) (core : Nat) (r : Region) (o : TOpd) (src : Src) (bits n i : Nat) : Work (List X) :=
  (List.range n).foldl (fun (acc : Work (List X)) k =>
    match acc with
    | (s1, .error f) => (s1, .error f)
    | (s1, .ok l) =>
      if o.gv then match s1.dstGvVal core r ((o.rowVa i + k * bits / 8) % 2 ^ 64) k with
        | (s2, .error f) => (s2, .error f)
        | (s2, .ok x) => (s2, .ok (l ++ [x]))
      else let (s2, x) := s1.dstScrVal o src (o.elOff i k).toNat k; (s2, .ok (l ++ [x]))) (s, .ok [])

/-- One stored unit of a destination in a window: an element, or a pair of 4-bit elements. -/
def State.putScr (s : State) (o : TOpd) (src : Src) (rm : Rm) (satf : Bool) (off : Nat) (xs : List (X × Nat)) : State :=
  match s.wg? o.key with
  | none => s
  | some m =>
    let v := (segOf m off).getD 0
    let (s1, sl) := s.dstScrSlot o.key src v off
    s1.scrWrite o.key src akWrite off (elemBytes (segFmt v) xs.length)
      ((xs.zip (List.range xs.length)).foldl (fun a q => a + mrdCode (segFmt v) rm satf q.1.2 sl q.1.1 * 2 ^ (fmtBits (segFmt v) * q.2)) 0)

/-- Write row i: the values and their draws. -/
def State.putDstRow (s : State) (core : Nat) (r : Region) (o : TOpd) (src : Src) (bits : Nat) (rm : Rm) (satf : Bool) (i : Nat) (xs : List (X × Nat)) :
    State × Option FaultInfo :=
  let step := if bits == 4 then 2 else 1
  ((List.range (xs.length / step)).map (step * ·)).foldl (fun (acc : State × Option FaultInfo) k =>
    let ys := (xs.drop k).take step
    if o.gv then
      let (s1, f) := acc.1.putGv core r rm satf ((o.rowVa i + k * bits / 8) % 2 ^ 64) ys
      (s1, acc.2.or f)
    else (acc.1.putScr o src rm satf (o.elOff i k).toNat ys, acc.2)) (s, none)

/-! ### A subtask (R356, R357) -/

/-- The image of slice k that the engine of a core may hold for B. -/
def State.imageOf (s : State) (core clus : Nat) (tag : List Nat) (k : Nat) : Option (List (List OpdEl)) :=
  match s.c.imgs.find? fun i => i.core == core && i.clus == clus && i.tag == tag && tag.headD 0 != 0 with
  | some i => i.slices[k]?
  | none => none

/-- The columns of a slice: B as it stands, or an image in place of a read of B; then each element is from the earlier load or its own. -/
def State.sliceB (s : State) (core : Nat) (r : Region) (o : TOpd) (src : Src) (t : TaskRec) (old : Option (List (List OpdEl))) (k : Nat) :
    Work (List (List OpdEl)) :=
  let own := s.opdRows core r o src (k * t.k) t.k (List.range t.n)
  match old with
  | none => own
  | some im =>
    if Config.freeChoice s.free core (6000 + k) % 2 == 0 then own
    else match own with
      | (s1, .error _) => (s1, .ok im)
      | (s1, .ok rows) => (s1, .ok (mixRows s.free (6200 + k) im rows))

/-- What a subtask works on: its engine's core and region, the issuer, the member whose entries it uses, its operands, its record, its rows. -/
structure SubJob where
  core : Nat
  r : Region
  g : Wg
  x : Wg
  src : Src
  clus : Nat
  a : TOpd
  b : TOpd
  d : TOpd
  t : TaskRec
  tag : List Nat
  sgc : Nat
  seed : Word
  r0 : Nat
  n : Nat

/-- Integer mode (R335). -/
def SubJob.int (j : SubJob) : Bool := (j.a.kinds ++ j.b.kinds).all fun k => mxInt k.1 k.2

/-- The entry of row i (within the subtask) and column c. -/
def SubJob.entry (j : SubJob) (s : State) (i c : Nat) : Nat :=
  match s.wg? j.x.key with
  | some x => accGet x.mx.acc (j.t.tzf + i * j.t.n + c)
  | none => 0

/-- The element size of the destination in bits, as an access finds it. -/
def SubJob.bits (j : SubJob) (s : State) : Nat :=
  if j.d.gv then match s.xpage j.core j.r (j.d.rowVa j.r0) .rd with | (_, .ok p) => fmtBits p.fmt | (_, .error _) => 8 else fmtBits j.d.fmt

/-- The checks of a subtask before its first slice, in the order of its stream: B, A, the map, the widths, the destination. -/
def SubJob.check (j : SubJob) (s : State) : Work Unit :=
  let cols := j.t.ks * j.t.k
  let z := j.t.tzf + (j.n - 1) * 2 ^ 16 + (j.t.n - 1) * 2 ^ 26
  match (j.b.check 0 j.t.n cols).orElse fun _ => j.a.check j.r0 j.n cols with
  | some f => (s, .error f)
  | none =>
    if j.t.sig && sgB j.sgc != 0 && decide (j.g.win < sgMap j.sgc + 2 * (j.r0 + j.n)) then (s, .error (fltAt .perm 8 0 (max j.g.win (sgMap j.sgc))))
    else if j.int && !((j.a.kinds.all fun k => mxWidthOk k.1 j.t.wa) && j.b.kinds.all fun k => mxWidthOk k.1 j.t.wb) then (s, .error (flt .matrix))
    else if j.d.gv then
      match s.mrdGvCheck j.x j.r z (j.d.rowVa j.r0) j.d.str with
      | (s1, .error f) => (s1, .error f)
      | (s1, .ok _) => (s1, .ok ())
    else match s.dstCheck j.d j.r0 j.n j.t.n with
      | some f => (s, .error f)
      | none => (s, .ok ())

/-- The values that the entries start from (R356). -/
def SubJob.start (j : SubJob) (s : State) : Work (List (List Nat)) :=
  if !j.t.cin then (s, .ok (List.replicate j.n (List.replicate j.t.n 0)))
  else (List.range j.n).foldl (fun (acc : Work (List (List Nat))) i =>
    match acc with
    | (s1, .error f) => (s1, .error f)
    | (s1, .ok l) => match s1.dstRow j.core j.r j.d j.src (j.bits s) j.t.n (j.r0 + i) with
      | (s2, .error f) => (s2, .error f)
      | (s2, .ok xs) => (s2, .ok (l ++ [xs.map fun x => if j.int then int36.enc .rne false 0 x % 2 ^ 36 else acc36.enc .rne false 0 x]))) (s, .ok [])

/-- The rows of A in slice k. -/
def SubJob.rowsA (j : SubJob) (s : State) (k : Nat) : Work (List (List OpdEl)) :=
  s.opdRows j.core j.r j.a j.src (k * j.t.k) j.t.k ((List.range j.n).map (j.r0 + ·))

/-- Slice k is multiplied: the state and the image of B. What the subtask has read early of it stays in place of some elements (R359). -/
def SubJob.slice (j : SubJob) (q : Subtask) (s : State) (k : Nat) : Work (List (List OpdEl)) :=
  match s.sliceB j.core j.r j.b j.src j.t (s.imageOf j.core j.clus j.tag k) k with
  | (s1, .error f) => (s1, .error f)
  | (s1, .ok b0) =>
    match j.rowsA s1 k with
    | (s2, .error f) => (s2, .error f)
    | (s2, .ok a0) =>
      let bs := if q.earlyB.isEmpty then b0 else mixRows s.free 6301 q.earlyB b0
      let as := if q.earlyA.isEmpty then a0 else mixRows s.free 6302 q.earlyA a0
      let rows := as.map (alignEls j.t.wa j.int)
      let cols := bs.map (alignEls j.t.wb j.int)
      let on := j.t.sig && sgB j.sgc != 0
      let (use, map, nb) := if on then sigRows j.sgc j.t.wa j.int rows else (rows, [], 0)
      let len := min (alignMin as.flatten) (alignMin bs.flatten)
      let s3 := s2.accMap j.x.key j.t.tzf j.n j.t.n fun i c v => mxGroup j.int j.t.satf j.t.wa j.t.wb len v (use.getD i []) (cols.getD c [])
      (if on then (s3.writeMap j.g.key j.src (sgMap j.sgc) j.r0 map).modMx j.g.key fun m => { m with sgs := sgsAfter m.sgs j.n nb true } else s3, .ok bs)

/-- Destination rows are read out (R351, R356). -/
def SubJob.put (j : SubJob) (s : State) (rows : List Nat) : State × Option FaultInfo :=
  let rm := (Rm.ofCode j.t.rm).getD .rne
  let ds := if rm == .rs then (draws ((j.r0 + j.n) * j.t.n) j.seed).2 else []
  rows.foldl (fun (q : State × Option FaultInfo) i =>
    let xs := (List.range j.t.n).map fun c => (entryVal j.int (j.entry s i c), ds.getD ((j.r0 + i) * j.t.n + c) 0)
    let (s1, f) := q.1.putDstRow j.core j.r j.d j.src (j.bits s) rm j.t.satf (j.r0 + i) xs
    (s1, q.2.or f)) (s, none)

/-- One step of a subtask (R356, log entry 105): its start, a slice, or its readout; a slice may first read its operands once, and the readout may first write
some of its rows. None comes back when the subtask has ended. -/
def SubJob.step (j : SubJob) (q : Subtask) (s : State) : Work (Option Subtask) :=
  let part := Config.freeChoice s.free q.step 6300 % 2 == 1
  if q.step == 0 then
    match j.check s with
    | (s1, .error f) => (s1, .error f)
    | (s1, .ok _) => match j.start s1 with
      | (s2, .error f) => (s2, .error f)
      | (s2, .ok acc) => (s2.accMap j.x.key j.t.tzf j.n j.t.n fun i c _ => (acc.getD i []).getD c 0, .ok (some { q with step := 1 }))
  else if q.step ≤ j.t.ks then
    let k := q.step - 1
    if part && q.earlyA.isEmpty then
      match j.rowsA s k, s.opdRows j.core j.r j.b j.src (k * j.t.k) j.t.k (List.range j.t.n) with
      | (_, .ok as), (_, .ok bs) => (s, .ok (some { q with earlyA := as, earlyB := bs }))
      | _, _ => (s, .ok (some q))
    else match j.slice q s k with
      | (s1, .error f) => (s1, .error f)
      | (s1, .ok bs) => (s1, .ok (some { q with step := q.step + 1, im := q.im ++ [bs], earlyA := [], earlyB := [] }))
  else
    let left := (List.range j.n).filter fun i => !q.done.contains i
    let rows := if part && q.done.isEmpty then left.filter fun i => Config.freeChoice s.free i 6303 % 2 == 1 else left
    let s0 := { s with c := { s.c with imgs := (s.c.imgs.filter fun i => i.core != j.core) ++
      [{ core := j.core, clus := j.clus, tag := j.tag, slices := q.im }] } }
    match j.put s0 rows with
    | (s1, some f) => (s1, .error f)
    | (s1, none) => (s1, .ok (if rows.length == left.length then none else some { q with done := rows }))

/-- The fields by which an image of B may be taken again (R357). -/
def bTag (ws : List Word) : List Nat :=
  let t := taskRec ws
  [t.btag, recWord ws 2, slice (recWord ws 3) 35 0, t.n, t.wc]

/-- The work of subtask p of a task of workgroup g, on the core of member x. -/
def State.subJob (s : State) (g x : Wg) (c : Clus) (r : Region) (k : Task) (p : Nat) : Work SubJob :=
  let t := taskRec k.record
  let w := recWord k.record
  let r0 := 64 * p
  let n := min 64 (t.m - r0)
  match s.srcOpd x.core r c (w 2) (slice (w 3) 35 32) (slice (w 3) 31 0) 0 t.n (t.ks * t.k) with
  | (s1, .error e) => (s1, .error e)
  | (s1, .ok b) => match s1.srcOpd x.core r c (w 0) (slice (w 1) 35 32) (slice (w 1) 31 0) r0 n (t.ks * t.k) with
    | (s2, .error e) => (s2, .error e)
    | (s2, .ok a) => (s2, match s2.dstOpd c (w 4) (slice (w 5) 31 0) with
      | .error f => .error f
      | .ok d => .ok { core := x.core, r := r, g := g, x := x, src := ⟨g.ctx, k.pc, 2⟩, clus := c.id, a := a, b := b, d := d, t := t, tag := bTag k.record,
                       sgc := k.sgc, seed := k.seed, r0 := r0, n := n })

/-- A subtask does its next step. -/
def State.subtaskStep (s : State) (g x : Wg) (c : Clus) (r : Region) (k : Task) (q : Subtask) : Work (Option Subtask) :=
  match s.subJob g x c r k q.p with
  | (s1, .error f) => (s1, .error f)
  | (s1, .ok j) => j.step q s1

/-! ### The scheduler (R355, R358) -/

/-- Change one task of a workgroup. -/
def State.modTask (s : State) (key id : Nat) (f : Task → Task) : State :=
  s.modMx key fun m => { m with tasks := m.tasks.map fun t => if t.id == id then f t else t }

/-- A task that may start a subtask now. -/
def State.taskReady (s : State) (key : Nat) (t : Task) : Bool :=
  !t.todo.isEmpty && match t.node with | some i => nSt (s.node key i) == 2 || nSt (s.node key i) == 3 | none => true

/-- A subtask that has made no step. -/
def Subtask.start (wg task p core : Nat) : Subtask := { wg := wg, task := task, p := p, core := core, step := 0, im := [], earlyB := [], earlyA := [], done := [] }

/-- SUBTASK_DISPATCH: the oldest ready task of launched cluster `clid` starts its next subtask on a free engine of the cluster: one that holds a
matching image, then the lowest core. -/
def execSubtaskDispatch (clid : Nat) (s : State) : Host.Outcome State Fault Refusal :=
  .next (match s.c.clusters.find? fun c => c.id == clid with
    | none => s
    | some c =>
      let live := c.members.filterMap s.wg?
      let ready := live.flatMap fun g => (g.mx.tasks.filter (s.taskReady g.key)).map fun t => (g, t)
      let free := sortBy (fun (a b : Wg) => decide (a.core ≤ b.core)) (live.filter fun g => !(s.c.subtasks.any fun q => q.core == g.core))
      match sortBy (fun (a b : Wg × Task) => decide (a.2.id ≤ b.2.id)) ready, free with
      | (g, t) :: _, e :: rest =>
        let tag := bTag t.record
        let hold := fun (x : Wg) => (s.imageOf x.core c.id tag 0).isSome && Config.freeChoice s.free x.core 6100 % 2 == 1
        let x := ((e :: rest).find? hold).getD e
        let s1 := ({ s with free := s.free + 1 }).modTask g.key t.id fun t => { t with todo := t.todo.drop 1, running := t.running + 1 }
        let s2 := match t.node with
          | some i => if nSt (s1.node g.key i) == 2 then s1.setNode g.key i (putBits (s1.node g.key i) 6 4 3) else s1
          | none => s1
        { s2 with c := { s2.c with subtasks := s2.c.subtasks ++ [Subtask.start g.key t.id (t.todo.headD 0) x.core] } }
      | _, _ => s)

/-- A task whose last subtask has ended: a faulted one tells its node, or waits for `msync`; one of a node completes with NODE_COMPLETE (R358, R359). -/
def State.taskEnd (s : State) (key id : Nat) : State :=
  match (s.wg? key).bind fun g => g.mx.tasks.find? fun t => t.id == id with
  | none => s
  | some t =>
    let drop := fun (s : State) => s.modMx key fun m => { m with tasks := m.tasks.filter fun u => u.id != id }
    if !t.todo.isEmpty || t.running != 0 then s
    else match t.node, t.fault with
      | none, none => drop s
      | none, some _ => s
      | some i, some f => (drop s).walk1 key i (.fail 5 f.code.num f.addr)
      | some _, none => s

/-- SUBTASK_COMPLETE: the n-th running subtask does its next step, and its last one ends it (R356 to R359). -/
def execSubtaskComplete (n : Nat) (s : State) : Host.Outcome State Fault Refusal :=
  .next (match s.c.subtasks[n]? with
    | none => s
    | some q =>
      let s0 := { s with free := s.free + 1 }
      let out := fun (s : State) => { s with c := { s.c with subtasks := s.c.subtasks.eraseIdx n } }
      match s0.wg? q.wg, s0.clusOfWg q.wg with
      | some g, some c =>
        match g.mx.tasks.find? (fun t => t.id == q.task), s0.region? g.region, (c.members.filterMap s0.wg?).find? fun x => x.core == q.core with
        | some t, some r, some x =>
          match s0.subtaskStep g x c r t q with
          | (s1, .error f) =>
            if f.kill then (out s1).killCluster q.wg t.pc f
            else (((out s1).modTask q.wg q.task fun t => { t with todo := [], running := t.running - 1, fault := t.fault.orElse fun _ => some f }).taskEnd q.wg
              q.task).wakeStream q.wg
          | (s1, .ok (some q)) => { s1 with c := { s1.c with subtasks := s1.c.subtasks.set n q } }
          | (s1, .ok none) => (((out s1).modTask q.wg q.task fun t => { t with running := t.running - 1 }).taskEnd q.wg q.task).wakeStream q.wg
        | _, _, _ => out s0
      | _, _ => out s0)

/-! ### Signature nodes (R382, R383) -/

/-- The operation of a signature node that starts, with its tiles, the segments in force and its configuration; or the fault with which it ends. -/
def State.sigOp (s : State) (g : Wg) (i : Nat) : Work StreamOp :=
  let pay := nPay (s.node g.key i)
  if pay % 64 != 0 || decide (g.win < pay + 64) then (s, .error (fltAt .perm 8 0 pay))
  else
    let (s1, ws) := s.readRec g ⟨(g.nsubOf i).1, (g.nsubOf i).2, 2⟩ pay
    let two := fun (k : Nat) => recWord ws k + 2 ^ 64 * recWord ws (k + 1)
    let da := two 0
    let dd := two 2
    let cfg := two 4
    let op := recWord ws 6
    let seg := fun (d : Nat) => g.segOfTile d
    let out := fun (f : Option FaultInfo) (o : StreamOp) => match f with | some f => (s1, .error f) | none => (s1, .ok { o with args := [cfg] })
    if !tileOk da || !tileOk dd || !sgcOk cfg || decide (3 ≤ op) || recWord ws 7 != 0 || (op == 0 && dd != 0) then (s1, .error (flt .illegal))
    else if op == 0 then out (sgmapCheck g da (seg da) cfg) { opBlank 0x191 with t := [da], segs := [seg da] }
    else out (sgMoveCheck g dd da (seg dd) (seg da) cfg) { opBlank (if op == 1 then 0x193 else 0x192) with t := [dd, da], segs := [seg dd, seg da] }

/-- That operation is performed: its fault, if the map is not valid. -/
def State.sigRun (s : State) (g : Wg) (i : Nat) (o : StreamOp) : State × Option FaultInfo :=
  let src : Src := ⟨(g.nsubOf i).1, (g.nsubOf i).2, 2⟩
  let cfg := o.args.headD 0
  if o.op == 0x191 then
    let (s1, map, _) := s.tileGroup g src o (o.t.headD 0) (o.segs.headD 0) cfg
    (s1.writeMap g.key src (sgMap cfg) 0 map, none)
  else
    let (s1, bad) := s.sgMove g src o (o.op == 0x193) (o.t.headD 0) (o.t.getD 1 0) (o.segs.headD 0) (o.segs.getD 1 0) (sgMap cfg)
    (s1, bad.map fun _ => flt .matrix)

/-- A signature node starts (R382, log entry 105): it may read its rows once now. -/
def State.sigStart (s : State) (g : Wg) (i : Nat) : State :=
  match s.sigOp g i with
  | (s1, .error f) => s1.walk1 g.key i (.fail 5 f.code.num f.addr)
  | (s1, .ok o) =>
    let rows := match o.reads with | some (t, seg, n) => (s1.tileRows g.key ⟨(g.nsubOf i).1, (g.nsubOf i).2, 2⟩ t seg n).2 | none => []
    let o1 := if Config.freeChoice s.free i 5300 % 2 == 1 then { o with early := rows } else o
    s1.modMx g.key fun m => { m with nodes := (i, o1) :: m.nodes.filter fun q => q.1 != i }

/-! ### Node events (R265) -/

/-- NODE_START: the walker starts a queued node: a copy (R248), a signature operation (R382), an enqueued task (R355). -/
def execNodeStart (wg node : Nat) (s : State) : Host.Outcome State Fault Refusal :=
  .next (match s.wg? wg with
    | none => s
    | some g =>
      if s.nodeNN g ≤ node then s
      else
        let s1 := s.readNode wg node
        let v := s1.node wg node
        if nSt v != 2 || nodeBad v then s1
        else match nKind v with
          | 1 => s1.startCopyNode g node
          | 2 => if g.mx.tasks.any fun t => t.node == some node then s1.setNode wg node (putBits v 6 4 3) else s1
          | 3 => ({ s1 with free := s1.free + 1 }.setNode wg node (putBits v 6 4 3)).sigStart g node
          | 4 => s1.walk1 wg node .done
          | _ => s1)

/-- NODE_COMPLETE: a running node whose work has ended, or whose signature operation is performed now, is done (R265, R382); one whose record has been
spoilt fails (R260). -/
def execNodeComplete (wg node : Nat) (s : State) : Host.Outcome State Fault Refusal :=
  .next (match s.wg? wg with
    | none => s
    | some g =>
      let v := s.node wg node
      let busy := (s.c.xfers.any fun x => x.wg == wg && x.node == some node) ||
        (g.mx.tasks.any fun t => t.node == some node && (!t.todo.isEmpty || t.running != 0))
      if s.nodeNN g ≤ node || nSt v != 3 || busy then s
      else
        let s1 := s.modMx wg fun m => { m with tasks := m.tasks.filter (fun t => t.node != some node), nodes := m.nodes.filter fun q => q.1 != node }
        let (s2, f) := match (if nodeBad v then none else g.mx.nodes.find? fun q => q.1 == node) with
          | some q => { s1 with free := s1.free + 1 }.sigRun g node q.2
          | none => (s1, if nodeBad v then some (flt .illegal) else none)
        (s2.walk1 wg node (match f with | some f => .fail 5 f.code.num f.addr | none => .done)).wakeStream wg)

end Sys2Proof.Machine
end

