-- ==== Sys2Proof/Machine/Exit.lean ====
section
/-! DEFINITION. `exit`, the end of a workgroup and of a fork task, the completion of a region (R81, R257, R284, R292, R301, R395). -/

namespace Sys2Proof.Machine
open Sys2Proof

/-- A region has a fork task that is queued or running (R292). -/
def State.hasForks (s : State) (n : Nat) : Bool :=
  (s.c.deques.any fun d => d.2.region == n) || (s.c.over_.any fun d => (ForkTask.ofBits (s.rdNat (s.overAddr d.1 d.2) 32)).region == n) || (s.c.warps.any fun w => w.wg.isNone && w.region == n)

/-- A region whose workgroups have all ended and which has no fork task completes (R292). -/
def State.regionTest (s : State) (n : Nat) : State :=
  match s.region? n with
  | some r => if r.endedWgs == r.nwg && !s.hasForks n then s.endRegion n 3 else s
  | none => s

/-- Every thread of a workgroup's warps, and its context, is gone (R292). -/
def State.wgDone (s : State) (g : Wg) : Bool :=
  !(s.c.threads.any fun t => !t.gone && match s.warp? (widOf t.tid) with | some w => w.wg == some g.key | none => false)

/-- The cluster of a workgroup that ends keeps what a diagnostic block tells of it (R326). -/
def State.noteEnd (s : State) (g : Wg) : State :=
  match s.clusOfWg g.key with
  | some c => s.modClus c.id fun c =>
      { c with ended := c.ended ++ [{ rank := c.members.findIdx (· == g.key), idx := g.idx, core := g.core, exits := g.warps.map s.lastExit }] }
  | none => s

/-- The workgroup ends: its resources are free (R292). -/
def State.wgTest (s : State) (key : Nat) : State :=
  match s.wg? key with
  | none => s
  | some g => if s.wgDone g then ((((s.noteEnd g).purgeWgs [key]).modRegion g.region fun r => { r with endedWgs := r.endedWgs + 1 })).regionTest g.region else s

/-- A fork task whose threads are all gone frees its warp. -/
def State.taskTest (s : State) (wid : Nat) : State :=
  match s.warp? wid with
  | none => s
  | some w =>
    if w.wg.isSome || !(s.liveOf wid).isEmpty then s
    else
      let s1 := (s.setThreads (s.c.threads.filter fun t => widOf t.tid != wid)).setWarps (s.c.warps.filter fun v => v.wid != wid)
      s1.regionTest w.region

/-- The thread is gone (R77, R81): rejoin masks, barriers, the expansion, the queue are tested; its workgroup or task may end. -/
def State.endThread (s : State) (tid : Nat) : State :=
  let msk := (s.thread tid).msk
  let s1 := s.modThread tid fun t =>
    { t with gone := true, lastPc := t.pc, lastClk := s.clk, bundle := none, age := none, wait := .none, park := false, stage := 0, snap := [] }
  let s2 := (List.range 16).foldl (fun s n => if msk.getLsbD n then s.rejoinTest (widOf tid) n else s) s1
  match s2.wgOf tid with
  | none => s2.taskTest (widOf tid)
  | some g =>
    let s3 := if isCtx tid then s2.contextGone g.key else ((s2.barExit g.key tid).expandExit tid).retire g.key
    s3.wgTest g.key

/-- What `exit` waits for in the thread's copies (R257): its transfers; then the faulted batches, the open batch sealed. -/
def State.exitBatches (s : State) (t : Nat) : State × Option Ctl :=
  if s.c.xfers.any fun x => x.tids.any fun q => q.1 == t then (s, some (.hold .batches))
  else match s.faultedBatch t with
    | some (k, f) => (s.freeBatch t k, some (.fault f))
    | none =>
      if (s.thread t).stage != 0 then (s, none)
      else
        let s1 := ((s.freeBatch t (s.thread t).batches.next).sealBatch t).modThread t fun th => { th with stage := 1 }
        match s1.faultedBatch t with
        | some (k, f) => (s1.freeBatch t k, some (.fault f))
        | none => (s1, none)

/-- What `exit` waits for in a context (R284): its matrix and signature commands, as `msync` does. -/
def State.exitStream (s : State) (t : Nat) : State × Option Ctl :=
  if !isCtx t then (s, none)
  else match (s.wgOf t).map (·.key) with
    | none => (s, none)
    | some key =>
      let s1 := s.wakeStream key
      match s1.wg? key with
      | none => (s1, none)
      | some g =>
        if !g.mx.stream.isEmpty || g.mx.tasks.any fun k => !k.ended then (s1, some (.hold .msync))
        else match g.mx.tasks.find? fun k => k.fault.isSome with
          | some k => (s1.modMx key fun m => { m with tasks := m.tasks.filter fun u => u.id != k.id },
              k.fault.map fun f => .fault { f with deferred := false })
          | none => (s1, none)

/-- The exit add of a fork task's last thread (R26, R301): once, and `exit` goes on when a home on another module has answered. -/
def State.exitAdd (s : State) (t : Nat) : State × Option Ctl :=
  match (s.warp? (widOf t)).bind (·.jca) with
  | none => (s, none)
  | some jca =>
    if s.liveOf (widOf t) != [t] then (s, none)
    else if (s.thread t).stage == 2 then (s.rereadAll, none)
    else match s.joinAdd t jca with
      | (s1, .error f) => (s1, some (.fault f))
      | (s1, .ok none) => (s1, none)
      | (s1, .ok (some w)) => (s1.modThread t fun th => { th with stage := 2 }, some (.hold w))

/-- One thread's `exit`. -/
def exitLane (s : State) (t : Nat) : State × Option Ctl :=
  if s.owes t || s.busy t then (s, some (.hold .exitDrain))
  else match s.exitBatches t with
    | (s1, some c) => (s1, some c)
    | (s1, none) => match s1.exitStream t with
      | (s2, some c) => (s2, some c)
      | (s2, none) => match s2.exitAdd t with
        | (s3, some c) => (s3, some c)
        | (s3, none) => (s3.endThread t, some .stay)

/-- R81. -/
def execExit (x : S64A) (s : State) : Host.Outcome State Fault Refusal := s.run (.exit x) (eachThread exitLane)

end Sys2Proof.Machine
end

