-- ==== Sys2Proof/Machine/Codec.lean ====
section
/-! DEFINITION. The codec group (R164 to R169). -/

namespace Sys2Proof.Machine
open Sys2Proof

/-- The number format of a format code; a reserved code never passes the decoder. -/
def fmtCode (c : Nat) : Fmt := (fmtOf c).getD (unsignedFmt 8)

/-- Quarter Q of a codec instruction (R164). -/
def V96A.q (x : V96A) : Nat := (x.opx.extractLsb' 0 3).toNat

/-- R165. -/
def execCvt8 (x : V96A) (s : State) : Host.Outcome State Fault Refusal :=
  s.run (.cvt8 x) (drawBody x.rm x.d x.ty.count fun s t dr =>
    (List.range x.ty.count).foldl (fun d e =>
      let a := (tyFlt x.ty).decode (s.el t x.ty x.a e)
      let v := if x.opx.getLsbD 3 then quot a (s.el t x.ty x.b e) else a
      setEl .u8x8 d (V96A.q x * x.ty.count + e) ((fmtCode (x.e.num % 64)).enc x.rm (V96A.isSatf x) (dr e) v)) (s.opnd t x.d))

/-- R165. -/
def execCvw8 (x : V96A) (s : State) : Host.Outcome State Fault Refusal :=
  s.run (.cvw8 x) (drawBody x.rm x.d x.ty.count fun s t dr =>
    mapEl x.ty fun e =>
      let a := (fmtCode (x.e.num % 64)).decode (byteOf (s.opnd t x.a).toNat (V96A.q x * x.ty.count + e))
      let v := if x.opx.getLsbD 3 then prod a (s.el t x.ty x.b e) else a
      (tyFmt x.ty).enc x.rm (V96A.isSatf x) (dr e) v)

/-- A sub-element above the thread's outlier threshold (R166). -/
def State.outlier (s : State) (tid : Nat) (t : Ty) (c : Nat) : Bool :=
  let x := ((tyFlt t).decode c).abs
  let thr := (fp32.decode ((s.thread tid).olthr.toNat % 2 ^ 32)).abs
  !x.isNan && !thr.isNan && decide (thr.cmp x < 0)

/-- The outliers of a group in ascending lane and sub-element order, as BF16 codes (R166). -/
def State.outliers (s : State) (x : V96A) (g : List Nat) : List Nat :=
  g.flatMap fun u => ((List.range x.ty.count).map (s.el u x.ty x.a)).filterMap fun c =>
    if s.outlier u x.ty c then some (bf16.enc .rne false 0 ((tyFlt x.ty).decode c)) else none

/-- R166: the codes with the outliers as zero, the flags with the count below the lane, and the side list over the group. -/
def execCvol (x : V96A) (s : State) : Host.Outcome State Fault Refusal :=
  s.run (.cvol x) fun s ts =>
    let codes : State → Nat → (Nat → Nat) → Word := fun s t dr =>
      (List.range x.ty.count).foldl (fun d e =>
        let c := s.el t x.ty x.a e
        setEl .u8x8 d (V96A.q x * x.ty.count + e)
          (if s.outlier t x.ty c then 0 else (fmtCode (x.e.num % 64)).enc x.rm (V96A.isSatf x) (dr e) ((tyFlt x.ty).decode c))) (s.opnd t x.d)
    let (s1, cs) := drawBody x.rm x.d x.ty.count codes s ts
    let below := fun (t : Nat) => groupOf' ts t |>.filter (· < t)
    let s2 := s1.result ts x.b fun t =>
      let flags := (List.range x.ty.count).foldl (fun a e => a + bit (s.outlier t x.ty (s.el t x.ty x.a e)) * 2 ^ e) 0
      BitVec.ofNat 64 (flags + (s.outliers x (below t)).length * 256)
    (s2.result ts x.c fun t =>
      let l := s.outliers x (groupOf' ts t)
      mapEl .u16x4 fun i => l.getD (4 * (below t).length + i) 0, cs)
where
  groupOf' (ts : List Nat) (tid : Nat) : List Nat := ts.filter fun u => widOf u == widOf tid

/-- Group values of a block of slots (R167). -/
def State.blockVals (s : State) (x : V96A) (ts : List Nat) (tid b g : Nat) : List X :=
  let sz := x.ty.count
  (List.range g).filterMap fun k =>
    let slot := b * g + k
    let u := widOf tid * 32 + slot / sz
    if ts.contains u && decide (slot / sz < 32) then some ((tyFlt x.ty).decode (s.el u x.ty x.a (slot % sz))) else none

/-- The block value of `bmax` (R167). -/
def bmaxOf (xs : List X) : Int :=
  if xs.any fun v => !v.isFin then 32767
  else match maxMag xs with
    | .fin _ n d => if n == 0 then -32768 else floorLog2 n d
    | _ => -32768

def execBmax (x : V96A) (s : State) : Host.Outcome State Fault Refusal :=
  s.run (.bmax x) fun s ts =>
    let g := 8 * 2 ^ x.opx.toNat
    (s.result ts x.d fun t => mapEl x.ty fun e =>
      (BitVec.ofInt x.ty.width (bmaxOf (s.blockVals x ts t ((laneOf t * x.ty.count + e) / g) g))).toNat, [])

/-- A scale code from a block exponent (R168). -/
def scaleCode (fmt : Nat) (v : Int) : Nat :=
  if v == 32767 then 0x3FF else if v == -32768 then 0 else (max 1 (min 254 (v - etop fmt + 127))).toNat * 4

def execBscl (x : V96A) (s : State) : Host.Outcome State Fault Refusal :=
  s.run (.bscl x) (resultBody x.d fun s t => mapEl x.ty fun e =>
    scaleCode (x.e.num % 64) (BitVec.ofNat x.ty.width (s.el t x.ty x.a e)).toInt)

/-- Nibble i of a register. -/
def nibble (w : Word) (i : Nat) : Nat := w.toNat / 16 ^ i % 16
def setNibble (w : Word) (i c : Nat) : Word := BitVec.ofNat 64 (w.toNat - nibble w i * 16 ^ i + c % 16 * 16 ^ i)

/-- R169. -/
def execPk4 (x : V96A) (s : State) : Host.Outcome State Fault Refusal :=
  s.run (.pk4 x) (drawBody x.rm x.d x.ty.count fun s t dr =>
    (List.range x.ty.count).foldl (fun d e =>
      setNibble d (V96A.q x * x.ty.count + e)
        ((fmtCode (x.e.num % 64)).enc x.rm false (dr e) ((tyFmt x.ty).decode (s.el t x.ty x.a e)))) (s.opnd t x.d))

def execUpk4 (x : V96A) (s : State) : Host.Outcome State Fault Refusal :=
  s.run (.upk4 x) (resultBody x.d fun s t => mapEl x.ty fun e =>
    (tyFmt x.ty).enc .rne false 0 ((fmtCode (x.e.num % 64)).decode (nibble (s.opnd t x.a) (V96A.q x * x.ty.count + e))))

end Sys2Proof.Machine
end

