-- ==== Sys2Proof/Machine/Table.lean ====
section
/-! DEFINITION. Activation tables (R127 to R131): `tbl`, `tblld`, `tblsw` and the events of a table slot. -/

namespace Sys2Proof.Machine
open Sys2Proof

/-- The active bank and the shadow bank of a slot (R127). -/
def TableSlot.act (t : TableSlot) : Nat := if t.active then t.bank1 else t.bank0
def TableSlot.put (t : TableSlot) (bank img : Nat) : TableSlot := if bank == 1 then { t with bank1 := img } else { t with bank0 := img }

/-- The mark of a `tbl` result that is outstanding: the workgroup and the bank it read (R130, R131). -/
def tblMark (key bank : Nat) : Nat := 2 ^ 60 + 2 * key + bank
def TableSlot.actNo (t : TableSlot) : Nat := bit t.active

/-- R128: the bank that is active at issue. A fork task has no slot, and the spec gives it no bank: its result is a free value. -/
def execTbl (x : V96A) (s : State) : Host.Outcome State Fault Refusal :=
  s.run (.tbl x) fun s ts =>
    (ts.foldl (fun s1 t =>
      match s.wgOf t with
      | some g => s1.emit [t] x.d (tblMark g.key g.table.actNo) fun t =>
          some (mapEl x.ty fun e => tblEl g.table.act x.ty (V96A.isFtz x) (s.el t x.ty x.a e))
      | none => s1.result [t] x.d fun t => BitVec.ofNat 64 (Config.freeChoice s.free t 5000)) { s with free := s.free + 1 }, [])

/-- Bytes of a bank image (R127). -/
def bankBytes : Nat := 4112

/-- Read the image that a `tblld` names, 16 bytes at a time (R129): the bytes read, and the first entry that could not be read. -/
def State.readImage (s : State) (tid : Nat) (sp : Sp) (va : Nat) : Nat → Nat → Nat → State × Nat × Option (Nat × FaultInfo)
  | 0, _, img => (s, img, none)
  | n + 1, k, img =>
    let a := (va + 16 * k) % 2 ^ 64
    if sp == .own then
      match s.window tid .own a 16 with
      | none => (s, img, some (k, { fltAt .perm 0 0 a with deferred := true }))
      | some (key, off) =>
        let (s1, v) := s.scrRead key ⟨tid, s.cur.pc, 0⟩ akRead off 16
        s1.readImage tid sp va n (k + 1) (img + v * 2 ^ (128 * k))
    else
      match s.regionOf tid with
      | none => (s, img, none)
      | some r =>
        match s.vread (coreOf tid) r a 16 with
        | (s1, .error e) => (s1, img, some (k, { e.flt 0 with deferred := true }))
        | (s1, .ok v) => s1.readImage tid sp va n (k + 1) (img + v * 2 ^ (128 * k))

/-- R129: once per warp, after the thread's earlier accesses. A fork task has no table slot; the faults of its reads are its own (R17). -/
def execTblld (x : M128A) (s : State) : Host.Outcome State Fault Refusal :=
  s.run (.tblld x) fun s ts =>
    let busy := fun (t : Nat) => s.m.ops.any fun o => o.tid == t
    (warpsOf ts).foldl (fun (acc : State × List (Nat × Ctl)) (w : Nat × List Nat) =>
      let t := w.2.headD 0
      let va := (s.opnd t x.a + x.i32.signExtend 64).toNat
      if w.2.any busy then (acc.1, acc.2 ++ w.2.map fun t => (t, .hold .drain))
      else if va % 16 != 0 then (acc.1, acc.2 ++ w.2.map fun t => (t, .fault (fltAt .misalign 0 0 va)))
      else
        let (s1, img, bad) := (acc.1.vwatch t s.cur.pc akRead va (if x.sp == .gv then bankBytes else 0)).readImage t x.sp va 257 0 0
        match s1.wgOf t with
        | some g =>
          (s1.modWg g.key fun g => { g with table := { g.table with jobs := g.table.jobs ++
            [{ swap := false, clk := s.clk, tids := w.2, pc := s.cur.pc, img := img, bad := bad, started := false }] } }, acc.2)
        | none => (s1, acc.2 ++ match bad with | some (_, f) => w.2.map (fun t => (t, .fault f)) | none => [])) (s, [])

/-- R130: one swap per warp; the threads park until it takes effect. -/
def execTblsw (x : S64A) (s : State) : Host.Outcome State Fault Refusal :=
  s.run (.tblsw x) fun s ts =>
    (warpsOf ts).foldl (fun (acc : State × List (Nat × Ctl)) (w : Nat × List Nat) =>
      match s.wgOf (w.2.headD 0) with
      | some g =>
        (acc.1.modWg g.key fun g => { g with table := { g.table with jobs := g.table.jobs ++
          [{ swap := true, clk := s.clk, tids := w.2, pc := s.cur.pc, img := 0, bad := none, started := false }] } },
         acc.2 ++ w.2.map fun t => (t, .wait .table))
      | none => acc) (s, [])

/-- No `tbl` result that read a bank is outstanding. -/
def State.bankQuiet (s : State) (key bank : Nat) : Bool := !(s.c.pend.any fun p => p.op == tblMark key bank)

/-- The first swap that may take effect (R130). -/
def TableSlot.swapAt (t : TableSlot) : Option Nat :=
  match t.jobs.findIdx? (·.swap) with
  | some n => match t.jobs[n]? with
    | some j => if t.jobs.any fun k => !k.swap && decide (k.clk ≤ j.clk) then none else some n
    | none => none
  | none => none

/-- The banks of a slot change places if its first swap may take effect, and the threads of the swap go on. -/
def State.tableSwap (s : State) (wg : Nat) : State :=
  (match s.wg? wg with
    | none => s
    | some g =>
      match g.table.swapAt with
      | none => s
      | some n =>
        if !s.bankQuiet wg (1 - g.table.actNo) then s
        else
          let ts := match g.table.jobs[n]? with | some j => j.tids | none => []
          let s1 := s.modWg wg fun g => { g with table := { g.table with active := !g.table.active, jobs := g.table.jobs.eraseIdx n } }
          s1.setThreads (s1.c.threads.map fun t => if ts.contains t.tid && t.wait == .table then { t with wait := .none } else t))

/-- TABLE_SWAP (R130). -/
def execTableSwap (wg : Nat) (s : State) : Host.Outcome State Fault Refusal := .next (s.tableSwap wg)

/-- The swaps that may take effect in this clock, slot by slot in the order of their issue (R130). -/
def State.tableSwaps (s : State) : State :=
  s.c.wgs.foldl (fun s g => g.table.jobs.foldl (fun s _ => s.tableSwap g.key) s) s

/-- The first load whose writes may begin (R131). -/
def TableSlot.loadAt (t : TableSlot) : Option Nat :=
  match t.jobs.findIdx? fun j => !j.swap with
  | some n => match t.jobs[n]? with
    | some j => if t.jobs.any fun k => k.swap && decide (k.clk < j.clk) then none else some n
    | none => none
  | none => none

/-- TBLLD_WRITE_START (R131). -/
def execTblldWriteStart (wg : Nat) (s : State) : Host.Outcome State Fault Refusal :=
  .next (match s.wg? wg with
    | none => s
    | some g =>
      match g.table.loadAt with
      | none => s
      | some n =>
        if s.bankQuiet wg (1 - g.table.actNo) then
          s.modWg wg fun g => { g with table := { g.table with jobs := g.table.jobs.modify n fun j => { j with started := true } } }
        else s)

/-- What the shadow bank holds after a load (R129): the image, or after a fault for each 16-byte entry the earlier or the loaded
content, where an entry that could not be read keeps its earlier content. -/
def State.loadedBank (s : State) (old : Nat) (j : TableJob) : Nat :=
  match j.bad with
  | none => j.img
  | some (k, _) => (List.range 257).foldl (fun a e =>
      let src := if e < k && Config.freeChoice s.free e 6000 % 2 == 0 then j.img else old
      a + slice src (128 * e + 127) (128 * e) * 2 ^ (128 * e)) 0

/-- TBLLD_COMPLETE (R129, R131): the bank is written; a fault of a read is deferred to the threads. -/
def execTblldComplete (wg : Nat) (s : State) : Host.Outcome State Fault Refusal :=
  .next (match s.wg? wg with
    | none => s
    | some g =>
      match g.table.jobs.findIdx? fun j => j.started with
      | none => s
      | some n =>
        match g.table.jobs[n]? with
        | none => s
        | some j =>
          let sh := 1 - g.table.actNo
          let old := if sh == 1 then g.table.bank1 else g.table.bank0
          let s1 := s.modWg wg fun g =>
            { g with table := { (g.table.put sh (s.loadedBank old j)) with jobs := g.table.jobs.eraseIdx n } }
          match j.bad with
          | none => s1
          | some (_, f) => j.tids.foldl (fun s1 t => s1.raise t { f with pc := j.pc, resume := (s1.thread t).pc })
              { s1 with free := s1.free + 1 })

end Sys2Proof.Machine
end

