-- ==== Sys2Proof/Machine/NestOps.lean ====
section
/-! DEFINITION. The loop-nest group (R141 to R146): the instructions start a nest, NEST_COMPLETE walks it. -/

namespace Sys2Proof.Machine
open Sys2Proof

/-- Index of each level at iteration k, level 0 fastest. -/
def nestIndex (ext : Nat → Nat) (k : Nat) : Nat → Nat
  | 0 => k % ext 0
  | 1 => k / ext 0 % ext 1
  | 2 => k / (ext 0 * ext 1) % ext 2
  | 3 => k / (ext 0 * ext 1 * ext 2) % ext 3
  | l => k / (ext 0 * ext 1 * ext 2 * ext 3) % ext l

/-- Levels that `nred` reduces (R141): none for the other two. -/
def Nest.reduced (x : Nest) (l : Nat) : Bool := x.op == 0xE1 && x.a.flg.getLsbD l

/-- Iterations of the reduced levels, and of the kept ones. -/
def Nest.inner (x : Nest) : Nat := (List.range 5).foldl (fun n l => if x.reduced l then n * x.a.extent l else n) 1
def Nest.outer (x : Nest) : Nat := (List.range 5).foldl (fun n l => if x.reduced l then n else n * x.a.extent l) 1

/-- Index of level l at the k-th iteration in walk order (R144): kept levels outermost, each part in nest order. -/
def Nest.index (x : Nest) (k l : Nat) : Nat :=
  let e := fun (red : Bool) (l : Nat) => if x.reduced l == red then x.a.extent l else 1
  nestIndex (e (x.reduced l)) (if x.reduced l then k % x.inner else k / x.inner) l

/-- Bytes of an element (R142). -/
def nestSize (typ : Nat) : Nat := fmtBits typ / 8

/-- Scratch offset of operand o at iteration k (R142). -/
def Nest.offset (x : Nest) (k o : Nat) : Int :=
  (x.base.getD o 0).toNat + nestSize x.a.typ.toNat * (List.range 5).foldl (fun n l => n + x.a.stride o l * x.index k l) 0

/-- One element access: MISALIGN, then PERM (R145, R182), with the offset; no window for a fork task. -/
def State.nestAt (s : State) (x : Nest) (k o : Nat) : Except FaultInfo (Nat × Nat) :=
  let off := x.offset k o
  let sz := nestSize x.a.typ.toNat
  let at_ := (BitVec.ofInt 64 off).toNat
  let tid := x.tids.headD 0
  if (s.wgOf tid).isNone then .error (fltAt .perm (if o == 0 then 1 else 0) 0 at_)
  else if off % sz != 0 then .error (fltAt .misalign (if o == 0 then 1 else 0) 0 at_)
  else match (if off < 0 then none else s.window tid .own off.toNat sz) with
    | none => .error (fltAt .perm (if o == 0 then 1 else 0) 0 at_)
    | some w => .ok w

/-- An element of a nest while it is worked on: a binary32 code, or an integer (R143). -/
def nestFloat (typ : Nat) : Bool := decide (5 ≤ typ) && decide (typ ≤ 7)
def nestDec (typ c : Nat) : Int :=
  if nestFloat typ then fp32.enc .rne false 0 ((fmtCode typ).decode c)
  else match (fmtCode typ).decode c with | .fin s n _ => if s then -(n : Int) else n | _ => 0
def nestEnc (typ : Nat) (satf : Bool) (v : Int) : Nat :=
  if nestFloat typ then (fmtCode typ).enc .rne satf 0 (fp32.decode v.toNat) else (fmtCode typ).enc .rne false 0 (X.ofInt v)

/-- The operation of OPN on elements (R141, R143); `img` is the bank of `tbl`. -/
def nestOp (typ opn img : Nat) (satf : Bool) (a b : Int) : Int :=
  if nestFloat typ then
    let x := a.toNat
    let y := b.toNat
    match opn with
    | 1 => fltAdd fp32 .rne satf false 0 x y
    | 2 => fltSub fp32 .rne satf false 0 x y
    | 3 => fltMul fp32 .rne satf false 0 x y
    | 4 => fltMinMax fp32 false false x y
    | 5 => fltMinMax fp32 true false x y
    | 6 => fp32.enc .rne false 0 (fp32.decode x).abs
    | 7 => fp32.enc .rne false 0 (fp32.decode x).neg
    | 8 => tblEl img .f32x2 false x satf
    | _ => x
  else
    match opn with
    | 1 => a + b
    | 2 => a - b
    | 3 => a * b
    | 4 => min a b
    | 5 => max a b
    | 6 => |a|
    | 7 => -a
    | _ => a

/-- The start value of an accumulator: the identities of R137. -/
def nestId (typ opn : Nat) : Int :=
  match fmtCode typ with
  | .flt _ => if opn == 1 then 0x80000000 else if opn == 4 then fp32.infCode false else fp32.infCode true
  | .int _ lo hi => if opn == 1 then 0 else if opn == 4 then hi else lo

/-- Clamp an integer accumulator to 64 bits (R144). -/
def clamp64 (v : Int) : Int := max (-(2 ^ 63)) (min (2 ^ 63 - 1) v)

/-- Read, write one element at an offset that has passed its check. -/
def State.nestLoad (s : State) (x : Nest) (w : Nat × Nat) : State × Int :=
  let (s1, c) := s.scrRead w.1 ⟨x.tids.headD 0, x.pc, 0⟩ akRead w.2 (nestSize x.a.typ.toNat)
  (s1, nestDec x.a.typ.toNat c)
def State.nestStore (s : State) (x : Nest) (w : Nat × Nat) (c : Nat) : State :=
  s.scrWrite w.1 ⟨x.tids.headD 0, x.pc, 0⟩ akWrite w.2 (nestSize x.a.typ.toNat) c

/-- One iteration of `nmap` or `nfill` (R143, R144). -/
def State.nmapStep (s : State) (x : Nest) (k : Nat) : Except (State × FaultInfo) State :=
  let typ := x.a.typ.toNat
  let opn := x.a.opn.toNat
  let put := fun (s : State) (c : Nat) => match s.nestAt x k 0 with
    | .error f => Except.error (s, f)
    | .ok w => .ok (s.nestStore x w c)
  if x.op == 0xE2 then
    let v := x.base.getD 1 0
    put s (if nestFloat typ then nestEnc typ false (v.toNat % 2 ^ 32 : Nat) else nestEnc typ false v.toInt)
  else match s.nestAt x k 1 with
    | .error f => .error (s, f)
    | .ok w1 =>
      let (s1, a) := s.nestLoad x w1
      let satf := x.a.flg.getLsbD 0
      if nestSrcs opn == 2 then
        match s1.nestAt x k 2 with
        | .error f => .error (s1, f)
        | .ok w2 =>
          let (s2, b) := s1.nestLoad x w2
          put s2 (nestEnc typ satf (nestOp typ opn x.img satf a b))
      else put s1 (nestEnc typ satf (nestOp typ opn x.img satf a 0))

/-- One iteration of `nred` (R144): the accumulator is taken at the first reduced index and stored at the last. -/
def State.nredStep (s : State) (x : Nest) (k : Nat) (acc : Int) : Except (State × FaultInfo) (State × Int) :=
  let typ := x.a.typ.toNat
  let opn := x.a.opn.toNat
  let first : Except (State × FaultInfo) (State × Int) :=
    if k % x.inner != 0 then .ok (s, acc)
    else if x.a.flg.getLsbD 5 then
      match s.nestAt x k 0 with
      | .error f => .error (s, f)
      | .ok w => .ok (s.nestLoad x w)
    else .ok (s, nestId typ opn)
  match first with
  | .error e => .error e
  | .ok (s1, acc) =>
    match s1.nestAt x k 1 with
    | .error f => .error (s1, f)
    | .ok w =>
      let (s2, a) := s1.nestLoad x w
      let r := nestOp typ opn x.img false acc a
      let r := if nestFloat typ then r else clamp64 r
      if k % x.inner == x.inner - 1 then
        match s2.nestAt x k 0 with
        | .error f => .error (s2, f)
        | .ok w0 => .ok (s2.nestStore x w0 (nestEnc typ false r), r)
      else .ok (s2, r)

/-- `n` iterations of the walk from the k-th on; the accumulator comes back. -/
def State.walkNest (s : State) (x : Nest) : Nat → Nat → Int → Except (State × FaultInfo) (State × Int)
  | 0, _, acc => .ok (s, acc)
  | n + 1, k, acc =>
    if x.op == 0xE1 then
      match s.nredStep x k acc with
      | .error e => .error e
      | .ok (s1, acc) => s1.walkNest x n (k + 1) acc
    else match s.nmapStep x k with
      | .error e => .error e
      | .ok s1 => s1.walkNest x n (k + 1) acc

/-- The accumulator as PART holds it (R146), and back. -/
def partOfAcc (typ : Nat) (v : Int) : Nat := if nestFloat typ then v.toNat else (BitVec.ofInt 64 v).toNat
def accOfPart (typ : Nat) (p : Nat) : Int := if nestFloat typ then ((p % 2 ^ 32 : Nat) : Int) else (BitVec.ofNat 64 p).toInt

/-- Start a nest for each warp (R142), behind the scratch accesses of its threads (R207); the threads wait until it completes. -/
def nestBody (op : Nat) (x : NestA) : Body := fun s ts =>
  if (s.c.scrQ.any fun e => ts.contains e.tid) || s.c.rows.any fun j => j.lanes.any fun l => ts.contains l.tid then (s, ts.map fun t => (t, .hold .drain))
  else
  ((warpsOf ts).foldl (fun s1 (w : Nat × List Nat) =>
    let t := w.2.headD 0
    let img := match s.wgOf t with | some g => g.table.act | none => 0
    { s1 with c := { s1.c with nests := s1.c.nests ++
      [{ wid := w.1, tids := w.2, op := op, a := x, img := img, iter := 0, part := 0, pc := s.cur.pc,
         back := w.2.map fun t => (t, (s.thread t).loop.act, (s.thread t).loop.pass),
         base := [s.readW t x.bas0.toNat, s.readW t x.bas1.toNat, s.readW t x.bas2.toNat] }] } }) s,
   ts.map fun t => (t, .wait .nest))

def execNmap (x : NestA) (s : State) : Host.Outcome State Fault Refusal := s.run (.nmap x) (nestBody 0xE0 x)
def execNred (x : NestA) (s : State) : Host.Outcome State Fault Refusal := s.run (.nred x) (nestBody 0xE1 x)
def execNfill (x : NestA) (s : State) : Host.Outcome State Fault Refusal := s.run (.nfill x) (nestBody 0xE2 x)

/-- The nest of a warp runs now: of the nests of its unit the first, in ascending warp slot (R142), unless the unit is frozen (R433). -/
def State.nestTurn (s : State) (wid : Nat) : Option Nest :=
  if s.frozen (wid / 16) then none else (s.c.nests.find? fun n => n.wid / 16 == wid / 16).filter fun n => n.wid == wid

/-- A nest leaves the lane engine. -/
def State.dropNest (s : State) (wid : Nat) : State := { s with c := { s.c with nests := s.c.nests.filter fun n => n.wid != wid } }

/-- A nest has met a fault (R145): it is precise at the nest instruction for every thread that waits for it. -/
def State.failNest (s : State) (x : Nest) (f : FaultInfo) : State :=
  x.tids.foldl (fun s t =>
    let back := fun (l : LoopSt) => match x.back.find? fun q => q.1 == t with | some q => { l with act := q.2.1, pass := q.2.2 } | none => l
    (s.modThread t fun t => { t with wait := .none, pc := x.pc, loop := back t.loop }).raise t { f with pc := x.pc, resume := x.pc }) (s.dropNest x.wid)

/-- A nest makes up to `n` iterations (R142 to R145): after the last one it is over. -/
def State.runNest (s : State) (x : Nest) (n : Nat) : State :=
  let left := x.inner * x.outer - x.iter
  match s.walkNest x (min n left) x.iter (accOfPart x.a.typ.toNat x.part) with
  | .error (s1, f) => s1.failNest x f
  | .ok (s1, acc) =>
    if left ≤ n then s1.dropNest x.wid
    else
      let y := { x with iter := x.iter + n, part := if x.op == 0xE1 then partOfAcc x.a.typ.toNat acc else 0 }
      { s1 with c := { s1.c with nests := s1.c.nests.map fun z => if z.wid == x.wid then y else z } }

/-- A part of a nest: it stops at an iteration boundary, and other threads' accesses may fall between (R145, R200). -/
def State.nestPiece (s : State) (wid n : Nat) : State :=
  match s.nestTurn wid with
  | some x => s.runNest x n
  | none => s

/-- NEST_COMPLETE (R142 to R145): the warp's nest runs to its end, or to the faulting element. -/
def execNestComplete (wid : Nat) (s : State) : Host.Outcome State Fault Refusal :=
  .next (match s.nestTurn wid with
    | some x => s.runNest x (x.inner * x.outer - x.iter)
    | none => s)

end Sys2Proof.Machine
end

