-- ==== Sys2Proof/Machine/Save.lean ====
section
/-! DEFINITION. The workgroup save block and its parts (R70, R90, R107, R146, R268, R285, R305, R329, R361, R384, R400): what a
pre-emption writes, and what a resume reads back and checks (R91, R286, R306, R362, R401). -/

namespace Sys2Proof.Machine
open Sys2Proof

/-! ### Images -/

/-- A piece of memory to write: offset, bytes, value. -/
abbrev Img := List (Nat × Nat × Nat)

/-- An image at an offset. -/
def imgAt (off : Nat) (l : Img) : Img := l.map fun q => (off + q.1, q.2)
/-- Values of n bytes each, one after the other. -/
def imgRow (off n : Nat) (l : List Nat) : Img := (l.zip (List.range l.length)).map fun q => (off + n * q.2, n, q.1)

/-- Write an image at a physical address. -/
def State.putImg (s : State) (a : Nat) (l : Img) : State := l.foldl (fun s q => s.devWrite (a + q.1) q.2.1 q.2.2) s

/-- An image as one number of its bytes. -/
def imgNat (l : Img) : Nat := l.foldl (fun x q => x + q.2.2 % 256 ^ q.2.1 * 256 ^ q.1) 0

/-- A sum of bits: 2^n for each n that a test accepts. -/
def bitSum (n : Nat) (f : Nat → Bool) : Nat := (List.range n).foldl (fun a k => a + bit (f k) * 2 ^ k) 0

/-! ### Records of a thread -/

/-- Registers that the resident windows hold. -/
def Thread.resident (t : Thread) : Nat := (t.win.res.map (·.size)).sum

/-- A physical register is written to the save block (R84, R107): not a free ring register, nor one of the current window at or above the
live count. -/
def Thread.saves (t : Thread) (live : Option Nat) (ph : Nat) : Bool :=
  let below := fun (n : Nat) => match live with | some l => decide (n < l) | none => true
  if ph < 16 then below ph
  else
    let d := (t.win.b + t.win.f + t.ring - 1 - (ph - 16)) % max 1 t.ring
    if d < t.win.f then below (16 + (t.win.f - 1 - d)) else decide (d < t.resident)

/-- The live count of a thread held at a yield. -/
def Thread.live (t : Thread) : Option Nat := match t.wait with | .yieldHold l => some l | _ => none

/-- The rejoin register (R76). -/
def Thread.rejoinReg (t : Thread) : Nat := t.msk.toNat + t.arr.toNat * 2 ^ 16 + t.lft.toNat * 2 ^ 32

/-- WST of a flow record (R90); `owes`: the thread has a result outstanding. -/
def Thread.wst (t : Thread) (owes : Bool) : Nat :=
  if t.gone then 5
  else match t.wait with
    | .yieldHold _ => 1
    | .rjoin _ => 2
    | .bar _ | .barAgain _ => 3
    | .none => if (t.park && owes) || t.hostPark then 4 else 0
    | _ => 4

/-- The flow record (R90). An instruction that waits and will be executed again is counted then (R82). -/
def Thread.flowRec (t : Thread) (owes : Bool) : Nat :=
  let wk := match t.wait with | .rjoin n => n | _ => 0
  t.pc % 2 ^ 57 + bit t.hm * 2 ^ 79 + wk % 16 * 2 ^ 80 + t.wst owes * 2 ^ 84 + t.live.getD 256 % 512 * 2 ^ 87 + t.ybud % 65536 * 2 ^ 96 +
  (t.ycnt - bit t.replay) % 65536 * 2 ^ 112

/-- The loop record (R70). -/
def LoopSt.record (l : LoopSt) : Nat := l.ladr % 2 ^ 57 + bit l.act * 2 ^ 63 + l.pass % 2 ^ 32 * 2 ^ 64 + l.trip % 2 ^ 32 * 2 ^ 96

/-- The window record (R107). -/
def Windows.record (w : Windows) : Nat :=
  w.f / 8 * 2 ^ 59 + w.b % 256 * 2 ^ 64 + w.res.length * 2 ^ 72 + w.dep % 65536 * 2 ^ 80 + w.spo % 2 ^ 32 * 2 ^ 96

/-- The resident tags, oldest first, in n slots. -/
def Windows.tags (w : Windows) (n : Nat) : List Nat := (List.range n).map fun i => match w.res[i]? with | some x => x.tag | .none => 0

/-- The copy record (R268). The fault of an open batch counts under its number, the next one. -/
def Batches.record (b : Batches) : Nat :=
  let used := fun n => b.bs.any fun x => x.num == n
  let fault := fun n => match b.bs.find? fun x => x.num == n with
    | some x => x.f
    | .none => if n == b.next then b.opn else Option.none
  let fs := (b.bs.filterMap (·.f)) ++ b.opn.toList
  bitSum 8 (fun n => used n && decide (b.next ≤ n)) * 2 ^ 8 + bitSum 8 used * 2 ^ 16 + bitSum 8 (fun n => (fault n).isSome) * 2 ^ 24 +
  b.next % 8 * 2 ^ 32 + bit (fs.any (·.lost)) * 2 ^ 35 +
  (List.range 8).foldl (fun a n => a + (match fault n with | some f => f.code.num | .none => 0) * 2 ^ (128 + 8 * n)) 0 +
  (match fs.find? fun f => !f.lost with | some f => f.addr % 2 ^ 64 | .none => 0) * 2 ^ 192

/-- The copy record read back: batches in seal order; the recorded address belongs to the first fault. -/
def Batches.ofRecord (x : Nat) : Batches :=
  let next := slice x 34 32
  let used := fun n => x.testBit (16 + n)
  let order := (List.range 8).filter (fun n => used n && x.testBit (8 + n)) ++ (List.range 8).filter (fun n => used n && !x.testBit (8 + n))
  let faulty := order.filter fun n => x.testBit (24 + n)
  let openF := x.testBit (24 + next) && !used next
  let fadr := slice x 255 192
  let fault := fun (n : Nat) (first : Bool) =>
    ({ fltAt (codeOfNum (slice x (135 + 8 * n) (128 + 8 * n))) 6 0 (if first then fadr else 0) with
       lost := !first || (x.testBit 35 && fadr == 0) } : FaultInfo)
  { bs := order.map fun n => { num := n, f := if x.testBit (24 + n) then some (fault n (faulty.head? == some n)) else Option.none },
    opn := if openF then some (fault next faulty.isEmpty) else Option.none, next := next }

/-- The next iteration as one index for each level (R146). -/
def Nest.cursor (x : Nest) : Nat := (List.range 5).foldl (fun a l => a + x.index x.iter l * 2 ^ (10 * l)) 0
/-- The place in the walk of the iteration with given indexes. -/
def Nest.place (x : Nest) (cur : Nat) : Nat :=
  let idx := fun (l : Nat) => slice cur (10 * l + 9) (10 * l)
  let run := fun (red : Bool) => ((List.range 5).foldl (fun (q : Nat × Nat) l =>
    if x.reduced l == red then (q.1 + idx l * q.2, q.2 * x.a.extent l) else q) (0, 1)).1
  run false * x.inner + run true
/-- The nest record (R146). -/
def Nest.record (x : Nest) : Nat := x.cursor + 2 ^ 134 + x.pc % 2 ^ 57 * 2 ^ 135 + x.part % 2 ^ 64 * 2 ^ 192

/-! ### Parts of the block -/

/-- The four special registers of a thread. -/
def Thread.specials (t : Thread) : List Nat := [t.tpc.toNat, t.tcause.toNat, t.rseed.toNat, t.olthr.toNat]

/-- The warp register block (R107); a dump holds every register (R445). -/
def State.warpBlock (s : State) (r : Region) (taken : Bool) (wid : Nat) : Img :=
  let ts := (List.range 32).map fun j => (j, s.thread (32 * wid + j))
  let x := 256 * r.lane
  let ws := match s.warp? wid with | some w => w.w | none => []
  let y := x + 64 + 8 * r.wa
  (ts.flatMap fun (q : Nat × Thread) => ((List.range r.va).filter fun i => !taken || q.2.saves q.2.live i).map fun i => (256 * i + 8 * q.1, 8, (q.2.v.getD i 0).toNat)) ++
  (if 1 ≤ r.kc then ts.map fun (q : Nat × Thread) => (256 * r.va + 8 * q.1, 8, q.2.rejoinReg) else []) ++
  imgRow x 4 ((List.range 15).map fun n => bitSum 32 fun j => (s.thread (32 * wid + j)).p.getLsbD n) ++ [(x + 60, 4, 0)] ++
  imgRow (x + 64) 8 (ws.map (·.toNat)) ++
  (ts.flatMap fun (q : Nat × Thread) => imgRow (y + 32 * q.1) 8 q.2.specials ++ [(y + 1024 + 16 * q.1, 16, q.2.win.record)] ++
    imgRow (y + 1536 + 256 * q.1) 8 (q.2.win.tags 32))

/-- The warp section (R305); `taken` when a pre-emption is taken, for which a park has been waited out (R60). -/
def State.warpSectionImg (s : State) (r : Region) (taken : Bool) (wid : Nat) : Img :=
  let base := (r.warpRb + 255) / 256 * 256
  s.warpBlock r taken wid ++
  ((List.range 32).flatMap fun j =>
    let t := s.thread (32 * wid + j)
    [(base + 16 * j, 16, t.flowRec (taken || s.owes t.tid)), (base + 512 + 16 * j, 16, t.loop.record), (base + 1024 + 32 * j, 32, t.batches.record)]) ++
  [(base + 2048, 256, match s.c.nests.find? fun n => n.wid == wid with | some n => n.record | none => 0)]

/-- The queue record (R285). -/
def DQueue.record (q : DQueue) : Nat := q.ents.length % 128 + bit q.dqx * 2 ^ 8 + bit q.dqp * 2 ^ 9 + q.pushn % 2 ^ 32 * 2 ^ 32

/-- The Domestique block (R108, R285). -/
def State.domestiqueImg (s : State) (taken : Bool) (g : Wg) : Img :=
  let t := s.thread g.ctx
  let ws := match s.warp? (widOf g.ctx) with | some w => w.w.map fun (x : Word) => x.toNat | none => List.replicate 64 0
  let cursor := fun (i : Nat) =>
    let tid := 2560 * g.core + i
    match s.thread? tid with
    | some u => if u.gone || !g.warps.contains (widOf tid) then 255 else u.cur
    | none => 255
  imgRow 0 8 (ws.take 64) ++ imgRow 512 16 (g.mx.t.map (·.toNat)) ++ imgRow 768 8 (g.mx.z.map (·.toNat)) ++ imgRow 896 8 (g.segs.map (·.toNat)) ++
  [(1024, 8, t.p.toNat % 2 ^ 15)] ++ imgRow 1032 8 t.specials ++
  [(1064, 16, t.flowRec (taken || s.owes g.ctx)), (1080, 16, t.loop.record), (1096, 16, t.win.record)] ++ imgRow 1112 8 (t.win.tags 8) ++
  [(1176, 16, g.dq.record), (1192, 88, 0)] ++ imgRow 1280 8 ((List.range 64).map fun i => (g.dq.ents.getD i 0).toNat) ++
  imgRow 1792 1 ((List.range 2048).map cursor)

/-- The expand block of a partition (R400). -/
def Wg.expandImg (g : Wg) (q : Nat) : Img :=
  match g.xp.find? fun x => x.part == q with
  | none => [(0, 8192, 0)]
  | some x =>
    let st := if x.dealing then 2 else 1
    let pfx := fun (i : Nat) => if x.dealing then x.pfx i else 0
    let mask := fun (p : Nat) (f : XLane → Bool) => bitSum 32 fun j => decide (32 * p + j < x.width) && f (x.lane (32 * p + j))
    let on := fun (f : XLane → Nat) => (List.range 256).map fun i => if i < x.width then f (x.lane i) else 0
    [(0, 16, st + x.nc % 4 * 2 ^ 2 + x.base % 256 * 2 ^ 8 + x.ty % 16 * 2 ^ 16 + x.fold % 2 ^ 32 * 2 ^ 64 + (if x.dealing then x.total % 2 ^ 32 else 0) * 2 ^ 96),
     (16, 112, 0)] ++
    ((List.range 8).flatMap fun p => imgRow (128 + 16 * p) 4 [mask p (·.arr), mask p (·.taken), mask p (·.sub), mask p (·.done)]) ++
    ((List.range 256).map fun i => (256 + 16 * i, 16,
      if i < x.width then (x.lane i).start.toNat + (x.lane i).len.toNat * 2 ^ 64 + pfx i % 2 ^ 32 * 2 ^ 96 else 0)) ++
    imgRow 4352 4 (on (·.c.toNat)) ++ imgRow 5376 4 (on (·.sum.toNat)) ++ [(6400, 1792, 0)]

/-- A task queue entry (R361). -/
def Task.entry (t : Task) : Nat :=
  let f := if t.node.isNone then t.fault else none
  2 ^ 31 + bit t.node.isSome * 2 ^ 30 + bit f.isSome * 2 ^ 29 + (match f with | some f => f.code.num | none => 0) * 2 ^ 24 + t.node.getD t.off % 2 ^ 19

/-- A macro's 32 bytes (R361). -/
def Macro.img (off : Nat) (m : Macro) (act : Bool) : Img := [(off, 16, m.desc), (off + 16, 8, m.seg), (off + 24, 8, bit m.valid + 2 * bit act)]

/-- The matrix block (R361, R384). -/
def Matrix.img (m : Matrix) (zacc : Nat) : Img :=
  Macro.img 0 m.mac0 (!m.active) ++ Macro.img 32 m.mac1 m.active ++ imgRow 64 4 ((List.range 16).map fun i => match m.tasks[i]? with | some t => t.entry | none => 0) ++
  [(128, 16, m.sgc), (144, 8, m.sgs.toNat), (152, 104, 0)] ++ imgRow 256 8 ((List.range (4096 * zacc)).map fun e => accGet m.acc e % 2 ^ 36)

/-- Barrier at which the waiting threads of a warp wait, 0xFF when none (R329). -/
def State.warpBarrier (s : State) (wid : Nat) : Nat :=
  ((s.c.threads.filter fun t => widOf t.tid == wid && !t.gone).findSome? fun t => match t.wait with | .bar n | .barAgain n => some n | _ => none).getD 255

/-- The header (R305, R329). -/
def State.headerImg (s : State) (g : Wg) : Img :=
  let bar := fun (n : Nat) => match s.episode g.key n with
    | some e => (if n == 16 then 0 else e.k % 256) + bit e.cmis * 2 ^ 14 + 2 ^ 15
    | none => 0
  let ranks := match s.clusOfWg g.key with
    | some c => match c.ep with
      | some e => bitSum 16 fun r => match c.members[r]? with | some k => s.wgArrived e k | none => false
      | none => 0
    | none => 0
  [(0, 4, g.idx), (4, 1, g.relaunch), (5, 1, bit g.table.active), (6, 1, bit g.dq.dqp), (7, 1, 0), (8, 64, 0)] ++
  imgRow 8 1 (g.warps.map fun w => w / 16 % 5 * 16 + w % 16) ++
  imgRow 72 1 ((List.range 64).map fun i => match g.warps[i]? with | some w => s.warpBarrier w | none => 255) ++
  imgRow 136 2 ((List.range 17).map bar) ++ [(170, 2, ranks), (172, 84, 0)]

/-- Offsets of the parts (R305). -/
def blkTables : Nat := 4096
def blkExpand : Nat := 12544
def blkMatrix : Nat := 45312
def Region.blkScratch (r : Region) : Nat := blkMatrix + 256 + 32768 * r.zacc
def Region.blkWarp (r : Region) (i : Nat) : Nat := r.blkScratch + winBytes r.scr + r.warpSection * i

/-- The save block of a workgroup (R305). -/
def State.saveImg (s : State) (r : Region) (g : Wg) : Img :=
  s.headerImg g ++ imgAt 256 (s.domestiqueImg true g) ++ [(blkTables, 4112, g.table.bank0), (blkTables + 4112, 4112, g.table.bank1)] ++
  ((List.range 4).flatMap fun q => imgAt (blkExpand + 8192 * q) (g.expandImg q)) ++ imgAt blkMatrix (g.mx.img r.zacc) ++
  [(r.blkScratch, g.win, memNat g.scr 0 g.win)] ++
  ((g.warps.zip (List.range g.warps.length)).flatMap fun q => imgAt (r.blkWarp q.2) (s.warpSectionImg r true q.1))

/-- What the block leaves out of a workgroup (R84, R107): the registers that are not saved and not zero. -/
def State.keptOf (s : State) (rank : Nat) (g : Wg) : List (Nat × Nat × Nat × Word) :=
  (s.c.threads.filter fun t => g.warps.contains (widOf t.tid)).flatMap fun t =>
    (List.range t.v.length).filterMap fun ph =>
      let x := t.v.getD ph 0
      if t.saves t.live ph || x == 0 then none else some (rank, t.tid % 2560, ph, x)

/-- A thread of a cluster by rank and place in its core, and back: 2,560 × rank + place. A thread of a member that has ended keeps its number, past those. -/
def State.toPlace (s : State) (c : Clus) (tid : Nat) : Nat :=
  match c.members.findIdx? fun k => match s.wg? k with | some g => g.core == coreOf tid | none => false with
  | some i => 2560 * i + tid % 2560
  | none => 2560 * 16 + tid
def State.ofPlace (s : State) (c : Clus) (p : Nat) : Nat :=
  if 2560 * 16 ≤ p then p - 2560 * 16
  else match (c.members[p / 2560]?).bind s.wg? with
    | some g => 2560 * g.core + p % 2560
    | none => p % 2560

/-- An episode, a nest with its threads renamed. -/
def Episode.rename (f : Nat → Nat) (e : Episode) : Episode := { e with op := (f e.op.1, e.op.2), arrs := e.arrs.map fun a => (f a.1, a.2) }
def Nest.rename (f : Nat → Nat) (x : Nest) : Nest := { x with tids := x.tids.map f, back := x.back.map fun q => (f q.1, q.2) }

/-- The open episodes of a cluster and of its members, and their nests, for a save (R326, R146): what the blocks leave out of them. -/
def State.epsOf (s : State) (c : Clus) : List (Nat × Episode) :=
  ((List.range c.members.length).flatMap fun i => match (c.members[i]?).bind s.wg? with
    | some g => g.eps.map fun e => (i, e.rename (s.toPlace c))
    | none => []) ++ c.ep.toList.map fun e => (0, e.rename (s.toPlace c))
def State.nestsOf (s : State) (c : Clus) : List (Nat × Nest) :=
  (List.range c.members.length).flatMap fun i => match (c.members[i]?).bind s.wg? with
    | some g => (s.c.nests.filter fun n => g.warps.contains n.wid).map fun n => (i, { n with wid := n.wid % 80 }.rename (s.toPlace c))
    | none => []

/-! ### Resume -/

/-- The block of a member that resumes, with what the blocks leave out. -/
structure Resume where
  key : Nat
  rank : Nat
  base : Nat
  kept : List (Nat × Nat × Nat × Word)
  ctx : Batches
  eps : List Episode
  nests : List Nest
  deriving DecidableEq, Repr

/-- The episode of a barrier that a header says is open (R329): it keeps its K and CMIS, its timer starts again, and what the header leaves out is as it was. -/
def openAgain (kept : List Episode) (n k : Nat) (cmis : Bool) (clk : Nat) (ts : List Thread) : Option Episode :=
  let old := kept.find? fun e => e.n == n
  let arrs := ts.map fun t => match old.bind fun e => e.arrs.find? fun a => a.1 == t.tid with
    | some a => a
    | none => (t.tid, clk, t.pc, (none : Option Nat))
  match arrs, old with
  | [], _ => none
  | _, some e => some { e with k := k, cmis := cmis, timer := 0, arrs := arrs }
  | a :: _, none => some { n := n, k := k, cmis := cmis, oclk := clk, timer := 0, timedOut := false, op := (a.1, a.2.2.1), cop := none, arrs := arrs }

/-- n bytes of the block. -/
def Resume.rd (q : Resume) (s : State) (off n : Nat) : Nat := s.rdNat (q.base + off) n

/-- The windows that a record and its tags give. -/
def windowsOf (x : Nat) (tags : List Nat) : Windows :=
  { b := slice x 71 64, f := 8 * slice x 63 59, dep := slice x 95 80, spo := slice x 127 96,
    res := (tags.take (slice x 79 72)).map fun u => { size := 8 * slice u 63 59, radr := slice u 56 0 } }

/-- A window record is valid (R107): `most` tags may be resident. -/
def Thread.windowOk (t : Thread) (x : Nat) (most : Nat) : Bool :=
  let res := slice x 79 72
  decide (1 ≤ res) && decide (res ≤ most) && decide (slice x 71 64 < max t.ring 1) && decide (t.resident ≤ t.ring) && decide (t.win.spo ≤ t.spl)

/-- A thread with its flow record, its window record and its special registers read back; `bar` is its warp's barrier byte. -/
def Thread.restore (t : Thread) (flow : Nat) (sp : List Nat) (win : Nat) (tags : List Nat) (copy : Batches) (bar clk : Nat) : Thread :=
  let w := fun (i : Nat) => BitVec.ofNat 64 (sp.getD i 0)
  let st := slice flow 86 84
  { t with
    pc := slice flow 56 0, hm := flow.testBit 79, ybud := slice flow 111 96, ycnt := slice flow 127 112, gone := st == 5
    wait := if st == 2 then .rjoin (slice flow 83 80) else if st == 3 then .bar bar else .none
    tpc := w 0, tcause := w 1, rseed := w 2, olthr := w 3, win := windowsOf win tags, batches := copy, age := some clk }

/-- The flow record is valid (R90). -/
def flowOk (flow kc : Nat) : Bool :=
  let st := slice flow 86 84
  decide (st < 6) && !(st == 2 && decide (kc ≤ slice flow 83 80)) && decide (slice flow 127 112 ≤ slice flow 111 96)

/-- The loop that a record names, its body fetched again (R70): an invalid record is ILLEGAL, and so is a byte at LADR that is no loop, or cannot be
fetched; a body that cannot be fetched, or that breaks R65, gives its own fault (log entry 106). -/
def State.loopAgain (s : State) (tid x : Nat) : State × Except FaultInfo LoopSt :=
  let ladr := slice x 56 0
  let trip := slice x 127 96
  let pass := slice x 95 64
  if !x.testBit 63 then (s, .ok { LoopSt.none with ladr := ladr, trip := trip, pass := pass })
  else if trip ≤ pass then (s, .error (flt .illegal))
  else match s.fetchBlock tid ladr with
    | (s1, .error _) => (s1, .error (flt .illegal))
    | (s1, .ok data) => match wordIn ladr data with
      | none => (s1, .error (flt .illegal))
      | some w => match decode w with
        | .ok (.loop a) => match s1.loopBody tid (ladr + 32) a (a.nb.toNat + 1) 0 (ladr + 32) with
          | (s2, .ok (offs, blocks)) => (s2, .ok { act := true, ladr := ladr, trip := trip, pass := pass, word := a, offs := offs, blocks := blocks })
          | (s2, .error f) => (s2, .error f)
        | _ => (s1, .error (flt .illegal))

/-- Restore a thread's loop, or note the fault that it raises. -/
def State.restoreLoop (s : State) (tid x : Nat) : State × List (Nat × FaultInfo) :=
  match s.loopAgain tid x with
  | (s1, .ok l) => (s1.modThread tid fun t => { t with loop := l }, [])
  | (s1, .error f) => (s1, [(tid, f)])

/-- Faults that a resume finds, by thread. -/
abbrev Found := List (Nat × FaultInfo)
def illegalAt (ts : List Nat) : Found := ts.map fun t => (t, flt .illegal)

/-- Restore the 32 threads and the registers of warp i of a workgroup. -/
def Resume.warp (q : Resume) (s : State) (r : Region) (i wid : Nat) : State × Found :=
  let so := r.blkWarp i
  let x := so + 256 * r.lane
  let y := x + 64 + 8 * r.wa
  let rec_ := so + (r.warpRb + 255) / 256 * 256
  let bar := q.rd s (72 + i) 1
  let s0 := { s with free := s.free + 1 }
  let one := fun (t : Thread) =>
    let j := laneOf t.tid
    let flow := q.rd s (rec_ + 16 * j) 16
    let win := q.rd s (y + 1024 + 16 * j) 16
    let t1 := t.restore flow ((List.range 4).map fun n => q.rd s (y + 32 * j + 8 * n) 8) win ((List.range 31).map fun n => q.rd s (y + 1536 + 256 * j + 8 * n) 8)
      (Batches.ofRecord (q.rd s (rec_ + 1024 + 32 * j) 32)) bar s.clk
    let live := if slice flow 86 84 == 1 then some (slice flow 95 87) else none
    let rj := q.rd s (so + 256 * r.va + 8 * j) 8
    let back := fun (ph : Nat) =>
      if t1.saves live ph then BitVec.ofNat 64 (q.rd s (so + 256 * ph + 8 * j) 8)
      else match q.kept.find? fun k => k.1 == q.rank && k.2.1 == t.tid % 2560 && k.2.2.1 == ph with
        | some k => if Config.freeChoice s.free (t.tid * 512 + ph) 6200 % 2 == 0 then k.2.2.2 else 0
        | none => 0
    { t1 with
      v := (List.range r.va).map back
      msk := BitVec.ofNat 16 (if 1 ≤ r.kc then slice rj 15 0 else 0), arr := BitVec.ofNat 16 (if 1 ≤ r.kc then slice rj 31 16 else 0)
      lft := BitVec.ofNat 16 (if 1 ≤ r.kc then slice rj 47 32 else 0)
      p := BitVec.ofNat 16 (bitSum 15 fun n => (q.rd s (x + 4 * n) 4).testBit j) }
  let s1 := s0.setThreads (s0.c.threads.map fun t => if widOf t.tid == wid then one t else t)
  let s2 := s1.modWarp wid fun w => { w with w := (List.range r.wa).map fun n => BitVec.ofNat 64 (q.rd s (x + 64 + 8 * n) 8) }
  (List.range 32).foldl (fun (acc : State × Found) j =>
    let tid := 32 * wid + j
    let t := acc.1.thread tid
    let copy := q.rd s (rec_ + 1024 + 32 * j) 32
    let ok := flowOk (q.rd s (rec_ + 16 * j) 16) r.kc && t.windowOk (q.rd s (y + 1024 + 16 * j) 16) 31 && slice copy 127 36 == 0 && slice copy 7 0 == 0
    let (s3, f) := acc.1.restoreLoop tid (q.rd s (rec_ + 512 + 16 * j) 16)
    (s3, acc.2 ++ (if ok then [] else illegalAt [tid]) ++ f)) (s2, [])

/-- Restore the nest of warp i, read again at NADR (R146), with the base registers, the bank and the threads that it had. -/
def Resume.nest (q : Resume) (s : State) (r : Region) (g : Wg) (i wid : Nat) : State × Found :=
  let x := q.rd s (r.blkWarp i + (r.warpRb + 255) / 256 * 256 + 2048) 32
  let pc := slice x 191 135
  let bad := fun (s : State) => (s, illegalAt ((List.range 32).map (32 * wid + ·)))
  if !x.testBit 134 then (s, [])
  else match s.fetchBlock (32 * wid) pc with
    | (s1, .error _) => bad s1
    | (s1, .ok data) => match wordIn pc data with
      | none => bad s1
      | some w => match decode w with
        | .error _ => bad s1
        | .ok ins => match ins.shape with
          | .nest a =>
            let ts := (s1.c.threads.filter fun t => widOf t.tid == wid && !t.gone && t.pc == pc + 32 && t.wait == .none).map (·.tid)
            let n0 : Nest := (q.nests.find? fun n => n.wid == wid % 80).getD
              { wid := wid, tids := ts, op := ins.opc, a := a, img := g.table.act, iter := 0, part := 0, pc := pc, back := []
                base := [s1.readW (32 * wid) a.bas0.toNat, s1.readW (32 * wid) a.bas1.toNat, s1.readW (32 * wid) a.bas2.toNat] }
            let n := { n0 with wid := wid, op := ins.opc, a := a, part := slice x 255 192, pc := pc }
            if (List.range 5).any fun l => decide (a.extent l ≤ slice x (10 * l + 9) (10 * l)) then bad s1
            else
              let s2 := { s1 with c := { s1.c with nests := s1.c.nests ++ [{ n with iter := n.place (slice x 49 0) }] } }
              (s2.setThreads (s2.c.threads.map fun t => if n.tids.contains t.tid then { t with wait := .nest } else t), [])
          | _ => bad s1

/-- Restore the context and the queue from the Domestique block; the second result says whether the block is valid (R286). -/
def Resume.domestique (q : Resume) (s : State) (g : Wg) : State × Found × Bool :=
  let rd := fun (off n : Nat) => q.rd s (256 + off) n
  let w := fun (off : Nat) => BitVec.ofNat 64 (rd off 8)
  let flow := rd 1064 16
  let win := rd 1096 16
  let rec_ := rd 1176 16
  let cnt := slice rec_ 6 0
  let s1 := s.modWg g.key fun g =>
    { g with
      segs := (List.range 16).map fun n => w (896 + 8 * n)
      mx := { g.mx with t := (List.range 16).map fun n => BitVec.ofNat 128 (rd (512 + 16 * n) 16), z := (List.range 16).map fun n => w (768 + 8 * n) }
      dq := { g.dq with ents := (List.range cnt).map fun i => w (1280 + 8 * i), pushn := slice rec_ 63 32, dqp := rec_.testBit 9, dqx := rec_.testBit 8 } }
  let s2 := s1.modWarp (widOf g.ctx) fun x => { x with w := (List.range 64).map fun n => w (8 * n) }
  let s3 := s2.modThread g.ctx fun t =>
    { t.restore flow ((List.range 4).map fun n => rd (1032 + 8 * n) 8) win ((List.range 8).map fun n => rd (1112 + 8 * n) 8) q.ctx 255 s.clk with
      p := BitVec.ofNat 16 (rd 1024 8 % 2 ^ 15) }
  let s4 := s3.setThreads (s3.c.threads.map fun t => if g.warps.contains (widOf t.tid) then { t with cur := rd (1792 + t.tid % 2560) 1 } else t)
  let live := s4.c.threads.filter fun t => g.warps.contains (widOf t.tid) && !t.gone
  let ok := decide (cnt ≤ 64) && live.all (fun t => decide (t.cur ≤ cnt)) && slice rec_ 7 7 == 0 && slice rec_ 31 10 == 0 && slice rec_ 127 64 == 0 &&
    rd 1024 8 / 2 ^ 15 == 0 && rd 1192 88 == 0 && (List.range 8).all (fun n => slice (rd (1112 + 8 * n) 8) 58 57 == 0) &&
    (List.range 16).all (fun n => slice (rd (512 + 16 * n) 16) 127 66 == 0 && slice (rd (512 + 16 * n) 16) 63 63 == 0 && slice (rd (768 + 8 * n) 8) 63 36 == 0 &&
      slice (rd (896 + 8 * n) 8) 15 9 == 0) && slice flow 78 57 == 0 && slice (rd 1080 16) 62 57 == 0 && slice win 58 0 == 0
  if !rec_.testBit 9 then (s4, [], ok)
  else
    let ctxOk := flowOk flow 0 && (s4.thread g.ctx).windowOk win 8
    let (s5, f) := s4.restoreLoop g.ctx (rd 1080 16)
    (s5, (if ctxOk then [] else illegalAt [g.ctx]) ++ f, ok)

/-- Restore the expansion of partition p, or say that its block is invalid (R401); the faults go to the participants. -/
def Resume.expand (q : Resume) (s : State) (g : Wg) (p : Nat) : State × Found :=
  let rd := fun (off n : Nat) => q.rd s (blkExpand + 8192 * p + off) n
  let h := rd 0 16
  let st := slice h 1 0
  let nc := slice h 3 2
  let mask := fun (i m : Nat) => (rd (128 + 16 * (i / 32) + 4 * m) 4).testBit (i % 32)
  let lane := fun (i : Nat) =>
    ({ start := BitVec.ofNat 64 (rd (256 + 16 * i) 8), len := BitVec.ofNat 32 (rd (264 + 16 * i) 4), arr := mask i 0, taken := mask i 1, sub := mask i 2,
       done := mask i 3, c := BitVec.ofNat 32 (rd (4352 + 4 * i) 4), sum := BitVec.ofNat 32 (rd (5376 + 4 * i) 4) } : XLane)
  let x : Expand := { part := p, dealing := st == 2, nc := nc, base := slice h 15 8, ty := slice h 19 16, fold := slice h 95 64,
                      lanes := (List.range (32 * 2 ^ nc)).map lane }
  let live := s.xLive g x
  let here := fun (i : Nat) => live.any fun (l : Nat × Nat) => l.1 == i
  let ok := st != 3 && slice h 7 4 == 0 && slice h 63 20 == 0 &&
    (if st == 0 then rd 0 8192 == 0
     else [5, 6, 11].contains x.ty && rd 16 112 == 0 && rd 6400 1792 == 0 &&
       (st != 2 || ((List.range x.width).all (fun i => rd (268 + 16 * i) 4 == x.pfx i) && slice h 127 96 == x.total)) &&
       (List.range x.width).all fun i =>
         let l := x.lane i
         !(l.sub && !l.taken) && (here i || !(l.arr || l.taken || l.sub)))
  if !ok then (s, illegalAt (live.map (·.2)))
  else if st == 0 then (s, [])
  else
    let s1 := s.setExpand g.key p (some x)
    -- a thread that waited for the last fold executes its `xend` again
    (live.foldl (fun s l => if (x.lane l.1).done && (s.thread l.2).wait == .none then s.modThread l.2 fun t => { t with replay := true, ycnt := t.ycnt + 1 } else s) s1, [])

/-- The task of a queue entry (R361): its record is read again from the window. -/
def Resume.task (q : Resume) (s : State) (g : Wg) (e : Nat) : State × Task :=
  let node := if e.testBit 30 then some (e % 1024) else none
  let off := match node with | some i => nPay (s.node g.key i) % 2 ^ 19 | none => e % 2 ^ 19
  let ws := (List.range 8).map fun k => BitVec.ofNat 64 (memNat g.scr (off + 8 * k) 8)
  let f := if e.testBit 29 then some { flt (codeOfNum (slice e 28 24)) with kind := 8, lost := !(q.ctx.hasFault) } else none
  (s.newId, { id := s.m.nextId, off := off, node := node, record := ws, todo := if f.isSome then [] else List.range (((taskRec ws).m + 63) / 64), running := 0,
              fault := f, pc := (s.thread g.ctx).pc, seed := (s.thread g.ctx).rseed, sgc := g.mx.sgc })

/-- Restore the matrix block, and load each valid macro again (R362, R384): whether the block is valid, and the fault of a load. -/
def Resume.matrix (q : Resume) (s : State) (r : Region) (g : Wg) : State × Found × Bool :=
  let rd := fun (off n : Nat) => q.rd s (blkMatrix + off) n
  let flags := fun (m : Nat) => rd (32 * m + 24) 8
  let ents := (List.range 16).map fun i => rd (64 + 4 * i) 4
  let sgc := rd 128 16
  let acc := (List.range (4096 * r.zacc)).filterMap fun e => let v := rd (256 + 8 * e) 8; if v == 0 then none else some (e, v)
  let ok := (flags 0).testBit 1 != (flags 1).testBit 1 && decide (flags 0 < 4) && decide (flags 1 < 4) && tileOk (rd 0 16) && tileOk (rd 32 16) &&
    ents.all (fun e => slice e 23 19 == 0) && rd 152 104 == 0 && acc.all (fun e => decide (e.2 < 2 ^ 36)) && sgcOk sgc
  let s1 := s.modMx g.key fun m =>
    { m with acc := acc, active := (flags 1).testBit 1, sgCfg0 := BitVec.ofNat 64 sgc, sgCfg1 := BitVec.ofNat 64 (sgc / 2 ^ 64), sgs := BitVec.ofNat 64 (rd 144 8) }
  let s2 := (ents.filter fun e => e.testBit 31).foldl (fun s e => match s.wg? g.key with
    | some g => let (s1, t) := q.task s g e; s1.modMx g.key fun m => { m with tasks := m.tasks ++ [t] }
    | none => s) s1
  if !ok then (s2, [], false)
  else
    let (s3, f) := [0, 1].foldl (fun (a : State × Found) i =>
      let d := rd (32 * i) 16
      let seg := rd (32 * i + 16) 8
      match a.1.wg? g.key with
      | none => a
      | some g =>
        if !(flags i).testBit 0 then a
        else match mldbCheck g d seg with
          | some f => (a.1, a.2 ++ [(g.ctx, f)])
          | none =>
            let (s4, cols) := a.1.tileRows g.key ⟨g.ctx, (a.1.thread g.ctx).pc, 2⟩ (tileOf d) seg (tileOf d).rows
            let m : Macro := { valid := true, desc := d, seg := seg, cols := cols, more := [] }
            (s4.modMx g.key fun x => if i == 0 then { x with mac0 := m } else { x with mac1 := m }, a.2)) (s2, [])
    (s3, f, true)

/-- Restore one member of a resumed cluster (R306): the faults of its threads. -/
def Resume.run (q : Resume) (s : State) (r : Region) : State × Found :=
  match s.wg? q.key with
  | none => (s, [])
  | some g =>
    let s1 := s.modWg q.key fun g =>
      { g with
        relaunch := q.rd s 4 1
        table := { g.table with bank0 := q.rd s blkTables 4112, bank1 := q.rd s (blkTables + 4112) 4112, active := (q.rd s 5 1).testBit 0 }
        scr := memPut [] 0 g.win (q.rd s r.blkScratch g.win) }
    let (s2, f2) := (g.warps.zip (List.range g.warps.length)).foldl (fun (a : State × Found) w => let (s, f) := q.warp a.1 r w.2 w.1; (s, a.2 ++ f)) (s1, [])
    let (s3, f3, okD) := q.domestique s2 g
    let g3 := (s3.wg? q.key).getD g
    let (s4, f4, okM) := q.matrix s3 r g3
    let (s5, f5) := (List.range 4).foldl (fun (a : State × Found) p => let (s, f) := q.expand a.1 g3 p; (s, a.2 ++ f)) (s4, [])
    let (s6, f6) := (g.warps.zip (List.range g.warps.length)).foldl (fun (a : State × Found) w => let (s, f) := q.nest a.1 r g3 w.2 w.1; (s, a.2 ++ f)) (s5, [])
    -- the barrier part of the header (R329)
    let bar := fun (n : Nat) => q.rd s (136 + 2 * n) 2
    let waits := s6.c.threads.filter fun t => g.warps.contains (widOf t.tid) && !t.gone && match t.wait with | .bar _ => true | _ => false
    let num := fun (t : Thread) => match t.wait with | .bar n => n | _ => 255
    let okB := (waits.all fun t => decide (num t ≤ 16) && (bar (num t)).testBit 15) && (List.range 17).all (fun n => slice (bar n) 13 8 == 0) &&
      slice (bar 16) 7 0 == 0 && q.rd s 172 84 == 0
    let s7 := s6.modWg q.key fun g =>
      { g with eps := ((List.range 16).filter fun n => (bar n).testBit 15).filterMap fun n =>
        openAgain q.eps n (slice (bar n) 7 0) ((bar n).testBit 14) s.clk (waits.filter fun t => num t == n) }
    let all := illegalAt ((s7.c.threads.filter fun t => g.warps.contains (widOf t.tid) || t.tid == g.ctx).map (·.tid))
    (s7, (if okD && okM && okB then [] else all) ++ f2 ++ f3 ++ f4 ++ f5 ++ f6)

/-- Each thread raises the first fault found for it, in ascending order (R309). -/
def State.raiseFound (s : State) (fs : Found) : State :=
  (sortBy (fun a b => decide (a ≤ b)) (fs.map (·.1)).dedup).foldl (fun s t =>
    match fs.find? fun (q : Nat × FaultInfo) => q.1 == t with
    | some q => if (s.thread t).gone then s else s.raise t { q.2 with pc := (s.thread t).pc, resume := (s.thread t).pc }
    | none => s) s

/-- The walker takes up the queued nodes of a workgroup, in ascending number (R268). -/
def State.takeNodes (s : State) (key : Nat) : State :=
  match s.wg? key with
  | none => s
  | some g => (List.range (s.nodeNN g)).foldl (fun s i => if nSt (s.node key i) == 2 then
      match execNodeStart key i s with | .next t => t | _ => s else s) s

/-- A placed cluster is restored from its save blocks: its members, then the cluster barrier, then the tests for completion (R306, R329). -/
def State.resumeCluster (s : State) (id : Nat) (r : Region) (w : Waiting) : State :=
  match s.c.clusters.find? fun c => c.id == id with
  | none => s
  | some c =>
    let live := ((List.range c.members.length).zip c.members).filter fun q => (s.wg? q.2).isSome
    let eps := w.eps.map fun e => (e.1, e.2.rename (s.ofPlace c))
    let qs := (live.zip (List.range live.length)).map fun m =>
      ({ key := m.1.2, rank := m.1.1, base := r.sav + r.wsz * (w.saved.getD []).getD m.2 0, kept := w.kept, ctx := w.ctxs.getD m.2 Batches.none,
         eps := (eps.filter fun e => e.1 == m.1.1).map (·.2),
         nests := (w.nests.filter fun n => n.1 == m.1.1).map fun n => n.2.rename (s.ofPlace c) } : Resume)
    let (s1, f) := qs.foldl (fun (a : State × Found) q => let (s, f) := q.run a.1 r; (s, a.2 ++ f)) (s, [])
    let here := s1.c.threads.filter fun t => !t.gone && t.wait == .bar 16 && match s1.wgOf t.tid with | some g => c.members.contains g.key | none => false
    let hdr := match qs with | q :: _ => q.rd s 168 2 | [] => 0
    let ep : Option Episode := if hdr.testBit 15 then
      openAgain ((eps.map (·.2)).filter fun e => e.n == 16) 16 c.members.length (hdr.testBit 14) s.clk here else none
    let s2 := s1.modClus id fun c => { c with ep := ep }
    let s3 := qs.foldl (fun s q => (List.range 17).foldl (fun s n => s.barTest q.key n) s) s2
    (qs.foldl (fun s q => s.takeNodes q.key) s3).raiseFound f

end Sys2Proof.Machine
end

