-- ==== Sys2Proof/Machine/Place.lean ====
section
/-! DEFINITION. Placement of waiting clusters, pre-emption requests, and the taking of a pre-emption (R83, R84, R296, R304 to R306, R328). -/

namespace Sys2Proof.Machine
open Sys2Proof

/-! ### Requests (R83, R304) -/

/-- Each workgroup knows whether a pre-emption request is pending for it: of a waiting cluster, or of a checkpoint (R459). Where a request has been withdrawn the
threads that it held become ready (R83). -/
def State.syncRequests (s : State) : State :=
  let asked := s.l.waiting.flatMap fun w => w.victims.map (·.1)
  let want := fun (g : Wg) =>
    (match s.region? g.region with | some r => s.ckptBusy r.asid | none => false) || s.c.clusters.any fun c => asked.contains c.id && c.members.contains g.key
  let free := (s.c.wgs.filter fun g => g.preempt && !want g).flatMap fun g => widOf g.ctx :: g.warps
  let held := fun (t : Thread) => match t.wait with | .yieldHold _ => true | _ => false
  (s.setWgs (s.c.wgs.map fun g => { g with preempt := want g })).setThreads
    (s.c.threads.map fun t => if held t && free.contains (widOf t.tid) then { t with wait := .none } else t)

/-- A waiting cluster is this one. -/
def Waiting.same (a b : Waiting) : Bool := a.region == b.region && a.clid == b.clid
def State.modWaiting (s : State) (w : Waiting) (f : Waiting → Waiting) : State :=
  { s with l := { s.l with waiting := s.l.waiting.map fun x => if x.same w then f x else x } }

/-- Requests for which a victim is no longer there are withdrawn (R304). -/
def State.withdrawLost (s : State) : State :=
  { s with l := { s.l with waiting := s.l.waiting.map fun w =>
    if (w.victims.all fun v => s.c.clusters.any fun c => c.id == v.1) then w else { w with victims := [], keep := [] } } }

/-- Save slots of a region that hold a workgroup, or are promised to a victim. -/
def State.slotsUsed (s : State) (n : Nat) : List Nat :=
  s.l.waiting.flatMap fun w => (if w.region == n then w.saved.getD [] else []) ++
    (w.victims.filter fun v => s.c.clusters.any fun c => c.id == v.1 && c.region == n).flatMap (·.2)

/-- The free save slots of a region, lowest first (R305). -/
def State.slotsFree (s : State) (r : Region) : List Nat := (List.range (r.savl / r.wsz)).filter fun k => !(s.slotsUsed r.num).contains k

/-- The members of a launched cluster that have not ended. -/
def State.liveMembers (s : State) (c : Clus) : List Wg := c.members.filterMap s.wg?

/-! ### Victims (R304) -/

/-- The save slots that a launched cluster has been promised, when its pre-emption has been requested. -/
def State.askedSlots (s : State) (c : Clus) : Option (List Nat) := s.l.waiting.findSome? fun w => (w.victims.find? fun v => v.1 == c.id).map (·.2)

/-- The launched clusters of a physical cluster that may be victims of priority `pri`: lowest priority first, then the youngest. -/
def State.victimList (s : State) (pri k : Nat) : List Clus :=
  let priOf : Clus → Nat := fun c => match s.region? c.region with | some r => r.pri | none => 8
  let placed : Clus → Nat := fun c => ((s.liveMembers c).map (·.placed)).foldl max 0
  sortBy (fun (a b : Clus) => decide (priOf a < priOf b ∨ (priOf a = priOf b ∧ (placed b < placed a ∨ (placed a = placed b ∧ b.id ≤ a.id)))))
    (s.c.clusters.filter fun c => c.phys == k && decide (priOf c < pri))

/-- Take victims from the front of a list until the cluster fits; a cluster for which no save slot is free is passed by. -/
def State.takeVictims (s : State) (r : Region) (seats : List (Nat × Option (List Nat))) (k : Nat) : List Clus → List Clus → Option (List Clus)
  | [], acc => if ((s.purgeWgs (acc.flatMap (·.members))).fitIn r seats k).isSome then some acc else none
  | c :: rest, acc =>
    if ((s.purgeWgs (acc.flatMap (·.members))).fitIn r seats k).isSome then some acc
    else
      let need := (acc.filter fun d => d.region == c.region && (s.askedSlots d).isNone).foldl (fun n d => n + (s.liveMembers d).length) (s.liveMembers c).length
      let room := match s.region? c.region with | some q => (s.slotsFree q).length | none => 0
      s.takeVictims r seats k rest (if (s.askedSlots c).isSome || decide (need ≤ room) then acc ++ [c] else acc)

/-- The save slots of a choice: the lowest free ones of each region, in ascending workgroup index among its victims (R305). A victim of another choice
keeps the slots of that one. -/
def State.slotsOf (s : State) (vs : List Clus) (c : Clus) : List Nat :=
  match s.askedSlots c, s.region? c.region with
  | some ks, _ => ks
  | none, none => []
  | none, some r =>
    let idxs := sortBy (fun a b => decide (a ≤ b)) ((vs.filter fun d => d.region == c.region && (s.askedSlots d).isNone).flatMap fun d => (s.liveMembers d).map (·.idx))
    let free := s.slotsFree r
    (s.liveMembers c).map fun g => free.getD (idxs.findIdx fun i => i == g.idx) 0

/-- The victims chosen for a waiting cluster that does not fit: of the physical clusters where it would, the one whose victims have the lowest
highest priority, then the fewest victims, then the lowest number. -/
def State.chooseVictims (s : State) (w : Waiting) (r : Region) : List (Nat × List Nat) :=
  let seats := s.seats r w
  let priOf := fun (c : Clus) => match s.region? c.region with | some q => q.pri | none => 0
  let opts := (List.range 12).filterMap fun k => (s.takeVictims r seats k (s.victimList r.pri k) []).map fun vs =>
    (((vs.map priOf).foldl max 0, (vs.map fun c => (s.liveMembers c).length).sum), vs)
  let best := opts.foldl (fun (m : Option ((Nat × Nat) × List Clus)) o => match m with
    | some b => if o.1.1 < b.1.1 ∨ (o.1.1 = b.1.1 ∧ o.1.2 < b.1.2) then some o else m
    | none => some o) none
  match best with
  | some (_, vs) => vs.map fun c => (c.id, s.slotsOf vs c)
  | none => []

/-! ### Placement (R296) -/

/-- The order in which waiting clusters are considered. -/
def State.waitingOrder (s : State) : List Waiting :=
  let again : Waiting → Nat := fun w => bit (w.saved.isNone && w.relaunch == 0)
  let pri : Waiting → Nat := fun w => match s.region? w.region with | some r => 8 - r.pri | none => 8
  let le : Waiting → Waiting → Bool := fun a b => decide (again a < again b ∨ (again a = again b ∧ (pri a < pri b ∨ (pri a = pri b ∧
    (a.region < b.region ∨ (a.region = b.region ∧ a.clid ≤ b.clid))))))
  sortBy le (s.l.waiting.filter fun w => !w.parked)

/-- Place a waiting cluster; the next cluster of its region, if it is one that was never placed, waits after it. -/
def State.placeCluster (s : State) (w : Waiting) (r : Region) (k : Nat) (cores : List Nat) : State × List Waiting :=
  let more := w.saved.isNone && w.relaunch == 0 && decide ((w.clid + 1) * r.size < r.nwg)
  let nx := if more then [{ w with clid := w.clid + 1, victims := [], keep := [] }] else []
  let s1 := { s with l := { s.l with waiting := s.l.waiting.flatMap fun (x : Waiting) => if x.same w then nx else [x] } }
  let s2 := s1.startCluster r w k cores
  (if w.saved.isSome then s2.resumeCluster s.l.nextKey r w else s2, nx)

/-- Go through the waiting clusters in order. `left`: those not placed; `past`: those passed over. -/
def State.placeAll (s : State) : Nat → List Waiting → List Waiting → List Waiting → Bool → State × List Waiting × List Waiting
  | 0, _, left, past, _ => (s, left, past)
  | _, [], left, past, _ => (s, left, past)
  | n + 1, w :: rest, left, past, stop =>
    match s.region? w.region with
    | none => s.placeAll n rest left past stop
    | some r =>
      match (if stop || s.ckptBusy r.asid then none else s.fit w r) with
      | some (k, cores) =>
        let (s1, nx) := s.placeCluster w r k cores
        s1.placeAll n (nx ++ rest) left (past ++ left) stop
      | none => s.placeAll n rest (left ++ [w]) past (stop || w.blocking)

/-- CLUSTER_PLACEMENT (R296, R304, R306); nothing is placed while LEN of HOST_CTL is 0 (R465). -/
def execClusterPlacement (s : State) : Host.Outcome State Fault Refusal :=
  .next (if s.fld rHostCtl 0 0 == 0 then s else
    let s0 := s.withdrawLost
    let (s1, left, past) := s0.placeAll (s.l.waiting.length + 1024) s0.waitingOrder [] [] false
    let s2 := past.foldl (fun s w => s.modWaiting w fun x => { x with passed := x.passed.orElse fun _ => some s.clk }) s1
    let s3 := left.foldl (fun s w =>
      match s.region? w.region, s.l.waiting.find? fun x => x.same w with
      | some r, some x =>
        if !x.victims.isEmpty || s.ckptBusy r.asid || (s.fit x r).isSome then s
        else
          let v := s.chooseVictims x r
          let cores := (s.c.clusters.filter fun c => v.any fun q => q.1 == c.id).flatMap fun c => (s.liveMembers c).map (·.core)
          s.modWaiting x fun y => { y with victims := v, keep := (y.keep ++ cores).dedup }
      | _, _ => s) s2
    s3.syncRequests)

/-- CLUSTER_BLOCKING (R296): the count of the n-th waiting cluster has reached 2^20 clocks. -/
def execClusterBlocking (n : Nat) (s : State) : Host.Outcome State Fault Refusal :=
  .next { s with l := { s.l with waiting := s.l.waiting.modify n fun w =>
    match w.passed with
    | some c => if c + 2 ^ 20 ≤ s.clk then { w with blocking := true } else w
    | none => w } }

/-! ### Taking a pre-emption (R84, R305, R328) -/

/-- The threads of a workgroup, its context among them, that are not gone. -/
def State.wgThreads (s : State) (g : Wg) : List Thread :=
  s.c.threads.filter fun t => !t.gone && (g.warps.contains (widOf t.tid) || (g.dq.dqp && t.tid == g.ctx))

/-- A thread stands in a state of R84. A thread with a memory access, a translation engine's act or a child's intake outstanding is not yet
there (log entry 49). -/
def State.standsStill (s : State) (t : Thread) : Bool :=
  !(s.m.ops.any fun o => o.tid == t.tid) && !(s.c.jobs.any fun j => j.tids.contains t.tid) &&
  (t.hostPark || (t.faults.isEmpty && ((t.park && s.owes t.tid) || (!s.waitOver t && match t.wait with
    | .spawn => false
    | _ => true))))

/-- R328: every thread with an arrival in an open episode waits for it, one that waits under R317 too, and the waiting threads of a warp wait at one
barrier. -/
def State.barriersStill (s : State) (g : Wg) : Bool :=
  let ts := s.wgThreads g
  let num := fun (t : Thread) => match t.wait with | .bar n | .barAgain n => some n | _ => none
  (List.range 17).all (fun n => match s.episode g.key n with
    | some e => ts.all fun t => !e.has t.tid || num t == some n
    | none => true) &&
  g.warps.all fun w => ((ts.filter fun t => widOf t.tid == w).filterMap num).dedup.length ≤ 1

/-- The pre-emption of a workgroup may be taken (R84, R328, R433). -/
def State.preemptible (s : State) (g : Wg) : Bool :=
  !(g.warps.any fun w => s.frozen (w / 16)) && !(g.dq.dqp && s.frozen (unitOf g.ctx)) && (s.wgThreads g).all s.standsStill && s.barriersStill g

def nextOf (o : Host.Outcome State Fault Refusal) (s : State) : State := match o with | .next t => t | _ => s
/-- Apply a function n times. -/
def State.times (s : State) (f : State → State) : Nat → State
  | 0 => s
  | n + 1 => (f s).times f n

/-- A step of the subtasks of the cluster that have started, or the start of one of a task that has begun (R361); none when there is neither. -/
def State.finishTask (members : List Nat) (s : State) : Option State :=
  match s.c.subtasks.findIdx? fun q => members.contains q.wg with
  | some n => some (nextOf (execSubtaskComplete n s) s)
  | none =>
    let begun := (members.filterMap s.wg?).findSome? fun g => (g.mx.tasks.find? fun t =>
      !t.todo.isEmpty && decide (t.todo.length < ((taskRec t.record).m + 63) / 64)).map fun t => (g, t)
    begun.map fun (q : Wg × Task) =>
      let s1 := s.modTask q.1.key q.2.id fun t => { t with todo := t.todo.drop 1, running := t.running + 1 }
      { s1 with c := { s1.c with subtasks := s1.c.subtasks ++ [Subtask.start q.1.key q.2.id (q.2.todo.headD 0) q.1.core] } }

/-- All of it, in at most `n` steps. -/
def State.finishTasks (members : List Nat) : Nat → State → State
  | 0, s => s
  | n + 1, s => match s.finishTask members with
    | some t => t.finishTasks members n
    | none => s

/-- The running nodes of a workgroup. -/
def State.runningNodes (s : State) (key : Nat) : List (Nat × Nat) :=
  match s.wg? key with
  | some g => ((List.range (s.nodeNN g)).filter fun i => nSt (s.node key i) == 3).map fun i => (key, i)
  | none => []

/-- A refill in progress is finished (R107). -/
def State.finishRefill (s : State) (tid : Nat) : State := if (s.thread tid).wait == .refill then nextOf (execRefillComplete tid s) s else s

/-- The in-flight work of a victim cluster is finished, in the order of R305. Nests stop where they stand; the nodes that it completes are those that run
now (R268). -/
def State.finishWork (s : State) (members : List Nat) : State :=
  let tids := fun (s : State) => (members.filterMap s.wg?).flatMap fun g => (s.wgThreads g).map (·.tid)
  let s1 := members.foldl (fun s k => s.times (fun s => nextOf (execMatrixStreamComplete k s) s) (match s.wg? k with | some g => 2 * g.mx.stream.length | none => 0)) s
  let s2 := s1.finishTasks members (2 ^ 20)
  let s3 := (s2.c.xfers.filter fun x => members.contains x.wg).foldl (fun s x => nextOf (execCopyTransferEnd x.id s) s) s2
  let s4 := (members.flatMap s.runningNodes).foldl (fun s q => nextOf (execNodeComplete q.1 q.2 s) s) s3
  let s5 := (tids s4).foldl (fun s t => s.landKnown t s.c.pend.length) s4
  let s6 := members.foldl (fun s k => s.times (fun s =>
    let a := nextOf (execTblldWriteStart k s) s
    let b := nextOf (execTblldComplete k a) a
    nextOf (execTableSwap k b) b) (match s.wg? k with | some g => g.table.jobs.length | none => 0)) s5
  let s7 := (tids s6).foldl (fun s t => s.times (fun s => nextOf (execSpillComplete t s) s) (s.thread t).spills.length) s6
  (tids s7).foldl State.finishRefill s7

/-- Nothing of a workgroup is in flight, and no thread of it has a fault to raise. -/
def State.settled (s : State) (g : Wg) : Bool :=
  g.mx.stream.isEmpty && g.table.jobs.isEmpty && !(s.c.xfers.any fun x => x.wg == g.key) && !(s.c.subtasks.any fun q => q.wg == g.key) &&
  (s.wgThreads g).all fun t => t.spills.isEmpty && !s.owes t.tid && t.wait != .refill && (t.hostPark || t.faults.isEmpty)

/-- The slots of a victim cluster: those of the choice, or the lowest free ones. -/
def State.saveSlots (s : State) (c : Clus) (r : Region) : Option (List Nat) :=
  match s.askedSlots c with
  | some ks => some ks
  | none =>
    let n := (s.liveMembers c).length
    let free := s.slotsFree r
    if n ≤ free.length then some (free.take n) else none

/-- The cluster is saved, leaves its cores and waits as a resumed cluster (R305, R306). -/
def State.saveCluster (s : State) (c : Clus) (r : Region) (ks : List Nat) : State :=
  let gs := s.liveMembers c
  let ranks := (List.range c.members.length).filter fun i => ((c.members[i]?).bind s.wg?).isSome
  let s1 := (gs.zip ks).foldl (fun s q => s.putImg (r.sav + r.wsz * q.2) (s.saveImg r q.1)) s
  let w : Waiting :=
    { Waiting.first r.num with
      clid := c.clid, saved := some (ks.take gs.length), ended := c.ended, eps := s.epsOf c, nests := s.nestsOf c
      absent := (List.range c.members.length).filter fun i => !ranks.contains i
      kept := (gs.zip ranks).flatMap fun q => s.keptOf q.2 q.1, ctxs := gs.map fun g => (s.thread g.ctx).batches
      relaunch := (gs.head?.map (·.relaunch)).getD 0 }
  let s2 := s1.purgeWgs c.members
  ({ s2 with
    c := { s2.c with imgs := s2.c.imgs.filter fun i => i.clus != c.id }
    l := { s2.l with waiting := (s2.l.waiting.map fun x => { x with victims := x.victims.filter fun v => v.1 != c.id }) ++ [w] } } : State).syncRequests

/-- PREEMPTION_TAKEN: launched cluster `clid` stands in the states of R84 with a request pending; its work is finished and it is saved. A kill
or a fault that the finished work brings goes before (R311). -/
def execPreemptionTaken (clid : Nat) (s : State) : Host.Outcome State Fault Refusal :=
  .next (match s.c.clusters.find? fun c => c.id == clid with
    | none => s
    | some c => match s.region? c.region with
      | none => s
      | some r =>
        let gs := s.liveMembers c
        if gs.isEmpty || !(gs.all fun g => g.preempt && s.preemptible g) then s
        else match s.saveSlots c r with
          | none => s
          | some ks =>
            let s1 := { s with free := s.free + 1 }.finishWork c.members
            let hs := s1.liveMembers c
            if hs.length != gs.length || !(hs.all s1.settled) then s1
            else match s1.region? c.region with
              | some r => s1.saveCluster c r ks
              | none => s1)

end Sys2Proof.Machine
end

