-- ==== Sys2Proof/Machine/Window.lean ====
section
/-! DEFINITION. The issue engine's events: ages, windows and bundles (R49 to R51), the end of a fetch (R31), of a pause (R62), and the
writing of a result (R55 to R58). -/

namespace Sys2Proof.Machine
open Sys2Proof

/-- A thread that has become ready takes the clock as its age; one that is not ready has none, and leaves its bundle (R49, R51). -/
def State.refreshAges (s : State) : State :=
  s.setThreads (s.c.threads.map fun t =>
    if s.ready t then { t with age := some (t.age.getD s.clk) } else { t with age := none, bundle := none })

/-- The oldest first; ties go to the lower warp slot, then to the lower lane (R49). -/
def olderThan (a b : Thread) : Bool := decide (a.age.getD 0 < b.age.getD 0 ∨ (a.age.getD 0 = b.age.getD 0 ∧ a.tid ≤ b.tid))

/-- The pass of a thread in its loop, or none outside one (R50). -/
def Thread.passNo (t : Thread) : Option Nat := if t.loop.act then some t.loop.pass else none

/-- Two threads may share a bundle, their lanes apart (R50): one code object, one program counter, one pass. -/
def Thread.mates (t u : Thread) : Bool := u.region == t.region && u.pc == t.pc && u.passNo == t.passNo

/-- The first bundle that a pool forms (R50): the oldest thread, and each later mate on a lane not yet taken. -/
def firstBundle : List Thread → List Thread
  | [] => []
  | t :: rest => rest.foldl (fun b u => if t.mates u && !(b.any fun x => laneOf x.tid == laneOf u.tid) then b ++ [u] else b) [t]

/-- The bundles of a pool, the oldest first (R50). -/
def bundlesOf : Nat → List Thread → List (List Nat)
  | 0, _ => []
  | _, [] => []
  | n + 1, pool =>
    let b := (firstBundle pool).map (·.tid)
    b :: bundlesOf n (pool.filter fun t => !b.contains t.tid)

/-- The clock count of a unit's cluster modulo 4 (R50). -/
def State.phaseOf (s : State) (unit : Nat) : Nat :=
  (s.clk - (match s.b.phase.find? fun p => p.1 == clusOf (unit / 5) with | some p => p.2 | none => 0)) % 4

/-- WINDOW_FORMATION (R50): the bundles of the unit's last window go, and its ready threads form new ones. -/
def execWindowFormation (unit : Nat) (s : State) : Host.Outcome State Fault Refusal :=
  .next (if s.phaseOf unit != 0 then s
    else
      let s1 := s.refreshAges
      let pool := sortBy olderThan (s1.c.threads.filter fun t => unitOf t.tid == unit && s1.ready t)
      let bs := bundlesOf pool.length pool
      s1.setThreads (s1.c.threads.map fun t =>
        if unitOf t.tid == unit then { t with bundle := bs.findIdx? fun b => b.contains t.tid } else t))

/-- INSTRUCTION_FETCH_COMPLETE (R29, R31): the block of a thread's next instruction is there, or the fetch has met a fault. -/
def execInstructionFetchComplete (tid : Nat) (s : State) : Host.Outcome State Fault Refusal :=
  .next (match s.thread? tid with
    | none => s
    | some t =>
      if t.gone || t.fetched then s
      else match s.fetchBlock tid t.pc with
        | (s1, .ok x) => s1.modThread tid fun t => { t with fetch := .ok (t.pc / 32 * 32) x }
        | (s1, .error f) => s1.modThread tid fun t => { t with fetch := .bad t.pc { f with pc := t.pc, resume := t.pc, addr := if f.deferred then f.addr else t.pc } })

/-- RESULT_WRITEBACK (R55, R58): a known result is written. -/
def execResultWriteback (n : Nat) (s : State) : Host.Outcome State Fault Refusal :=
  .next (match s.c.pend[n]? with
    | none => s
    | some p => if p.val.isNone then s else s.landAt n)

/-- PAUSE_EXPIRY (R62). -/
def execPauseExpiry (tid : Nat) (s : State) : Host.Outcome State Fault Refusal :=
  .next (match (s.thread tid).wait with
    | .pause c => if c ≤ s.clk then s.modThread tid fun t => { t with wait := .none } else s
    | _ => s)

end Sys2Proof.Machine
end

