-- ==== Sys2Proof/Machine/Debug.lean ====
section
/-! DEFINITION. The debug and trace engine: `trc`, `smpl`, stops and thaws, single step, dumps, trace drain, monitors
(R432 to R458). -/

namespace Sys2Proof.Machine
open Sys2Proof

/-! ### `trc` and `smpl` (R453 to R456) -/

/-- The lanes of a list of threads as a mask. -/
def laneMask (ts : List Nat) : Nat := ts.foldl (fun m t => m ||| 2 ^ laneOf t) 0

/-- R455. -/
def execTrc (x : S64A) (s : State) : Host.Outcome State Fault Refusal :=
  s.run (.trc x) (eachWarp fun s ts t =>
    (s.trace s.cur.unit (slotOf t) 1 (s.cur.pc % 2 ^ 57 * 2 ^ 279 + laneMask ts * 2 ^ 336 + x.i16.toNat * 2 ^ 368 + (s.opnd t x.a).toNat * 2 ^ 384), none))

/-- R456. -/
def execSmpl (x : S64A) (s : State) : Host.Outcome State Fault Refusal :=
  s.run (.smpl x) (eachWarp fun s _ t => (s.modWarp (widOf t) fun w => { w with smpl := some x.i16 }, none))

/-! ### Stops and thaws (R433 to R437) -/

/-- The unit's threads that are not gone. -/
def State.unitThreads (s : State) (n : Nat) : List Thread := s.c.threads.filter fun t => unitOf t.tid == n && !t.gone

/-- The thaw of a unit (R433 to R435): its ready threads take the clock as their age, and the faults that SOF held go to the fault domain. -/
def State.thaw (s : State) (n : Nat) : State :=
  if !s.frozen n then s
  else
    let s1 := s.setFld (rPctl n) 15 15 0
    let s2 := s1.setUnit { s1.unit n with step := none }
    let s3 := s2.setThreads (s2.c.threads.map fun t => if unitOf t.tid == n then { t with age := none, bundle := none } else t)
    ((s3.unitThreads n).map (·.tid)).foldl State.settle s3.refreshAges

/-- A write of DBG_PCTLn (R434); one that sets both STOP and GO is ignored, and so is one for a gated cluster (R474). -/
def State.pctlWrite (s : State) (n : Nat) (v : Nat) : State :=
  if 960 ≤ n || (v.testBit 0 && v.testBit 1) || s.gated (clusOf (n / 5)) then s
  else
    let s1 := s.setFld (rPctl n) 8 5 (slice v 8 5)
    if v.testBit 0 then s1.trigger n 1 false else if v.testBit 1 then s1.thaw n else s1

/-- DBG_PCTL_STOP (R434, R435): a write that sets STOP. -/
def execDbgPctlStop (unit : Nat) (v : BitVec 64) (s : State) : Host.Outcome State Fault Refusal :=
  .next (if v.getLsbD 0 then s.pctlWrite unit v.toNat else s)

/-- DBG_PCTL_GO: a write that sets GO. -/
def execDbgPctlGo (unit : Nat) (v : BitVec 64) (s : State) : Host.Outcome State Fault Refusal :=
  .next (if v.getLsbD 1 then s.pctlWrite unit v.toNat else s)

/-- BROADCAST_FREEZE (R433, R436): the unit freezes at the end of the clock that its stop has reached. -/
def execBroadcastFreeze (unit : Nat) (s : State) : Host.Outcome State Fault Refusal :=
  .next (s.freeze unit)

/-- PEND of DBG_CLCTLk (R436): a broadcast has frozen some units of the cluster and not all. -/
def State.clPend (s : State) (k : Nat) : Bool :=
  (unitsOfCluster k).any s.frozen && (unitsOfCluster k).any fun n => !s.frozen n && ((s.unit n).due.isSome || (s.unit n).bc.isSome)

/-- A stop with broadcast from DBG_CLCTLk: each unit freezes at the end of one of the next clocks (R436). -/
def State.clStop (s : State) (k : Nat) : State :=
  if 12 ≤ k then s else (unitsOfCluster k).foldl (fun s n => s.bcastAt n 1) s

/-- GO of DBG_CLCTLk: every unit of the cluster thaws, or the GO waits for PEND to clear; bit 1 of the word holds it. -/
def State.clGo (s : State) (k : Nat) : State :=
  if 12 ≤ k then s
  else if s.clPend k then s.setFld (rClctl k) 1 1 1
  else (unitsOfCluster k).foldl State.thaw (s.setFld (rClctl k) 1 1 0)

/-- DBG_CLCTL_STOP. -/
def execDbgClctlStop (clus : Nat) (s : State) : Host.Outcome State Fault Refusal := .next (s.clStop clus)
/-- DBG_CLCTL_GO. -/
def execDbgClctlGo (clus : Nat) (s : State) : Host.Outcome State Fault Refusal := .next (s.clGo clus)

/-! ### Single step (R443, R444) -/

/-- A step ends with a result code: REQ reads 0. -/
def State.stepEnd (s : State) (n st : Nat) : State := (s.setFld (rStep n) 10 8 st).setFld (rStep n) 4 4 0

/-- A write of the low word of DBG_STEPn (R443, R444): a step of a bundle of the warp's stoppable-ready threads starts. -/
def State.stepWrite (s : State) (n v : Nat) : State :=
  if 960 ≤ n || s.gated (clusOf (n / 5)) then s
  else
    let slot := v % 16
    let s1 := s.setFld (rStep n) 3 0 slot
    if !v.testBit 4 || s.fld (rStep n) 4 4 == 1 then s1
    else
      let s2 := s1.setFld (rStep n) 4 4 1
      let here := s2.c.threads.any fun t => widOf t.tid == 16 * n + slot && !t.gone
      if !s.frozen n || !here then s2.stepEnd n 5
      else
        let b := (firstBundle (sortBy olderThan (s2.c.threads.filter fun t => widOf t.tid == 16 * n + slot && s2.stoppable t))).map (·.tid)
        if b.isEmpty then s2.stepEnd n 3
        else { s2.setUnit { s2.unit n with step := some b, faulted := false } with agenda := .issue n :: s2.agenda }

/-- DBG_STEP_REQ. -/
def execDbgStepReq (unit : Nat) (v : BitVec 64) (s : State) : Host.Outcome State Fault Refusal := .next (s.stepWrite unit v.toNat)

/-- A thread waits for something other than its own results. -/
def State.waitsElse (s : State) (tid : Nat) : Bool :=
  let t := s.thread tid
  t.hostPark || (t.wait != .results && !s.waitOver t)

/-- The barrier at which a thread waits (R443). -/
def Thread.barn (t : Thread) : Nat := match t.wait with | .bar n | .barAgain n => n | _ => 31

/-- STEP_COMPLETE (R444): the stepped threads' results are written, or the threads wait. -/
def execStepComplete (unit : Nat) (s : State) : Host.Outcome State Fault Refusal :=
  .next (match (s.unit unit).step with
    | none => s
    | some ts =>
      let u := s.unit unit
      let live := ts.filter fun t => (s.thread? t).isSome
      if !u.faulted && !(live.all fun t => !s.owes t || s.waitsElse t) then s
      else
        let low := ts.headD 0
        let st := if u.faulted then 4 else if live.any s.waitsElse then 2 else 1
        let barn := if st == 2 then (((live.map s.thread).map Thread.barn).find? (· != 31)).getD 31 else 31
        let s1 := (((s.setFld (rStep unit) 15 12 (s.stall low)).setFld (rStep unit) 20 16 barn).setFld (rStep unit + 8) 56 0 (s.thread low).pc).stepEnd unit st
        s1.setUnit { s1.unit unit with step := none, faulted := false })

/-! ### Dumps (R445 to R447) -/

/-- The warp or context that a result goes to. -/
def RegRef.wid (d : RegRef) : Nat :=
  match d with
  | .v t _ | .p t _ => widOf t
  | .w wid _ => wid

/-- The pending-write entries of a warp, oldest first: program counter, destination, lanes (R446, R447). -/
def State.pendEntries (s : State) (wid : Nat) : List (Nat × Nat × Nat) :=
  (s.c.pend.filter fun p => p.dst.wid == wid).foldl (fun l p =>
    let m := laneMask p.owners
    match l.findIdx? fun e => e.1 == p.pc && e.2.1 == p.opd && e.2.2 &&& m == 0 with
    | some i => l.modify i fun e => (e.1, e.2.1, e.2.2 ||| m)
    | none => l ++ [(p.pc, p.opd, m)]) []

/-- The tail of a dump section. -/
def State.dumpTail (s : State) (wid : Nat) : Img :=
  let es := s.pendEntries wid
  let ctx := wid / 16 % 5 == 4
  imgRow 0 1 ((List.range 32).map fun j => if ctx && j != 0 then 0 else s.stall (32 * wid + j)) ++
  [(32, 1, min 124 es.length), (33, 1, bit (decide (124 < es.length)))] ++
  imgRow 64 16 ((es.take 124).map fun e => e.2.1 % 1024 * 2 ^ 22 + e.2.2 * 2 ^ 32 + e.1 % 2 ^ 57 * 2 ^ 64)

/-- The section of a warp or context, with its size (R446). -/
def State.dumpSection (s : State) (w : Warp) : Img × Nat :=
  if w.wid / 16 % 5 == 4 then
    match w.wg.bind s.wg? with
    | some g => (s.domestiqueImg false g ++ imgAt 3840 (s.dumpTail w.wid), 3840 + 2048)
    | none => ([], 0)
  else match s.region? w.region with
    | some r => (s.warpSectionImg r false w.wid ++ imgAt r.warpSection (s.dumpTail w.wid), r.warpSection + 2048)
    | none => ([], 0)

/-- The dump of a unit: its length and its bytes (R446). -/
def State.dumpOf (s : State) (n : Nat) : Nat × Nat :=
  let ws := sortBy (fun a b => decide (a.wid ≤ b.wid)) (s.c.warps.filter fun w => w.wid / 16 == n)
  let (img, len) := ws.foldl (fun (q : Img × Nat) w => let (i, k) := s.dumpSection w; (q.1 ++ imgAt q.2 i, q.2 + k))
    ([(0, 8, s.clk), (8, 2, bitSum 16 fun k => ws.any fun w => w.wid % 16 == k)], 256)
  (len, imgNat img)

/-- A write of DBG_DUMP (R7, R445): ADR and UNIT take their values, and a request captures a frozen unit in this clock, or sets ERR. An ADR with pa[51] set
is reserved and keeps its value (log entry 64); a unit that does not exist is never frozen. -/
def State.dumpWrite (s : State) (v : Nat) : State :=
  let s1 := (if v.testBit 51 then s else s.setFld rDump 51 12 (slice v 51 12)).setFld rDump 11 2 (slice v 11 2)
  let n := s1.fld rDump 11 2
  if !v.testBit 0 || s.b.dump.isSome then s1
  else if 960 ≤ n || !s1.frozen n then s1.setFld rDump 1 1 1
  else
    let s2 := (s1.setFld rDump 1 1 0).setFld rDump 0 0 1
    { s2 with b := { s2.b with dump := some (s1.fld rDump 51 12 * 4096, s.dumpOf n) } }

/-- DBG_DUMP_REQ. -/
def execDbgDumpReq (v : BitVec 64) (s : State) : Host.Outcome State Fault Refusal := .next (s.dumpWrite v.toNat)

/-- DUMP_COMPLETE: the captured bytes are written, and REQ reads 0. -/
def execDumpComplete (s : State) : Host.Outcome State Fault Refusal :=
  .next (match s.b.dump with
    | none => s
    | some (a, n, x) =>
      let s1 := s.devWrite a n x
      ({ s1 with b := { s1.b with dump := none } } : State).setFld rDump 0 0 0)

/-! ### Watch counters, trace drain (R441, R450) -/

/-- DBG_WMISS_CLEAR. -/
def execDbgWmissClear (core : Nat) (s : State) : Host.Outcome State Fault Refusal :=
  .next (if core < 192 && !s.gated (clusOf core) then s.setReg (rWmiss core) 0 else s)

/-- TRACE_DRAIN (R450): the oldest record of a buffer goes to its ring while the ring has a free slot. -/
def execTraceDrain (clus : Nat) (s : State) : Host.Outcome State Fault Refusal :=
  .next (
    let b := s.traceBuf clus
    let slots := 2 ^ (s.fld (rTrb clus) 7 2 - 6)
    let wp := s.fld (rTrb clus + 8) 31 0
    let rp := s.fld (rTrb clus + 8) 63 32
    match b.recs with
    | [] => s
    | r :: rest =>
      if 12 ≤ clus || s.fld (rTrb clus) 0 0 == 0 || slots - 1 ≤ (wp + 2 ^ 32 - rp) % slots then s
      else ((s.devWrite (s.fld (rTrb clus) 51 12 * 4096 + 64 * (wp % slots)) 64 r).setTraceBuf { b with recs := rest }).setFld (rTrb clus + 8) 31 0 (wp + 1))

/-! ### Monitors (R457, R458) -/

/-- The level that a monitor's source gives (R458). -/
def State.monLevel (s : State) (k : Nat) : Option Nat :=
  let sel := s.fld (rMon k) 23 16
  match s.fld (rMon k) 3 0 with
  | 5 => if sel == 0 then some (s.m.waits.filter fun w => w.point == 1).length else none
  | 6 => if sel == 0 then some (s.m.waits.filter fun w => w.point == 2).length else none
  | 7 => if sel < 192 then some (s.m.waits.filter fun w => w.point == 0 && w.foll.core == sel).length else none
  | 8 => if sel < 12 then some (s.b.monLvl.getD k 0) else none
  | 9 => if sel < 64 then some (s.m.bQ.filter fun r => isHomeOp r.w.op && agentOf r.w.xpa == sel).length else none
  | _ => none

/-- MONITOR_LEVEL_SAMPLE: a level monitor takes its value at the end of its period. -/
def execMonitorLevelSample (k : Nat) (s : State) : Host.Outcome State Fault Refusal :=
  .next (if 8 ≤ k || s.clk % 2 ^ s.fld (rMon k) 12 8 != 0 then s
    else match s.monLevel k with
      | some v => { s.monTake k v with b := { (s.monTake k v).b with monLvl := s.b.monLvl.set k 0 } }
      | none => s)

/-- MIN, MAX and the bins return to reset. -/
def State.monClear (s : State) (k : Nat) : State := (List.range 9).foldl (fun s i => s.setReg (rMon k + 8 + 8 * i) (regReset (rMon k + 8 + 8 * i))) s

/-- A write of the low word of DBG_MONk (R457). A field with a reserved value keeps its value. -/
def State.monWrite (s : State) (k v : Nat) : State :=
  if 8 ≤ k then s
  else
    let src := slice v 3 0
    let s1 := if src < 10 then s.setFld (rMon k) 3 0 src else s
    let s2 := if slice v 12 8 < 21 then s1.setFld (rMon k) 12 8 (slice v 12 8) else s1
    let s3 := s2.setFld (rMon k) 23 16 (slice v 23 16)
    if v.testBit 32 || s3.fld (rMon k) 3 0 != s.fld (rMon k) 3 0 || s3.fld (rMon k) 23 16 != s.fld (rMon k) 23 16 then s3.monClear k else s3

/-- DBG_MON_CLR: a write that sets CLR. -/
def execDbgMonClr (k : Nat) (v : BitVec 64) (s : State) : Host.Outcome State Fault Refusal :=
  .next (if v.getLsbD 32 then s.monWrite k v.toNat else s)
/-- DBG_MON_SOURCE_WRITE: a write of SRC, SEL and PER. -/
def execDbgMonSourceWrite (k : Nat) (v : BitVec 64) (s : State) : Host.Outcome State Fault Refusal := .next (s.monWrite k v.toNat)

end Sys2Proof.Machine
end

