-- ==== Sys2Proof/Machine/Fabric.lean ====
section
/-! DEFINITION. The peer links (R422 to R431): flits, credits, replay, wavelengths, training, detours. -/

namespace Sys2Proof.Machine
open Sys2Proof

/-! ### Flits (R425) -/

/-- One bit step of CRC-32C, low bit first. -/
def crcStep (c : Nat) : Nat := if c % 2 == 1 then c / 2 ^^^ 0x82F63B78 else c / 2
/-- CRC-32C of n bytes of a little-endian number. -/
def crc32c (x : Nat) : Nat → Nat → Nat
  | 0, c => c ^^^ 0xFFFFFFFF
  | n + 1, c => crc32c (x / 256) n (crcStep (crcStep (crcStep (crcStep (crcStep (crcStep (crcStep (crcStep (c ^^^ x % 256)))))))))

/-- Bytes 0 to 59 of a flit, as a little-endian number. -/
def flitCovered (f : Flit) : Nat :=
  f.seq.toNat + f.vc.toNat * 2 ^ 12 + bit f.nak * 2 ^ 15 + f.ack.toNat * 2 ^ 16 + bit f.ackv * 2 ^ 28 + f.rsvd.toNat * 2 ^ 29 + f.pay.toNat * 2 ^ 32
/-- The CRC that a flit must carry. -/
def flitCrc (f : Flit) : BitVec 32 := BitVec.ofNat 32 (crc32c (flitCovered f) 60 0xFFFFFFFF)

/-! ### Links -/

/-- The credits that each channel is granted at training (R422). -/
def creditGrant : List Nat := [512, 512, 1024, 32, 256]
/-- A link before its first training. -/
def linkBlank (n : Nat) : Link :=
  { n := n, txSeq := 0, rxNext := 0, unacked := [], resend := [], credits := creditGrant, owed := [0, 0, 0, 0, 0], nakDue := false, ackDue := false,
    waves := 0 }
def State.peerLink (s : State) (n : Nat) : Link := (s.b.links.find? fun l => l.n == n).getD (linkBlank n)
def State.setLink (s : State) (l : Link) : State :=
  { s with b := { s.b with links := insertBy (fun a b => decide (a.n ≤ b.n)) l (s.b.links.filter fun k => k.n != l.n) } }

/-- Add one to a saturating 16-bit field. -/
def State.satInc16 (s : State) (off lo : Nat) : State := s.setFld off (lo + 15) lo (min 0xFFFF (s.fld off (lo + 15) lo + 1))

/-- The channel of a message on its last hop (R422). -/
def msgVc : Msg → Nat
  | .req r => r.vc
  | .ans _ => 1
  | _ => 3

/-! ### Modes, detours and resends (R427 to R430) -/

def State.linkMode (s : State) (n : Nat) : Nat := s.fld (rLink n) 2 0

/-- Traffic to module n is detoured (R429). -/
def State.detoured (s : State) (n : Nat) : Bool := n != s.b.pkg && decide (n < s.nmod) && s.fabEn && s.linkMode n == 0 && (s.hop n).isSome

/-- The requests to a module whose answer has not returned are sent again, in order, ahead of every later one (R430). -/
def State.resendTo (s : State) (n : Nat) : State :=
  let mine := fun (r : Req) => r.w.dst == n
  { s with m := { s.m with aQ := s.m.outst.filter mine ++ s.m.aQ, outst := s.m.outst.filter fun r => !mine r } }

/-- After a change that began in state `old`: DET of every link, vector 1 for each link whose MODE or DET changed, and the resends that a new
detour asks for (R428 to R430). -/
def State.relink (s old : State) : State :=
  (List.range 64).foldl (fun (s : State) n =>
    let s1 := if n == s.b.pkg then s else s.setFld (rLink n) 5 5 (bit (s.detoured n))
    let s2 := if s1.linkMode n != old.linkMode n || s1.fld (rLink n) 5 5 != old.fld (rLink n) 5 5 then s1.msi 1 else s1
    if s2.detoured n && s2.hop n != old.hop n then s2.resendTo n else s2) s

/-- A link takes a mode and its wavelengths (R427, R428). -/
def State.setMode (s : State) (n mode waves : Nat) : State :=
  let count := ((List.range 32).filter waves.testBit).length
  let s1 := (s.setFld (rLink n) 2 0 mode).setFld (rLink n) 13 8 (if mode == 0 || mode == 1 then 0 else count)
  (s1.setLink { s1.peerLink n with waves := waves }).relink s

/-- FAB_LINK_RTR (R428): training starts at a write of RTR for another module of the pod while EN = 1. -/
def State.linkRetrain (s : State) (n : Nat) : State :=
  if n == s.b.pkg || s.nmod ≤ n || !s.fabEn || s.fld (rLink n) 28 28 == 1 then s
  else (s.setFld (rLink n) 28 28 1).setMode n 1 0

/-- A write of FAB_LINKn: a field with a reserved value keeps its value. -/
def State.linkWrite (s : State) (n v : Nat) : State :=
  if n == s.b.pkg || 64 ≤ n then s
  else
    let s1 := if slice v 27 25 ≤ 4 then s.setFld (rLink n) 27 25 (slice v 27 25) else s
    let s2 := s1.setFld (rLink n) 24 23 (slice v 24 23)
    let s3 := if slice v 22 16 != 0 then s2.setFld (rLink n) 22 16 (slice v 22 16) else s2
    if v.testBit 28 then s3.linkRetrain n else s3

/-- FAB_LINK_RTR: a write that sets RTR. -/
def execFabLinkRtr (n : Nat) (v : BitVec 64) (s : State) : Host.Outcome State Fault Refusal := .next (if v.getLsbD 28 then s.linkWrite n v.toNat else s)

/-- LINK_TRAINING_END (R428): `waves` are the wavelengths that train, as a mask. What was in flight is sent again, and the credits are
granted afresh. -/
def execLinkTrainingEnd (n waves : Nat) (s : State) : Host.Outcome State Fault Refusal :=
  .next (if s.linkMode n != 1 || n == s.b.pkg then s
    else
      let w := waves % 2 ^ 32
      let count := ((List.range 32).filter w.testBit).length
      let mode := if count < 8 then 0 else if s.fld (rLink n) 28 28 == 1 && count == 32 then 2 else 3
      let l := s.peerLink n
      let left := (List.range 5).map fun v => creditGrant.getD v 0 - (l.unacked.filter fun f => f.vc.toNat == v).length
      let s1 := s.setLink { l with resend := l.unacked, credits := left, owed := [0, 0, 0, 0, 0] }
      let s2 := if l.unacked.isEmpty || mode == 0 then s1 else s1.satInc16 (rLink n) 32
      (s2.setFld (rLink n) 28 28 0).setMode n mode (if mode == 0 then 0 else w))

/-- WAVELENGTH_ERROR_WINDOW (R427): a window of check words of one wavelength ends with a count of errors. -/
def execWavelengthErrorWindow (n wave count : Nat) (s : State) : Host.Outcome State Fault Refusal :=
  .next (let l := s.peerLink n
    if n == s.b.pkg || !l.waves.testBit wave || count < s.fld (rLink n) 22 16 then s
    else match s.linkMode n with
      | 2 => s.setMode n 1 0
      | 3 =>
        let left := l.waves - 2 ^ wave
        if ((List.range 32).filter left.testBit).length < 8 then s.setMode n 0 0 else s.setMode n 3 left
      | _ => s)

/-! ### Sending (R422, R426) -/

/-- What a link's channel would send next: the destination, the message, and the state without it. -/
def State.nextMsg (s : State) (n vc : Nat) : Option (Nat × Msg × State) :=
  let l := s.peerLink n
  let via := fun (t : Nat) => s.hop t == some n && (if vc == 4 then t != n else t == n)
  let chan := fun (m : Msg) => vc == 4 || msgVc m == vc
  match (List.range 5).find? fun v => vc == 3 && l.owed.getD v 0 != 0 with
  | some v => some (n, .credit v (l.owed.getD v 0), s.setLink { l with owed := l.owed.set v 0 })
  | none =>
    match takeFirst (fun (q : Nat × Msg) => via q.1 && chan q.2) s.m.mgmt with
    | some (q, rest) => some (q.1, q.2, { s with m := { s.m with mgmt := rest } })
    | none =>
      let free := fun (a : Ans) => a.req.org == .remote && !(s.m.waits.any fun w => w.lead == a.req.id)
      match takeFirst (fun (a : Ans) => (vc == 1 || vc == 4) && free a && via a.req.w.src) s.m.anss with
      | some (a, rest) =>
        let same := fun (d : DupEnt) => d.src == a.req.w.src && d.tag == a.req.w.tag
        let dups := s.m.dups.map fun d => if same d then { d with ans := some (a.data, a.fault) } else d
        some (a.req.w.src, .ans { src := a.req.w.src, tag := a.req.w.tag, data := a.data, fault := a.fault.map Code.num },
          { s with m := { s.m with anss := rest, dups := dups } })
      | none =>
        let ok := fun (r : Req) => !s.here r.w.xpa && s.fabEn && via r.w.dst && (vc == 4 || r.w.vc == vc) && s.tagRoom r.w.dst
        match takeFirst ok s.m.aQ with
        | some (r, rest) =>
          if vc == 1 || vc == 3 then none
          else some (r.w.dst, .req r.w, { s with m := { s.m with aQ := rest, outst := s.m.outst ++ [{ r with sent := some (r.sent.getD s.clk) }] } })
        | none => if vc == 3 && (l.ackDue || l.nakDue) then some (n, .idle, s) else none

/-- The header's acknowledgement, and the CRC, of a flit as it is sent. -/
def Link.seal (l : Link) (f : Flit) : Flit :=
  let g : Flit := { f with rsvd := 0, ackv := true, ack := BitVec.ofNat 12 (l.rxNext + 4095), nak := l.nakDue }
  { g with crc := flitCrc g }

/-- FLIT_SEND (R422, R426): flits to be sent again go first; a new one needs a credit of its channel, and room among the unacknowledged. -/
def execFlitSend (n vc : Nat) (s : State) : Host.Outcome State Fault Refusal :=
  .next (let l := s.peerLink n
    if !s.linkUp n || n == s.b.pkg then s
    else match l.resend with
      | f :: rest =>
        let g := l.seal f
        s.setLink { l with resend := rest, unacked := l.unacked.map fun u => if u.seq == g.seq then g else u, nakDue := false, ackDue := false }
      | [] =>
        if 2048 ≤ l.unacked.length || l.credits.getD vc 0 == 0 then s
        else match s.nextMsg n vc with
          | none => s
          | some (dst, m, s1) =>
            let k := s1.peerLink n
            let f : Flit := { rsvd := 0, ackv := true, ack := 0, nak := false, vc := BitVec.ofNat 3 vc, seq := BitVec.ofNat 12 k.txSeq,
                              pay := Config.flitPayload s1.free, crc := 0, dst := dst, msg := m }
            { (s1.setLink { k with txSeq := (k.txSeq + 1) % 4096, unacked := k.unacked ++ [k.seal f], credits := k.credits.set vc (k.credits.getD vc 0 - 1),
                                   nakDue := false, ackDue := false }) with free := s1.free + 1 })

/-! ### Receiving (R426, R429, R431) -/

/-- The request of another module, as this module's stage B sees it. Its threads are not known here: the requests of one module count as one thread's, and
stay in order (R21). -/
def State.remoteReq (s : State) (w : WireReq) : Req :=
  { id := s.m.nextId, core := 0, org := .remote, w := w, hint := .dflt, ef := false, region := 0, sent := none,
    thr := [2 ^ 40 + w.src], vfill := false, cut := 0, todo := 2 ^ 32 - 1, got := 0 }

/-- An answer from another module: the request that carries its tag is answered once; an answer with no such request is discarded (R413). -/
def State.answerFrom (s : State) (a : WireAns) : State :=
  let tag := fun (r : Req) => r.w.tag == a.tag && r.sent.isSome && !s.here r.w.xpa
  let done := fun (s : State) (r : Req) => s.answer { req := r, data := a.data, fault := a.fault.map codeOfNum }
  match takeFirst tag s.m.outst with
  | some (r, q) => done { s with m := { s.m with outst := q } } r
  | none => match takeFirst tag s.m.aQ with
    | some (r, q) => done (s.setAQ q) r
    | none => s

/-- What a message does at its module. -/
def State.deliverMsg (s : State) (n : Nat) : Msg → State
  | .req w => { s.newId with m := { s.newId.m with rxQ := s.m.rxQ ++ [s.remoteReq w] } }
  | .ans a => s.answerFrom a
  | .credit v k =>
    let l := s.peerLink n
    s.setLink { l with credits := l.credits.set v (min (creditGrant.getD v 0) (l.credits.getD v 0 + k)) }
  | .tlbinv src id asid va => s.tlbJob asid va { EngineJob.blank with back := some (src, id) }
  | .l2op src id inv first count =>
    s.startJob { EngineJob.blank with kind := if inv then 2 else 1, lo := 128 * first, hi := 128 * (first + count), back := some (src, id) }
  | .ended src id => s.jobReport src id
  | .idle => s

/-- ACK and NAK of a flit that was received in order (R426). -/
def State.takeAck (s : State) (n : Nat) (f : Flit) : State :=
  let l := s.peerLink n
  let drop := fun (fs : List Flit) => match fs.findIdx? fun u => u.seq == f.ack with | some i => fs.drop (i + 1) | none => fs
  let l1 := if f.ackv then { l with unacked := drop l.unacked, resend := drop l.resend } else l
  if f.nak then (s.setLink { l1 with resend := l1.unacked }).satInc16 (rLink n) 32 else s.setLink l1

/-- FLIT_RECEIVE (R426): a flit with a wrong CRC, a reserved channel or another sequence number is discarded, and NAK is sent. A flit in order
goes to its module's stage B or core side, or on toward the module that it is for (R429). -/
def execFlitReceive (n : Nat) (f : Flit) (s : State) : Host.Outcome State Fault Refusal :=
  .next (let l := s.peerLink n
    if !s.linkUp n || n == s.b.pkg then s
    else if f.crc != flitCrc f then (s.setLink { l with nakDue := true }).satInc16 (rLink n) 48
    else if 5 ≤ f.vc.toNat || f.seq.toNat != l.rxNext then s.setLink { l with nakDue := true }
    else
      let v := f.vc.toNat
      let s1 := (s.setLink { l with rxNext := (l.rxNext + 1) % 4096, ackDue := true, owed := l.owed.set v (l.owed.getD v 0 + 1) }).takeAck n f
      if f.dst == s.b.pkg then s1.deliverMsg n f.msg else { s1 with m := { s1.m with mgmt := s1.m.mgmt ++ [(f.dst, f.msg)] } })

/-! ### The protection-domain table (R420) -/

/-- The cached words go; a held request is checked against the word read after. -/
def State.pcinv (s : State) : State := { s with m := { s.m with pdt := [] } }
/-- FAB_PCINV. -/
def execFabPcinv (_v : BitVec 64) (s : State) : Host.Outcome State Fault Refusal := .next s.pcinv

end Sys2Proof.Machine
end

