-- ==== Sys2Proof/Machine/Power.lean ====
section
/-! DEFINITION. Power, sag, power gates and resets (R451, R470 to R474). -/

namespace Sys2Proof.Machine
open Sys2Proof

/-! ### Power limits (R472) -/

/-- A power limit, clamped to its range. -/
def clampW (lo hi x : Nat) : Nat := max lo (min hi x)
def State.limW (s : State) : Nat := clampW 1000 4200 (s.fld rPwr 31 16)
def State.burstW (s : State) : Nat := max s.limW (clampW 1000 4600 (s.fld rPwr 47 32))

/-- The largest average that the next period may have: BURST; LIM after an excursion of 100 periods; what is left of the 10 ms window. -/
def State.powerCap (s : State) : Nat :=
  let run := (s.b.pwr.takeWhile fun p => decide (s.limW < p)).length
  min (if 100 ≤ run then s.limW else s.burstW) (1000 * s.limW - (s.b.pwr.take 999).sum)

/-- POWER_PERIOD (R472): a period of 10 µs ends. Its average is the draw that the stretched clocks leave. Every 100 periods give a 1 ms
average. -/
def execPowerPeriod (avg : Nat) (s : State) : Host.Outcome State Fault Refusal :=
  .next (
    let p := min avg s.powerCap
    let l := p :: s.b.pwr.take 998
    if s.b.pwrN + 1 < 100 then { s with b := { s.b with pwr := l, pwrN := s.b.pwrN + 1 } }
    else
      let a := (l.take 100).sum / 100
      let s1 : State := { s with b := { s.b with pwr := l, pwrN := 0 } }
      let s2 := (s1.setFld rPwrStat 47 32 a).setFld rPwrStat 63 48 (max a (s.fld rPwrStat 63 48))
      if s.fld rPwr 15 0 < a ∧ s.fld rPwrStat 1 1 = 0 then (s2.setFld rPwrStat 1 1 1).msi 4 else s2)

/-- A write of HOST_PWRSTAT: THR is cleared by a one, CLR clears PMAX. -/
def State.pwrStatWrite (s : State) (v : Nat) : State :=
  let s1 := if v.testBit 1 then s.setFld rPwrStat 1 1 0 else s
  if v.testBit 0 then s1.setFld rPwrStat 63 48 0 else s1
/-- HOST_PWRSTAT_CLR: a write that sets CLR. -/
def execHostPwrstatClr (v : BitVec 64) (s : State) : Host.Outcome State Fault Refusal := .next (if v.getLsbD 0 then s.pwrStatWrite v.toNat else s)

/-! ### Supply sag (R473) -/

/-- SUPPLY_SAG: a droop stretches the cluster's clock and is counted. -/
def execSupplySag (k : Nat) (s : State) : Host.Outcome State Fault Refusal :=
  .next (if 12 ≤ k || s.b.sag.contains k then s
    else ({ s with b := { s.b with sag := insertBy (fun a b => decide (a ≤ b)) k s.b.sag } } : State).satInc (rSag k) 0 1)
/-- SUPPLY_RECOVERY: the stretch ends. -/
def execSupplyRecovery (k : Nat) (s : State) : Host.Outcome State Fault Refusal :=
  .next { s with b := { s.b with sag := s.b.sag.filter (· != k) } }
/-- HOST_SAG_CLEAR. -/
def execHostSagClear (k : Nat) (s : State) : Host.Outcome State Fault Refusal := .next (if 12 ≤ k then s else s.setReg (rSag k) 0)

/-! ### Power gates (R451, R474) -/

def State.gateAsked (s : State) (k : Nat) : Bool := (s.fld rPgate 11 0).testBit k

/-- A write of HOST_PGATE.REQ. A request that is taken back ends its wait for the drain. -/
def State.pgateWrite (s : State) (v : Nat) : State :=
  let s1 := s.setFld rPgate 11 0 v
  { s1 with b := { s1.b with gating := s1.b.gating.filter fun g => v.testBit g.1 } }
/-- HOST_PGATE_REQUEST: a write that sets a REQ bit. -/
def execHostPgateRequest (v : BitVec 64) (s : State) : Host.Outcome State Fault Refusal :=
  .next (if (List.range 12).any fun k => v.getLsbD k && !s.gateAsked k then s.pgateWrite v.toNat else s)
/-- HOST_PGATE_RELEASE: a write that clears a REQ bit. -/
def execHostPgateRelease (v : BitVec 64) (s : State) : Host.Outcome State Fault Refusal :=
  .next (if (List.range 12).any fun k => !v.getLsbD k && s.gateAsked k then s.pgateWrite v.toNat else s)

/-- A physical cluster holds no workgroup and no fork task, running or in a deque. -/
def State.clusterEmpty (s : State) (k : Nat) : Bool :=
  !(s.c.wgs.any fun g => clusOf g.core == k) && !(s.c.warps.any fun w => clusOf (w.wid / 80) == k) &&
  (List.range 16).all fun i => s.dequeLen (16 * k + i) == 0

/-- The gate closes: the records that are left are discarded, and the next record made counts them. -/
def State.gateNow (s : State) (k : Nat) : State :=
  let b := s.traceBuf k
  let s1 := (s.setTraceBuf { b with recs := [], lost := b.lost + b.recs.length }).setFld rPgate (16 + k) (16 + k) 1
  { s1 with b := { s1.b with gating := s1.b.gating.filter fun g => g.1 != k } }

/-- CLUSTER_GATED (R451, R474): an empty cluster whose gate is requested waits at most 160,000 clocks for its trace drain. -/
def execClusterGated (k : Nat) (s : State) : Host.Outcome State Fault Refusal :=
  .next (if 12 ≤ k || !s.gateAsked k || s.gated k || !s.clusterEmpty k then s
    else if (s.traceBuf k).recs.isEmpty then s.gateNow k
    else match s.b.gating.find? fun g => g.1 == k with
      | none => { s with b := { s.b with gating := s.b.gating ++ [(k, s.clk)] } }
      | some g => if g.2 + 160000 ≤ s.clk then s.gateNow k else s)

/-- CLUSTER_POWER_UP (R50, R474): the cluster is ready, and its clock phase begins again. -/
def execClusterPowerUp (k : Nat) (s : State) : Host.Outcome State Fault Refusal :=
  .next (if 12 ≤ k || s.gateAsked k || !s.gated k then s
    else
      let s1 := s.setFld rPgate (16 + k) (16 + k) 0
      { s1 with b := { s1.b with phase := insertBy (fun a b => decide (a.1 ≤ b.1)) (k, s.clk) (s.b.phase.filter fun p => p.1 != k) } })

/-! ### Resets (R470) -/

/-- What a reset leaves: the module's strap, the environments, and the messages already sent. -/
def State.afterReset (s : State) (mem : List Cell) (pois : List Nat) : State :=
  let r := State.reset
  { r with free := s.free, m := { r.m with mem := mem, pois := pois, peer := s.m.peer, host := s.m.host }, b := { r.b with pkg := s.b.pkg, sent := s.b.sent } }
/-- COLD_RESET. -/
def execColdReset (s : State) : Host.Outcome State Fault Refusal := .next (s.afterReset [] [])
/-- FUNCTION_LEVEL_RESET: memory contents and poison marks stay. -/
def execFunctionLevelReset (s : State) : Host.Outcome State Fault Refusal := .next (s.afterReset s.m.mem s.m.pois)
/-- RESET_COMPLETE: RDY is set. -/
def execResetComplete (s : State) : Host.Outcome State Fault Refusal := .next (s.setFld rHostStat 0 0 1)

end Sys2Proof.Machine
end

