-- ==== Sys2Proof/Machine/Replay.lean ====
section
/-! DEFINITION. Record and replay (R459 to R461): DBG_RPCTL, checkpoints, the start of a replay. -/

namespace Sys2Proof.Machine
open Sys2Proof

/-- Clocks of a millisecond (R2, R459). -/
def msClocks : Nat := 2500000

/-- The live regions of the recorded ASID. -/
def State.asidRegions (s : State) : List Region := s.l.regions.filter fun r => r.asid == s.fld rRpctl 63 48

/-- The pages below a table of a level (R209 to R215), with the virtual address that reaches it. -/
def State.pagesFrom (s : State) (tenant : Nat) : Nat → Nat → Nat → Nat → List Pte
  | 0, _, _, _ => []
  | f + 1, lvl, t, va =>
    (List.range (tableSize lvl / 8)).flatMap fun i =>
      let a := t + 8 * i
      let va' := va + i * 2 ^ (match lvl with | 0 => 39 | 1 => 30 | 2 => 21 | _ => 16)
      match (if s.populated a then s.homeRead tenant a 8 else .ok 0) with
      | .error _ => []
      | .ok e =>
        if e % 2 == 1 && s.leafOk lvl e then [pteOf lvl va' e a]
        else if e % 2 == 1 && tableOk lvl e then s.pagesFrom tenant f (lvl + 1) (slice e 51 8 * 256) va'
        else []

/-- Every page of the ASID in pod memory. -/
def State.asidPages (s : State) : List Pte :=
  match s.asidRegions with
  | r :: _ => (s.pagesFrom r.tenant 4 0 r.ttb 0).filter fun p => p.plc != 2
  | [] => []

/-- A place in the checkpoint area. -/
def State.ckptAddr (s : State) (k kind n : Nat) : Nat := s.fld (rRpctl + 16) 11 0 * 2 ^ 40 + Config.ckptPlace k kind n % 2 ^ 40

/-- One page is written to the checkpoint area, and its DTY cleared. -/
def State.ckptPage (s : State) (k : Nat) (p : Pte) : State :=
  let s1 := s.putImg (s.ckptAddr k 0 (p.page / 2 ^ 16)) [(0, 2 ^ p.size, s.rdNat (p.addr p.page) (2 ^ p.size))]
  let e := s1.rdNat p.entry 8
  if e.testBit 9 then s1.devWrite p.entry 8 (e - 2 ^ 9) else s1

/-- The waiting clusters of the ASID that hold save blocks. -/
def State.ckptClusters (s : State) : List Waiting :=
  s.l.waiting.filter fun w => w.saved.isSome && s.asidRegions.any fun r => r.num == w.region

/-- The save blocks of a cluster are written to the checkpoint area. -/
def State.ckptBlocks (s : State) (k : Nat) (w : Waiting) : State :=
  match s.region? w.region with
  | none => s
  | some r => (w.saved.getD []).foldl (fun s i =>
      s.putImg (s.ckptAddr k 1 (r.num * 2 ^ 20 + i)) [(0, r.wsz, s.rdNat (r.sav + r.wsz * i) r.wsz)]) s

/-- No workgroup and no fork task of the ASID is on a core. -/
def State.ckptIdle (s : State) : Bool := s.asidRegions.all fun r => !(s.c.warps.any fun w => w.region == r.num) && !(s.c.wgs.any fun g => g.region == r.num)

/-- CHECKPOINT (R459): at its clock the ASID's workgroups are asked for pre-emption; once its last workgroup is saved and its last fork task
has ended, the dirty pages and the save blocks are written, and the workgroups may be resumed. -/
def execCheckpoint (s : State) : Host.Outcome State Fault Refusal :=
  .next (match s.b.ckpt with
    | none => s
    | some c =>
      if s.fld rRpctl 0 0 == 0 then s
      else if !c.busy then
        if s.clk < c.due then s
        else ({ s with b := { s.b with ckpt := some { c with busy := true } } } : State).syncRequests
      else if !s.ckptIdle then s
      else
        let ps := s.asidPages.filter fun p => c.k == 0 || (s.rdNat p.entry 8).testBit 9
        let s1 := ps.foldl (fun s p => s.ckptPage c.k p) s
        let s2 := s1.ckptClusters.foldl (fun s w => s.ckptBlocks c.k w) s1
        let s3 := s2.tlbDrop (s2.fld rRpctl 63 48) none
        let next : Ckpt := { k := c.k + 1, due := c.due + s3.fld rRpctl 47 38 * msClocks, busy := false, start := s3.b.logSeq,
                             clusters := s3.ckptClusters }
        ({ s3 with b := { s3.b with ckpt := some next } } : State).syncRequests)

/-- The start of a replay (R461): the saved workgroups of the last checkpoint resume, and the log is reproduced from there. -/
def State.replayStart (s : State) : State :=
  let cs := match s.b.ckpt with | some c => c.clusters | none => []
  let mine := fun (n : Nat) => s.asidRegions.any fun r => r.num == n
  let keys := (s.c.wgs.filter fun g => mine g.region).map (·.key)
  let s1 := s.purgeWgs keys
  let ws := (cs.filter fun w => mine w.region).map fun w =>
    { w with passed := none, blocking := false, victims := [], keep := [], parked := false }
  { s1 with
    c := { s1.c with clusters := s1.c.clusters.filter fun c => !(mine c.region) }
    l := { s1.l with waiting := (s1.l.waiting.filter fun w => !(mine w.region)) ++ ws }
    b := { s1.b with replayed := List.range (match s.b.ckpt with | some c => c.start | none => 0) } }

/-- A write of the low word of DBG_RPCTL (R459, R461). A reserved period keeps its value, and without a period no recording starts. -/
def State.rpctlWrite (s : State) (v : Nat) : State :=
  let en := s.fld rRpctl 0 0 == 1
  let rpl := s.fld rRpctl 1 1 == 1
  let t := if 1 ≤ slice v 47 38 ∧ slice v 47 38 ≤ 1000 then slice v 47 38 else s.fld rRpctl 47 38
  let on := v.testBit 0 && t != 0
  let s1 := ((s.setFld rRpctl 1 0 (bit on + 2 * bit (v.testBit 1))).setFld rRpctl 63 48 (slice v 63 48)).setFld rRpctl 47 38 t
  let s2 := if on && !en then
      { s1 with b := { s1.b with
        logSeq := 0, ckpt := some { k := 0, due := s.clk + s1.fld rRpctl 47 38 * msClocks, busy := false, start := 0, clusters := [] } } }
    else if !on then
      ({ s1 with b := { s1.b with ckpt := s1.b.ckpt.map fun c => { c with busy := false } } } : State).syncRequests
    else s1
  if v.testBit 1 && !rpl then s2.replayStart else s2

/-- DBG_RPCTL_RECORD: a write that sets EN. -/
def execDbgRpctlRecord (v : BitVec 64) (s : State) : Host.Outcome State Fault Refusal := .next (if v.getLsbD 0 then s.rpctlWrite v.toNat else s)
/-- DBG_RPCTL_REPLAY: a write that sets RPL. -/
def execDbgRpctlReplay (v : BitVec 64) (s : State) : Host.Outcome State Fault Refusal := .next (if v.getLsbD 1 then s.rpctlWrite v.toNat else s)

end Sys2Proof.Machine
end

