-- ==== Sys2Proof/Machine/Board.lean ====
section
/-! DEFINITION. The host interface: BAR0 register writes and reads, BAR2, the rings, the release of parked threads, HOME_CFG and FAB_CFG (R228,
R407, R462 to R469). -/

namespace Sys2Proof.Machine
open Sys2Proof

/-! ### HOME_CFG, FAB_CFG (R228, R407) -/

/-- A write of HOME_CFG: `v` is the value that it would leave, `clr` says that it writes a one to WERR. -/
def State.homeCfgWrite (s : State) (v : Nat) (clr : Bool) : State :=
  let way := s.b.hwayNew.getD s.hway
  let bad := slice v 10 8 == 7 || decide (12 < slice v 3 0) ||
    (s.fld rHostCtl 0 0 == 1 && (slice v 10 8 != s.plog || slice v 3 0 != s.hs)) || (slice v 31 16 != way && (List.range 8).any s.retOn)
  if bad then s.setFld rHomeCfg 7 7 1
  else
    let s1 := (s.setFld rHomeCfg 10 8 (slice v 10 8)).setFld rHomeCfg 3 0 (slice v 3 0)
    let s2 := if clr then s1.setFld rHomeCfg 7 7 0 else s1
    { s2 with b := { s2.b with hwayNew := if slice v 31 16 == s.hway then none else some (slice v 31 16) } }
/-- HOME_CFG_WRITE. -/
def execHomeCfgWrite (v : BitVec 64) (s : State) : Host.Outcome State Fault Refusal := .next (s.homeCfgWrite v.toNat (v.getLsbD 7))

/-- HWAY_CHANGE (R228): the lines of every way that changes class are written back and invalidated, and the new ways are in force. -/
def execHwayChange (s : State) : Host.Outcome State Fault Refusal :=
  .next (match s.b.hwayNew with
    | none => s
    | some w =>
      let s1 := (s.setL2 (s.m.l2.filter fun l => w.testBit l.way == s.hway.testBit l.way)).setFld rHomeCfg 31 16 w
      { s1 with b := { s1.b with hwayNew := none } })

/-- A write of FAB_CFG. -/
def State.fabCfgWrite (s : State) (v : Nat) (clr : Bool) : State :=
  let n := slice v 6 0
  let t := slice v 39 32
  let bad := n == 0 || decide (64 < n) || decide (t < 20) || decide (40 < t) || (s.fabEn && n != s.nmod) || decide (n < 2 ^ s.plog)
  if bad then s.setFld rFabCfg 8 8 1
  else
    let s1 := ((s.setFld rFabCfg 39 32 t).setFld rFabCfg 7 0 (slice v 7 0))
    (if clr then s1.setFld rFabCfg 8 8 0 else s1).relink s
/-- FAB_CFG_WRITE. -/
def execFabCfgWrite (v : BitVec 64) (s : State) : Host.Outcome State Fault Refusal := .next (s.fabCfgWrite v.toNat (v.getLsbD 8))

/-! ### Rings (R466, R467) -/

/-- A write of HOST_SUBQ_BASEn: `v` is the value that it would leave. -/
def State.subqBaseWrite (s : State) (n v : Nat) : State :=
  let log := slice v 4 0
  let bad := s.ringHead n != s.ringTail n || decide (log < 4) || decide (20 < log) || slice v 51 12 * 4096 % (8 * 2 ^ log) != 0
  if 8 ≤ n then s else if bad then s.sqErr else s.setReg (rSubqBase n) (BitVec.ofNat 64 (slice v 51 12 * 4096 + log))
/-- HOST_SUBQ_BASE_WRITE. -/
def execHostSubqBaseWrite (n : Nat) (v : BitVec 64) (s : State) : Host.Outcome State Fault Refusal := .next (s.subqBaseWrite n v.toNat)

/-- A write of TAIL of ring n. -/
def State.subqTailWrite (s : State) (n v : Nat) : State :=
  if 8 ≤ n then s
  else if 2 ^ s.fld (rSubqBase n) 4 0 < (v + 2 ^ 32 - s.ringHead n) % 2 ^ 32 then s.sqErr else s.setFld (rSubqPtr n) 63 32 v
/-- HOST_SUBQ_TAIL_WRITE. -/
def execHostSubqTailWrite (n : Nat) (v : BitVec 32) (s : State) : Host.Outcome State Fault Refusal := .next (s.subqTailWrite n v.toNat)

/-! ### HOST_CTL, HOST_REL (R465, R469) -/

def State.ctlWrite (s : State) (v : Nat) : State := s.setFld rHostCtl 0 0 v
/-- HOST_CTL_WRITE. -/
def execHostCtlWrite (v : BitVec 64) (s : State) : Host.Outcome State Fault Refusal := .next (s.ctlWrite v.toNat)

/-- A parked thread goes on at its resume address, with a fresh yield budget. -/
def releaseThread (y : Nat) (t : Thread) : Thread :=
  { t with
    hostPark := false, spills := t.spills.map Spill.retry, pc := (t.faults.head?.map fun f => f.resume % 2 ^ 57).getD t.pc, faults := t.faults.drop 1, ycnt := 0, ybud := y,
    wait := .none, park := false, replay := false, stage := 0, snap := [], walked := [], age := none, bundle := none }

/-- A release of region r (R469, R327, R311). -/
def State.release (s : State) (n : Nat) : State :=
  match s.region? n with
  | none => s
  | some r =>
    if r.state != 6 then s
    else
      let parked := (s.c.threads.filter fun t => t.region == n && t.hostPark).map (·.tid)
      let s1 := s.setThreads (s.c.threads.map fun t => if parked.contains t.tid then releaseThread r.y t else t)
      let keys := (s1.c.wgs.filter fun g => g.region == n).map (·.key)
      let s2 := keys.foldl (fun s k => (List.range 17).foldl (fun s b => match s.episode k b with
        | some e => if e.timedOut then s.abandon k b false else s
        | none => s) s) s1
      let s3 : State := { s2 with l := { s2.l with waiting := s2.l.waiting.map fun w => if w.region == n then { w with parked := false } else w } }
      let s4 := (s3.modRegion n fun r => { r with state := 2 }).devWrite (r.rcb + 148) 1 2
      parked.foldl State.settle s4
/-- HOST_REL. -/
def execHostRel (v : BitVec 64) (s : State) : Host.Outcome State Fault Refusal := .next (s.release (v.toNat % 2 ^ 32))

/-! ### BAR0 (R463, R465) -/

/-- Bits hi to lo. -/
def bitsMask (hi lo : Nat) : Nat := 2 ^ (hi + 1) - 2 ^ lo

/-- The RW bits of a register word whose fields take any value. -/
def rwMask (w : Nat) : Nat :=
  if w == rWinBase then bitsMask 51 36 + bitsMask 7 7 + bitsMask 5 0
  else if w == rPwr then bitsMask 47 0
  else if w == rTovf then bitsMask 51 29
  else if 0x1000 ≤ w && decide (w < 0x9000) then if w % 16 == 0 then bitsMask 63 0 else bitsMask 32 0
  else if w == rFabWbcap then bitsMask 29 16 + bitsMask 12 0
  else if w == rFabTmap then bitsMask 51 17 + 1
  else if w == rFabPdt then bitsMask 51 26 + 1
  else if 0x20100 ≤ w && decide (w < 0x20300) then if w % 16 == 0 then bitsMask 61 32 + bitsMask 17 16 + bitsMask 12 0 else bitsMask 29 0
  else if 0x108000 ≤ w && decide (w < 0x126000) then if w % 16 == 0 then bitsMask 63 58 + bitsMask 4 0 else bitsMask 56 0
  else if 0x130000 ≤ w && decide (w < 0x131800) then bitsMask 47 16 + bitsMask 9 8 + bitsMask 4 0
  else if 0x13C100 ≤ w && decide (w < 0x13C1C0) then if w % 16 == 0 then bitsMask 51 12 + bitsMask 7 2 + 1 else bitsMask 63 32
  else if w == rRpctl + 8 then bitsMask 51 6
  else if w == rRpctl + 16 then bitsMask 11 0
  else if 0x140000 ≤ w && decide (w < 0x141E00) then bitsMask 15 0
  else 0

/-- A field of a register word has a reserved value: such a field keeps its value. Its bits. -/
def reservedField (w v : Nat) : Nat :=
  if 0x108000 ≤ w && decide (w < 0x126000) && w % 16 == 0 && decide (56 < slice v 63 58) then bitsMask 63 58
  else if 0x13C100 ≤ w && decide (w < 0x13C1C0) && w % 16 == 0 && (decide (slice v 7 2 < 12) || decide (40 < slice v 7 2)) then bitsMask 7 2
  else if w == rRpctl + 8 && (decide (slice v 11 6 < 12) || decide (40 < slice v 11 6)) then bitsMask 11 6
  else 0

/-- The W1C bits of a register word without a row of its own. -/
def w1cMask (w : Nat) : Nat :=
  if w == rHostStat then 2
  else if w == rHomeErrAdr then bitsMask 63 63
  else if 0x132000 ≤ w && decide (w < 0x135000) && w % 64 == 0 then 1
  else 0

/-- The core whose register a BAR0 offset holds. -/
def coreOfReg (w : Nat) : Option Nat :=
  if 0x100000 ≤ w && decide (w < 0x101E00) then some ((w - 0x100000) / 8 / 5)
  else if 0x102000 ≤ w && decide (w < 0x105C00) then some ((w - 0x102000) / 16 / 5)
  else if 0x108000 ≤ w && decide (w < 0x126000) then some ((w - 0x108000) / 128 / 5)
  else if 0x130000 ≤ w && decide (w < 0x131800) then some ((w - 0x130000) / 32)
  else if 0x132000 ≤ w && decide (w < 0x135000) then some ((w - 0x132000) / 64)
  else if 0x136000 ≤ w && decide (w < 0x136600) then some ((w - 0x136000) / 8)
  else if 0x138000 ≤ w && decide (w < 0x13BC00) then some ((w - 0x138000) / 16 / 5)
  else if 0x140000 ≤ w && decide (w < 0x141E00) then some ((w - 0x140000) / 8 / 5)
  else none

/-- The register belongs to a core of a gated cluster (R474). -/
def State.regGated (s : State) (w : Nat) : Bool := match coreOfReg w with | some c => s.gated (clusOf c) | none => false

/-- An MSI-X vector whose mask bit is now clear sends its pending message (R468). -/
def State.unmasked (s : State) (w : Nat) : State :=
  let v := (w - 0x1000) / 16
  if 0x1000 ≤ w && decide (w < 0x9000) && s.b.msi.contains v && !s.msiMasked v then
    { s with b := { s.b with msi := s.b.msi.filter (· != v), sent := s.b.sent ++ [v] } }
  else s

/-- A write of plain fields: RW bits are set, but for a field given a reserved value, and ones in W1C bits clear them. -/
def State.plainWrite (s : State) (w v act : Nat) : State :=
  let cur := (s.reg w).toNat
  let rw := rwMask w &&& (2 ^ 64 - 1 - reservedField w v)
  let keep := cur &&& (2 ^ 64 - 1 - rw - w1cMask w)
  (s.setReg w (BitVec.ofNat 64 ((v &&& rw) ||| keep ||| (cur &&& w1cMask w &&& (2 ^ 64 - 1 - act))))).unmasked w

/-- A write of the 8-byte word at `w`: `v` is the value that it would leave, `act` the written bytes alone, `lo` and `hi` the halves written. -/
def State.wordWrite (s : State) (w v act : Nat) (lo hi : Bool) : State :=
  if s.regGated w then s
  else if w == rHostCtl then s.ctlWrite v
  else if w == rHostRel then if lo then s.release (act % 2 ^ 32) else s
  else if w == rPwrStat then s.pwrStatWrite act
  else if w == rPgate then s.pgateWrite (v % 2 ^ 12)
  else if 0x100 ≤ w && decide (w < 0x180) then
    let n := (w - 0x100) / 16
    if w % 16 == 0 then s.subqBaseWrite n v else if hi then s.subqTailWrite n (act / 2 ^ 32) else s
  else if 0x200 ≤ w && decide (w < 0x260) then s.setReg w 0
  else if w == rHomeCfg then if lo then s.homeCfgWrite v (act.testBit 7) else s
  else if w == rFabCfg then s.fabCfgWrite v (act.testBit 8)
  else if w == rFabPcinv then s.pcinv
  else if 0x20400 ≤ w && decide (w < 0x20600) then if lo then s.linkWrite ((w - 0x20400) / 8) v else s
  else if 0x100000 ≤ w && decide (w < 0x101E00) then if lo then s.pctlWrite ((w - 0x100000) / 8) v else s
  else if 0x136000 ≤ w && decide (w < 0x136600) then s.setReg w 0
  else if 0x138000 ≤ w && decide (w < 0x13BC00) then if w % 16 == 0 && lo then s.stepWrite ((w - 0x138000) / 16) v else s
  else if 0x13C000 ≤ w && decide (w < 0x13C060) then
    let k := (w - 0x13C000) / 8
    let s1 := if act.testBit 0 then s.clStop k else s
    if act.testBit 1 then s1.clGo k else s1
  else if w == rDump then s.dumpWrite (if lo then v else v / 2 * 2)
  else if w == rRpctl then s.rpctlWrite v
  else if 0x142000 ≤ w && decide (w < 0x142400) then if w % 128 == 0 then s.monWrite ((w - 0x142000) / 128) (if hi then v else v % 2 ^ 32) else s
  else s.plainWrite w v act

/-- A BAR0 write of 4 or 8 bytes, aligned (R463). -/
def State.barWrite (s : State) (off size v : Nat) : State :=
  if !(size == 4 || size == 8) || off % size != 0 then s
  else
    let w := off / 8 * 8
    let cur := (s.reg w).toNat
    if size == 8 then s.wordWrite w (v % 2 ^ 64) (v % 2 ^ 64) true true
    else if off % 8 == 0 then s.wordWrite w (cur / 2 ^ 32 * 2 ^ 32 + v % 2 ^ 32) (v % 2 ^ 32) true false
    else s.wordWrite w (cur % 2 ^ 32 + v % 2 ^ 32 * 2 ^ 32) (v % 2 ^ 32 * 2 ^ 32) false true

/-- REGISTER_WRITE. -/
def execRegisterWrite (off size : Nat) (v : BitVec 64) (s : State) : Host.Outcome State Fault Refusal := .next (s.barWrite off size v.toNat)

/-- The 8-byte word that a BAR0 read sees (R463, R465). -/
def State.wordRead (s : State) (w : Nat) : Nat :=
  if s.regGated w || w == rLink s.b.pkg then 0
  else if 0x13C000 ≤ w && decide (w < 0x13C060) then bit (s.clPend ((w - 0x13C000) / 8)) * 4
  else if 0x9000 ≤ w && decide (w < 0x9100) then bitSum 64 fun i => s.b.msi.contains (8 * (w - 0x9000) + i)
  else (s.reg w).toNat
/-- A BAR0 read: an access of another size, or misaligned, reads zero. -/
def State.barRead (s : State) (off size : Nat) : Nat :=
  if !(size == 4 || size == 8) || off % size != 0 then 0 else s.wordRead (off / 8 * 8) / 2 ^ (8 * (off % 8)) % 2 ^ (8 * size)

/-! ### BAR2 (R464) -/

/-- The qualified physical address of a BAR2 offset, or none for an access that is not performed. -/
def State.winAddr (s : State) (x : Nat) : Option Nat :=
  let pa := (s.fld rWinBase 51 36 * 2 ^ 36 + x) % 2 ^ 52
  let own := s.fld rWinBase 5 0
  let q := if s.fld rWinBase 7 7 == 1 then qualify 1 own pa else pa
  if s.populated q && decide (s.homeOf q < s.nmod) then some q else none

/-- A part of a host read, inside one sector (R464): its bytes, none of them promised where the line cannot be reached, and whether it met a mark. -/
def State.hostPart (s : State) (x n : Nat) : State × List Byte × Bool :=
  match (if 2 ^ 36 ≤ x then none else s.winAddr x) with
  | none => (s, List.replicate n 0, false)
  | some q =>
    let free := (List.range n).map fun i => BitVec.ofNat 8 (Config.poisonedData s.free (x % 32 + i))
    match s.engRead 0 q n with
    | (s1, .ok v) => (s1, (List.range n).map fun i => BitVec.ofNat 8 (byteOf v i), false)
    | (s1, .error c) => ({ s1 with free := s1.free + 1 }, free, c == .poison)

/-- HOST_WINDOW_READ (R464): zeros before RDY and where the access is not performed; a touched poisoned sector gives a poisoned completion, whose
bytes are free, and so are the bytes of a line that cannot be reached. -/
def execHostWindowRead (off size : Nat) (s : State) : Host.Outcome State Fault Refusal :=
  .next (
    if s.fld rHostStat 0 0 == 0 then { s with b := { s.b with hostRead := (List.replicate size 0, false) } }
    else
      let (s1, bs, ep) := (sectorParts off size).foldl (fun (a : State × List Byte × Bool) q =>
        let r := a.1.hostPart q.1 q.2.2
        (r.1, a.2.1 ++ r.2.1, a.2.2 || r.2.2)) (s, [], false)
      let free := (List.range size).map fun i => BitVec.ofNat 8 (Config.poisonedData s1.free i)
      { s1 with free := s1.free + 1, b := { s1.b with hostRead := (if ep then free else bs, ep) } })

/-- Host bytes, sector by sector: a part that is not performed, or that covers part of a poisoned sector, is dropped. -/
def State.hostWrite (s : State) (off : Nat) : Nat → List (BitVec 8) → State
  | 0, _ => s
  | k + 1, ds =>
    let n := min ds.length (32 - off % 32)
    let x := (ds.take n).foldr (fun b a => b.toNat + 256 * a) 0
    let s1 := match (if 2 ^ 36 ≤ off then none else s.winAddr off) with | some q => (s.engWrite 0 q n x).1 | none => s
    if ds.length ≤ n then s1 else s1.hostWrite (off + n) k (ds.drop n)

/-- HOST_WINDOW_WRITE (R464). -/
def execHostWindowWrite (off : Nat) (data : List (BitVec 8)) (s : State) : Host.Outcome State Fault Refusal :=
  .next (if s.fld rHostStat 0 0 == 0 || data.isEmpty then s else s.hostWrite off (data.length / 32 + 2) data)

end Sys2Proof.Machine
end

