-- ==== Sys2Proof/Machine/Issue.lean ====
section
/-! DEFINITION. The issue group: `nop`, `pause`, `loop`, `lbrk` (R61 to R70). -/

namespace Sys2Proof.Machine
open Sys2Proof

/-- R61. -/
def execNop (x : S64A) (s : State) : Host.Outcome State Fault Refusal := s.run (.nop x) fun s _ => (s, [])

/-- R62: the thread leaves its bundle and is not ready until clock c + n. -/
def execPause (x : S64A) (s : State) : Host.Outcome State Fault Refusal :=
  s.run (.pause x) fun s ts => (s, ts.map fun t => (t, .wait (.pause (s.clk + x.i16.toNat))))

/-- The loop state that a loop instruction at `a` gives (R66). -/
def loopStart (x : LoopA) (a trip : Nat) (offs : List Nat) (blocks : List (Nat × Nat)) : LoopSt :=
  { act := true, ladr := a, trip := trip, pass := 0, word := x, offs := offs, blocks := blocks }

/-- The trip count: TRIP, or the `w` register's low half (R66). -/
def State.tripOf (s : State) (x : LoopA) (tid : Nat) : Nat :=
  if x.tm then (s.readW tid (x.trip.extractLsb' 0 6).toNat).toNat % 2 ^ 32 else x.trip.toNat

/-- R66, once the body has passed its check: a thread whose guard is false goes to the end address, and so does a trip of 0. -/
def loopEffect (x : LoopA) (offs : List Nat) (blocks : List (Nat × Nat)) : Body := fun s ts =>
  let a := s.cur.pc
  let stop := a + 32 + offs.getLastD 0
  let go := ts.filter fun t => s.tripOf x t != 0
  let s1 := s.setThreads (s.c.threads.map fun t =>
    if go.contains t.tid then { t with loop := loopStart x a (s.tripOf x t.tid) offs blocks } else t)
  (s1, (s.cur.tids.filter fun t => !s.guard t x.g).map (fun t => (t, .jump stop)) ++
    ts.map fun t => (t, .jump (if go.contains t then a + 32 else stop)))

/-- R64 to R67: the body is fetched and checked for the whole bundle before anything else, whatever the guards (R65). -/
def execLoop (x : LoopA) (s : State) : Host.Outcome State Fault Refusal :=
  if !(Instr.loop x).wfIn (s.cur.unit % 5 == 4) then s.run (.loop x) fun s _ => (s, [])
  else match s.loopBody (s.cur.tids.headD 0) (s.cur.pc + 32) x (x.nb.toNat + 1) 0 (s.cur.pc + 32) with
    | (s1, .error f) => .next (s1.raiseAll s.cur.tids f)
    | (s1, .ok (offs, blocks)) => s1.run (.loop x) (loopEffect x offs blocks)

/-- R63: leave the loop, or ILLEGAL outside one. -/
def execLbrk (x : S64A) (s : State) : Host.Outcome State Fault Refusal :=
  s.run (.lbrk x) fun s ts =>
    (s.setThreads (s.c.threads.map fun t => if ts.contains t.tid then { t with loop := { t.loop with act := false } } else t),
     ts.map fun t =>
       let l := (s.thread t).loop
       (t, if l.act then .jump l.endAddr else .fault (flt .illegal)))

end Sys2Proof.Machine
end

