-- ==== Sys2Proof/Machine/Clock.lean ====
section
/-! DEFINITION. One clock of the module: which internal events take place, which bundles issue (R50 to R53, R82), and what the end of the clock
does. The spec fixes no time of an internal event; a free choice says in which clock each takes place (log entries 2 and 5). -/

namespace Sys2Proof

/-! ### Groups of instructions (R43, R44, R52, R142) -/

/-- A uniform form (R44), a `mov`, `movi` or `movh` with a `w` destination among them (R98). -/
def Instr.uniform (i : Instr) : Bool :=
  let group := (decide (0x40 ≤ i.opc) && decide (i.opc ≤ 0xA7)) || [0x20, 0x21, 0x22].contains i.opc
  match i.shape with
  | .v96 x => (match x.d with | .w _ => true | _ => false) && group
  | .m128 x => (match x.d with | .w _ => true | _ => false) && group
  | _ => false

/-- The integer, float, special-function, cross-lane, predicate and loop-nest groups, but for the uniform forms. -/
def Instr.laneEngine (i : Instr) : Bool := decide (0x40 ≤ i.opc) && decide (i.opc ≤ 0xE2) && !i.uniform
/-- A binary64 instruction of the float group, which a partition issues at a quarter of the rate (R113). -/
def Instr.wide (i : Instr) : Bool :=
  decide (0x80 ≤ i.opc) && decide (i.opc ≤ 0x8B) && !i.uniform && match i.shape with | .v96 x => x.ty == .f64 | _ => false
/-- Tandem-eligible (R52). -/
def Instr.tandem (i : Instr) : Bool := i.laneEngine && decide (i.opc ≤ 0xD4) && i.opc != 0xA9 && i.opc != 0xAA

end Sys2Proof

namespace Sys2Proof.Machine
open Sys2Proof

/-! ### The next instruction of a thread -/

/-- What a fetched thread issues next: an instruction, a fault that it raises instead (R29, R42), or a body instruction with numbers that the loop steps
out of their range (R67), by slot. -/
inductive Decoded where
  | instr (i : Instr)
  | fault (f : FaultInfo)
  | range (i : Instr) (outs : List (Nat × Int))

def decodedOf (w : Nat) (outs : List (Nat × Int)) : Decoded :=
  match decode w with
  | .ok i => if outs.isEmpty then .instr i else .range i outs
  | .error _ => .fault (flt .illegal)

/-- The instruction at a thread's program counter, from its fetched block, stepped by its loop (R29, R31, R66). Each number that stays in its range
is checked as an encoded one before the others raise REGRANGE (R42, R67). -/
def Thread.decoded (t : Thread) : Decoded :=
  match t.fetch with
  | .none => .fault (flt .illegal)
  | .bad _ f => .fault f
  | .ok _ data =>
    match wordIn t.pc data with
    | none => .fault (fetchFlt .fetch t.pc)
    | some w =>
      match t.bodyPos with
      | none => decodedOf w []
      | some k => let r := stepWord t.loop.word k t.loop.pass w; decodedOf r.1 r.2

/-! ### Bundles that can issue (R51 to R53) -/

/-- The ready threads of bundle b of a unit, in ascending tid. -/
def State.bundleThreads (s : State) (n b : Nat) : List Thread := s.c.threads.filter fun t => unitOf t.tid == n && t.bundle == some b && s.ready t

/-- A partition issues no binary64 float instruction in the 3 clocks after one (R113). -/
def State.wideHeld (s : State) (n : Nat) : Bool := s.c.wideAt.any fun q => q.1 == n && decide (s.clk ≤ q.2 + 3)

/-- The bundles of a unit's window that can issue in this clock, the oldest first: their number and threads. A lane-engine instruction does not
issue while a loop nest runs in the partition (R142); a uniform form goes to the scalar pipe (R270). -/
def State.cands (s : State) (n : Nat) : List (Nat × List Thread) :=
  let nos := sortBy (fun a b => decide (a ≤ b)) ((s.c.threads.filter fun t => unitOf t.tid == n).filterMap (·.bundle)).dedup
  let nest := s.c.nests.any fun x => x.wid / 16 == n
  (nos.map fun b => (b, s.bundleThreads n b)).filter fun (q : Nat × List Thread) =>
    match q.2 with
    | [] => false
    | t :: _ => match t.decoded with
      | .instr i => !(nest && i.laneEngine) && !i.uniform && !(i.wide && s.wideHeld n)
      | _ => true

/-- The bundle that decoder 0 takes (R53): one with a thread of 8 losses, else the oldest. -/
def firstOf (cs : List (Nat × List Thread)) : Option (Nat × List Thread) :=
  (cs.find? fun (q : Nat × List Thread) => q.2.any fun t => t.losses == 8).or cs.head?

/-- The bundle that decoder 1 may take beside it: the oldest other one on other lanes with a tandem-eligible instruction, with its demand. No two
binary64 float instructions issue in one clock (R113). -/
def secondOf (first : Nat × List Thread) (cs : List (Nat × List Thread)) : Option ((Nat × List Thread) × Nat) :=
  let lanes := first.2.map fun t => laneOf t.tid
  let wide := match first.2.head?.map Thread.decoded with | some (.instr i) => i.wide | _ => false
  cs.findSome? fun q =>
    if q.1 == first.1 || q.2.any (fun t => lanes.contains (laneOf t.tid)) then none
    else match q.2.head?.map Thread.decoded with
      | some (.instr i) => if i.tandem && !(wide && i.wide) then some (q, i.demand) else none
      | _ => none

def Decoded.demand : Decoded → Nat
  | .instr i => i.demand
  | _ => 0

/-- The loss counts after the choice of a clock (R53); `loser` is the bundle that lost the arbitration. -/
def State.countLosses (s : State) (n : Nat) (cs : List (Nat × List Thread)) (loser : List Nat) : State :=
  let inCand := cs.flatMap fun q => q.2.map (·.tid)
  s.setThreads (s.c.threads.map fun t =>
    if unitOf t.tid != n then t
    else if loser.contains t.tid then { t with losses := t.losses + 1, lostAt := some s.clk }
    else if inCand.contains t.tid then t
    else { t with losses := 0 })

/-! ### Issue -/

/-- What a move comes to: a next state, or the execution of an instruction in a state. -/
inductive Begun where
  | done (s : State)
  | exec (i : Instr) (s : State)

/-- The threads of a bundle whose instruction would exceed their budget (R82). -/
def State.overTids (s : State) (d : Decoded) (ts : List Nat) : List Nat :=
  ts.filter fun t => s.overBudget t (match d with | .instr i => i.opc == 0x16 && s.guards t i | _ => false)

/-- An issue that comes before the exits of its clock. -/
def Move.isIssue : Move → Bool
  | .issue _ | .second _ _ | .pipe _ _ => true
  | _ => false

/-- Exits come after the other issues of a clock (R278, R316, R396): an `exit` that others follow waits for them. -/
def Decoded.waitsForOthers (d : Decoded) (rest : List Move) : Bool :=
  match d with
  | .instr i => i.opc == 0x15 && rest.any Move.isIssue
  | _ => false

/-- A bundle issues: its instruction is executed, or the fault that stands in its place is raised (R42). Threads over budget first raise
YIELDOVR, and the move `m` is made again. -/
def State.issueBundle (s : State) (n : Nat) (ts : List Nat) (m : Move) : Begun :=
  match ts with
  | [] => .done s
  | t :: _ =>
    let d := (s.thread t).decoded
    let late := s.overTids d ts
    if !late.isEmpty then .done { s with agenda := late.map (fun t => Move.event (.yieldovr t)) ++ m :: s.agenda }
    else if d.waitsForOthers s.agenda then
      .done { s with agenda := s.agenda.takeWhile (· != .tick) ++ .last n ts :: s.agenda.dropWhile (· != .tick) }
    else
      let s1 := { s with cur := { unit := n, tids := ts, pc := (s.thread t).pc } }
      match d with
      | .instr i => .exec i (if i.wide then { s1 with c := { s1.c with wideAt := (n, s.clk) :: s.c.wideAt.filter fun q => q.1 != n } } else s1)
      | .fault f => .done (s1.raiseAll ts f)
      | .range i outs => .done (s1.runStepped i outs fun s _ => (s, []))

/-- The issue of a unit in this clock (R53); of the stepped bundle alone when a step is in progress (R444). -/
def State.issueUnit (s : State) (n : Nat) : Begun :=
  match (s.unit n).step with
  | some ts => s.issueBundle n (ts.filter fun t => s.stoppable (s.thread t)) (.issue n)
  | none =>
    let cs := s.cands n
    match firstOf cs with
    | none => .done (s.countLosses n cs [])
    | some first =>
      let ts := first.2.map (·.tid)
      let d := (s.thread (ts.headD 0)).decoded
      if !(s.overTids d ts).isEmpty then s.issueBundle n ts (.issue n)
      else
        let two := secondOf first cs
        let goes := match two with | some q => decide (q.2 + d.demand ≤ 4) | none => false
        let loser := match two with | some q => if goes then [] else q.1.2.map (·.tid) | none => []
        let more := match two with | some q => if goes then [Move.second n q.1.1] else [] | none => []
        let s1 := s.countLosses n cs loser
        { s1 with agenda := more ++ s1.agenda }.issueBundle n ts (.issue n)

/-! ### Internal events -/

/-- Events of threads and of results on their way. -/
def State.threadEvents (s : State) : List Instr :=
  let fetch : List Instr := (s.c.threads.filter fun t => !t.gone && !t.fetched).map fun t => Instr.instructionFetchComplete t.tid
  let land_ : List Instr := (List.range s.c.pend.length).reverse.map Instr.resultWriteback
  let spill : List Instr := (s.c.threads.filter fun t => !t.spilled).map fun t => Instr.spillComplete t.tid
  let fill : List Instr := (s.c.threads.filter fun t => t.wait == .refill).map fun t => Instr.refillComplete t.tid
  let nest : List Instr := s.c.nests.map fun x => Instr.nestComplete x.wid
  [fetch, land_, spill, fill, nest].flatten

/-- Events of the path of a request, of walks and of peer links (R221, R403 to R431). -/
def State.pathEvents (s : State) : List Instr :=
  let walk : List Instr := (s.m.walks.map (·.die)).dedup.map Instr.walkStart
  let done : List Instr := (List.range s.m.walks.length).reverse.map Instr.walkComplete
  let toA : List Instr := (s.m.colQ.map (·.core)).dedup.map Instr.stageAArrival
  let toB : List Instr := (s.b.pkg :: (s.m.rxQ.map (·.w.src)).dedup).map Instr.stageBArrival
  let home : List Instr := (s.m.bQ.map fun r => agentOf r.w.xpa).dedup.map fun a => Instr.homePerform a .clean
  let word : List Instr := (s.m.held.map (·.agent)).dedup.map Instr.pdtWordFill
  let split : List Instr := s.m.anss.map fun a => Instr.answerSplit a.req.id
  let back : List Instr := s.m.anss.map fun a => Instr.memoryAnswer a.req.id
  let lost : List Instr := (s.m.aQ.filter fun r => !s.reachable r.w.xpa).map fun r => Instr.answerTimeout r.id
  let send : List Instr := s.b.links.flatMap fun l => (List.range 5).map fun v => Instr.flitSend l.n v
  [walk, done, toA, toB, home, word, split, back, lost, send].flatten

/-- Events of the table, matrix and queue engines and of the graph of a workgroup. -/
def State.wgEvents (s : State) (g : Wg) : List Instr :=
  let nodes : List Nat := List.range (s.nodeNN g)
  let table : List Instr := if g.table.jobs.isEmpty then [] else [Instr.tblldWriteStart g.key, Instr.tblldComplete g.key]
  let stream : List Instr := if (g.mx.stream.head?.map s.streamReady).getD false then [Instr.matrixStreamComplete g.key] else []
  let start : List Instr := (nodes.filter fun i => nSt (s.node g.key i) == 2).map (Instr.nodeStart g.key)
  let done : List Instr := (nodes.filter fun i => nSt (s.node g.key i) == 3).map (Instr.nodeComplete g.key)
  [table, stream, start, done].flatten

/-- A thread waits at a `tjoin` and makes the reads of its lanes (R302). -/
def Thread.leadsJoin (t : Thread) : Bool := match t.wait with | .tjoin _ lanes => lanes.head? == some t.tid | _ => false

/-- Events of the engines of cores and clusters. -/
def State.engineEvents (s : State) : List Instr :=
  let wgs : List Instr := s.c.wgs.flatMap s.wgEvents
  let copies : List Instr := s.c.xfers.map fun x => Instr.copyTransferEnd x.id
  let give : List Instr := s.c.clusters.map fun c => Instr.subtaskDispatch c.id
  let take : List Instr := s.c.clusters.map fun c => Instr.preemptionTaken c.id
  let tasks : List Instr := (List.range s.c.subtasks.length).reverse.map Instr.subtaskComplete
  let jobs : List Instr := s.c.jobs.map fun j => Instr.l2wbComplete j.id
  -- an owner's pop comes before a thief's steal (R27)
  let owners := (List.range 192).filter fun c => s.dequeLen c != 0
  let forks : List Instr := if owners.isEmpty then [] else (owners ++ (List.range 192).filter fun c => !owners.contains c).map Instr.forkTaskStart
  let joins : List Instr := (s.c.threads.filter Thread.leadsJoin).map fun t => Instr.tjoinReread t.tid
  [wgs, copies, give, take, tasks, jobs, forks, joins].flatten

/-- Events of the debug unit and of the board. -/
def State.boardEvents (s : State) : List Instr :=
  let step : List Instr := (s.b.units.filter fun u => u.step.isSome).map fun u => Instr.stepComplete u.n
  let dump : List Instr := if s.b.dump.isSome then [Instr.dumpComplete] else []
  let drain : List Instr := (s.b.traces.filter fun b => !b.recs.isEmpty).map fun b => Instr.traceDrain b.k
  let ckpt : List Instr := if s.b.ckpt.isSome then [Instr.checkpoint] else []
  let ways : List Instr := if s.b.hwayNew.isSome then [Instr.hwayChange] else []
  let gate : List Instr := ((List.range 12).filter fun k => s.gateAsked k && !s.gated k).map Instr.clusterGated
  let up : List Instr := ((List.range 12).filter fun k => !s.gateAsked k && s.gated k).map Instr.clusterPowerUp
  [step, dump, drain, ckpt, ways, gate, up].flatten

/-- Events that take place in this clock whatever the free choice: the launch engine's, the pushes that waited, the ends of pauses, the reads of join
counters, the level samples, the answers that are late (R62, R278, R291, R296, R302, R413, R458). -/
def State.clockEvents (s : State) : List Instr :=
  let block : List Instr := (List.range s.l.waiting.length).map Instr.clusterBlocking
  let push : List Instr := (s.c.wgs.filter fun g => g.dq.pend.isSome).map fun g => Instr.deferredPush g.key
  let pause : List Instr := (s.c.threads.filter fun t => match t.wait with | .pause c => decide (c ≤ s.clk) | _ => false).map fun t => Instr.pauseExpiry t.tid
  let joins : List Instr := if s.clk % 1024 == 0 then (s.c.threads.filter Thread.leadsJoin).map fun t => Instr.tjoinReread t.tid else []
  let mons : List Instr := (List.range 8).map Instr.monitorLevelSample
  let late : List Instr := s.lateReqs.map fun r => Instr.answerTimeout r.id
  [[Instr.regionIntake, Instr.clusterPlacement], block, push, pause, joins, late, mons].flatten

/-- The pieces of work that take place in this clock (R145, R200, R208): some of each transfer, of each row, of each nest, and some of the queued
scratch accesses; how many is a free choice. -/
def State.clockPieces (s : State) : List Piece :=
  let count := fun (k : Nat) => List.range (Config.freeChoice s.free k 7300 % 16)
  let rows : List Piece := s.c.rows.flatMap fun j => (count j.id).map fun k => Piece.row j.id (16 * j.id + k)
  let xfers : List Piece := s.c.xfers.flatMap fun x => (count x.id).map fun k => Piece.xfer x.id (16 * x.id + k)
  let nests : List Piece := s.c.nests.map fun x => Piece.nest x.wid (Config.freeChoice s.free x.wid 7301)
  let scr : List Piece := (s.c.scrQ.filter fun e => Config.freeChoice s.free e.op 7302 % 2 == 1).map fun e => Piece.scr e.op
  [scr, rows, nests, xfers].flatten

/-- A piece of work is done. -/
def State.piece (s : State) : Piece → State
  | .xfer id key => s.xferPiece id key
  | .row id key => s.rowPiece id key
  | .nest wid n => s.nestPiece wid n
  | .scr op => s.scrServe op

/-- Units that hold a thread, in ascending order. -/
def State.unitsUsed (s : State) : List Nat := (s.c.threads.map fun t => unitOf t.tid).dedup

/-- The plan of a clock: the events that the free choice takes, those of every clock, the pieces of work, the windows (R50), the choice of the issues; and
the threads whose scratch accesses take time in it (R200). -/
def State.planClock (s : State) : State :=
  let open_ : List Instr := s.threadEvents ++ s.pathEvents ++ s.engineEvents ++ s.boardEvents
  let taken : List Instr := (open_.zip (List.range open_.length)).filterMap fun q => if Config.freeChoice s.free q.2 7000 % 2 == 1 then some q.1 else none
  let windows : List Instr := (s.unitsUsed.filter fun u => u % 5 != 4 && s.phaseOf u == 0).map fun u => Instr.windowFormation u
  let lag := (s.c.threads.map (·.tid)).filter fun t => Config.freeChoice s.free t 7303 % 2 == 1
  { s with
    free := s.free + 1
    c := { s.c with lag := lag }
    agenda := (taken ++ s.clockEvents).map Move.event ++ s.clockPieces.map Move.piece ++ windows.map Move.event ++ [.arbitrate] }

/-! ### The scalar pipe (R270) -/

/-- The candidates of a core's scalar pipe: its ready contexts, each alone, and the bundles of its partitions whose next instruction is a uniform
form; each with its unit, its oldest thread first. -/
def State.pipeCands (s : State) (core : Nat) : List (Nat × List Thread) :=
  let own := (s.c.threads.filter fun t => unitOf t.tid == 5 * core + 4 && s.ready t).map fun t => (5 * core + 4, [t])
  let part := (List.range 4).flatMap fun q =>
    let n := 5 * core + q
    (((s.c.threads.filter fun t => unitOf t.tid == n).filterMap (·.bundle)).dedup.map fun b => (n, sortBy olderThan (s.bundleThreads n b))).filter
      fun (x : Nat × List Thread) => match x.2.head?.map Thread.decoded with | some (.instr i) => i.uniform | _ => false
  part ++ own

/-- The candidate that the pipe issues: one that has been passed over in 8 clocks, in the order of R270, else the oldest. -/
def State.pipeChoice (s : State) (core : Nat) : Option (Nat × List Thread) :=
  let first := fun (x : Nat × List Thread) => x.2.headD (Thread.blank 0)
  let cs := s.pipeCands core
  let late := cs.filter fun x => x.2.any fun t => decide (8 ≤ t.passed)
  (sortBy (fun a b => decide ((first a).tid ≤ (first b).tid)) late).head?.or (sortBy (fun a b => olderThan (first a) (first b)) cs).head?

/-- The units that issue in this clock, and the cores whose scalar pipe does, in ascending order of core and partition, the pipe after partition 3
(R309); then the clock ends. A candidate that a pipe passes over counts the clock (R270). -/
def State.arbitrate (s : State) : State :=
  let s1 := s.refreshAges
  let parts := s1.unitsUsed.filter fun n => n % 5 != 4
  let us := parts.filter fun n => !(s1.cands n).isEmpty
  let idle := parts.filter fun n => (s1.cands n).isEmpty
  let s2 := idle.foldl (fun s n => s.countLosses n [] []) s1
  let cores := sortBy (fun a b => decide (a ≤ b)) (s1.unitsUsed.map (· / 5)).dedup
  let chosen := cores.filterMap fun c => (s1.pipeChoice c).map fun x => (c, x)
  let goes := chosen.flatMap fun x => x.2.2.map (·.tid)
  let cand := (cores.flatMap s1.pipeCands).flatMap fun x => x.2.map (·.tid)
  let s3 := s2.setThreads (s2.c.threads.map fun t => { t with passed := if cand.contains t.tid && !goes.contains t.tid then t.passed + 1 else 0 })
  let moves := us.map (fun n => (n, Move.issue n)) ++
    chosen.map fun x => (5 * x.1 + 4, Move.pipe x.2.1 (sortBy (fun a b => decide (a ≤ b)) (x.2.2.map (·.tid))))
  { s3 with agenda := (sortBy (fun a b => decide (a.1 ≤ b.1)) moves).map (·.2) ++ [.tick] }

/-! ### The end of a clock -/

/-- The barrier timers of the workgroups and clusters that are not frozen (R324, R325). -/
def State.tickTimers (s : State) : State :=
  let still := fun (g : Wg) => g.warps.any fun w => s.frozen (w / 16)
  let up := fun (e : Episode) => { e with timer := e.timer + 1 }
  let s1 := s.setWgs (s.c.wgs.map fun g => if still g then g else { g with eps := g.eps.map up })
  let next := fun (c : Clus) => if (c.members.filterMap s.wg?).any still then c else { c with ep := c.ep.map up }
  { s1 with c := { s1.c with clusters := s1.c.clusters.map next } }

/-- Stretched clocks (R458, R473). -/
def State.tickSag (s : State) : State :=
  let s1 := s.b.sag.foldl (fun s k => s.satInc (rSag k) 32 1) s
  let lvl := fun (k : Nat) => s.b.monLvl.getD k 0 + bit (s.fld (rMon k) 3 0 == 8 && s.b.sag.contains (s.fld (rMon k) 23 16))
  { s1 with b := { s1.b with monLvl := (List.range 8).map lvl } }

/-- In a replay, barriers that wait for their turn in the log are tested again (R461). -/
def State.tickReplay (s : State) : State :=
  if s.fld rRpctl 1 1 == 0 then s
  else s.c.wgs.foldl (fun s g => (List.range 17).foldl (fun s n => s.barTest g.key n) s) s

/-- The entries that the L1s and the TLBs lose for want of room in this clock: any (R176, R221; log entry 33). -/
def State.tickEvict (s : State) : State :=
  let stays := fun (place k : Nat) => Config.freeChoice s.free k place % 2 == 1
  let l1 := ((s.c.l1.zip (List.range s.c.l1.length)).filter fun q => stays 7200 q.2).map (·.1)
  let tlb := ((s.m.tlb.zip (List.range s.m.tlb.length)).filter fun q => stays 7201 q.2).map (·.1)
  { s with c := { s.c with l1 := l1 }, m := { s.m with tlb := tlb } }

/-- An error may arise in a sector of memory or of a visitor line in any clock, to be met by the next access of it (R234, log entry 43). -/
def State.tickErrors (s : State) : State :=
  if Config.freeChoice s.free 0 7400 % 2 == 1 then
    { s with m := { s.m with errs := (Config.freeChoice s.free 1 7400, Config.freeChoice s.free 2 7400 % 2 == 1) :: s.m.errs } }
  else s

/-- The barrier timeouts of this clock (R325): of the open episodes whose timer is past the region's timeout, by at most 1,024 clocks; an episode that has
completed in this clock is not among them. -/
def State.timeouts (s : State) : List Instr :=
  let due := fun (k n : Nat) (e : Episode) => match (s.wg? k).bind fun g => s.region? g.region with
    | some r => !e.timedOut && decide (2 ^ r.bto ≤ e.timer) &&
      (Config.freeChoice s.free (32 * k + n) 7304 % 2 == 1 || decide (2 ^ r.bto + 1024 ≤ e.timer))
    | none => false
  let bars : List (Nat × Nat) := s.c.wgs.flatMap fun g => (g.eps.filter fun e => due g.key e.n e).map fun e => (g.key, e.n)
  let barc : List (Nat × Nat) := s.c.clusters.filterMap fun c => match c.ep, c.members.find? fun k => (s.wg? k).isSome with
    | some e, some k => if due k 16 e then some (k, 16) else none
    | _, _ => none
  (bars ++ barc).map fun q => Instr.bartimeout q.1 q.2

/-- The end of a clock: the faults of the clock that still wait are handed over in ascending order (R309), stops that have reached their unit freeze it
(R433), a GO that waited for PEND is made (R436), swaps and invalidations that can end do (R130, R223), timers advance, the clock advances, and the threads
that have become ready take their age (R49). -/
def State.clockEnd (s : State) : State :=
  let s0 := (sortBy (fun a b => decide (a ≤ b)) ((s.c.threads.filter fun t => t.dueFault.isSome).map (·.tid))).foldl State.settle s
  let s1 := s0.b.units.foldl (fun s u => s.freeze u.n) s0
  let s2 := (List.range 12).foldl (fun s k => if s.fld (rClctl k) 1 1 == 1 && !s.clPend k then s.clGo k else s) s1
  let s3 := s2.tableSwaps.tlbEnds.tickTimers.tickSag.tickReplay.tickEvict.tickErrors
  let s4 := s3.c.wgs.foldl (fun s g => s.wakeStream g.key) s3
  { s4 with clk := s4.clk + 1 }.refreshAges

/-- The end of a clock, after its barrier timeouts. -/
def State.tick (s : State) : State :=
  match s.timeouts with
  | [] => s.clockEnd
  | l => { s with agenda := l.map Move.event ++ .tick :: s.agenda }

/-- One move (log entry 5). An event enters with its meaning; an instruction enters only by an issue. -/
def State.begin_ (s : State) : Move → Begun
  | .issue n => s.issueUnit n
  | .pipe n ts => s.issueBundle n (ts.filter fun t => s.ready (s.thread t)) (.pipe n ts)
  | .last n ts => s.issueBundle n (ts.filter fun t => s.stoppable (s.thread t)) (.last n ts)
  | .second n b => s.issueBundle n ((s.bundleThreads n b).map (·.tid)) (.second n b)
  | .piece x => .done (s.piece x)
  | .event i => if i.isEvent then .exec i s else .done s
  | .arbitrate => .done s.arbitrate
  | .tick => .done s.tick

/-! ### An instruction placed for the next step -/

/-- The region of a thread that is placed by `withFetchWord`: every register count at its largest, the yield maximum at its largest. -/
def placedRegion : Region :=
  { num := 1, rcb := 0, parent := none, kha := 0, ttb := 0, asid := 0, salt := 0, pri := 0, pol := 0, hnd := 0, ymax := 0, y := 65535, bto := 30, wgw := 0,
    nwg := 1, bcore := 192, bwarp := 12288, bscr := 1344, zacc := 0, shb := 0, nab := 0, nn := 0, msiv := 0xFFFF, sav := 0, savl := 0, spb := 0, spl := 0,
    flta := 0, fltn := 1, fwr := 0, cca := 0, arg := 0, rsb := 0, tenant := 0, va := 256, wa := 64, kc := 16, scr := 0, cls := 0, dqo := 0, dqp := true,
    restart := false, state := 2, lerr := 0, endedWgs := 0, timeouts := 0, binds := [], lineage := [] }

/-- The address at which the placed instruction stands. -/
def placedPc : Nat := 0x1000

/-- The thread that is placed: lane 0 of slot 0 of a unit, at the instruction, its block fetched, alone in a bundle. -/
def placedThread (unit w clk : Nat) : Thread :=
  { launchThread placedRegion (512 * unit) 0 placedPc 0 with fetch := .ok placedPc w, age := some clk, bundle := some 0 }

/-- The machine with one placed thread, whose next instruction has the bits of `w`: on unit 0 of core 0, or as a Domestique context where the
instruction may not stand in a warp. -/
def State.placed (s : State) (unit w : Nat) : State :=
  let uni := match decode w with | .ok i => i.uniform | .error _ => false
  let s0 := s.setFld (rPctl unit) 15 15 0
  let s1 := s0.setUnit { s0.unit unit with step := none }
  let wid := 16 * unit
  let warp : Warp := { wid := wid, wg := some 0, region := 1, idx := 0, w := List.replicate 64 0, lanes := 1, jca := none, smpl := none }
  let g : Wg := { key := 0, region := 1, idx := 0, core := 0, slot := 0, rank := 0, clus := 0, win := 0, scr := [], segs := List.replicate 16 0,
                  dq := DQueue.start true, table := TableSlot.start, eps := [], mx := Matrix.start, xp := [], nsubs := [], relaunch := 0,
                  warps := if unit == 4 then [] else [wid], placed := s.clk, preempt := false }
  { s1 with
    agenda := [if unit % 5 == 4 || uni then .pipe unit [512 * unit] else .issue unit]
    l := { s1.l with regions := placedRegion :: s1.l.regions.filter fun r => r.num != 1, nextRegion := max 2 s1.l.nextRegion }
    c := { s1.c with
      threads := placedThread unit w s.clk :: (s1.c.threads.filter fun t => unitOf t.tid != unit)
      warps := warp :: (s1.c.warps.filter fun x => x.wid / 16 != unit)
      wgs := g :: s1.c.wgs.filter fun x => x.key != 0
      clusters := { id := 0, region := 1, clid := 0, phys := 0, members := [0], ep := none, ended := [] } :: s1.c.clusters.filter fun c => c.id != 0
      nests := s1.c.nests.filter fun x => x.wid / 16 != unit } }

/-- The unit for a word: the scalar pipe's when only a Domestique may issue the instruction. -/
def placedUnit (w : Nat) : Nat :=
  match decode w with
  | .ok i => if i.wfIn false then 0 else 4
  | .error _ => 0

end Sys2Proof.Machine
end

