-- ==== Sys2Proof/Machine/Dispatch.lean ====
section
/-! DEFINITION. One arm for each constructor of `Instr`: the direct call of its meaning. -/

namespace Sys2Proof.Machine
open Sys2Proof

/-- The effect of one instruction or event on the state. -/
def exec (i : Instr) (s : State) : Host.Outcome State Fault Refusal :=
  match i with
  | .nop x => Sys2Proof.Machine.execNop x s
  | .pause x => Sys2Proof.Machine.execPause x s
  | .loop x => Sys2Proof.Machine.execLoop x s
  | .lbrk x => Sys2Proof.Machine.execLbrk x s
  | .bra x => Sys2Proof.Machine.execBra x s
  | .brx x => Sys2Proof.Machine.execBrx x s
  | .jmark x => Sys2Proof.Machine.execJmark x s
  | .rjoin x => Sys2Proof.Machine.execRjoin x s
  | .jleave x => Sys2Proof.Machine.execJleave x s
  | .exit x => Sys2Proof.Machine.execExit x s
  | .yield x => Sys2Proof.Machine.execYield x s
  | .trap x => Sys2Proof.Machine.execTrap x s
  | .rfe x => Sys2Proof.Machine.execRfe x s
  | .brk x => Sys2Proof.Machine.execBrk x s
  | .mov x => Sys2Proof.Machine.execMov x s
  | .movi x => Sys2Proof.Machine.execMovi x s
  | .movh x => Sys2Proof.Machine.execMovh x s
  | .movxr x => Sys2Proof.Machine.execMovxr x s
  | .movxw x => Sys2Proof.Machine.execMovxw x s
  | .call x => Sys2Proof.Machine.execCall x s
  | .ret x => Sys2Proof.Machine.execRet x s
  | .srd x => Sys2Proof.Machine.execSrd x s
  | .swr x => Sys2Proof.Machine.execSwr x s
  | .wflush x => Sys2Proof.Machine.execWflush x s
  | .iaddV96 x => Sys2Proof.Machine.execIaddV96 x s
  | .iaddM128 x => Sys2Proof.Machine.execIaddM128 x s
  | .isubV96 x => Sys2Proof.Machine.execIsubV96 x s
  | .isubM128 x => Sys2Proof.Machine.execIsubM128 x s
  | .imulV96 x => Sys2Proof.Machine.execImulV96 x s
  | .imulM128 x => Sys2Proof.Machine.execImulM128 x s
  | .imulh x => Sys2Proof.Machine.execImulh x s
  | .imad x => Sys2Proof.Machine.execImad x s
  | .iminV96 x => Sys2Proof.Machine.execIminV96 x s
  | .iminM128 x => Sys2Proof.Machine.execIminM128 x s
  | .imaxV96 x => Sys2Proof.Machine.execImaxV96 x s
  | .imaxM128 x => Sys2Proof.Machine.execImaxM128 x s
  | .iabs x => Sys2Proof.Machine.execIabs x s
  | .ineg x => Sys2Proof.Machine.execIneg x s
  | .bandV96 x => Sys2Proof.Machine.execBandV96 x s
  | .bandM128 x => Sys2Proof.Machine.execBandM128 x s
  | .borV96 x => Sys2Proof.Machine.execBorV96 x s
  | .borM128 x => Sys2Proof.Machine.execBorM128 x s
  | .bxorV96 x => Sys2Proof.Machine.execBxorV96 x s
  | .bxorM128 x => Sys2Proof.Machine.execBxorM128 x s
  | .bnot x => Sys2Proof.Machine.execBnot x s
  | .shl x => Sys2Proof.Machine.execShl x s
  | .shr x => Sys2Proof.Machine.execShr x s
  | .sar x => Sys2Proof.Machine.execSar x s
  | .rol x => Sys2Proof.Machine.execRol x s
  | .clz x => Sys2Proof.Machine.execClz x s
  | .popc x => Sys2Proof.Machine.execPopc x s
  | .brev x => Sys2Proof.Machine.execBrev x s
  | .bfx x => Sys2Proof.Machine.execBfx x s
  | .bfi x => Sys2Proof.Machine.execBfi x s
  | .sel x => Sys2Proof.Machine.execSel x s
  | .icmpV96 x => Sys2Proof.Machine.execIcmpV96 x s
  | .icmpM128 x => Sys2Proof.Machine.execIcmpM128 x s
  | .iaddc x => Sys2Proof.Machine.execIaddc x s
  | .fadd x => Sys2Proof.Machine.execFadd x s
  | .fsub x => Sys2Proof.Machine.execFsub x s
  | .fmul x => Sys2Proof.Machine.execFmul x s
  | .ffma x => Sys2Proof.Machine.execFfma x s
  | .fmin x => Sys2Proof.Machine.execFmin x s
  | .fmax x => Sys2Proof.Machine.execFmax x s
  | .fcmp x => Sys2Proof.Machine.execFcmp x s
  | .fclass x => Sys2Proof.Machine.execFclass x s
  | .frnd x => Sys2Proof.Machine.execFrnd x s
  | .fcvt x => Sys2Proof.Machine.execFcvt x s
  | .icvtf x => Sys2Proof.Machine.execIcvtf x s
  | .fcvti x => Sys2Proof.Machine.execFcvti x s
  | .frcp x => Sys2Proof.Machine.execFrcp x s
  | .frsq x => Sys2Proof.Machine.execFrsq x s
  | .fsqrt x => Sys2Proof.Machine.execFsqrt x s
  | .fex2 x => Sys2Proof.Machine.execFex2 x s
  | .flg2 x => Sys2Proof.Machine.execFlg2 x s
  | .fsin x => Sys2Proof.Machine.execFsin x s
  | .fcos x => Sys2Proof.Machine.execFcos x s
  | .ftanh x => Sys2Proof.Machine.execFtanh x s
  | .tbl x => Sys2Proof.Machine.execTbl x s
  | .tblld x => Sys2Proof.Machine.execTblld x s
  | .tblsw x => Sys2Proof.Machine.execTblsw x s
  | .shfl x => Sys2Proof.Machine.execShfl x s
  | .bcast x => Sys2Proof.Machine.execBcast x s
  | .vote x => Sys2Proof.Machine.execVote x s
  | .ballot x => Sys2Proof.Machine.execBallot x s
  | .vred x => Sys2Proof.Machine.execVred x s
  | .vscan x => Sys2Proof.Machine.execVscan x s
  | .vperm x => Sys2Proof.Machine.execVperm x s
  | .pand x => Sys2Proof.Machine.execPand x s
  | .por x => Sys2Proof.Machine.execPor x s
  | .pxor x => Sys2Proof.Machine.execPxor x s
  | .pnot x => Sys2Proof.Machine.execPnot x s
  | .pmov x => Sys2Proof.Machine.execPmov x s
  | .nmap x => Sys2Proof.Machine.execNmap x s
  | .nred x => Sys2Proof.Machine.execNred x s
  | .nfill x => Sys2Proof.Machine.execNfill x s
  | .cvt8 x => Sys2Proof.Machine.execCvt8 x s
  | .cvw8 x => Sys2Proof.Machine.execCvw8 x s
  | .cvol x => Sys2Proof.Machine.execCvol x s
  | .bmax x => Sys2Proof.Machine.execBmax x s
  | .bscl x => Sys2Proof.Machine.execBscl x s
  | .pk4 x => Sys2Proof.Machine.execPk4 x s
  | .upk4 x => Sys2Proof.Machine.execUpk4 x s
  | .ldV96 x => Sys2Proof.Machine.execLdV96 x s
  | .ldM128 x => Sys2Proof.Machine.execLdM128 x s
  | .stV96 x => Sys2Proof.Machine.execStV96 x s
  | .stM128 x => Sys2Proof.Machine.execStM128 x s
  | .atom x => Sys2Proof.Machine.execAtom x s
  | .cas x => Sys2Proof.Machine.execCas x s
  | .fence x => Sys2Proof.Machine.execFence x s
  | .acq x => Sys2Proof.Machine.execAcq x s
  | .rel x => Sys2Proof.Machine.execRel x s
  | .bind x => Sys2Proof.Machine.execBind x s
  | .unbind x => Sys2Proof.Machine.execUnbind x s
  | .prf x => Sys2Proof.Machine.execPrf x s
  | .gth x => Sys2Proof.Machine.execGth x s
  | .sct x => Sys2Proof.Machine.execSct x s
  | .sctr x => Sys2Proof.Machine.execSctr x s
  | .gthl x => Sys2Proof.Machine.execGthl x s
  | .tlbinv x => Sys2Proof.Machine.execTlbinv x s
  | .pprobe x => Sys2Proof.Machine.execPprobe x s
  | .rpin x => Sys2Proof.Machine.execRpin x s
  | .runpin x => Sys2Proof.Machine.execRunpin x s
  | .l2wb x => Sys2Proof.Machine.execL2wb x s
  | .l2inv x => Sys2Proof.Machine.execL2inv x s
  | .cp x => Sys2Proof.Machine.execCp x s
  | .cpseal x => Sys2Proof.Machine.execCpseal x s
  | .cpwait x => Sys2Proof.Machine.execCpwait x s
  | .cppoll x => Sys2Proof.Machine.execCppoll x s
  | .nnew x => Sys2Proof.Machine.execNnew x s
  | .nlink x => Sys2Proof.Machine.execNlink x s
  | .nsub x => Sys2Proof.Machine.execNsub x s
  | .nwait x => Sys2Proof.Machine.execNwait x s
  | .dqpush x => Sys2Proof.Machine.execDqpush x s
  | .dqpop x => Sys2Proof.Machine.execDqpop x s
  | .bdq x => Sys2Proof.Machine.execBdq x s
  | .dqsync x => Sys2Proof.Machine.execDqsync x s
  | .fork x => Sys2Proof.Machine.execFork x s
  | .tjoin x => Sys2Proof.Machine.execTjoin x s
  | .spawn x => Sys2Proof.Machine.execSpawn x s
  | .bar x => Sys2Proof.Machine.execBar x s
  | .bara x => Sys2Proof.Machine.execBara x s
  | .barw x => Sys2Proof.Machine.execBarw x s
  | .barc x => Sys2Proof.Machine.execBarc x s
  | .barcArr x => Sys2Proof.Machine.execBarcArr x s
  | .barcWait x => Sys2Proof.Machine.execBarcWait x s
  | .barq x => Sys2Proof.Machine.execBarq x s
  | .mmap x => Sys2Proof.Machine.execMmap x s
  | .mldb x => Sys2Proof.Machine.execMldb x s
  | .mswp x => Sys2Proof.Machine.execMswp x s
  | .mmul x => Sys2Proof.Machine.execMmul x s
  | .mzero x => Sys2Proof.Machine.execMzero x s
  | .mrd x => Sys2Proof.Machine.execMrd x s
  | .mtask x => Sys2Proof.Machine.execMtask x s
  | .msync x => Sys2Proof.Machine.execMsync x s
  | .sgcfg x => Sys2Proof.Machine.execSgcfg x s
  | .sgmap x => Sys2Proof.Machine.execSgmap x s
  | .sgsct x => Sys2Proof.Machine.execSgsct x s
  | .sggth x => Sys2Proof.Machine.execSggth x s
  | .sgstat x => Sys2Proof.Machine.execSgstat x s
  | .xbeg x => Sys2Proof.Machine.execXbeg x s
  | .xdeal x => Sys2Proof.Machine.execXdeal x s
  | .xred x => Sys2Proof.Machine.execXred x s
  | .xend x => Sys2Proof.Machine.execXend x s
  | .xst x => Sys2Proof.Machine.execXst x s
  | .mst x => Sys2Proof.Machine.execMst x s
  | .trc x => Sys2Proof.Machine.execTrc x s
  | .smpl x => Sys2Proof.Machine.execSmpl x s
  | .windowFormation unit => Sys2Proof.Machine.execWindowFormation unit s
  | .instructionFetchComplete tid => Sys2Proof.Machine.execInstructionFetchComplete tid s
  | .resultWriteback n => Sys2Proof.Machine.execResultWriteback n s
  | .yieldovr tid => Sys2Proof.Machine.execYieldovr tid s
  | .pauseExpiry tid => Sys2Proof.Machine.execPauseExpiry tid s
  | .spillComplete tid => Sys2Proof.Machine.execSpillComplete tid s
  | .refillComplete tid => Sys2Proof.Machine.execRefillComplete tid s
  | .tableSwap wg => Sys2Proof.Machine.execTableSwap wg s
  | .tblldWriteStart wg => Sys2Proof.Machine.execTblldWriteStart wg s
  | .tblldComplete wg => Sys2Proof.Machine.execTblldComplete wg s
  | .nestComplete wid => Sys2Proof.Machine.execNestComplete wid s
  | .walkStart die => Sys2Proof.Machine.execWalkStart die s
  | .walkComplete n => Sys2Proof.Machine.execWalkComplete n s
  | .memoryAnswer n => Sys2Proof.Machine.execMemoryAnswer n s
  | .stageAArrival core => Sys2Proof.Machine.execStageAArrival core s
  | .stageBArrival port => Sys2Proof.Machine.execStageBArrival port s
  | .homePerform agent ecc => Sys2Proof.Machine.execHomePerform agent ecc s
  | .pdtWordFill agent => Sys2Proof.Machine.execPdtWordFill agent s
  | .answerSplit n => Sys2Proof.Machine.execAnswerSplit n s
  | .answerTimeout n => Sys2Proof.Machine.execAnswerTimeout n s
  | .flitSend link vc => Sys2Proof.Machine.execFlitSend link vc s
  | .flitReceive link flit => Sys2Proof.Machine.execFlitReceive link flit s
  | .wavelengthErrorWindow link wave count => Sys2Proof.Machine.execWavelengthErrorWindow link wave count s
  | .linkTrainingEnd link waves => Sys2Proof.Machine.execLinkTrainingEnd link waves s
  | .copyTransferEnd n => Sys2Proof.Machine.execCopyTransferEnd n s
  | .nodeStart wg node => Sys2Proof.Machine.execNodeStart wg node s
  | .nodeComplete wg node => Sys2Proof.Machine.execNodeComplete wg node s
  | .deferredPush wg => Sys2Proof.Machine.execDeferredPush wg s
  | .matrixStreamComplete wg => Sys2Proof.Machine.execMatrixStreamComplete wg s
  | .subtaskDispatch clid => Sys2Proof.Machine.execSubtaskDispatch clid s
  | .subtaskComplete n => Sys2Proof.Machine.execSubtaskComplete n s
  | .regionIntake => Sys2Proof.Machine.execRegionIntake s
  | .clusterPlacement => Sys2Proof.Machine.execClusterPlacement s
  | .clusterBlocking n => Sys2Proof.Machine.execClusterBlocking n s
  | .preemptionTaken clid => Sys2Proof.Machine.execPreemptionTaken clid s
  | .forkTaskStart core => Sys2Proof.Machine.execForkTaskStart core s
  | .tjoinReread tid => Sys2Proof.Machine.execTjoinReread tid s
  | .bartimeout wg n => Sys2Proof.Machine.execBartimeout wg n s
  | .broadcastFreeze unit => Sys2Proof.Machine.execBroadcastFreeze unit s
  | .stepComplete unit => Sys2Proof.Machine.execStepComplete unit s
  | .dumpComplete => Sys2Proof.Machine.execDumpComplete s
  | .traceDrain clus => Sys2Proof.Machine.execTraceDrain clus s
  | .monitorLevelSample k => Sys2Proof.Machine.execMonitorLevelSample k s
  | .checkpoint => Sys2Proof.Machine.execCheckpoint s
  | .hwayChange => Sys2Proof.Machine.execHwayChange s
  | .homeCfgWrite v => Sys2Proof.Machine.execHomeCfgWrite v s
  | .fabCfgWrite v => Sys2Proof.Machine.execFabCfgWrite v s
  | .fabPcinv v => Sys2Proof.Machine.execFabPcinv v s
  | .fabLinkRtr link v => Sys2Proof.Machine.execFabLinkRtr link v s
  | .dbgPctlStop unit v => Sys2Proof.Machine.execDbgPctlStop unit v s
  | .dbgPctlGo unit v => Sys2Proof.Machine.execDbgPctlGo unit v s
  | .dbgClctlStop clus => Sys2Proof.Machine.execDbgClctlStop clus s
  | .dbgClctlGo clus => Sys2Proof.Machine.execDbgClctlGo clus s
  | .dbgStepReq unit v => Sys2Proof.Machine.execDbgStepReq unit v s
  | .dbgDumpReq v => Sys2Proof.Machine.execDbgDumpReq v s
  | .dbgWmissClear core => Sys2Proof.Machine.execDbgWmissClear core s
  | .dbgMonClr k v => Sys2Proof.Machine.execDbgMonClr k v s
  | .dbgMonSourceWrite k v => Sys2Proof.Machine.execDbgMonSourceWrite k v s
  | .dbgRpctlRecord v => Sys2Proof.Machine.execDbgRpctlRecord v s
  | .dbgRpctlReplay v => Sys2Proof.Machine.execDbgRpctlReplay v s
  | .hostCtlWrite v => Sys2Proof.Machine.execHostCtlWrite v s
  | .hostRel v => Sys2Proof.Machine.execHostRel v s
  | .hostPwrstatClr v => Sys2Proof.Machine.execHostPwrstatClr v s
  | .hostSagClear clus => Sys2Proof.Machine.execHostSagClear clus s
  | .hostPgateRequest v => Sys2Proof.Machine.execHostPgateRequest v s
  | .hostPgateRelease v => Sys2Proof.Machine.execHostPgateRelease v s
  | .clusterGated clus => Sys2Proof.Machine.execClusterGated clus s
  | .clusterPowerUp clus => Sys2Proof.Machine.execClusterPowerUp clus s
  | .hostSubqBaseWrite ring v => Sys2Proof.Machine.execHostSubqBaseWrite ring v s
  | .hostSubqTailWrite ring v => Sys2Proof.Machine.execHostSubqTailWrite ring v s
  | .registerWrite off size v => Sys2Proof.Machine.execRegisterWrite off size v s
  | .hostWindowRead off size => Sys2Proof.Machine.execHostWindowRead off size s
  | .hostWindowWrite off data => Sys2Proof.Machine.execHostWindowWrite off data s
  | .coldReset => Sys2Proof.Machine.execColdReset s
  | .functionLevelReset => Sys2Proof.Machine.execFunctionLevelReset s
  | .resetComplete => Sys2Proof.Machine.execResetComplete s
  | .powerPeriod avg => Sys2Proof.Machine.execPowerPeriod avg s
  | .supplySag clus => Sys2Proof.Machine.execSupplySag clus s
  | .supplyRecovery clus => Sys2Proof.Machine.execSupplyRecovery clus s
  | .hostSpaceAnswer n data => Sys2Proof.Machine.execHostSpaceAnswer n data s
  | .l2wbComplete n => Sys2Proof.Machine.execL2wbComplete n s

end Sys2Proof.Machine
end

