-- ==== Sys2Proof/Machine/Step.lean ====
section
/-! DEFINITION. One step of the module, and the placing of an instruction for the next step (log entry 5). -/

namespace Sys2Proof.Machine
open Sys2Proof

/-- One step: the next move of the agenda, or a new plan when the agenda is empty. -/
def step (s : State) : Host.Outcome State Fault Refusal :=
  match s.agenda with
  | [] => .next s.planClock
  | m :: rest =>
    match State.begin_ { s with agenda := rest } m with
    | .done t => .next t
    | .exec i t => exec i t

/-- The machine with the instruction of a table word as the next that it issues: a thread whose fetched block holds the word, in the bundle of
its unit's window, whose issue is the next move (log entry 5). -/
def State.withFetchWord (s : State) (nbits w : Nat) : State := s.placed (placedUnit (w % 2 ^ nbits)) (w % 2 ^ nbits)

end Sys2Proof.Machine
end

