-- ==== Sys2Proof/Safety.lean ====
section
/-! DEFINITION. The terms in which the statements speak: canonical storage, when a bundle executes an instruction with no fault of R39, R42
and R95, what an instruction leaves alone, and the results that an issue sends on their way. -/

namespace Sys2Proof.Machine
open Sys2Proof

/-! ### Canonical storage -/

/-- A register file in canonical form: offsets strictly rising, no word at its reset value. -/
def regsWf : List (Nat × Word) → Bool
  | [] => true
  | [c] => c.2 != regReset c.1
  | c :: d :: r => c.2 != regReset c.1 && decide (c.1 < d.1) && regsWf (d :: r)

/-- Every memory and the control registers are in canonical form. -/
def State.canonical (s : State) : Bool :=
  Memory.wf s.m.mem && Memory.wf s.m.peer && Memory.wf s.m.host && regsWf s.b.regs

/-! ### The issue of a bundle -/

/-- The threads of the issuing bundle whose guard is true (R37). -/
def State.executing (s : State) (i : Instr) : List Nat := s.cur.tids.filter fun t => s.guards t i

/-- The bundle executes the instruction without a fault of its words or its register numbers: the pipe accepts it (R42, R274), the threads are
distinct, and the numbers are in range for every thread whose guard is true (R39, R95). -/
def State.clean (s : State) (i : Instr) : Bool :=
  i.wfIn (s.cur.unit % 5 == 4) && decide s.cur.tids.Nodup && (s.executing i).all fun t => (s.rangeFault i t).isNone

/-- The bundle is one live thread that executes the instruction without such a fault. -/
def State.solo (s : State) (i : Instr) (n : Nat) : Bool :=
  i.wfIn (s.cur.unit % 5 == 4) && s.cur.tids == [n] && s.guards n i && (s.rangeFault i n).isNone && (s.thread? n).isSome && !(s.thread n).gone

/-! ### What stays -/

/-- A thread that keeps every register and every record of its own, and takes its control from another: program counter, loop, yield count, wait,
park, bundle, the block fetched next. -/
def Thread.control (a b : Thread) : Thread :=
  { a with
    pc := b.pc, loop := b.loop, ycnt := b.ycnt, wait := b.wait, park := b.park, replay := b.replay, stage := b.stage, walked := b.walked
    snap := b.snap, bundle := b.bundle, age := b.age, losses := b.losses, issuedAt := b.issuedAt, fetch := b.fetch }

/-- An issue that only sends results on their way: but for the control of the bundle's threads, the results in flight, the skid counts of a stopping
unit (R437) and the free counter, everything is as before: every thread's registers, `w` registers, scratch, memory, regions, control registers. -/
def State.OnlyResults (s t : State) : Prop :=
  t = { s with free := t.free, c := { s.c with threads := t.c.threads, pend := t.c.pend }, b := { s.b with units := t.b.units } } ∧
  (∀ n, t.thread n = (s.thread n).control (t.thread n)) ∧ (∀ n, n ∉ s.cur.tids → t.thread n = s.thread n) ∧ ∀ a, t.byteAt a = s.byteAt a

/-- An issue that changes one thread's own registers as `u` says, and besides it only what `OnlyResults` names. -/
def State.OnlyThread (s t : State) (n : Nat) (u : Thread) : Prop :=
  t = { s with free := t.free, c := { s.c with threads := t.c.threads, pend := t.c.pend }, b := { s.b with units := t.b.units } } ∧
  t.thread n = u.control (t.thread n) ∧ (∀ k, k ≠ n → t.thread k = s.thread k) ∧ ∀ a, t.byteAt a = s.byteAt a

/-- The bundle's threads go on to the next instruction, parked when the switch marker is set (R30, R55); one in a loop follows R66. -/
def State.Advances (s t : State) (i : Instr) : Prop :=
  ∀ n, n ∈ s.cur.tids → (s.thread? n).isSome → (t.thread n).park = i.park ∧ (t.thread n).wait = .none ∧
    ((s.thread n).loop.act = false → (t.thread n).pc = (s.thread n).pc + i.bytes)

/-- Results on their way to a destination operand: one for each executing thread, or one for each warp of a `w` destination (R44, R57), after those that
were there; each has a value of which `P` holds for the thread that stands for it. A write to p15 is discarded (R92). -/
def State.Delivers (s t : State) (i : Instr) (d : Opnd) (P : Nat → Word → Prop) : Prop :=
  ∃ f : Nat → Word,
    t.c.pend = s.c.pend ++ (s.targets (s.executing i) d).map (fun (q : Nat × RegRef × List Nat) =>
      { dst := q.2.1, val := some (f q.1), owners := q.2.2, pc := s.cur.pc, opd := d.code, op := 0 }) ∧
    ∀ q ∈ s.targets (s.executing i) d, P q.1 (f q.1)

/-- An instruction of the lane: its results, and nothing else but the threads' control. -/
def State.Computes (s t : State) (i : Instr) (d : Opnd) (P : Nat → Word → Prop) : Prop :=
  s.Delivers t i d P ∧ s.OnlyResults t ∧ s.Advances t i

/-- After an issue by one thread the machine is `u`, but for the thread's control, the skid and sample counts of its unit and the free counter. -/
def State.Becomes (t : State) (n : Nat) (u : State) : Prop :=
  t = { u with free := t.free, c := { u.c with threads := t.c.threads }, b := { u.b with units := t.b.units } } ∧
  t.thread n = (u.thread n).control (t.thread n) ∧ ∀ k, k ≠ n → t.thread k = u.thread k

/-- Everything that programs store stays: registers of every class, scratch, regions, control registers, every byte of memory. What may change are
threads' control, results, accesses and requests in flight, and caches. -/
def State.KeepsStorage (s t : State) : Prop :=
  t.c.warps = s.c.warps ∧ t.c.wgs = s.c.wgs ∧ t.c.clusters = s.c.clusters ∧ t.l = s.l ∧ t.b.regs = s.b.regs ∧
  t.m.mem = s.m.mem ∧ t.m.peer = s.m.peer ∧ t.m.host = s.m.host ∧ t.m.pois = s.m.pois ∧ ∀ k, t.thread k = (s.thread k).control (t.thread k)

/-- No watchpoint, stop, trace, sample or monitor is set up: the debug registers stand at their reset values (R465), no warp is marked. -/
def State.debugIdle (s : State) : Prop :=
  (∀ o, 0x100000 ≤ o → s.reg o = regReset o) ∧ (∀ w ∈ s.c.warps, w.smpl = none) ∧ s.b.samples = []

/-- The issuing bundle stands in one of the 960 stop units, and every workgroup on one of the 192 cores (R12, R432). -/
def State.seated (s : State) : Prop :=
  s.cur.unit < 960 ∧ (∀ n ∈ s.cur.tids, unitOf n = s.cur.unit) ∧ ∀ g ∈ s.c.wgs, g.core < 192

/-- Where the byte of a physical address is kept: host memory, this module's memory, another module's; nowhere outside the populated ranges (R227). -/
def State.place (s : State) (x : Nat) : Option (Nat × Nat) :=
  if hostSpace x then some (0, paOf x) else if !s.populated x then none else if s.here x then some (1, s.storeAddr x) else some (2, x)

/-- The instruction ends in a fault of one thread: nothing but the count of its issue precedes the raise, and the fault has these fields (R60, R307). -/
def State.Raises (s t : State) (n : Nat) (f : FaultInfo) : Prop :=
  ∃ u, t = u.raise n f ∧ u.c.pend = s.c.pend ∧ s.OnlyResults u ∧ (u.thread n).pc = (s.thread n).pc

/-! ### Exact integer results (R109, R115) -/

/-- The range of an integer sub-element. -/
def intLo (t : Ty) : Int := if t.signed then -(2 ^ (t.width - 1) : Nat) else 0
def intHi (t : Ty) : Int := if t.signed then (2 ^ (t.width - 1) : Nat) - 1 else (2 ^ t.width : Nat) - 1

/-- A sub-element v holds the exact result r: modulo 2^w, or clamped to the range with `.sat` (R115). -/
def IntResult (t : Ty) (sat : Bool) (r : Int) (v : Nat) : Prop :=
  v < 2 ^ t.width ∧
  (if sat then intVal t v = (if r < intLo t then intLo t else if intHi t < r then intHi t else r)
   else (v : Int) % (2 ^ t.width : Nat) = r % (2 ^ t.width : Nat))

end Sys2Proof.Machine
end

