-- ==== Sys2Proof/Certificates/Slice0/Obligations.lean ====
section
/-! DEFINITION. The statements for the provers: one definition Obligations.<Name> for each. The shapes that several statements share stand
before them. -/

namespace Sys2Proof.Machine
open Sys2Proof

/-! ### Shapes -/

/-- The results that an issue sends on their way, after those that were there: destinations and values. -/
def State.Sends (s t : State) (l : List (RegRef × Option Word)) : Prop :=
  ∃ ps : List Pend, t.c.pend = s.c.pend ++ ps ∧ ps.map (fun p => (p.dst, p.val)) = l

/-- The destinations of an operand with the value of the thread that stands for each. -/
def State.valuesAt (s : State) (ts : List Nat) (d : Opnd) (f : Nat → Word) : List (RegRef × Option Word) :=
  (s.targets ts d).map fun (q : Nat × RegRef × List Nat) => (q.2.1, some (f q.1))

/-- An instruction of the V96 format whose result is, sub-element by sub-element, one that `P` allows for the sources A, B, C and E. -/
def PerElement (mk : V96A → Instr) (P : V96A → Nat → Nat → Nat → Nat → Nat → Prop) : Prop :=
  ∀ (x : V96A) (s : State), s.clean (mk x) = true → ∃ t, exec (mk x) s = .next t ∧
    s.Computes t (mk x) x.d fun n w => ∀ e < x.ty.count,
      P x (s.el n x.ty x.a e) (s.el n x.ty x.b e) (s.el n x.ty x.c e) (s.el n x.ty x.e e) (subEl x.ty w e)

/-- An instruction of the M128 format whose result is, sub-element by sub-element, one that `P` allows for the source A and the immediate. -/
def PerElementImm (mk : M128A → Instr) (P : M128A → Nat → Nat → Nat → Prop) : Prop :=
  ∀ (x : M128A) (s : State), s.clean (mk x) = true → ∃ t, exec (mk x) s = .next t ∧
    s.Computes t (mk x) x.d fun n w => ∀ e < x.ty.count, P x (s.el n x.ty x.a e) (immEl x.ty x.i32) (subEl x.ty w e)

/-- An instruction of the V96 format whose whole 64-bit result is a function of the state at issue. -/
def WholeWord (mk : V96A → Instr) (f : V96A → State → Nat → Word) : Prop :=
  ∀ (x : V96A) (s : State), s.clean (mk x) = true → ∃ t, exec (mk x) s = .next t ∧ s.Computes t (mk x) x.d fun n w => w = f x s n
def WholeWordImm (mk : M128A → Instr) (f : M128A → State → Nat → Word) : Prop :=
  ∀ (x : M128A) (s : State), s.clean (mk x) = true → ∃ t, exec (mk x) s = .next t ∧ s.Computes t (mk x) x.d fun n w => w = f x s n
def WholeWord64 (mk : S64A → Instr) (f : S64A → State → Nat → Word) : Prop :=
  ∀ (x : S64A) (s : State), s.clean (mk x) = true → ∃ t, exec (mk x) s = .next t ∧ s.Computes t (mk x) x.d fun n w => w = f x s n

/-- The values of a group's slots, the identity where no lane of the group stands (R137). -/
def State.slotVals (s : State) (x : V96A) (ts : List Nat) (n : Nat) : List Nat :=
  (List.range (32 * x.ty.count)).map fun k => match laneIn ts n (k / x.ty.count) with
    | some u => s.el u x.ty x.a (k % x.ty.count)
    | none => redId (x.opx.extractLsb' 0 3).toNat x.ty

end Sys2Proof.Machine

open Sys2Proof Sys2Proof.Machine

/-! ## Integer and predicate results -/

/-- R115: add, subtract, multiply, high product, multiply-add, minimum, maximum, absolute value and negation compute each sub-element exactly, wrapped
or clamped, for every destination and every bundle; nothing else changes. -/
def Obligations.IntegerArithmeticIsExact : Prop :=
  PerElement .iaddV96 (fun x a b _ _ v => IntResult x.ty (x.sat == .sat) (intVal x.ty a + intVal x.ty b) v) ∧
  PerElement .isubV96 (fun x a b _ _ v => IntResult x.ty (x.sat == .sat) (intVal x.ty a - intVal x.ty b) v) ∧
  PerElement .imulV96 (fun x a b _ _ v => IntResult x.ty (x.sat == .sat) (intVal x.ty a * intVal x.ty b) v) ∧
  PerElement .imad (fun x a b c _ v => IntResult x.ty (x.sat == .sat) (intVal x.ty a * intVal x.ty b + intVal x.ty c) v) ∧
  PerElement .imulh (fun x a b _ _ v => v < 2 ^ x.ty.width ∧ intVal x.ty v = intVal x.ty a * intVal x.ty b / (2 ^ x.ty.width : Nat)) ∧
  PerElement .iminV96 (fun x a b _ _ v => v < 2 ^ x.ty.width ∧ intVal x.ty v = if intVal x.ty a ≤ intVal x.ty b then intVal x.ty a else intVal x.ty b) ∧
  PerElement .imaxV96 (fun x a b _ _ v => v < 2 ^ x.ty.width ∧ intVal x.ty v = if intVal x.ty a ≤ intVal x.ty b then intVal x.ty b else intVal x.ty a) ∧
  PerElement .iabs (fun x a _ _ _ v => IntResult x.ty (x.sat == .sat) (if intVal x.ty a < 0 then -intVal x.ty a else intVal x.ty a) v) ∧
  PerElement .ineg (fun x a _ _ _ v => IntResult x.ty (x.sat == .sat) (-intVal x.ty a) v) ∧
  PerElementImm .iaddM128 (fun x a b v => IntResult x.ty (x.sat == .sat) (intVal x.ty a + intVal x.ty b) v) ∧
  PerElementImm .isubM128 (fun x a b v => IntResult x.ty (x.sat == .sat) (intVal x.ty a - intVal x.ty b) v) ∧
  PerElementImm .imulM128 (fun x a b v => IntResult x.ty (x.sat == .sat) (intVal x.ty a * intVal x.ty b) v) ∧
  PerElementImm .iminM128 (fun x a b v => v < 2 ^ x.ty.width ∧ intVal x.ty v = if intVal x.ty a ≤ intVal x.ty b then intVal x.ty a else intVal x.ty b) ∧
  PerElementImm .imaxM128 (fun x a b v => v < 2 ^ x.ty.width ∧ intVal x.ty v = if intVal x.ty a ≤ intVal x.ty b then intVal x.ty b else intVal x.ty a)

/-- R115, R116: shifts, rotates, bit counts, bit reversal and bit fields, bit by bit. -/
def Obligations.ShiftsAndBitFields : Prop :=
  PerElement .shl (fun x a n _ _ v => v = if n < x.ty.width then a * 2 ^ n % 2 ^ x.ty.width else 0) ∧
  PerElement .shr (fun x a n _ _ v => ∀ k, v.testBit k = (decide (n < x.ty.width) && a.testBit (k + n))) ∧
  PerElement .sar (fun x a n _ _ v => v < 2 ^ x.ty.width ∧
    ∀ k < x.ty.width, v.testBit k = a.testBit (if k + n < x.ty.width then k + n else x.ty.width - 1)) ∧
  PerElement .rol (fun x a n _ _ v => v < 2 ^ x.ty.width ∧ ∀ k < x.ty.width, v.testBit ((k + n) % x.ty.width) = a.testBit k) ∧
  PerElement .clz (fun x a _ _ _ v => v ≤ x.ty.width ∧ a < 2 ^ (x.ty.width - v) ∧ (a ≠ 0 → 2 ^ (x.ty.width - v - 1) ≤ a ∧ v < x.ty.width)) ∧
  PerElement .popc (fun x a _ _ _ v => v = ((List.range x.ty.width).filter fun k => a.testBit k).length) ∧
  PerElement .brev (fun x a _ _ _ v => v < 2 ^ x.ty.width ∧ ∀ k < x.ty.width, v.testBit k = a.testBit (x.ty.width - 1 - k)) ∧
  PerElement .bfx (fun x a b c _ v => v < 2 ^ x.ty.width ∧ ∀ k < x.ty.width,
    v.testBit k =
      let len := min c x.ty.width
      let j := min b x.ty.width + (if k < len then k else len - 1)
      if len = 0 then false
      else if k < len ∨ x.ty.signed = true then (if j < x.ty.width then a.testBit j else x.ty.signed && a.testBit (x.ty.width - 1))
      else false) ∧
  PerElement .bfi (fun x a b c d v => v < 2 ^ x.ty.width ∧ ∀ k < x.ty.width,
    v.testBit k = if min c x.ty.width ≤ k ∧ k < min c x.ty.width + min d x.ty.width then b.testBit (k - min c x.ty.width) else a.testBit k)

/-- R115, R117, R98: the bitwise instructions, the select and the plain moves act on all 64 bits. -/
def Obligations.WholeRegisterResults : Prop :=
  WholeWord .bandV96 (fun x s n => s.opnd n x.a &&& s.opnd n x.b) ∧
  WholeWord .borV96 (fun x s n => s.opnd n x.a ||| s.opnd n x.b) ∧
  WholeWord .bxorV96 (fun x s n => s.opnd n x.a ^^^ s.opnd n x.b) ∧
  WholeWord .bnot (fun x s n => ~~~ s.opnd n x.a) ∧
  WholeWordImm .bandM128 (fun x s n => s.opnd n x.a &&& x.i32.signExtend 64) ∧
  WholeWordImm .borM128 (fun x s n => s.opnd n x.a ||| x.i32.signExtend 64) ∧
  WholeWordImm .bxorM128 (fun x s n => s.opnd n x.a ^^^ x.i32.signExtend 64) ∧
  WholeWord .sel (fun x s n => if s.readP n x.c.num then s.opnd n x.a else s.opnd n x.b) ∧
  WholeWord .mov (fun x s n => s.opnd n x.a) ∧
  WholeWordImm .movi (fun x _ _ => if x.opx.getLsbD 0 then x.i32.zeroExtend 64 else x.i32.signExtend 64) ∧
  WholeWordImm .movh (fun x s n => x.i32 ++ (s.opnd n x.d).extractLsb' 0 32)

/-- R118, R124: a compare with a predicate destination gives the AND over the sub-elements, or the OR with ANY; with a register destination, all ones or
zero in each sub-element. -/
def Sys2Proof.Machine.ComparesGivePredicatesOrMasks : Prop :=
  let answer := fun (d : Opnd) (ty : Ty) (any : Bool) (c : Nat → Bool) (w : Word) =>
    if d.isP then w = (if (if any then ∃ e < ty.count, c e = true else ∀ e < ty.count, c e = true) then 1 else 0)
    else ∀ e < ty.count, subEl ty w e = if c e = true then 2 ^ ty.width - 1 else 0
  (∀ (x : V96A) (s : State), s.clean (.icmpV96 x) = true → ∃ t, exec (.icmpV96 x) s = .next t ∧
    s.Computes t (.icmpV96 x) x.d fun n w => answer x.d x.ty (x.opx.getLsbD 3)
      (fun e => intCond (x.opx.extractLsb' 0 3).toNat (intVal x.ty (s.el n x.ty x.a e)) (intVal x.ty (s.el n x.ty x.b e))) w) ∧
  (∀ (x : M128A) (s : State), s.clean (.icmpM128 x) = true → ∃ t, exec (.icmpM128 x) s = .next t ∧
    s.Computes t (.icmpM128 x) x.d fun n w => answer x.d x.ty (x.opx.getLsbD 3)
      (fun e => intCond (x.opx.extractLsb' 0 3).toNat (intVal x.ty (s.el n x.ty x.a e)) (intVal x.ty (immEl x.ty x.i32))) w) ∧
  (∀ (x : V96A) (s : State), s.clean (.fcmp x) = true → ∃ t, exec (.fcmp x) s = .next t ∧
    s.Computes t (.fcmp x) x.d fun n w => answer x.d x.ty (x.opx.getLsbD 3)
      (fun e => fltCond (x.opx.extractLsb' 0 3).toNat ((tyFlt x.ty).decode (s.el n x.ty x.a e)) ((tyFlt x.ty).decode (s.el n x.ty x.b e))) w)

/-- R119, R132: the add with carry sends the low 64 bits of the exact sum to D and the carry to the predicate E; the predicate instructions. -/
def Sys2Proof.Machine.CarryAndPredicateLogic : Prop :=
  let inp := fun (s : State) (n : Nat) (o : Opnd) (inv : Bool) => (s.opnd n o).getLsbD 0 != inv
  (∀ (x : V96A) (s : State), s.clean (.iaddc x) = true → ∃ t, exec (.iaddc x) s = .next t ∧
    (let sum := fun n => (s.opnd n x.a).toNat + (s.opnd n x.b).toNat + (if s.readP n x.c.num then 1 else 0)
     s.Sends t (s.valuesAt (s.executing (.iaddc x)) x.d (fun n => BitVec.ofNat 64 (sum n)) ++
       s.valuesAt (s.executing (.iaddc x)) x.e (fun n => if 2 ^ 64 ≤ sum n then 1 else 0))) ∧
    s.OnlyResults t ∧ s.Advances t (.iaddc x)) ∧
  WholeWord64 .pand (fun x s n => if inp s n x.a (x.i16.getLsbD 0) && inp s n x.b (x.i16.getLsbD 1) then 1 else 0) ∧
  WholeWord64 .por (fun x s n => if inp s n x.a (x.i16.getLsbD 0) || inp s n x.b (x.i16.getLsbD 1) then 1 else 0) ∧
  WholeWord64 .pxor (fun x s n => if inp s n x.a (x.i16.getLsbD 0) != inp s n x.b (x.i16.getLsbD 1) then 1 else 0) ∧
  WholeWord64 .pnot (fun x s n => if inp s n x.a (x.i16.getLsbD 0) then 0 else 1) ∧
  WholeWord64 .pmov (fun x s n => if inp s n x.a (x.i16.getLsbD 0) then 1 else 0)

/-- Compares, carries and predicate logic: both statements above. -/
def Obligations.ComparesCarriesAndPredicates : Prop := ComparesGivePredicatesOrMasks ∧ CarryAndPredicateLogic

/-! ## Float, special-function and codec results -/

/-- R121 to R125, R153: add, subtract, multiply and fused multiply-add round once, and so do the conversions, which write part of D or read part of A;
without stochastic rounding, for every bundle. Rounding takes the nearest grid point, the even one of two, or the one that the mode names, and a value
that the format holds is its own rounding. -/
def Obligations.FloatArithmeticRoundsOnce : Prop :=
  let sum := fun (mk : V96A → Instr) (f : Flt → Rm → Bool → Bool → Nat → Nat → Nat → Nat) =>
    ∀ (x : V96A) (s : State), s.clean (mk x) = true → x.rm ≠ .rs → ∃ t, exec (mk x) s = .next t ∧
      s.Computes t (mk x) x.d fun n w => ∀ e < x.ty.count,
        subEl x.ty w e = f (tyFlt x.ty) x.rm (x.sat == .satf) (x.opx.getLsbD 3) 0 (s.el n x.ty x.a e) (s.el n x.ty x.b e) % 2 ^ x.ty.width
  let conv := fun (mk : V96A → Instr) =>
    ∀ (x : V96A) (s : State), s.clean (mk x) = true → x.rm ≠ .rs → ∃ t, exec (mk x) s = .next t ∧
      s.Computes t (mk x) x.d fun n w => ∀ e < x.ty.count,
        let q := (x.opx.extractLsb' 0 2).toNat
        let one := fun c => convEl x.ty x.ty2 x.rm (x.sat == .satf) (x.opx.getLsbD 3) 0 c % 2 ^ x.ty.width
        subEl x.ty w e =
          if x.ty.count < x.ty2.count then one (s.el n x.ty2 x.a (q * x.ty.count + e))
          else if q * x.ty2.count ≤ e ∧ e < q * x.ty2.count + x.ty2.count then one (s.el n x.ty2 x.a (e - q * x.ty2.count))
          else subEl x.ty (s.opnd n x.d) e
  sum .fadd fltAdd ∧ sum .fsub fltSub ∧ sum .fmul fltMul ∧
  (∀ (x : V96A) (s : State), s.clean (.ffma x) = true → x.rm ≠ .rs → ∃ t, exec (.ffma x) s = .next t ∧
    s.Computes t (.ffma x) x.d fun n w => ∀ e < x.ty.count,
      subEl x.ty w e = fltFma (tyFlt x.ty) x.rm (x.sat == .satf) (x.opx.getLsbD 3) 0 (s.el n x.ty x.a e) (s.el n x.ty x.b e) (s.el n x.ty x.c e) %
        2 ^ x.ty.width) ∧
  conv .fcvt ∧ conv .icvtf ∧ conv .fcvti ∧
  (∀ (neg : Bool) (n d : Nat), 0 < d →
    (let k := roundMag .rne neg 0 n d
     2 * (k * d) ≤ 2 * n + d ∧ 2 * n ≤ 2 * (k * d) + d ∧ (2 * (n % d) = d → k % 2 = 0)) ∧
    roundMag .rz neg 0 n d = n / d ∧ roundMag .ru neg 0 n d = (if neg then n / d else (n + d - 1) / d) ∧
    roundMag .rd neg 0 n d = if neg then (n + d - 1) / d else n / d) ∧
  (∀ ty : Ty, ty ∈ [Ty.f16x4, .bf16x4, .f32x2, .f64] → ∀ (c dr : Nat) (rm : Rm) (satf : Bool), c < 2 ^ ty.width → dr < 2 ^ 24 →
    ((tyFlt ty).decode c).isFin = true → (tyFlt ty).enc rm satf dr ((tyFlt ty).decode c) = c)

/-- R124, R126: minimum, maximum, class, integral rounding and the eight special functions, sub-element by sub-element. -/
def Obligations.FloatSelectionAndSpecialFunctions : Prop :=
  let fun1 := fun (mk : V96A → Instr) (f : V96A → Nat → Nat) => PerElement mk fun x a _ _ _ v => v = f x a % 2 ^ x.ty.width
  let sfu := fun (mk : V96A → Instr) (k : Sfu) => fun1 mk fun x a => sfuEl k (tyFlt x.ty) (x.sat == .satf) (x.opx.getLsbD 3) a
  PerElement .fmin (fun x a b _ _ v => v = fltMinMax (tyFlt x.ty) false (x.opx.getLsbD 3) a b % 2 ^ x.ty.width) ∧
  PerElement .fmax (fun x a b _ _ v => v = fltMinMax (tyFlt x.ty) true (x.opx.getLsbD 3) a b % 2 ^ x.ty.width) ∧
  fun1 .fclass (fun x a => fltClass (tyFlt x.ty) a) ∧
  fun1 .frnd (fun x a => fltRnd (tyFlt x.ty) x.rm (x.opx.getLsbD 3) a) ∧
  sfu .frcp .rcp ∧ sfu .frsq .rsq ∧ sfu .fsqrt .sqrt ∧ sfu .fex2 .ex2 ∧ sfu .flg2 .lg2 ∧ sfu .fsin .sin ∧ sfu .fcos .cos ∧ sfu .ftanh .tanh

/-- R154, R155: under `.rs` each rounded sub-element takes the next draw of its thread's sequence, and `%rseed` moves on by as many draws as values
are converted; in every other mode it stays. -/
def Obligations.StochasticRoundingDraws : Prop :=
  let drawn := fun (mk : V96A → Instr) (count : V96A → Nat) (P : V96A → State → Nat → (Nat → Nat) → Word → Prop) =>
    ∀ (x : V96A) (s : State) (n : Nat), s.solo (mk x) n = true →
      let ds := draws (count x) (s.thread n).rseed
      ∃ t w, exec (mk x) s = .next t ∧ s.Sends t (s.valuesAt [n] x.d fun _ => w) ∧
        P x s n (fun e => if x.rm = .rs then ds.2.getD e 0 else 0) w ∧
        s.OnlyThread t n { s.thread n with rseed := if x.rm = .rs then ds.1 else (s.thread n).rseed }
  let all := fun (x : V96A) => x.ty.count
  let conv := fun (mk : V96A → Instr) => drawn mk (fun x => min x.ty.count x.ty2.count) fun x s n dr w => ∀ e < x.ty.count,
    let q := (x.opx.extractLsb' 0 2).toNat
    let one := fun (k c : Nat) => convEl x.ty x.ty2 x.rm (x.sat == .satf) (x.opx.getLsbD 3) (dr k) c % 2 ^ x.ty.width
    subEl x.ty w e =
      if x.ty.count < x.ty2.count then one e (s.el n x.ty2 x.a (q * x.ty.count + e))
      else if q * x.ty2.count ≤ e ∧ e < q * x.ty2.count + x.ty2.count then one (e - q * x.ty2.count) (s.el n x.ty2 x.a (e - q * x.ty2.count))
      else subEl x.ty (s.opnd n x.d) e
  conv .fcvt ∧ conv .icvtf ∧
  (∀ (x : V96A) (s : State) (n : Nat), s.solo (.cvol x) n = true → x.rm = .rs →
    let ds := draws x.ty.count (s.thread n).rseed
    let q := (x.opx.extractLsb' 0 3).toNat * x.ty.count
    ∃ t w flags side, exec (.cvol x) s = .next t ∧ s.Sends t (s.valuesAt [n] x.d (fun _ => w) ++ s.valuesAt [n] x.b flags ++ s.valuesAt [n] x.c side) ∧
      (∀ j < 8, byteOf w.toNat j =
        if q ≤ j ∧ j < q + x.ty.count then
          (if s.outlier n x.ty (s.el n x.ty x.a (j - q)) = true then 0
           else (fmtCode (x.e.num % 64)).enc .rs (x.sat == .satf) (ds.2.getD (j - q) 0) ((tyFlt x.ty).decode (s.el n x.ty x.a (j - q))) % 256)
        else byteOf (s.opnd n x.d).toNat j) ∧
      s.OnlyThread t n { s.thread n with rseed := ds.1 }) ∧
  drawn .fsub all (fun x s n dr w => ∀ e < x.ty.count, subEl x.ty w e =
    fltSub (tyFlt x.ty) x.rm (x.sat == .satf) (x.opx.getLsbD 3) (dr e) (s.el n x.ty x.a e) (s.el n x.ty x.b e) % 2 ^ x.ty.width) ∧
  drawn .fadd all (fun x s n dr w => ∀ e < x.ty.count, subEl x.ty w e =
    fltAdd (tyFlt x.ty) x.rm (x.sat == .satf) (x.opx.getLsbD 3) (dr e) (s.el n x.ty x.a e) (s.el n x.ty x.b e) % 2 ^ x.ty.width) ∧
  drawn .fmul all (fun x s n dr w => ∀ e < x.ty.count, subEl x.ty w e =
    fltMul (tyFlt x.ty) x.rm (x.sat == .satf) (x.opx.getLsbD 3) (dr e) (s.el n x.ty x.a e) (s.el n x.ty x.b e) % 2 ^ x.ty.width) ∧
  drawn .ffma all (fun x s n dr w => ∀ e < x.ty.count, subEl x.ty w e =
    fltFma (tyFlt x.ty) x.rm (x.sat == .satf) (x.opx.getLsbD 3) (dr e) (s.el n x.ty x.a e) (s.el n x.ty x.b e) (s.el n x.ty x.c e) % 2 ^ x.ty.width) ∧
  drawn .cvt8 all (fun x s n dr w => ∀ j < 8,
    let q := (x.opx.extractLsb' 0 3).toNat * x.ty.count
    let a := fun e => (tyFlt x.ty).decode (s.el n x.ty x.a e)
    byteOf w.toNat j =
      if q ≤ j ∧ j < q + x.ty.count then
        (fmtCode (x.e.num % 64)).enc x.rm (x.sat == .satf) (dr (j - q))
          (if x.opx.getLsbD 3 then quot (a (j - q)) (s.el n x.ty x.b (j - q)) else a (j - q)) % 256
      else byteOf (s.opnd n x.d).toNat j) ∧
  drawn .cvw8 all (fun x s n dr w => ∀ e < x.ty.count,
    let a := (fmtCode (x.e.num % 64)).decode (byteOf (s.opnd n x.a).toNat ((x.opx.extractLsb' 0 3).toNat * x.ty.count + e))
    subEl x.ty w e = (tyFmt x.ty).enc x.rm (x.sat == .satf) (dr e) (if x.opx.getLsbD 3 then prod a (s.el n x.ty x.b e) else a) % 2 ^ x.ty.width) ∧
  drawn .pk4 all (fun x s n dr w => ∀ j < 16,
    let q := (x.opx.extractLsb' 0 3).toNat * x.ty.count
    nibble w j =
      if q ≤ j ∧ j < q + x.ty.count then
        (fmtCode (x.e.num % 64)).enc x.rm false (dr (j - q)) ((tyFmt x.ty).decode (s.el n x.ty x.a (j - q))) % 16
      else nibble (s.opnd n x.d) j)

/-- R166 to R169: the outlier split of a group sends the codes with outliers as zero, their flags with the count below the lane, and the side list;
block maxima, block scales and the unpacking of nibbles. -/
def Obligations.CodecSplitsScalesAndUnpacks : Prop :=
  (∀ (x : V96A) (s : State), s.clean (.cvol x) = true → x.rm ≠ .rs → ∃ t codes flags side, exec (.cvol x) s = .next t ∧
    (let ts := s.executing (.cvol x)
     let q := (x.opx.extractLsb' 0 3).toNat * x.ty.count
     let out := fun (n e : Nat) => s.outlier n x.ty (s.el n x.ty x.a e)
     let group := fun (n : Nat) => ts.filter fun u => widOf u == widOf n
     let below := fun (n : Nat) => (s.outliers x ((group n).filter fun u => decide (u < n))).length
     let rest := fun (n : Nat) => ((group n).filter fun u => decide (u < n)).length
     s.Sends t (s.valuesAt ts x.d codes ++ s.valuesAt ts x.b flags ++ s.valuesAt ts x.c side) ∧
     ∀ n ∈ ts,
       (∀ j < 8, byteOf (codes n).toNat j =
         if q ≤ j ∧ j < q + x.ty.count then
           (if out n (j - q) = true then 0
            else (fmtCode (x.e.num % 64)).enc x.rm (x.sat == .satf) 0 ((tyFlt x.ty).decode (s.el n x.ty x.a (j - q))) % 256)
         else byteOf (s.opnd n x.d).toNat j) ∧
       (∀ e < x.ty.count, (flags n).toNat.testBit e = out n e) ∧ (flags n).toNat % 256 < 2 ^ x.ty.count ∧ (flags n).toNat / 256 = below n ∧
       (∀ k < 4, subEl .u16x4 (side n) k = (s.outliers x (group n)).getD (4 * rest n + k) 0 % 2 ^ 16)) ∧
    s.OnlyResults t ∧ s.Advances t (.cvol x)) ∧
  (∀ (x : V96A) (s : State), s.clean (.bmax x) = true → ∃ t, exec (.bmax x) s = .next t ∧
    s.Computes t (.bmax x) x.d fun n w => ∀ e < x.ty.count,
      let g := 8 * 2 ^ x.opx.toNat
      subEl x.ty w e = (BitVec.ofInt x.ty.width (bmaxOf (s.blockVals x (s.executing (.bmax x)) n ((laneOf n * x.ty.count + e) / g) g))).toNat) ∧
  PerElement .bscl (fun x a _ _ _ v => v = scaleCode (x.e.num % 64) (BitVec.ofNat x.ty.width a).toInt % 2 ^ x.ty.width) ∧
  (∀ (x : V96A) (s : State), s.clean (.upk4 x) = true → ∃ t, exec (.upk4 x) s = .next t ∧
    s.Computes t (.upk4 x) x.d fun n w => ∀ e < x.ty.count, subEl x.ty w e =
      (tyFmt x.ty).enc .rne false 0 ((fmtCode (x.e.num % 64)).decode (nibble (s.opnd n x.a) ((x.opx.extractLsb' 0 3).toNat * x.ty.count + e))) %
        2 ^ x.ty.width)

/-! ## Cross-lane results -/

/-- R134 to R136, R140: shuffles move sub-elements between the slots of a group, a broadcast copies the register of one lane, votes and ballots read a
predicate over the group, and the byte permutation reads 16 bytes. -/
def Obligations.ShufflesVotesAndPermutes : Prop :=
  (∀ (x : V96A) (s : State), s.clean (.shfl x) = true → ∃ t, exec (.shfl x) s = .next t ∧
    s.Computes t (.shfl x) x.d fun n w => ∀ e < x.ty.count,
      let own : Int := laneOf n * x.ty.count + e
      let k := s.el n x.ty x.b e
      let src : Int := if x.opx.toNat = 0 then k else if x.opx.toNat = 1 then own - k else if x.opx.toNat = 2 then own + k
        else ((laneOf n * x.ty.count + e) ^^^ k : Nat)
      let u := widOf n * 32 + src.toNat / x.ty.count
      subEl x.ty w e =
        if 0 ≤ src ∧ src < 32 * x.ty.count ∧ u ∈ s.executing (.shfl x) then s.el u x.ty x.a (src.toNat % x.ty.count) % 2 ^ x.ty.width
        else subEl x.ty (s.opnd n x.d) e) ∧
  (∀ (x : V96A) (s : State), s.clean (.bcast x) = true → ∃ t, exec (.bcast x) s = .next t ∧
    (let u := fun n => widOf n * 32 + (s.opnd n x.b).toNat
     let here := (s.executing (.bcast x)).filter fun n => decide ((s.opnd n x.b).toNat < 32) && (s.executing (.bcast x)).contains (u n)
     s.Sends t (s.valuesAt here x.d fun n => s.opnd (u n) x.a)) ∧
    s.OnlyResults t ∧ s.Advances t (.bcast x)) ∧
  (∀ (x : V96A) (s : State), s.clean (.vote x) = true → ∃ t, exec (.vote x) s = .next t ∧
    s.Computes t (.vote x) x.d fun n w =>
      let g := (s.executing (.vote x)).filter fun u => widOf u == widOf n
      let all := ∀ u ∈ g, s.readP u x.a.num = true
      w = if (x.opx.toNat = 0 ∧ all) ∨ (x.opx.toNat = 1 ∧ ∃ u ∈ g, s.readP u x.a.num = true) ∨
        (1 < x.opx.toNat ∧ (all ∨ ∀ u ∈ g, s.readP u x.a.num = false)) then 1 else 0) ∧
  (∀ (x : V96A) (s : State), s.clean (.ballot x) = true → ∃ t, exec (.ballot x) s = .next t ∧
    s.Computes t (.ballot x) x.d fun n w => ∀ k, w.getLsbD k =
      decide (k < 32 ∧ ∃ u ∈ s.executing (.ballot x), widOf u = widOf n ∧ laneOf u = k ∧ s.readP u x.a.num = true)) ∧
  (∀ (x : V96A) (s : State), s.clean (.vperm x) = true → ∃ t, exec (.vperm x) s = .next t ∧
    s.Computes t (.vperm x) x.d fun n w => ∀ j < 8,
      let k := byteOf (s.opnd n x.b).toNat j
      byteOf w.toNat j =
        if 128 ≤ k then 0 else if k % 16 < 8 then byteOf (s.opnd n x.a).toNat (k % 16) else byteOf (s.opnd n x.c).toNat (k % 16 - 8))

/-- R137 to R139: a reduction gives every sub-element the value of the fixed tree over the group's slots, and a scan the value over the slots up to its
own; for the integer operations that is the plain combination in slot order. -/
def Obligations.ReductionsAndScans : Prop :=
  let op := fun (x : V96A) => redOp (x.opx.extractLsb' 0 3).toNat x.ty x.rm (x.sat == .sat)
  let plain := fun (x : V96A) => 3 ≤ (x.opx.extractLsb' 0 3).toNat ∧ x.sat = .none
  (∀ (x : V96A) (s : State), s.clean (.vred x) = true → ∃ t, exec (.vred x) s = .next t ∧
    s.Computes t (.vred x) x.d fun n w =>
      let vs := s.slotVals x (s.executing (.vred x)) n
      (∀ e < x.ty.count, subEl x.ty w e = ((treeLevels (op x) (treeDepth x.ty) vs).getD (treeDepth x.ty) []).getD 0 0 % 2 ^ x.ty.width) ∧
      (plain x → ∀ e < x.ty.count, subEl x.ty w e = vs.tail.foldl (op x) (vs.headD 0))) ∧
  (∀ (x : V96A) (s : State), s.clean (.vscan x) = true → ∃ t, exec (.vscan x) s = .next t ∧
    s.Computes t (.vscan x) x.d fun n w => ∀ e < x.ty.count,
      let m := laneOf n * x.ty.count + e + (if x.opx.getLsbD 3 then 0 else 1)
      let vs := s.slotVals x (s.executing (.vscan x)) n
      let id := redId (x.opx.extractLsb' 0 3).toNat x.ty
      subEl x.ty w e = (prefixOf (op x) (treeLevels (op x) (treeDepth x.ty) vs) m (treeDepth x.ty + 1) 0 none).getD id % 2 ^ x.ty.width ∧
      (plain x → subEl x.ty w e = if m = 0 then id % 2 ^ x.ty.width else (vs.take m).tail.foldl (op x) (vs.headD 0)))

/-! ## Moves, special registers, tables, nests -/

/-- R99: an indexed move reads or writes the register that the exact index names; an index outside the thread's registers raises REGRANGE with the
index in AUX, and sends no result. -/
def Obligations.IndexedMovesCheckTheIndex : Prop :=
  (∀ (x : V96A) (s : State) (n : Nat), s.solo (.movxr x) n = true →
    let k : Int := (s.opnd n x.a).toNat + (s.opnd n x.b).toInt
    (0 ≤ k → k < (s.thread n).limit → ∃ t, exec (.movxr x) s = .next t ∧
      s.Sends t (s.valuesAt [n] x.d fun _ => s.readV n k.toNat) ∧ s.OnlyResults t ∧ s.Advances t (.movxr x)) ∧
    (k < 0 ∨ (s.thread n).limit ≤ k → ∃ t, exec (.movxr x) s = .next t ∧
      s.Raises t n { flt .regrange with aux := (BitVec.ofInt 64 k).toNat, pc := (s.thread n).pc, resume := (s.thread n).pc })) ∧
  (∀ (x : V96A) (s : State) (n : Nat), s.solo (.movxw x) n = true →
    let k : Int := (s.opnd n x.d).toNat + (s.opnd n x.b).toInt
    (0 ≤ k → k < (s.thread n).limit → (s.thread n).limit ≤ 256 → ∃ t, exec (.movxw x) s = .next t ∧
      s.Sends t [(.v n ((s.thread n).phys k.toNat), some (s.opnd n x.a))] ∧ s.OnlyResults t ∧ s.Advances t (.movxw x)) ∧
    (k < 0 ∨ (s.thread n).limit ≤ k → ∃ t, exec (.movxw x) s = .next t ∧
      s.Raises t n { flt .regrange with aux := (BitVec.ofInt 64 k).toNat, pc := (s.thread n).pc, resume := (s.thread n).pc }))

/-- R96, R100: `srd` gives the special register's value at issue: the place of the thread, the region, the clock, the thread's own registers, and the
segment registers of its workgroup. -/
def Obligations.SpecialRegisterReads : Prop :=
  ∀ (x : S64A) (s : State), s.clean (.srd x) = true → s.fld rRpctl 1 0 = 0 → ∃ t, exec (.srd x) s = .next t ∧
    s.Computes t (.srd x) x.d fun n w =>
      let th := s.thread n
      let k := x.a.num
      (k = 0x00 → w = BitVec.ofNat 64 (n % 32)) ∧
      (k = 0x01 → w = BitVec.ofNat 64 (if n / 512 % 5 = 4 then 16 else n / 32 % 16)) ∧
      (k = 0x02 → w = BitVec.ofNat 64 (n / 512 % 5)) ∧
      (k = 0x04 → w = BitVec.ofNat 64 (n / 2560)) ∧
      (k = 0x07 → w = BitVec.ofNat 64 s.b.pkg) ∧
      (k = 0x08 → w = BitVec.ofNat 64 (th.region % 2 ^ 32)) ∧
      (k = 0x09 → w = BitVec.ofNat 64 s.clk) ∧
      (k = 0x0A → w = th.tpc) ∧ (k = 0x0B → w = th.tcause) ∧ (k = 0x0C → w = th.rseed) ∧ (k = 0x0D → w = th.olthr) ∧
      (k = 0x0E → w = BitVec.ofNat 64 th.win.dep) ∧
      (∀ g, s.wgOf n = some g →
        (k = 0x03 → w = BitVec.ofNat 64 g.slot) ∧ (k = 0x05 → w = BitVec.ofNat 64 g.rank) ∧ (k = 0x06 → w = BitVec.ofNat 64 g.clus) ∧
        (0x10 ≤ k → k < 0x20 → w = g.segs.getD (k - 0x10) 0))

/-- R96, R100, R155: `swr` writes one thread's own special register at issue, `%olthr` with its upper half zero. -/
def Sys2Proof.Machine.SpecialRegisterWrites : Prop :=
  ∀ (x : S64A) (s : State) (n : Nat), s.solo (.swr x) n = true → x.d.num < 0x10 → ∃ t, exec (.swr x) s = .next t ∧
    t.c.pend = s.c.pend ∧ s.Advances t (.swr x) ∧
    let v := s.opnd n x.a
    let k := x.d.num
    s.OnlyThread t n
      { s.thread n with
        tpc := if k = 0x0A then v else (s.thread n).tpc
        tcause := if k = 0x0B then v else (s.thread n).tcause
        rseed := if k = 0x0C then v else (s.thread n).rseed
        olthr := if k = 0x0D then (v.extractLsb' 0 32).zeroExtend 64 else (s.thread n).olthr }

/-- R100, R159: a segment register takes an accepted value; a value that R159 refuses is ILLEGAL and the register keeps its own. -/
def Sys2Proof.Machine.SegmentRegisterWrites : Prop :=
  ∀ (x : S64A) (s : State) (n : Nat) (g : Wg), s.solo (.swr x) n = true → 0x10 ≤ x.d.num → s.wgOf n = some g →
    (segValueOk (s.opnd n x.a) = true → ∃ t, exec (.swr x) s = .next t ∧
      t.c.wgs = s.c.wgs.map (fun h => if h.key = g.key then { h with segs := h.segs.set (x.d.num - 0x10) (s.opnd n x.a) } else h) ∧
      t.c.pend = s.c.pend ∧ t.m = s.m ∧ t.l = s.l ∧ t.c.warps = s.c.warps ∧ t.b.regs = s.b.regs ∧ s.Advances t (.swr x)) ∧
    (segValueOk (s.opnd n x.a) = false → ∃ t, exec (.swr x) s = .next t ∧
      s.Raises t n { flt .illegal with pc := (s.thread n).pc, resume := (s.thread n).pc })

/-- The writes of special and of segment registers: both statements above. -/
def Obligations.SpecialAndSegmentRegisterWrites : Prop := SpecialRegisterWrites ∧ SegmentRegisterWrites

/-- R127 to R131: `tbl` interpolates in the bank that is active at issue; `tblsw` and `tblld` join the slot's jobs; a swap exchanges the banks when no
result of the bank that becomes the shadow is outstanding; a load fills the shadow bank. -/
def Obligations.ActivationTables : Prop :=
  (∀ (x : V96A) (s : State), s.clean (.tbl x) = true → (∀ n ∈ s.executing (.tbl x), (s.wgOf n).isSome) → ∃ t f, exec (.tbl x) s = .next t ∧
    s.Sends t (s.valuesAt (s.executing (.tbl x)) x.d f) ∧
    (∀ n ∈ s.executing (.tbl x), ∀ g, s.wgOf n = some g → ∀ e < x.ty.count, subEl x.ty (f n) e =
      tblEl (if g.table.active then g.table.bank1 else g.table.bank0) x.ty (x.opx.getLsbD 3) (s.el n x.ty x.a e) % 2 ^ x.ty.width) ∧
    s.OnlyResults t ∧ s.Advances t (.tbl x)) ∧
  (∀ (x : S64A) (s : State) (n : Nat) (g : Wg), s.solo (.tblsw x) n = true → s.wgOf n = some g → ∃ t, exec (.tblsw x) s = .next t ∧
    t.c.wgs = s.c.wgs.map (fun h => if h.key = g.key then
      { h with table := { h.table with jobs := h.table.jobs ++ [{ swap := true, clk := s.clk, tids := [n], pc := s.cur.pc, img := 0, bad := none, started := false }] } }
      else h) ∧
    (t.thread n).wait = .table ∧ t.c.pend = s.c.pend ∧ t.m = s.m) ∧
  (∀ (x : M128A) (s : State) (n : Nat) (g : Wg), s.solo (.tblld x) n = true → s.wgOf n = some g → s.debugIdle → s.seated →
    let va := (s.opnd n x.a + x.i32.signExtend 64).toNat
    ((s.m.ops.any fun o => o.tid == n) = true → ∃ t, exec (.tblld x) s = .next t ∧ s.OnlyResults t ∧ t.c.pend = s.c.pend ∧ (t.thread n).wait = .drain) ∧
    ((∀ o ∈ s.m.ops, o.tid ≠ n) → va % 16 ≠ 0 → ∃ t, exec (.tblld x) s = .next t ∧
      s.Raises t n { fltAt .misalign 0 0 va with pc := (s.thread n).pc, resume := (s.thread n).pc }) ∧
    (∀ (u : State) (img : Nat) (bad : Option (Nat × FaultInfo)), (∀ o ∈ s.m.ops, o.tid ≠ n) → va % 16 = 0 →
      s.readImage n x.sp va 257 0 0 = (u, img, bad) → ∃ t, exec (.tblld x) s = .next t ∧ s.Advances t (.tblld x) ∧ t.Becomes n (u.modWg g.key fun h =>
        { h with table := { h.table with jobs := h.table.jobs ++ [{ swap := false, clk := s.clk, tids := [n], pc := s.cur.pc, img := img, bad := bad,
                                                                    started := false }] } }))) ∧
  (∀ (s : State) (key k : Nat) (g : Wg), s.wg? key = some g → g.table.swapAt = some k → s.bankQuiet key (1 - bit g.table.active) = true →
    ∃ t h, exec (.tableSwap key) s = .next t ∧ t.wg? key = some h ∧ h.table.active = !g.table.active ∧ h.table.bank0 = g.table.bank0 ∧
      h.table.bank1 = g.table.bank1 ∧ h.table.jobs = g.table.jobs.eraseIdx k ∧ t.m = s.m) ∧
  (∀ (s : State) (key k : Nat) (g : Wg), s.wg? key = some g → g.table.loadAt = some k → s.bankQuiet key (1 - bit g.table.active) = true →
    ∃ t h, exec (.tblldWriteStart key) s = .next t ∧ t.wg? key = some h ∧
      h.table.jobs = g.table.jobs.modify k (fun j => { j with started := true }) ∧ t.m = s.m) ∧
  (∀ (s : State) (key k : Nat) (g : Wg) (j : TableJob), s.wg? key = some g → (g.table.jobs.findIdx? fun j => j.started) = some k →
    g.table.jobs[k]? = some j → j.bad = none → ∃ t h, exec (.tblldComplete key) s = .next t ∧ t.wg? key = some h ∧
      (if g.table.active then h.table.bank0 = j.img ∧ h.table.bank1 = g.table.bank1 else h.table.bank1 = j.img ∧ h.table.bank0 = g.table.bank0) ∧
      h.table.active = g.table.active ∧ h.table.jobs = g.table.jobs.eraseIdx k ∧ t.m = s.m)

/-- R142: a loop-nest instruction starts one nest for its warp, with the base registers as they stand at issue, and its threads wait for it. -/
def Sys2Proof.Machine.NestsStartWithTheirBases : Prop :=
  let starts := fun (mk : NestA → Instr) (op : Nat) => ∀ (x : NestA) (s : State) (n : Nat) (g : Wg), s.solo (mk x) n = true → s.wgOf n = some g →
    (∀ e ∈ s.c.scrQ, e.tid ≠ n) → (∀ j ∈ s.c.rows, ∀ l ∈ j.lanes, l.tid ≠ n) → ∃ t, exec (mk x) s = .next t ∧
      t.c.nests = s.c.nests ++ [{ wid := widOf n, tids := [n], op := op, a := x, img := g.table.act, iter := 0, part := 0, pc := s.cur.pc,
                                   back := [(n, (s.thread n).loop.act, (s.thread n).loop.pass)],
                                   base := [s.readW n x.bas0.toNat, s.readW n x.bas1.toNat, s.readW n x.bas2.toNat] }] ∧
      (t.thread n).wait = .nest ∧ t.c.pend = s.c.pend ∧ t.c.wgs = s.c.wgs ∧ t.m = s.m ∧ t.c.warps = s.c.warps
  starts .nmap 0xE0 ∧ starts .nred 0xE1 ∧ starts .nfill 0xE2

/-! ## Flow -/

/-- R61, R62, R74, R75, R63: `nop` only advances; `pause` waits until clock c + n; a taken branch goes to its target, and `brx` to no address that
cannot be an instruction's; `lbrk` leaves its loop. -/
def Obligations.BranchesAndPauses : Prop :=
  (∀ (x : S64A) (s : State), s.clean (.nop x) = true → ∃ t, exec (.nop x) s = .next t ∧ t.c.pend = s.c.pend ∧ s.OnlyResults t ∧ s.Advances t (.nop x)) ∧
  (∀ (x : S64A) (s : State) (n : Nat), s.solo (.pause x) n = true → ∃ t, exec (.pause x) s = .next t ∧
    t.c.pend = s.c.pend ∧ s.OnlyResults t ∧ (t.thread n).wait = .pause (s.clk + x.i16.toNat) ∧
    ((s.thread n).loop.act = false → (t.thread n).pc = (s.thread n).pc + 8)) ∧
  (∀ (x : SBrA) (s : State) (n : Nat), s.solo (.bra x) n = true → ∃ t, exec (.bra x) s = .next t ∧
    t.c.pend = s.c.pend ∧ s.OnlyResults t ∧ ((t.thread n).pc : Int) = (s.cur.pc + 4 * x.off.toInt) % 2 ^ 64 ∧ (t.thread n).bundle = none) ∧
  (∀ (x : V96A) (s : State) (n : Nat), s.solo (.brx x) n = true →
    let a := (s.opnd n x.a).toNat
    (a < 2 ^ 57 → a % 4 = 0 → ∃ t, exec (.brx x) s = .next t ∧ t.c.pend = s.c.pend ∧ s.OnlyResults t ∧ (t.thread n).pc = a) ∧
    (2 ^ 57 ≤ a ∨ a % 4 ≠ 0 → ∃ t, exec (.brx x) s = .next t ∧
      s.Raises t n { flt .fetch with pc := (s.thread n).pc, resume := (s.thread n).pc })) ∧
  (∀ (x : S64A) (s : State) (n : Nat), s.solo (.lbrk x) n = true →
    ((s.thread n).loop.act = true → ∃ t, exec (.lbrk x) s = .next t ∧ t.c.pend = s.c.pend ∧ s.OnlyResults t ∧
      (t.thread n).loop = { (s.thread n).loop with act := false } ∧ (t.thread n).pc = (s.thread n).loop.endAddr) ∧
    ((s.thread n).loop.act = false → ∃ t, exec (.lbrk x) s = .next t ∧
      s.Raises t n { flt .illegal with pc := (s.thread n).pc, resume := (s.thread n).pc }))

/-- R64 to R66: a loop whose body is accepted starts at its first body instruction with the trip count of its field or register; a trip count of 0, or a false
guard, goes to the end address; a body that is not accepted is a fault of every thread of the bundle, whatever its guard. The last part gives the conditions on
the state alone: a body in one page that a TLB holds, homed on this module, whose words the check of R65 accepts. -/
def Obligations.LoopsStartOrSkip : Prop :=
  let started := fun (x : LoopA) (s : State) (offs : List Nat) (th : Thread) (trip : Nat) (th' : Thread) =>
    if trip = 0 then th'.pc = s.cur.pc + 32 + offs.getLastD 0 ∧ th'.loop = th.loop
    else th'.pc = s.cur.pc + 32 ∧ th'.loop.act = true ∧ th'.loop.pass = 0 ∧ th'.loop.trip = trip ∧ th'.loop.ladr = s.cur.pc ∧ th'.loop.word = x ∧
      th'.loop.offs = offs
  let tripOf := fun (x : LoopA) (s : State) (n : Nat) => if x.tm then (s.readW n (x.trip.extractLsb' 0 6).toNat).toNat % 2 ^ 32 else x.trip.toNat
  (∀ (x : LoopA) (s u : State) (n : Nat) (offs : List Nat) (bs : List (Nat × Nat)), s.solo (.loop x) n = true →
    s.loopBody n (s.cur.pc + 32) x (x.nb.toNat + 1) 0 (s.cur.pc + 32) = (u, .ok (offs, bs)) → u.solo (.loop x) n = true → u.cur = s.cur →
    ∃ t, exec (.loop x) s = .next t ∧ t.c.pend = u.c.pend ∧ u.OnlyResults t ∧ started x s offs (u.thread n) (tripOf x u n) (t.thread n) ∧
      (tripOf x u n ≠ 0 → (t.thread n).loop.blocks = bs)) ∧
  (∀ (x : LoopA) (s u : State) (n : Nat) (offs : List Nat) (bs : List (Nat × Nat)), (Instr.loop x).wfIn (s.cur.unit % 5 == 4) = true →
    s.loopBody n (s.cur.pc + 32) x (x.nb.toNat + 1) 0 (s.cur.pc + 32) = (u, .ok (offs, bs)) → u.cur = s.cur → s.cur.tids = [n] →
    u.guards n (.loop x) = false → (u.thread? n).isSome → ∃ t, exec (.loop x) s = .next t ∧ t.c.pend = u.c.pend ∧ u.OnlyResults t ∧
      (t.thread n).pc = s.cur.pc + 32 + offs.getLastD 0 ∧ (t.thread n).loop = (u.thread n).loop) ∧
  (∀ (x : LoopA) (s u : State) (n : Nat) (f : FaultInfo), (Instr.loop x).wfIn (s.cur.unit % 5 == 4) = true → s.cur.tids = [n] →
    s.loopBody n (s.cur.pc + 32) x (x.nb.toNat + 1) 0 (s.cur.pc + 32) = (u, .error f) →
    exec (.loop x) s = .next (u.raise n { f with pc := (u.thread n).pc, resume := (u.thread n).pc })) ∧
  (∀ (x : LoopA) (s : State) (n : Nat) (r : Region) (p : Pte) (offs : List Nat), s.solo (.loop x) n = true → s.regionOf n = some r → s.m.errs = [] →
    s.cur.pc % 4 = 0 → offs.length = x.nb.toNat + 2 → offs.getD 0 0 = 0 → p.perm.testBit 3 = true →
    (∀ k < x.nb.toNat + 1,
      let a := s.cur.pc + 32 + offs.getD k 0
      let b := p.addr a / 32 * 32
      a < 2 ^ 57 ∧ (s.tlbHit (coreOf n) r.asid a).map (·.pte) = some p ∧ hostSpace b = false ∧ s.here b = true ∧ s.tenantOk r.tenant b true false = true ∧
        s.poisonedIn b 32 = false ∧
        ∃ w, wordIn a (s.rdNat b 32) = some w ∧ bodyOk x k w = true ∧ offs.getD (k + 1) 0 = offs.getD k 0 + lenBits w / 8) →
    ∃ t, exec (.loop x) s = .next t ∧ t.c.pend = s.c.pend ∧ t.m.mem = s.m.mem ∧ started x s offs (s.thread n) (tripOf x s n) (t.thread n) ∧
      (∀ k, k ≠ n → t.thread k = s.thread k) ∧ t.thread n = (s.thread n).control (t.thread n))

/-- R82, R83: `yield` clears the yield count and sets the budget, no higher than the region's maximum; while a pre-emption request is pending for its workgroup
the thread is held there, at the next instruction, with the live count of the `yield`; else it goes on. A thread beyond its budget raises YIELDOVR at its program
counter; one within it, or whose instruction has been counted already, does not. -/
def Obligations.YieldBudget : Prop :=
  (∀ (x : S64A) (s : State) (n : Nat) (r : Region), s.solo (.yield x) n = true → s.regionOf n = some r →
    ∃ t, exec (.yield x) s = .next t ∧ t.c.pend = s.c.pend ∧ (t.thread n).ycnt = 0 ∧
      s.OnlyThread t n { s.thread n with ybud := if x.i16 = 0 then r.y else min x.i16.toNat r.y } ∧
      ((s.thread n).loop.act = false → (t.thread n).pc = (s.thread n).pc + 8) ∧
      (s.preempting n = false → s.Advances t (.yield x)) ∧
      (∀ k, s.preempting n = true → liveCount x.b = some k → (t.thread n).wait = .yieldHold k)) ∧
  (∀ (s : State) (n : Nat), (s.thread n).gone = false → (s.thread n).replay = false → (s.thread n).ybud < (s.thread n).ycnt + 1 →
    exec (.yieldovr n) s = .next (s.raise n { flt .yieldovr with pc := (s.thread n).pc, resume := (s.thread n).pc })) ∧
  (∀ (s : State) (n : Nat), (s.thread n).gone = true ∨ (s.thread n).replay = true ∨ (s.thread n).ycnt + 1 ≤ (s.thread n).ybud →
    exec (.yieldovr n) s = .next s)

/-! ## Rejoin masks -/

/-- R76 to R80: `jmark` sets one mask of its warp, `rjoin` arrives and waits, `jleave` leaves; an episode in which every masked live thread has arrived
or left ends, and its waiting threads go on. Nothing but the three fields of that mask and the threads' control changes. -/
def Obligations.RejoinEpisodes : Prop :=
  let only := fun (s t : State) (w k : Nat) =>
    t = { s with free := t.free, c := { s.c with threads := t.c.threads }, b := { s.b with units := t.b.units } } ∧
    ∀ u, t.thread u = { (s.thread u).control (t.thread u) with msk := (t.thread u).msk, arr := (t.thread u).arr, lft := (t.thread u).lft } ∧
      (widOf u ≠ w → t.thread u = s.thread u) ∧
      ∀ j, j ≠ k → (t.thread u).msk.getLsbD j = (s.thread u).msk.getLsbD j ∧ (t.thread u).arr.getLsbD j = (s.thread u).arr.getLsbD j ∧
        (t.thread u).lft.getLsbD j = (s.thread u).lft.getLsbD j
  let open_ := fun (s : State) (n k : Nat) => ∃ u ∈ s.c.threads, widOf u.tid = widOf n ∧ u.gone = false ∧ u.tid ≠ n ∧
    u.msk.getLsbD k = true ∧ u.arr.getLsbD k = false ∧ u.lft.getLsbD k = false
  let waits := fun (s : State) (n k : Nat) => ∃ u ∈ s.c.threads, widOf u.tid = widOf n ∧ u.arr.getLsbD k = true
  let ended := fun (s t : State) (n k : Nat) => ∀ u, widOf u = widOf n → (s.thread? u).isSome →
    (t.thread u).arr.getLsbD k = false ∧ (t.thread u).lft.getLsbD k = false ∧ (u ≠ n → (s.thread u).wait = .rjoin k → (t.thread u).wait = .none)
  (∀ (x : S64A) (s : State) (n : Nat), s.solo (.jmark x) n = true → ¬ waits s n x.d.num → ∃ t, exec (.jmark x) s = .next t ∧
    t.c.pend = s.c.pend ∧ only s t (widOf n) x.d.num ∧ s.Advances t (.jmark x) ∧
    ∀ u, widOf u = widOf n → (s.thread? u).isSome → (t.thread u).arr = (s.thread u).arr ∧ (t.thread u).lft = (s.thread u).lft ∧
      (x.d.num < 16 → (t.thread u).msk.getLsbD x.d.num =
        if x.i16.toNat = 0 then decide (u = n) else if x.i16.toNat = 1 then decide (u = n) || (s.thread u).msk.getLsbD x.d.num
        else (s.opnd n x.a).getLsbD (laneOf u))) ∧
  (∀ (x : S64A) (s : State) (n : Nat), s.solo (.rjoin x) n = true → ∃ t, exec (.rjoin x) s = .next t ∧
    t.c.pend = s.c.pend ∧ only s t (widOf n) x.d.num ∧
    ((s.thread n).loop.act = false → (t.thread n).pc = (s.thread n).pc + 8) ∧
    ((s.thread n).msk.getLsbD x.d.num = true → open_ s n x.d.num → (t.thread n).arr.getLsbD x.d.num = true ∧ (t.thread n).wait = .rjoin x.d.num) ∧
    ((s.thread n).msk.getLsbD x.d.num = true → ¬ open_ s n x.d.num → ended s t n x.d.num ∧ (t.thread n).wait = .none) ∧
    ((s.thread n).msk.getLsbD x.d.num = false → (t.thread n).wait = .none)) ∧
  (∀ (x : S64A) (s : State) (n : Nat), s.solo (.jleave x) n = true → ∃ t, exec (.jleave x) s = .next t ∧
    t.c.pend = s.c.pend ∧ only s t (widOf n) x.d.num ∧ s.Advances t (.jleave x) ∧
    ((s.thread n).msk.getLsbD x.d.num = true → open_ s n x.d.num ∨ ¬ waits s n x.d.num → (t.thread n).lft.getLsbD x.d.num = true ∧
      ∀ u, (t.thread u).arr = (s.thread u).arr ∧ (u ≠ n → (t.thread u).lft = (s.thread u).lft)) ∧
    ((s.thread n).msk.getLsbD x.d.num = true → ¬ open_ s n x.d.num → waits s n x.d.num → ended s t n x.d.num))

/-! ## Exceptions -/

/-- R85, R87, R307: under the handler policy `trap n` takes the exception: `%tpc` is the address after the `trap`, `%tcause` holds the code 0x10 with n
in [23:8], HM is set, the yield count is 0 and the budget is the region's maximum, the program counter is HND; one record, with the clock of the fault, goes to
the region's ring by a store of the device, and nothing else changes. No thread below this one has a fault that is due (those are taken first, R309). -/
def Obligations.TrapEntersTheHandler : Prop :=
  ∀ (x : S64A) (s : State) (n : Nat) (r : Region), s.solo (.trap x) n = true → s.regionOf n = some r → r.pol = 3 → (s.thread n).hm = false →
    (s.thread n).faults = [] → (s.thread n).hostPark = false → (s.thread n).loop.act = false → s.owes n = false →
    (∀ k ∈ s.c.threads, k.tid < n → k.dueFault = none) → s.fld (rPctl (unitOf n)) 7 7 = 0 → (s.unit (unitOf n)).step = none →
    let f : FaultInfo := { code := .trap, pc := (s.thread n).pc, resume := (s.thread n).pc + 8, aux := x.i16.toNat, exp := s.iteration n, clk := s.clk }
    let w := (({ s with free := s.free + 1 }).devWrite (r.flta + 4096 + 64 * (r.fwr % r.fltn)) 64 (recordBits r.num (s.wgi n) n false f)).devWrite
      (r.rcb + 108) 4 ((r.fwr + 1) % 2 ^ 32)
    ∃ t, exec (.trap x) s = .next t ∧
      (t.thread n).tpc = BitVec.ofNat 64 (((s.thread n).pc + 8) % 2 ^ 57) ∧ (t.thread n).tcause = BitVec.ofNat 64 (0x10 + x.i16.toNat * 256) ∧
      (t.thread n).hm = true ∧ (t.thread n).pc = r.hnd ∧ (t.thread n).ycnt = 0 ∧ (t.thread n).ybud = r.y ∧
      (t.thread n).wait = .none ∧ (t.thread n).park = false ∧ (t.thread n).loop = (s.thread n).loop ∧
      t.thread n = { (s.thread n).control (t.thread n) with
        tpc := (t.thread n).tpc, tcause := (t.thread n).tcause, hm := true, ybud := r.y, fetch := .none } ∧
      (∀ k, k ≠ n → t.thread k = s.thread k) ∧ t.m = w.m ∧ t.b = { w.b with units := t.b.units } ∧
      t.l = { s.l with regions := s.l.regions.map fun q => if q.num = r.num then { q with fwr := (r.fwr + 1) % 2 ^ 32 } else q } ∧
      t.c = { s.c with threads := t.c.threads }

/-- R88, R89: `brk` with BRKEN stops its unit with cause 2 and the thread goes on; without it the thread raises BRK. `rfe` returns to `%tpc` and clears
HM; outside the handler it is ILLEGAL, and at an address that cannot be fetched it raises FETCH with HM still set. -/
def Obligations.BreakpointAndReturn : Prop :=
  (∀ (x : S64A) (s : State) (n : Nat), s.solo (.brk x) n = true → s.fld (rPctl s.cur.unit) 6 6 = 1 → s.fld (rPctl s.cur.unit) 5 5 = 0 →
    s.frozen s.cur.unit = false → (s.unit s.cur.unit).due = none → ∃ t, exec (.brk x) s = .next t ∧
      t.c.pend = s.c.pend ∧ s.OnlyResults t ∧ s.Advances t (.brk x) ∧
      (t.unit s.cur.unit).due = some s.clk ∧ (t.unit s.cur.unit).cause = 2 ∧ (t.unit s.cur.unit).tclk = s.clk) ∧
  (∀ (x : S64A) (s : State) (n : Nat), s.solo (.brk x) n = true → s.fld (rPctl s.cur.unit) 6 6 = 0 → (s.thread n).loop.act = false →
    ∃ (t u : State), exec (.brk x) s = .next t ∧ t = u.raise n { flt .brk with pc := (s.thread n).pc, resume := (s.thread n).pc + 8, aux := x.i16.toNat } ∧
      u.c.pend = s.c.pend ∧ s.OnlyResults u) ∧
  (∀ (x : S64A) (s : State) (n : Nat), s.solo (.rfe x) n = true →
    ((s.thread n).hm = true → (s.thread n).tpc.toNat < 2 ^ 57 → (s.thread n).tpc.toNat % 4 = 0 → ∃ t, exec (.rfe x) s = .next t ∧
      t.c.pend = s.c.pend ∧ s.OnlyThread t n { s.thread n with hm := false, spills := (s.thread n).spills.map Spill.retry } ∧ (t.thread n).pc = (s.thread n).tpc.toNat) ∧
    ((s.thread n).hm = true → 2 ^ 57 ≤ (s.thread n).tpc.toNat ∨ (s.thread n).tpc.toNat % 4 ≠ 0 → ∃ t, exec (.rfe x) s = .next t ∧
      s.Raises t n { flt .fetch with pc := (s.thread n).pc, resume := (s.thread n).pc }) ∧
    ((s.thread n).hm = false → ∃ t, exec (.rfe x) s = .next t ∧
      s.Raises t n { flt .illegal with pc := (s.thread n).pc, resume := (s.thread n).pc }))

/-! ## Register windows -/

/-- R101 to R103, R105: a `call` whose frame fits opens a window above the current one, whose registers hold what they held or zero, and
goes to its target; `ret` to a resident window discards the current one and goes to the address its tag holds; without a window it is ILLEGAL; `wflush` starts the spill of every window but the current one. -/
def Obligations.CallsAndReturns : Prop :=
  (∀ (x : M128A) (s : State) (n a : Nat), s.solo (.call x) n = true → isCtx n = false →
    (if x.opx.getLsbD 5 = true then a = (s.opnd n x.a).toNat ∧ a < 2 ^ 57 ∧ a % 4 = 0 else (a : Int) = (s.cur.pc + 4 * x.i32.toInt) % 2 ^ 64) →
    let th := s.thread n
    let fn := 8 * (x.opx.extractLsb' 0 5).toNat
    let b := (th.win.b + th.win.f) % max 1 th.ring
    (th.win.res.map (·.size)).sum + fn ≤ th.ring → th.win.spo ≤ th.spl → ∃ t v, exec (.call x) s = .next t ∧ t.c.pend = s.c.pend ∧
      v.length = th.v.length ∧
      (∀ k, v.getD k 0 = th.v.getD k 0 ∨ (v.getD k 0 = 0 ∧ 16 ≤ k ∧ (k - 16 + max 1 th.ring - b) % max 1 th.ring < fn)) ∧
      s.OnlyThread t n { th with
        v := v
        win := { b := b, f := fn, dep := th.win.dep + 1, spo := th.win.spo, res := th.win.res ++ [{ size := fn, radr := s.cur.pc + 16 }] } } ∧
      (t.thread n).pc = a) ∧
  (∀ (x : M128A) (s : State) (n : Nat), s.solo (.call x) n = true → isCtx n = false → x.opx.getLsbD 5 = false →
    let th := s.thread n
    let fn := 8 * (x.opx.extractLsb' 0 5).toNat
    (th.ring < fn → ∃ t, exec (.call x) s = .next t ∧ s.Raises t n { flt .regrange with pc := th.pc, resume := th.pc })) ∧
  (∀ (x : S64A) (s : State) (n : Nat), s.solo (.ret x) n = true →
    let th := s.thread n
    (th.win.dep = 0 → ∃ t, exec (.ret x) s = .next t ∧ s.Raises t n { flt .illegal with pc := th.pc, resume := th.pc }) ∧
    (∀ pre a b, th.win.dep ≠ 0 → th.win.res = pre ++ [a, b] → ∃ t, exec (.ret x) s = .next t ∧ t.c.pend = s.c.pend ∧
      s.OnlyThread t n { th with win := { b := (th.win.b + max 1 th.ring - a.size % max 1 th.ring) % max 1 th.ring, f := a.size,
                                          dep := th.win.dep - 1, spo := th.win.spo, res := pre ++ [a] } } ∧ (t.thread n).pc = b.radr) ∧
    (th.win.dep ≠ 0 → th.win.res.length < 2 → th.spills = [] → ∃ t, exec (.ret x) s = .next t ∧ t.c.pend = s.c.pend ∧ s.OnlyResults t ∧
      (t.thread n).wait = .refill ∧ (t.thread n).pc = th.pc)) ∧
  (∀ (x : S64A) (s : State) (n : Nat), s.solo (.wflush x) n = true →
    let th := s.thread n
    let k := th.win.res.length - 1
    th.win.spo + ((th.win.res.take k).map Win.bytes).sum ≤ th.spl → ∃ t, exec (.wflush x) s = .next t ∧ t.c.pend = s.c.pend ∧
      ((s.OnlyThread t n { th with
          spills := th.spills ++ (List.range k).map (fun j =>
            { off := th.win.spo + ((th.win.res.take j).map Win.bytes).sum, words := s.winWords th j, pc := s.cur.pc })
          win := { th.win with spo := th.win.spo + ((th.win.res.take k).map Win.bytes).sum, res := th.win.res.drop k } } ∧
        (t.thread n).wait = .spill) ∨
       (k ≠ 0 ∧ s.owes n = true ∧ s.OnlyResults t ∧ (t.thread n).wait = .results ∧ (t.thread n).pc = th.pc)))

/-- R101, R103, R106: the thread's oldest spill that has not faulted is written to its bytes of the spill area; one that faults is
kept; a refill reads the spilled window and its tag, and the `ret` takes effect at the tag's address. -/
def Obligations.SpillsAndRefills : Prop :=
  (∀ (s : State) (n : Nat) (sp : Spill) (pre rest : List Spill), (s.thread n).spills = pre ++ sp :: rest → (∀ y ∈ pre, y.st = .held) →
    sp.st ≠ .held → (s.thread n).hostPark = false → (s.thread n).faults = [] →
    (∀ u, s.writeSpill n sp = (u, none) → ∃ t, exec (.spillComplete n) s = .next t ∧ t.m = u.m ∧ (t.thread n) = { u.thread n with spills := pre ++ rest } ∧
      (∀ k, k ≠ n → t.thread k = u.thread k) ∧ t.b = u.b ∧ t.l = u.l) ∧
    (∀ u f, s.writeSpill n sp = (u, some f) → exec (.spillComplete n) s = .next
      ((u.modThread n fun t => { t with spills := pre ++ { sp with st := .held } :: rest }).raise n { f with pc := sp.pc, resume := (s.thread n).pc }))) ∧
  (∀ (s u : State) (n : Nat), (s.thread n).wait = .refill → s.refill n = (u, .ok ()) → ∃ t, exec (.refillComplete n) s = .next t ∧
    t.m = u.m ∧ t.b = u.b ∧ t.l = u.l ∧ (t.thread n).wait = .none ∧ (t.thread n).win = (u.thread n).win ∧ (t.thread n).v = (u.thread n).v ∧
    (∀ a, (s.thread n).win.res.getLast? = some a → (t.thread n).pc = a.radr) ∧ ∀ k, k ≠ n → t.thread k = u.thread k) ∧
  (∀ (s u : State) (n : Nat), s.refill n = (u, .ok ()) → (s.thread? n).isSome →
    let fc := (u.thread n).win.f
    (u.thread n).win.b = (s.thread n).win.b ∧
    (u.thread n).win.dep = (s.thread n).win.dep - 1 ∧ (u.thread n).win.spo + 8 * fc + 8 = (s.thread n).win.spo ∧ fc ≤ (s.thread n).ring ∧
    (u.thread n).win.res.map (·.size) = [fc] ∧ (u.thread n).v.length = (s.thread n).v.length) ∧
  (∀ (s v : State) (n : Nat) (f : FaultInfo), (s.thread n).wait = .refill → s.refill n = (v, .error f) →
    ∃ (t u : State), exec (.refillComplete n) s = .next t ∧ t = u.raise n { f with pc := (s.thread n).pc, resume := (s.thread n).pc } ∧
      (u.thread n).win = (s.thread n).win ∧ (u.thread n).v = (s.thread n).v ∧ u.m = v.m ∧ v.m.mem = s.m.mem)

/-! ## The end of a thread -/

/-- R81: a lane thread that owes nothing ends at its `exit`; while its workgroup has another live thread and nothing waits for the end of this one,
only that thread changes. -/
def Obligations.ExitEndsTheThread : Prop :=
  ∀ (x : S64A) (s : State) (n u : Nat) (g : Wg), s.solo (.exit x) n = true → isCtx n = false → s.owes n = false → s.busy n = false →
    (s.c.xfers.any fun y => y.tids.any fun q => q.1 == n) = false → (s.thread n).batches = Batches.none →
    (∀ w, s.warp? (widOf n) = some w → w.jca = none) → s.wgOf n = some g → g.eps = [] → g.xp = [] → g.dq.ents = [] →
    (∀ c ∈ s.c.clusters, c.ep = none) → (s.thread n).msk = 0 → (∀ q ∈ s.c.threads, q.wait ≠ .dqSync) →
    u ≠ n → (s.thread? u).isSome → (s.thread u).gone = false → (s.warp? (widOf u)).bind (·.wg) = some g.key →
    ∃ t, exec (.exit x) s = .next t ∧ (t.thread n).gone = true ∧
      (t.thread n).v = (s.thread n).v ∧ (t.thread n).p = (s.thread n).p ∧ t.c.warps = s.c.warps ∧ t.c.wgs = s.c.wgs ∧ t.c.pend = s.c.pend ∧
      t.m = s.m ∧ t.l = s.l ∧ t.b.regs = s.b.regs ∧ ∀ k, k ≠ n → t.thread k = s.thread k

/-! ## Loads and stores -/

namespace Sys2Proof.Machine
open Sys2Proof

/-- An access that an instruction has started: its thread, kind, virtual address, destinations, parts and format. -/
def MOp.is (o : MOp) (n kind va : Nat) (dsts : List RegRef) (parts : List (Nat × Nat × Nat)) (fmt : LoadFmt) : Prop :=
  o.tid = n ∧ o.kind = kind ∧ o.va = va ∧ o.dsts = dsts ∧ o.fmt = fmt ∧
  o.parts = parts.map fun q => { xpa := q.1, size := q.2.2, at_ := q.2.1, done := false, data := 0, fault := none }

/-- The results that an access will bring are on their way (R55): one for each destination, with no value yet. -/
def State.Awaits (s t : State) (n : Nat) (o : MOp) : Prop :=
  ∃ ps : List Pend, t.c.pend = s.c.pend ++ ps ∧ ps.map (·.dst) = o.dsts ∧ ∀ p ∈ ps, p.val = none ∧ p.op = o.id ∧ p.owners = [n]

/-- The requests of an access stand at the end of the collector's queue, behind those that were there: operation, address, mask, data (R405). -/
def State.Collects (s t : State) (n : Nat) (o : MOp) (l : List (ReqOp × Nat × Nat × Nat)) : Prop :=
  ∃ pre rs : List Req, t.m.colQ = pre ++ rs ∧ pre.map (·.id) = s.m.colQ.map (·.id) ∧ rs.map (fun r => (r.w.op, r.w.xpa, r.w.mask, r.w.data)) = l ∧
    rs.map (·.org) = (List.range l.length).map (.part o.id) ∧ ∀ r ∈ rs, r.core = coreOf n

/-- Nothing that the thread has issued before holds its next access back: no acquire, no fence, no row that is being moved (R177, R193, R197). -/
def State.unheld (s : State) (n : Nat) : Prop :=
  s.acquiring n = false ∧ (s.thread n).fences = [] ∧ ∀ j ∈ s.c.rows, ∀ l ∈ j.lanes, l.tid ≠ n

/-- The state of a thread that may make an access at once: nothing of its own holds it back, no copy of its core would serve or merge it. -/
def State.accessReady (s : State) (n : Nat) : Prop :=
  s.debugIdle ∧ s.seated ∧ s.unheld n ∧ (∀ e ∈ s.c.l1, e.core ≠ coreOf n) ∧ ∀ r ∈ s.m.colQ, r.core ≠ coreOf n

/-- A fault of an access before anything of it is done (R182): only the thread's control and the address translation caches come before the raise. -/
def State.FaultsFirst (s t : State) (n : Nat) (f : FaultInfo) : Prop :=
  ∃ u : State, t = u.raise n f ∧ s.KeepsStorage u ∧ u.c.pend = s.c.pend ∧ u.m.ops = s.m.ops ∧ (u.thread n).pc = (s.thread n).pc

/-- Bytes of a number placed at a sector's offset, and the mask that selects them. -/
def sectorData (x size at_ data : Nat) : Nat := data / 256 ^ at_ % 256 ^ size * 256 ^ (x % 32)
def sectorMask (x size : Nat) : Nat := (2 ^ size - 1) * 2 ^ (x % 32)

/-- The four load and store instructions with their fields: the instruction, its description, its register, whether it stores, its address. -/
inductive LdStForm : Instr → LdSt → Opnd → Bool → (State → Nat → Nat) → Prop where
  | ldV96 (x : V96A) : LdStForm (.ldV96 x) (V96A.ldst x) x.d false fun s t => s.ea2 t x.a x.b
  | stV96 (x : V96A) : LdStForm (.stV96 x) (V96A.ldst x) x.c true fun s t => s.ea2 t x.a x.b
  | ldM128 (x : M128A) : LdStForm (.ldM128 x) (M128A.ldst x) x.d false (M128A.ea x)
  | stM128 (x : M128A) : LdStForm (.stM128 x) (M128A.ldst x) x.c true (M128A.ea x)

end Sys2Proof.Machine

/-- R170 to R172, R182, R216, R221: the checks of a raw access of memory in their order: an access over a line's end or off its alignment is MISALIGN, an
address of 2^57 or more is PAGE, a page in no TLB is a miss, a page without the right is PERM, and else the access goes to the page's address. -/
def Sys2Proof.Machine.AccessChecksInOrder : Prop :=
  ∀ (s : State) (q : Ask) (n ea : Nat) (r : Region), q.sp = .gv → q.ty = .none → s.regionOf n = some r →
    let k := q.need.kind
    (128 < ea % 128 + q.n ∨ ea % q.al ≠ 0 → s.plan q n ea = .fault (fltAt .misalign k 0 ea)) ∧
    (ea % 128 + q.n ≤ 128 → ea % q.al = 0 →
      (2 ^ 57 ≤ ea → s.plan q n ea = .fault (fltAt .page k 0 ea)) ∧
      (ea < 2 ^ 57 →
        (s.tlbHit (coreOf n) r.asid ea = none → (s.thread n).walked = [] → s.plan q n ea = .miss ea) ∧
        ∀ e, s.tlbHit (coreOf n) r.asid ea = some e →
          let ok := (q.need = .rd → e.pte.perm.testBit 0 = true) ∧ (q.need = .w → e.pte.perm.testBit 1 = true) ∧
            (q.need = .watom → e.pte.perm.testBit 1 = true ∧ e.pte.perm.testBit 2 = true ∧ e.pte.plc ≠ 2) ∧
            (q.need = .ratom → e.pte.perm.testBit 0 = true ∧ e.pte.perm.testBit 2 = true ∧ e.pte.plc ≠ 2) ∧
            (q.need = .x → e.pte.perm.testBit 3 = true)
          (ok → s.plan q n ea = .mem e.pte ea (e.pte.addr ea) q.n 0 []) ∧
          (¬ ok → s.plan q n ea = .fault (fltAt .perm k e.pte.lvl ea))))

/-- R182, R221: a load or store whose check fails raises that fault with nothing done, and one whose page is in no TLB waits for its walk. -/
def Sys2Proof.Machine.FailedAccessesDoNothing : Prop :=
  ∀ (i : Instr) (l : LdSt) (o : Opnd) (st : Bool) (ea : State → Nat → Nat) (s : State) (n : Nat), LdStForm i l o st ea → s.solo i n = true →
    s.debugIdle → s.seated → s.acquiring n = false → (s.thread n).fences = [] →
    (∀ f, s.plan (LdSt.ask l st) n (ea s n) = .fault f → f.deferred = false → f.code ≠ .trap → f.code ≠ .brk → ∃ t, exec i s = .next t ∧
      s.FaultsFirst t n { f with pc := (s.thread n).pc, resume := (s.thread n).pc }) ∧
    (∀ a, s.plan (LdSt.ask l st) n (ea s n) = .miss a → (s.regionOf n).isSome → ∃ t, exec i s = .next t ∧ s.KeepsStorage t ∧ t.c.pend = s.c.pend ∧
      t.m.ops = s.m.ops ∧ (t.thread n).pc = (s.thread n).pc ∧ (t.thread n).wait = .walk ∧ ∃ w ∈ t.m.walks, n ∈ w.tids ∧ w.va / 65536 = a / 65536)

/-- The checks of an access and what a failed one does: both statements above. -/
def Obligations.AccessChecksAndFaults : Prop := AccessChecksInOrder ∧ FailedAccessesDoNothing

/-- R170, R176, R183: a raw load of memory makes one access, whose destinations await its data; it stores nothing. -/
def Obligations.LoadsRequestTheirBytes : Prop :=
  ∀ (i : Instr) (l : LdSt) (d : Opnd) (ea : State → Nat → Nat) (s : State) (n : Nat), LdStForm i l d false ea → s.solo i n = true → s.accessReady n →
    ∀ p va xpa m, s.plan (LdSt.ask l false) n (ea s n) = .mem p va xpa m 0 [] → hostSpace xpa = false → ∃ t o, exec i s = .next t ∧
      s.KeepsStorage t ∧ s.Advances t i ∧ t.m.ops = s.m.ops ++ [o] ∧
      o.is n 0 va ((if m = 16 then [d, d.succ] else [d]).filterMap (s.dest n)) (sectorParts xpa m) (if m = 16 then .pair else .raw m) ∧
      s.Awaits t n o ∧ s.Collects t n o ((sectorParts xpa m).map fun q => (.load, q.1 / 32 * 32, 0, 0))

/-- R170, R184, R195: a raw store to a page already marked dirty makes one access whose requests carry its bytes; no byte changes before a home performs it. -/
def Obligations.StoresRequestTheirBytes : Prop :=
  ∀ (i : Instr) (l : LdSt) (c : Opnd) (ea : State → Nat → Nat) (s : State) (n : Nat), LdStForm i l c true ea → s.solo i n = true → s.accessReady n →
    ∀ p va xpa m, s.plan (LdSt.ask l true) n (ea s n) = .mem p va xpa m 0 [] → hostSpace xpa = false → p.dty = true → ∃ t o, exec i s = .next t ∧
      s.KeepsStorage t ∧ s.Advances t i ∧ t.c.pend = s.c.pend ∧ o ∈ t.m.ops ∧ o.is n 1 va [] (sectorParts xpa m) .none ∧
      s.Collects t n o ((sectorParts xpa m).map fun q => (.store, q.1 / 32 * 32, sectorMask q.1 q.2.2,
        sectorData q.1 q.2.2 q.2.1 ((s.opnd n c).toNat + if m = 16 then 2 ^ 64 * (s.opnd n c.succ).toNat else 0)))

/-- R17, R159, R183, R184: in scratch a raw load gives the window's bytes and a raw store writes its bytes, at once where the thread's
scratch accesses do not lag (log entry 84); every other byte of every window, and
everything else, stays. -/
def Sys2Proof.Machine.ScratchLoadsAndStores : Prop :=
  ∀ (i : Instr) (l : LdSt) (o : Opnd) (st : Bool) (ea : State → Nat → Nat) (s : State) (n key off m : Nat) (g : Wg), LdStForm i l o st ea →
    s.solo i n = true → s.debugIdle → s.seated → s.unheld n → s.c.lag.contains n = false → (∀ e ∈ s.c.scrQ, e.tid ≠ n) → s.wg? key = some g →
    s.plan (LdSt.ask l st) n (ea s n) = .scr key off m 0 [] [] →
    (st = false → ∃ t, exec i s = .next t ∧ s.KeepsStorage t ∧ s.Advances t i ∧
      s.Sends t (s.valuesAt [n] o (fun _ => BitVec.ofNat 64 (memNat g.scr off m)) ++
        if m = 16 then s.valuesAt [n] o.succ (fun _ => BitVec.ofNat 64 (memNat g.scr off m / 2 ^ 64)) else [])) ∧
    (st = true → Memory.wf g.scr = true → ∃ t scr, exec i s = .next t ∧ s.Advances t i ∧ t.c.pend = s.c.pend ∧ t.m.mem = s.m.mem ∧ t.m.peer = s.m.peer ∧
      t.m.host = s.m.host ∧ t.b.regs = s.b.regs ∧ t.l = s.l ∧ t.c.warps = s.c.warps ∧ (∀ k, t.thread k = (s.thread k).control (t.thread k)) ∧
      t.c.wgs = s.c.wgs.map (fun h => if h.key = key then { g with scr := scr } else h) ∧ Memory.wf scr = true ∧
      ∀ a, (memGet scr a).toNat = if off ≤ a ∧ a < off + m then
        byteOf ((s.opnd n o).toNat + if m = 16 then 2 ^ 64 * (s.opnd n o.succ).toNat else 0) (a - off) else (memGet g.scr a).toNat)

/-! ## Atomics, synchronisation -/

/-- R185 to R188, R191, R192, R203: the atomics, `acq` and `rel` make one access of kind atomic; its request carries operation, operand, comparand, scope
and order; a release with an earlier access outstanding waits. -/
def Obligations.AtomicsRequestTheirOperation : Prop :=
  let asks := fun (mk : M128A → Instr) (q : M128A → Ask) (op : M128A → ReqOp) (nr : M128A → Bool) (n : M128A → Nat) (e c : M128A → State → Nat → Nat)
      (ord : M128A → MOrd) =>
    ∀ (x : M128A) (s : State) (k : Nat), s.solo (mk x) k = true → s.accessReady k →
      (ord x = .rel → s.busy k = false) → ∀ p va xpa m, s.plan (q x) k (M128A.eaI x s k) = .mem p va xpa m 0 [] → hostSpace xpa = false →
      p.dty = true ∨ op x = .acq → ∃ t o r pre, exec (mk x) s = .next t ∧ s.KeepsStorage t ∧ s.Advances t (mk x) ∧ o ∈ t.m.ops ∧
        o.is k 2 va ((if nr x then [] else if n x = 16 then [x.d, x.d.succ] else [x.d]).filterMap (s.dest k)) [(xpa, 0, n x)]
          (if nr x then .none else if n x = 16 then .pair else .raw (n x)) ∧
        s.Awaits t k o ∧ t.m.colQ = pre ++ [r] ∧ pre.map (·.id) = s.m.colQ.map (·.id) ∧ r.org = .part o.id 0 ∧ r.w.op = op x ∧ r.w.xpa = xpa ∧ r.w.size = n x ∧
        r.w.data = e x s k % 256 ^ n x ∧ r.w.cmp = c x s k % 256 ^ n x ∧ r.w.sc = x.sc ∧ r.w.ord = ord x ∧ r.w.nr = nr x ∧
        o.acq = if ord x = .acq then some x.sc else none
  let pair := fun (s : State) (k : Nat) (o : Opnd) (n : Nat) => (s.opnd k o).toNat + if n = 16 then 2 ^ 64 * (s.opnd k o.succ).toNat else 0
  asks .atom (fun x => { sp := x.sp, n := szBytes x.sz, need := .watom, al := szBytes x.sz }) (fun x => .atom (x.opx.extractLsb' 0 4))
    (fun x => x.opx.getLsbD 4) (fun x => szBytes x.sz) (fun x s k => pair s k x.b (szBytes x.sz)) (fun _ _ _ => 0) (·.ord) ∧
  asks .cas (fun x => { sp := x.sp, n := szBytes x.sz, need := .watom, al := szBytes x.sz }) (fun _ => .cas)
    (fun _ => false) (fun x => szBytes x.sz) (fun x s k => pair s k x.c (szBytes x.sz)) (fun x s k => pair s k x.b (szBytes x.sz)) (·.ord) ∧
  asks .acq (fun _ => { sp := .gv, n := 8, need := .ratom, al := 8 }) (fun _ => .acq) (fun _ => false) (fun _ => 8) (fun _ _ _ => 0) (fun _ _ _ => 0)
    (fun _ => .acq) ∧
  asks .rel (fun _ => { sp := .gv, n := 8, need := .watom, al := 8 }) (fun _ => .rel) (fun x => x.opx.getLsbD 4) (fun _ => 8)
    (fun x s k => (s.opnd k x.b).toNat) (fun _ _ _ => 0) (fun _ => .rel) ∧
  (∀ (x : M128A) (s : State) (k : Nat), s.solo (.rel x) k = true → s.debugIdle → s.seated → s.busy k = true → ∃ t, exec (.rel x) s = .next t ∧
    s.OnlyResults t ∧ t.c.pend = s.c.pend ∧ (t.thread k).wait = .drain ∧ (t.thread k).pc = (s.thread k).pc)

/-- R185, R188: in scratch an atomic reads and writes its word at once; D takes the old value. -/
def Sys2Proof.Machine.ScratchAtomics : Prop :=
  let acts := fun (mk : M128A → Instr) (nr : M128A → Bool) (new : M128A → State → Nat → Nat → Nat) =>
    ∀ (x : M128A) (s : State) (k key off m : Nat) (g : Wg), s.solo (mk x) k = true → s.debugIdle → s.seated → s.unheld k → s.busy k = false →
      s.wg? key = some g → (s.c.wgs.map (·.key)).Nodup → Memory.wf g.scr = true →
      s.plan { sp := x.sp, n := szBytes x.sz, need := .watom, al := szBytes x.sz } k (M128A.eaI x s k) = .scr key off m 0 [] [] →
      let n := szBytes x.sz
      let v := memNat g.scr off n
      ∃ t scr, exec (mk x) s = .next t ∧ s.Advances t (mk x) ∧ t.m.mem = s.m.mem ∧ t.b.regs = s.b.regs ∧ t.l = s.l ∧ t.c.warps = s.c.warps ∧
        (∀ u, t.thread u = (s.thread u).control (t.thread u)) ∧
        s.Sends t (if nr x then [] else s.valuesAt [k] x.d (fun _ => BitVec.ofNat 64 v) ++
          if n = 16 then s.valuesAt [k] x.d.succ (fun _ => BitVec.ofNat 64 (v / 2 ^ 64)) else []) ∧
        t.c.wgs = s.c.wgs.map (fun h => if h.key = key then { g with scr := scr } else h) ∧
        ∀ a, (memGet scr a).toNat = if off ≤ a ∧ a < off + n then byteOf (new x s k v) (a - off) else (memGet g.scr a).toNat
  let pair := fun (s : State) (k : Nat) (o : Opnd) (n : Nat) => ((s.opnd k o).toNat + if n = 16 then 2 ^ 64 * (s.opnd k o.succ).toNat else 0) % 256 ^ n
  acts .atom (fun x => x.opx.getLsbD 4) (fun x s k v => atomNew (x.opx.extractLsb' 0 4).toNat (szBytes x.sz) v (pair s k x.b (szBytes x.sz))) ∧
  acts .cas (fun _ => false) (fun x s k v => if v = pair s k x.b (szBytes x.sz) then pair s k x.c (szBytes x.sz) else v)

/-- Loads, stores and atomics in scratch: both statements above. -/
def Obligations.ScratchAccesses : Prop := ScratchLoadsAndStores ∧ ScratchAtomics

/-- R177, R189, R190, R193, R194: a `fence` with `park` waits for the thread's accesses; without it the thread goes on, and the fence stands until the accesses
that it orders are performed; once they are, unless it is a release, it empties its core's L1 from cluster scope on; `bind`
takes the lowest free slot of the region's table, `unbind` frees one; a prefetch makes an access without a destination. -/
def Obligations.FencesBindingsPrefetch : Prop :=
  (∀ (x : S64A) (s : State) (n : Nat) (r : Region), s.solo (.fence x) n = true → s.debugIdle → s.seated → s.regionOf n = some r →
    (s.busy n = true → x.park = true → ∃ t, exec (.fence x) s = .next t ∧ s.OnlyResults t ∧ t.c.pend = s.c.pend ∧ (t.thread n).wait = .drain ∧
      (t.thread n).pc = (s.thread n).pc) ∧
    (∀ ids, ids = (s.m.ops.filter fun o => o.tid == n && ((x.i16.extractLsb' 0 2).toNat != 0 || o.kind != 1)).map (·.id) → ids ≠ [] → x.park = false →
      (s.thread n).fences = [] → ∃ t, exec (.fence x) s = .next t ∧ t.c.pend = s.c.pend ∧ s.Advances t (.fence x) ∧
        s.OnlyThread t n { s.thread n with fences :=
          [{ ids := ids, reads := (x.i16.extractLsb' 0 2).toNat != 1,
             acq := if (x.i16.extractLsb' 0 2).toNat = 1 then none else some (fenceScope (x.i16.extractLsb' 2 3).toNat) }] }) ∧
    (s.busy n = false → (s.thread n).fences = [] → ∃ t, exec (.fence x) s = .next t ∧ s.KeepsStorage t ∧ s.Advances t (.fence x) ∧ t.c.pend = s.c.pend ∧
      let far := (x.i16.extractLsb' 0 2).toNat ≠ 1 ∧ 3 ≤ scNum (fenceScope (x.i16.extractLsb' 2 3).toNat)
      (far → t.c.l1 = s.c.l1.filter fun e => e.core != coreOf n) ∧ (¬ far → t.c.l1 = s.c.l1))) ∧
  (∀ (x : M128A) (s : State) (n : Nat) (r : Region), s.solo (.bind x) n = true → s.debugIdle → s.seated → s.regionOf n = some r →
    let a := (s.opnd n x.a).toNat
    let b := (s.opnd n x.b).toNat
    let c := (s.opnd n x.c).toNat
    a % 8 = 0 → b % 128 = 0 → c % 128 = 0 → 128 ≤ c → b + c ≤ 2 ^ 57 → ∃ t, exec (.bind x) s = .next t ∧ s.Advances t (.bind x) ∧
      t.m = s.m ∧ t.c.warps = s.c.warps ∧ t.c.wgs = s.c.wgs ∧ t.b.regs = s.b.regs ∧ (∀ k, t.thread k = (s.thread k).control (t.thread k)) ∧
      (∀ i, i < 64 → (∀ j, j < i → ∃ e ∈ r.binds, e.1 = j) → (∀ e ∈ r.binds, e.1 ≠ i) →
        t.l = { s.l with regions := s.l.regions.map fun q => if q.num = r.num then { q with binds := q.binds ++ [(i, a, b, c)] } else q } ∧
        s.Sends t (s.valuesAt [n] x.d fun _ => BitVec.ofNat 64 i)) ∧
      ((∀ i, i < 64 → ∃ e ∈ r.binds, e.1 = i) → t.l = s.l ∧ s.Sends t (s.valuesAt [n] x.d fun _ => BitVec.allOnes 64))) ∧
  (∀ (x : M128A) (s : State) (n : Nat) (r : Region), s.solo (.unbind x) n = true → s.debugIdle → s.seated → s.regionOf n = some r →
    ∃ t, exec (.unbind x) s = .next t ∧ s.Advances t (.unbind x) ∧ t.c.pend = s.c.pend ∧ t.m = s.m ∧ t.c.warps = s.c.warps ∧ t.c.wgs = s.c.wgs ∧
      t.b.regs = s.b.regs ∧ (∀ k, t.thread k = (s.thread k).control (t.thread k)) ∧
      t.l = { s.l with regions := s.l.regions.map fun q => if q.num = r.num then
        { q with binds := q.binds.filter fun e => decide (e.1 ≠ (s.opnd n x.a).toNat) } else q }) ∧
  (∀ (x : M128A) (s : State) (n : Nat), s.solo (.prf x) n = true → s.accessReady n →
    ∀ p va xpa m, s.plan { sp := .gv, n := 1, need := .rd, watch := false } n (M128A.eaI x s n) = .mem p va xpa m 0 [] → hostSpace xpa = false →
    ∃ t o, exec (.prf x) s = .next t ∧ s.KeepsStorage t ∧ s.Advances t (.prf x) ∧ t.c.pend = s.c.pend ∧ t.m.ops = s.m.ops ++ [o] ∧
      o.tid = n ∧ o.va = va / 128 * 128 ∧ o.dsts = [] ∧ o.parts.map (·.xpa) = (List.range 4).map fun k => xpa / 128 * 128 + 32 * k)

/-! ## Gathers and scatters -/

namespace Sys2Proof.Machine
open Sys2Proof

/-- n bytes at a physical address that an engine reads or writes for a tenant without a fault: homed on this module, the tenant's, not poisoned, no memory
error waiting (R226, R234, R235, R418). -/
def State.homeHolds (s : State) (tenant x n : Nat) (rd w : Bool) : Prop :=
  s.m.errs = [] ∧ ∀ q ∈ sectorParts x n, hostSpace q.1 = false ∧ s.here q.1 = true ∧ s.poisoned q.1 = false ∧
    ∀ a, sectorOf a = sectorOf q.1 → s.tenantOk tenant a rd w = true

/-- The bits of an element that a `gth` row reads from memory. -/
def State.rowBitsAt (s : State) (e : RowEl) (ty : Ty) : Nat :=
  if e.bits ty = 4 then s.rdNat (e.p.addr e.va) 1 / 2 ^ (e.bit % 8) % 16 else s.rdNat (e.p.addr e.va) ((e.bits ty + 7) / 8)

/-- The code that a `sct` row stores for an element: that of its scratch bytes. -/
def rowCode (j : RowJob) (l : RowLane) (scr : List Cell) (e : RowEl) : Nat :=
  rowEncode e j.ty j.rm j.satf j.codes (j.draw l e) (memNat scr (l.so + e.i * rowElem j.ty) (rowElem j.ty))

end Sys2Proof.Machine

/-- R196, R197: `gth` and `sct` begin to move a lane's row, whose elements are those of its checked plan, and the lane goes on; the row's draws are taken and its
scale codes are read then. `sctr` sends one atomic add for each element. All wait for the thread's earlier accesses. -/
def Sys2Proof.Machine.RowsStart : Prop :=
  let n := fun (x : M128A) (s : State) (k : Nat) => (s.opnd k x.c).toNat % 4096 + 1
  let so := fun (x : M128A) (s : State) (k : Nat) => (s.opnd k x.d).toNat + laneOf k * (n x s k * rowElem x.ty)
  let ra := fun (x : M128A) (s : State) (k : Nat) => (s.opnd k x.a + BitVec.ofNat 64 ((s.opnd k x.b).toNat % 2 ^ 32) * x.i32.signExtend 64).toNat
  let starts := fun (mk : M128A → Instr) (store : Bool) (need : Need) =>
    ∀ (x : M128A) (s : State) (k : Nat) (r : Row) (rg : Region) (codes : List (Nat × Nat)), s.solo (mk x) k = true → s.debugIdle → s.seated →
      s.busy k = false → (∀ j ∈ s.c.rows, j.lanes ≠ [] ∧ ∀ l ∈ j.lanes, l.tid ≠ k) → s.regionOf k = some rg →
      s.rowPlan k need x.ty (n x s k) (so x s k) (ra x s k) = .ok r → (r.slots = [] ∧ codes = [] ∨ s.m.errs = [] ∧ (∀ e ∈ s.c.l1, e.core ≠ coreOf k) ∧
        (∀ q ∈ r.slots, q.2.2 % 2 = 0 ∧ s.homeHolds rg.tenant q.2.2 2 true false) ∧ codes = r.slots.map fun q => (q.1, s.rdNat q.2.2 2)) →
      ∃ t o pre, exec (mk x) s = .next t ∧ s.Advances t (mk x) ∧ t.c.pend = s.c.pend ∧ t.c.warps = s.c.warps ∧ t.c.wgs = s.c.wgs ∧ t.l = s.l ∧
        t.m.mem = s.m.mem ∧ t.m.peer = s.m.peer ∧ t.m.host = s.m.host ∧ (∀ h, h ≠ k → t.thread h = s.thread h) ∧
        t.thread k = ({ s.thread k with rseed := if x.rm = .rs then (draws (r.els.filter fun e => e.fmt != 0).length (s.thread k).rseed).1
          else (s.thread k).rseed } : Thread).control (t.thread k) ∧
        t.m.ops = pre ++ [o] ∧ pre.map (·.id) = s.m.ops.map (·.id) ∧ o.tid = k ∧ o.kind = (if store then 1 else 0) ∧ o.dsts = [] ∧
        t.c.rows = s.c.rows ++ [{ id := o.id, store := store, pc := s.cur.pc, ty := x.ty, rm := x.rm, satf := x.sat == .satf, hint := x.hint, els := r.els,
                                  lanes := [{ op := o.id, tid := k, key := r.key, so := r.so, seed := (s.thread k).rseed }],
                                  todo := r.els.map (·.i), codes := codes, fault := false }]
  starts .gth false .rd ∧ starts .sct true .w ∧
  (∀ (x : M128A) (s : State) (k : Nat) (r : Row), s.solo (.sctr x) k = true → s.debugIdle → s.seated → s.busy k = false → (s.regionOf k).isSome →
    s.rowPlan k .watom x.ty (n x s k) (so x s k) (ra x s k) = .ok r → (∀ e ∈ r.els, e.p.dty = true) →
    ∃ (t : State) (pre os : List MOp), exec (.sctr x) s = .next t ∧ s.KeepsStorage t ∧ s.Advances t (.sctr x) ∧ t.c.pend = s.c.pend ∧
      t.m.ops = pre ++ os ∧ pre.map (·.id) = s.m.ops.map (·.id) ∧ (∀ o ∈ os, o.tid = k ∧ o.kind = 2 ∧ o.dsts = []) ∧
      os.map (·.va) = r.els.map (·.va)) ∧
  (∀ (i : Instr) (x : M128A) (s : State) (k : Nat), i = .gth x ∨ i = .sct x ∨ i = .sctr x → s.solo i k = true → s.debugIdle → s.seated →
    s.busy k = true → ∃ t, exec i s = .next t ∧ s.OnlyResults t ∧ t.c.pend = s.c.pend ∧ (t.thread k).wait = .drain ∧ (t.thread k).pc = (s.thread k).pc)

/-- R197, R200: a row of one lane is moved element by element, in an order that is left open: an element of a `gth` row is decoded into its place in scratch, one
of a `sct` row, with the other one of its byte, is encoded and stored; nothing else is written. -/
def Sys2Proof.Machine.RowsMoveTheirElements : Prop :=
  (∀ (s : State) (id key : Nat) (j : RowJob) (l : RowLane) (rg : Region) (g : Wg), (s.c.rows.find? fun q => q.id == id) = some j → j.store = false →
    j.lanes = [l] → s.regionOf l.tid = some rg → s.wg? l.key = some g → Memory.wf g.scr = true → s.debugIdle → g.core < 192 →
    (∀ e ∈ s.c.l1, e.core ≠ coreOf l.tid) → (∀ o ∈ s.m.ops, o.id = l.op → o.mst = false ∧ o.fmt = .none) → s.rowReady j ≠ [] →
    (∀ e ∈ s.rowReady j, s.homeHolds rg.tenant (e.p.addr e.va) ((e.bits j.ty + 7) / 8) true false) →
    ∃ e ∈ s.rowReady j, ∃ scr,
      (s.rowPiece id key).c.wgs = s.c.wgs.map (fun h => if h.key = l.key then { g with scr := scr } else h) ∧
      memNat scr (l.so + e.i * rowElem j.ty) (rowElem j.ty) =
        rowDecode e j.ty j.rm j.satf j.codes (j.draw l e) (s.rowBitsAt e j.ty) % 256 ^ rowElem j.ty ∧
      (∀ a, a < l.so + e.i * rowElem j.ty ∨ l.so + (e.i + 1) * rowElem j.ty ≤ a → memGet scr a = memGet g.scr a) ∧
      (s.rowPiece id key).m.mem = s.m.mem ∧ (s.rowPiece id key).m.peer = s.m.peer ∧ (s.rowPiece id key).m.host = s.m.host ∧
      (s.rowPiece id key).c.warps = s.c.warps ∧ (s.rowPiece id key).l = s.l ∧
      ((∃ i ∈ j.todo, i ≠ e.i) → (s.rowPiece id key).c.rows = s.c.rows.map fun q => if q.id == id then { q with todo := j.todo.filter fun i => i != e.i } else q) ∧
      ((∀ i ∈ j.todo, i = e.i) → (s.rowPiece id key).c.rows = s.c.rows.filter fun q => q.id != id)) ∧
  (∀ (s : State) (id key : Nat) (j : RowJob) (l : RowLane) (rg : Region) (g : Wg), (s.c.rows.find? fun q => q.id == id) = some j → j.store = true →
    j.lanes = [l] → s.regionOf l.tid = some rg → s.wg? l.key = some g → s.debugIdle → g.core < 192 →
    (∀ o ∈ s.m.ops, o.id = l.op → o.mst = false ∧ o.fmt = .none) → s.rowReady j ≠ [] →
    (∀ e ∈ s.rowReady j, e.p.dty = true ∧ e.p.addr e.va % 32 + (e.bits j.ty + 7) / 8 ≤ 32 ∧
      s.homeHolds rg.tenant (e.p.addr e.va) ((e.bits j.ty + 7) / 8) false true) →
    ∃ e ∈ s.rowReady j,
      (let v := if e.bits j.ty = 4 then rowCode j l g.scr e % 16 + 16 * (match j.els[e.i + 1]? with | some h => rowCode j l g.scr h % 16 | none => 0)
         else rowCode j l g.scr e
       let u := s.wrNat (e.p.addr e.va) ((e.bits j.ty + 7) / 8) v
       (e.bits j.ty = 4 → (j.els[e.i + 1]?).isSome) →
         (s.rowPiece id key).m.mem = u.m.mem ∧ (s.rowPiece id key).m.peer = u.m.peer ∧ (s.rowPiece id key).m.host = u.m.host) ∧
      (s.rowPiece id key).c.wgs = s.c.wgs ∧ (s.rowPiece id key).c.warps = s.c.warps ∧ (s.rowPiece id key).l = s.l)

/-- Gathers and scatters: both statements above. -/
def Obligations.GathersAndScatters : Prop := RowsStart ∧ RowsMoveTheirElements

/-! ## Issue events -/

/-- R49 to R51: in phase 0 a unit's ready threads form new bundles: each stands in one, no other thread does, and the threads of one bundle have one
code object, one program counter, one pass and different lanes; in another phase nothing happens. -/
def Sys2Proof.Machine.WindowsFormBundles : Prop :=
  ∀ (s : State) (unit : Nat), (s.c.threads.map (·.tid)).Nodup →
    (s.phaseOf unit ≠ 0 → exec (.windowFormation unit) s = .next s) ∧
    (s.phaseOf unit = 0 → ∃ t, exec (.windowFormation unit) s = .next t ∧
      t = { s with c := { s.c with threads := t.c.threads } } ∧
      (∀ n, t.thread n = { s.thread n with age := (t.thread n).age, bundle := (t.thread n).bundle }) ∧
      (∀ n, (s.thread? n).isSome → s.ready (s.thread n) = true → (t.thread n).age = some ((s.thread n).age.getD s.clk)) ∧
      (∀ n, (s.thread? n).isSome → s.ready (s.thread n) = false → (t.thread n).age = none) ∧
      (∀ n, unitOf n = unit → (s.thread? n).isSome → ((t.thread n).bundle.isSome ↔ s.ready (s.thread n) = true)) ∧
      ∀ a b k, unitOf a = unit → unitOf b = unit → a ≠ b → (t.thread a).bundle = some k → (t.thread b).bundle = some k →
        laneOf a ≠ laneOf b ∧ (s.thread a).pc = (s.thread b).pc ∧ (s.thread a).region = (s.thread b).region ∧
        (s.thread a).loop.act = (s.thread b).loop.act ∧ ((s.thread a).loop.act = true → (s.thread a).loop.pass = (s.thread b).loop.pass))

/-- R29, R31, R55, R62: a fetch gives the thread the 32-byte block of its program counter, or its fault; a known result is written to its register, and the
results of one set are written together (R119); a pause ends at its clock. -/
def Sys2Proof.Machine.FetchesResultsPauses : Prop :=
  (∀ (s u : State) (n w : Nat), (s.thread n).gone = false → (s.thread n).fetched = false → (s.thread? n).isSome → s.fetchBlock n (s.thread n).pc = (u, .ok w) →
    ∃ t, exec (.instructionFetchComplete n) s = .next t ∧ t.m = u.m ∧ t.b = u.b ∧ t.l = s.l ∧
      t.thread n = { s.thread n with fetch := .ok ((s.thread n).pc / 32 * 32) w } ∧ ∀ k, k ≠ n → t.thread k = s.thread k) ∧
  (∀ (s u : State) (n : Nat) (f : FaultInfo), (s.thread n).gone = false → (s.thread n).fetched = false → (s.thread? n).isSome →
    s.fetchBlock n (s.thread n).pc = (u, .error f) →
    ∃ t g, exec (.instructionFetchComplete n) s = .next t ∧ t.m = u.m ∧ t.b = u.b ∧ t.l = s.l ∧ (∀ k, k ≠ n → t.thread k = u.thread k) ∧
      t.thread n = { u.thread n with fetch := .bad (u.thread n).pc g } ∧ g.code = f.code ∧ g.pc = (s.thread n).pc ∧ g.resume = (s.thread n).pc) ∧
  (∀ (s : State) (k : Nat) (p : Pend) (x : Word), s.c.pend[k]? = some p → p.val = some x →
    ∃ t, exec (.resultWriteback k) s = .next t ∧ t.m = s.m ∧ t.l = s.l ∧ t.b = s.b ∧ t.c.wgs = s.c.wgs ∧
      (p.set = 0 → t.c.pend = s.c.pend.eraseIdx k ∧ match p.dst with
        | .v n i => t.c.warps = s.c.warps ∧ ((s.thread? n).isSome → t.thread n = { s.thread n with v := (s.thread n).v.set i x }) ∧
            ∀ j, j ≠ n → t.thread j = s.thread j
        | .w w i => t.c.threads = s.c.threads ∧ t.c.warps = s.c.warps.map fun (q : Warp) => if q.wid = w then { q with w := q.w.set i x } else q
        | .p n i => t.c.warps = s.c.warps ∧ (∀ j, j ≠ n → t.thread j = s.thread j) ∧ ((s.thread? n).isSome →
            t.thread n = { s.thread n with p := (t.thread n).p } ∧
            ∀ j, (t.thread n).p.getLsbD j = if j = i ∧ j < 16 then x.getLsbD 0 else (s.thread n).p.getLsbD j)) ∧
      (p.set ≠ 0 → t.c.pend = s.c.pend.filter fun q => !(q.set == p.set && q.owners == p.owners))) ∧
  (∀ (s : State) (n c : Nat), (s.thread n).wait = .pause c → (c ≤ s.clk → ∃ t, exec (.pauseExpiry n) s = .next t ∧
      t = { s with c := { s.c with threads := t.c.threads } } ∧ t.thread n = { s.thread n with wait := .none } ∧ ∀ k, k ≠ n → t.thread k = s.thread k) ∧
    (s.clk < c → exec (.pauseExpiry n) s = .next s))

/-- Windows, fetches, results and pauses: both statements above. -/
def Obligations.WindowsFetchesAndResults : Prop := WindowsFormBundles ∧ FetchesResultsPauses

/-! ## Loop nests -/

/-- R141 to R145: the first nest of a unit, in ascending warp slot, walks all its elements and ends; one that meets a fault raises it at the nest
instruction for its thread. A fill gives every element its value and leaves every other byte; a map of one source writes one element. -/
def Sys2Proof.Machine.NestsWalkTheirElements : Prop :=
  (∀ (s : State) (wid : Nat) (x : Nest), (s.c.nests.find? fun n => n.wid / 16 == wid / 16) = some x → s.frozen (wid / 16) = false →
    (x.wid ≠ wid → exec (.nestComplete wid) s = .next s) ∧
    (x.wid = wid → (∀ u acc, s.walkNest x (x.inner * x.outer - x.iter) x.iter (accOfPart x.a.typ.toNat x.part) = .ok (u, acc) →
        exec (.nestComplete wid) s = .next { u with c := { u.c with nests := u.c.nests.filter fun n => n.wid != wid } }) ∧
      (∀ u f n a p, s.walkNest x (x.inner * x.outer - x.iter) x.iter (accOfPart x.a.typ.toNat x.part) = .error (u, f) → x.tids = [n] → x.back = [(n, a, p)] →
        exec (.nestComplete wid) s = .next ((({ u with c := { u.c with nests := u.c.nests.filter fun n => n.wid != wid } } : State).modThread n fun h =>
          { h with wait := .none, pc := x.pc, loop := { h.loop with act := a, pass := p } }).raise n { f with pc := x.pc, resume := x.pc })))) ∧
  (∀ (s : State) (x : Nest) (m : Nat) (g : Wg), x.op = 0xE2 → s.debugIdle → s.seated → s.wgOf (x.tids.headD 0) = some g → Memory.wf g.scr = true →
    nestFloat x.a.typ.toNat = false → 0 < nestSize x.a.typ.toNat → 0 < m →
    (∀ k < m, 0 ≤ x.offset k 0 ∧ x.offset k 0 + nestSize x.a.typ.toNat ≤ g.win ∧ x.offset k 0 % nestSize x.a.typ.toNat = 0) →
    ∃ u scr, s.walkNest x m 0 0 = .ok (u, 0) ∧ u.c.wgs = s.c.wgs.map (fun h => if h.key = g.key then { g with scr := scr } else h) ∧ u.m = s.m ∧ u.b = s.b ∧
      (∀ k < m, memNat scr (x.offset k 0).toNat (nestSize x.a.typ.toNat) =
        nestEnc x.a.typ.toNat false (x.base.getD 1 0).toInt % 256 ^ nestSize x.a.typ.toNat) ∧
      ∀ a : Nat, (∀ k < m, (a : Int) < x.offset k 0 ∨ x.offset k 0 + nestSize x.a.typ.toNat ≤ a) → memGet scr a = memGet g.scr a) ∧
  (∀ (s : State) (x : Nest) (k k0 k1 o0 o1 : Nat) (g : Wg), x.op = 0xE0 → s.debugIdle → s.seated → nestSrcs x.a.opn.toNat ≠ 2 → s.wg? k0 = some g →
    Memory.wf g.scr = true → s.nestAt x k 0 = .ok (k0, o0) → s.nestAt x k 1 = .ok (k1, o1) → k1 = k0 →
    let sz := nestSize x.a.typ.toNat
    let v := nestEnc x.a.typ.toNat (x.a.flg.getLsbD 0) (nestOp x.a.typ.toNat x.a.opn.toNat x.img (x.a.flg.getLsbD 0)
      (nestDec x.a.typ.toNat (memNat g.scr o1 sz)) 0)
    ∃ u scr, s.nmapStep x k = .ok u ∧ u.c.wgs = s.c.wgs.map (fun h => if h.key = k0 then { g with scr := scr } else h) ∧ u.m = s.m ∧
      memNat scr o0 sz = v % 256 ^ sz ∧ ∀ a, a < o0 ∨ o0 + sz ≤ a → memGet scr a = memGet g.scr a)

/-- The loop-nest instructions and their walk: both statements above. -/
def Obligations.LoopNests : Prop := NestsStartWithTheirBases ∧ NestsWalkTheirElements

/-! ## The path of a request -/

/-- R403, R405, R407 to R409: a request leaves the collector for stage A and gets a tag, or merges behind one of equal key, or is answered with FABRIC; from
stage A the loopback takes it to stage B. -/
def Obligations.RequestsReachTheirHome : Prop :=
  (∀ (s : State) (core : Nat) (r : Req) (q : List Req), takeFirst (fun (r : Req) => r.core == core) s.m.colQ = some (r, q) → s.debugIdle →
    s.here r.w.xpa = true ∨ r.w.op ≠ .load →
    (s.reachable r.w.xpa = false → ∃ t, exec (.stageAArrival core) s = .next t ∧
      t = { s with m := { s.m with colQ := q, anss := s.m.anss ++ [{ req := r, data := 0, fault := some .fabric }] } }) ∧
    (s.reachable r.w.xpa = true → (∀ l ∈ s.m.aQ, keyEq l.w r.w = false) → ∃ t, exec (.stageAArrival core) s = .next t ∧
      t = { s with m := { s.m with colQ := q, aQ := s.m.aQ ++ [{ r with w := { r.w with tag := s.m.nextTag % 65536 } }], nextTag := s.m.nextTag + 1 } }) ∧
    (∀ pre l, s.reachable r.w.xpa = true → s.m.aQ = pre ++ [l] → keyEq l.w r.w = true → l.sent = none → reqCombines r.w = true → s.waitRoom 1 = true →
      ∃ t, exec (.stageAArrival core) s = .next t ∧ t.m = { s.m with
        colQ := q, aQ := pre ++ [mergedReq l r], waits := s.m.waits ++ [{ point := 1, lead := l.id, foll := r, e := l.w.data }] } ∧
        t.c = s.c ∧ t.l = s.l ∧ (regsWf s.b.regs = true → t.fld rFabStat 31 0 = min 0xFFFFFFFF (s.fld rFabStat 31 0 + 1)))) ∧
  (∀ (s : State) (r : Req) (q : List Req), takeFirst (fun (r : Req) => s.here r.w.xpa) s.m.aQ = some (r, q) → s.tagRoom s.b.pkg = true →
    (∀ l ∈ s.m.bQ, keyEq l.w r.w = false) → ∃ t, exec (.stageBArrival s.b.pkg) s = .next t ∧
      t = { s with m := { s.m with aQ := q, bQ := s.m.bQ ++ [{ r with sent := some (r.sent.getD s.clk) }] } }) ∧
  (∀ (s : State) (port : Nat) (r : Req) (q : List Req), port ≠ s.b.pkg → takeFirst (fun (r : Req) => r.w.src == port) s.m.rxQ = some (r, q) →
    (∀ d ∈ s.m.dups, d.src = r.w.src → d.tag ≠ r.w.tag) → s.m.dups.length < 8192 → (∀ l ∈ s.m.bQ, keyEq l.w r.w = false) →
    ∃ t, exec (.stageBArrival port) s = .next t ∧ t = { s with m := { s.m with
      rxQ := q, bQ := s.m.bQ ++ [r], dups := s.m.dups ++ [{ src := r.w.src, tag := r.w.tag, ans := none }] } })

/-- R172, R185 to R188, R191, R192, R226, R235, R237, R418: the home performs its next request: the answer brings the word as it stood, and memory holds what
the operation leaves. Of a load or a store it may perform some bytes first, and the request stays for the others (R200). A request outside populated storage,
without the tenant's right, or to a poisoned sector is answered with its fault, and nothing is written. -/
def Obligations.HomesPerformOperations : Prop :=
  ∀ (s : State) (agent : Nat) (r : Req), s.homeNext agent [] s.m.bQ = some r → s.pdtMiss r = none → r.todo = 2 ^ 32 - 1 → r.got = 0 → s.m.errs = [] →
    s.debugIdle →
    let x := r.w.xpa
    let n := r.w.size
    let v := s.rdNat x n
    let now := ({ s with free := s.free + 1 } : State).pieceOf r
    let allowed := s.populated x = true ∧ s.tenantOk r.w.tenant x (r.w.op != .store) (r.w.op != .load && r.w.op != .acq && r.w.op != .join) = true
    (∃ t, exec (.homePerform agent .clean) s = .next t ∧ t.c = s.c ∧ t.l = s.l ∧ t.m.ops = s.m.ops ∧
      (let answers := fun (d : Nat) (f : Option Code) => t.m.bQ = s.m.bQ.eraseP (fun q => q.id == r.id) ∧
         t.m.anss = s.m.anss ++ [{ req := r, data := d, fault := f }]
       let rests := fun (d : Nat) => t.m.anss = s.m.anss ∧
         t.m.bQ = s.m.bQ.map fun q => if q.id == r.id then { q with todo := 2 ^ 32 - 1 - now, got := d } else q
       let same := t.m.mem = s.m.mem ∧ t.m.peer = s.m.peer ∧ t.m.host = s.m.host
       (¬ s.populated x = true → answers 0 (some .fabric) ∧ same) ∧
       (s.populated x = true → ¬ allowed → answers 0 (some .tenant) ∧ same) ∧
       (allowed → s.poisonedIn x n = true → ¬ (r.w.op = .store ∧ r.w.mask = 2 ^ 32 - 1) → answers 0 (some .poison) ∧ same) ∧
       (allowed → s.poisonedIn x n = false →
         (let put := fun (y : Nat) => t.m.mem = (s.wrNat x n y).m.mem ∧ t.m.peer = (s.wrNat x n y).m.peer ∧ t.m.host = (s.wrNat x n y).m.host
          (r.w.op = .acq ∨ r.w.op = .join → same ∧ answers v none) ∧
          (r.w.op = .load → same ∧ (now = 2 ^ 32 - 1 → answers v none) ∧ (now ≠ 2 ^ 32 - 1 → rests (maskBytes now v))) ∧
          (∀ k, r.w.op = .atom k → put (atomNew k.toNat n v r.w.data) ∧ answers v none) ∧
          (r.w.op = .cas → (v = r.w.cmp → put r.w.data) ∧ (v ≠ r.w.cmp → same) ∧ answers v none) ∧
          (r.w.op = .rel → put ((v + r.w.data) % 2 ^ 64) ∧ answers v none) ∧
          (r.w.op = .store → (now = 2 ^ 32 - 1 → answers 0 none) ∧ (now ≠ 2 ^ 32 - 1 → rests 0) ∧
            (x % 128 + 32 ≤ 128 → Memory.wf s.m.mem = true → s.here x = true → t.m.peer = s.m.peer ∧ t.m.host = s.m.host ∧
              (∀ i < 32, (r.w.mask &&& now).testBit i = true → memGet t.m.mem (s.storeAddr (x + i)) = BitVec.ofNat 8 (byteOf r.w.data i)) ∧
              ∀ a, (∀ i < 32, (r.w.mask &&& now).testBit i = true → s.storeAddr (x + i) ≠ a) → memGet t.m.mem a = memGet s.m.mem a))))))

/-- R406, R410, R412, R420: an answer passes its oldest wait entry, whose follower is answered right after it with the value its own turn gives; with none
left a load's bytes become its result's value; a fill caches a protection word for the agent that waits for it. -/
def Obligations.AnswersReturn : Prop :=
  (∀ (s : State) (n : Nat) (pre post : List Ans) (a : Ans) (w : WaitEnt) (rest : List WaitEnt), s.m.anss = pre ++ a :: post → a.req.id = n →
    (∀ b ∈ pre, b.req.id ≠ n) → takeFirst (fun (w : WaitEnt) => w.lead == n) s.m.waits = some (w, rest) → exec (.answerSplit n) s =
      .next { s with m := { s.m with
        waits := rest
        anss := pre ++ a :: { req := w.foll, data := applyValue w.foll.w.op w.foll.w.size a.data w.e, fault := a.fault } :: post } }) ∧
  (∀ (s : State) (n id m : Nat) (a : Ans) (rest : List Ans) (o : MOp) (p : Part) (d : RegRef),
    takeFirst (fun (a : Ans) => a.req.id == n && a.req.org != .remote) s.m.anss = some (a, rest) → (∀ w ∈ s.m.waits, w.lead ≠ n) → s.debugIdle →
    s.mayReturn a.req = true → (s.thread o.tid).fences = [] → a.req.org = .part id 0 → a.req.w.op = .load → a.fault = none → s.here a.req.w.xpa = true → (s.m.ops.find? fun o => o.id == id) = some o →
    o.parts = [p] → p.done = false → p.fault = none → p.at_ = 0 → p.size = m → o.fmt = .raw m → o.dsts = [d] → o.acq = none → o.kind = 0 → o.mst = false →
    ∃ t, exec (.memoryAnswer n) s = .next t ∧ t.m.anss = rest ∧ t.m.mem = s.m.mem ∧ t.m.peer = s.m.peer ∧ t.m.host = s.m.host ∧ t.b = s.b ∧ t.l = s.l ∧
      t.c.threads = s.c.threads ∧ t.c.warps = s.c.warps ∧ t.c.wgs = s.c.wgs ∧ t.m.ops.map (·.id) = (s.m.ops.map (·.id)).filter (fun q => q != id) ∧
      t.c.pend = s.c.pend.map fun q => if q.op = id ∧ q.dst = d then
        { q with val := some (BitVec.ofNat 64 (a.data / 256 ^ (p.xpa % 32) % 256 ^ m)) } else q) ∧
  (∀ (s : State) (n : Nat) (r : Req) (q : List Req), takeFirst (fun (r : Req) => r.id == n && (!s.reachable r.w.xpa || (r.id == n && r.org != .dropped &&
      (match r.sent with | some c => decide (c + 2 ^ s.fld rFabCfg 39 32 ≤ s.clk) | none => false)))) s.m.aQ = some (r, q) →
    exec (.answerTimeout n) s = .next { s with m := { s.m with aQ := q, anss := s.m.anss ++ [{ req := r, data := 0, fault := some .fabric }] } }) ∧
  (∀ (s : State) (agent : Nat) (h : Held) (rest : List Held), takeFirst (fun (h : Held) => h.agent == agent) s.m.held = some (h, rest) →
    (s.m.pdt.filter fun e => e.1 == agent).length < 256 → exec (.pdtWordFill agent) s =
      .next { s with m := { s.m with held := rest, pdt := s.m.pdt ++ [(agent, h.word, BitVec.ofNat 64 (s.rdNat h.word 8))] } }) ∧
  (∀ (s : State) (n d : Nat) (r : Req) (rest : List Req), takeFirst (fun (r : Req) => r.id == n) s.m.hostQ = some (r, rest) →
    ((s.m.hostQ.takeWhile fun q => q.id != n).any fun q => blocksMerge r q) = false → r.org = .dropped → ∃ t, exec (.hostSpaceAnswer n d) s = .next t ∧
      t.m.hostQ = rest ∧ t.c = s.c ∧ t.l = s.l ∧ t.b = s.b ∧ (r.w.op ≠ .store → t.m.mem = s.m.mem ∧ t.m.peer = s.m.peer ∧ t.m.host = s.m.host) ∧
      (r.w.op = .store → hostSpace r.w.xpa = true → r.w.xpa % 32 = 0 → Memory.wf s.m.host = true →
        ∀ a, memGet t.m.host a = if paOf r.w.xpa ≤ a ∧ a < paOf r.w.xpa + 32 ∧ r.w.mask.testBit (a - paOf r.w.xpa) = true then
          BitVec.ofNat 8 (byteOf r.w.data (a - paOf r.w.xpa)) else memGet s.m.host a))

/-- R215, R221: a die's oldest waiting miss takes a walker while one is free; a walk that finds a page holds it in the three levels of every waiting core and
ends every miss it covers; one that meets a fault gives it to the threads that wait. -/
def Obligations.WalksFillTheTlbs : Prop :=
  (∀ (s : State) (die i : Nat) (w : Walk), (s.m.walks.filter fun w => w.die == die && w.started).length < 256 → s.m.walks[i]? = some w → w.die = die →
    w.started = false → (∀ j v, j < i → s.m.walks[j]? = some v → v.die = die → v.started = true) →
    exec (.walkStart die) s = .next { s with m := { s.m with walks := s.m.walks.set i { w with started := true } } }) ∧
  (∀ (s u : State) (n : Nat) (w : Walk) (p : Pte), s.m.walks[n]? = some w → w.started = true → s.walk w.ttb w.tenant w.va = (u, .ok p) →
    ∃ t, exec (.walkComplete n) s = .next t ∧ t.c = s.c ∧ t.l = s.l ∧ t.b = u.b ∧ t.m.mem = s.m.mem ∧
      t.m.walks = s.m.walks.filter (fun v => !(v.die == w.die && v.asid == w.asid && p.covers v.va)) ∧
      ∀ v c, v ∈ s.m.walks → v.die = w.die → v.asid = w.asid → p.covers v.va = true → c ∈ v.tids → ∀ l < 3,
        ∃ e ∈ t.m.tlb, e.level = l ∧ e.inst = tlbInst l (coreOf c) ∧ e.asid = w.asid ∧ e.pte = p) ∧
  (∀ (s u : State) (n : Nat) (w : Walk) (e : XErr), s.m.walks[n]? = some w → w.started = true → s.walk w.ttb w.tenant w.va = (u, .error e) →
    ∃ t, exec (.walkComplete n) s = .next t ∧ t.m = { u.m with walks := s.m.walks.filter fun v => v != w } ∧ t.m.mem = s.m.mem ∧ t.l = s.l ∧ t.b = u.b ∧
      ∀ k, t.thread k = if k ∈ w.tids ∧ (s.thread? k).isSome then
        { s.thread k with walked := (s.thread k).walked ++ [(w.va / 65536, e.code, e.lvl, e.addr)] } else s.thread k)

/-! ## Translation and home instructions -/

/-- R222 to R224: `tlbinv` drops the page, or everything, of its ASID from the TLBs and begins an engine act that waits for the ASID's accesses in flight; at
pod scope it asks every other module, and the act waits for their reports too. `pprobe` gives the page's address and attributes, or why there is none. -/
def Obligations.InvalidationsAndProbes : Prop :=
  (∀ (x : M128A) (s : State) (n : Nat) (r : Region), s.solo (.tlbinv x) n = true → s.regionOf n = some r →
    let a := (s.opnd n x.a + x.i32.signExtend 64).toNat
    let page := x.opx = 0
    (s.busy n = true → ∃ t, exec (.tlbinv x) s = .next t ∧ s.OnlyResults t ∧ t.c.pend = s.c.pend ∧ (t.thread n).wait = .drain ∧
      (t.thread n).pc = (s.thread n).pc) ∧
    (s.busy n = false → page → 2 ^ 57 ≤ a → ∃ t, exec (.tlbinv x) s = .next t ∧ s.OnlyResults t ∧ t.c.pend = s.c.pend) ∧
    (s.busy n = false → (page → a < 2 ^ 57) → ∃ t ids, exec (.tlbinv x) s = .next t ∧ t.Becomes n { s with
        m := { s.m with
          tlb := s.m.tlb.filter fun e => decide (e.asid ≠ r.asid ∨ (page ∧ e.pte.covers a = false))
          walks := s.m.walks.map fun w => if w.asid = r.asid then { w with started := false } else w
          mgmt := s.m.mgmt ++ if x.sc = .pod then s.others.map fun k => (k, .tlbinv s.b.pkg s.m.nextId r.asid (if page then some a else none)) else []
          nextId := s.m.nextId + 1 }
        c := { s.c with jobs := s.c.jobs ++ [{ EngineJob.blank with
          id := s.m.nextId, kind := 3, core := coreOf n, region := r.num, asid := r.asid, pod := x.sc == .pod, tids := [n], ids := ids
          mods := if x.sc = .pod then s.others else [] }] } } ∧
      (t.thread n).wait = .engine s.m.nextId ∧
      (∀ o ∈ s.m.ops, o.id ∈ ids ↔ ∃ p ∈ s.m.ops, p.id = o.id ∧ (s.regionOf p.tid).map (·.asid) = some r.asid))) ∧
  (∀ (x : M128A) (s : State) (n : Nat) (r : Region), s.solo (.pprobe x) n = true → s.regionOf n = some r →
    let va := (s.opnd n x.a + x.i32.signExtend 64).toNat
    let gives := fun (t : State) (a b : Nat) => s.Sends t (s.valuesAt [n] x.d (fun _ => BitVec.ofNat 64 a) ++ s.valuesAt [n] x.d.succ fun _ => BitVec.ofNat 64 b)
    let page := fun (t : State) (p : Pte) =>
      let denied := match p.check (probeNeed x.opx.toNat) va with | .ok _ => 0 | .error _ => 2
      gives t (p.pa + va % 2 ^ p.size) (p.lvl * 2 ^ 33 + denied * 2 ^ 36 + (if p.dty then 1 else 0) * 2 ^ 39 + p.perm * 2 ^ 40 + p.own * 2 ^ 44 +
        (if p.size = 16 then 0 else if p.size = 21 then 1 else 2) * 2 ^ 50 + p.plc * 2 ^ 52 + (if p.ef then 1 else 0) * 2 ^ 54 + p.geo * 2 ^ 55 +
        p.fmt * 2 ^ 58)
    let stays := fun (t : State) => t.m.mem = s.m.mem ∧ t.m.peer = s.m.peer ∧ t.m.host = s.m.host ∧ t.c.warps = s.c.warps ∧ t.c.wgs = s.c.wgs ∧ t.l = s.l ∧
      s.Advances t (.pprobe x)
    (2 ^ 57 ≤ va → ∃ t, exec (.pprobe x) s = .next t ∧ gives t 0 (3 * 2 ^ 36) ∧ s.OnlyResults t ∧ s.Advances t (.pprobe x)) ∧
    (∀ e, va < 2 ^ 57 → s.tlbHit (coreOf n) r.asid va = some e → ∃ t, exec (.pprobe x) s = .next t ∧ s.KeepsStorage t ∧ t.m = { s.m with tlb := t.m.tlb } ∧
      s.Advances t (.pprobe x) ∧ page t e.pte) ∧
    (∀ u, va < 2 ^ 57 → s.tlbHit (coreOf n) r.asid va = none → (∀ w ∈ s.m.walks, w.asid ≠ r.asid) →
      (∀ p, s.walk r.ttb r.tenant va = (u, .ok p) → ∃ t, exec (.pprobe x) s = .next t ∧ stays t ∧ page t p) ∧
      (∀ e, s.walk r.ttb r.tenant va = (u, .error e) → ∃ t, exec (.pprobe x) s = .next t ∧ stays t ∧
        gives t 0 ((if e.code = .page then 1 else 4) * 2 ^ 36 + e.lvl * 2 ^ 33))))

/-- R240 to R246: `rpin` takes the lowest inactive retention register and writes range, ways and region into it, or answers all ones; `runpin` frees one of
its own region; `l2wb` and `l2inv` hand their range to the engine, and at pod scope to every other module, and wait; the engine cleans or drops exactly its
lines, once the other modules have reported, and reports an act that another module asked for. -/
def Obligations.RetentionAndCacheActs : Prop :=
  (∀ (x : M128A) (s u : State) (n : Nat) (p : Pte), s.solo (.rpin x) n = true → regsWf s.b.regs = true →
    let va := (s.opnd n x.a + x.i32.signExtend 64).toNat
    let len := (s.opnd n x.b).toNat
    s.homeRange n va len = (u, .ok p) →
    (∀ i ways, i < 8 → u.retOn i = false → (∀ j < i, u.retOn j = true) → u.chooseWays (x.opx.toNat % 16) = some ways →
      let base := (p.pa + va % 2 ^ p.size) / 128 % 2 ^ 39
      let v := 1 + ways * 2 + base * 2 ^ 89 + (if p.plc = 1 then 2 ^ 146 + p.own * 2 ^ 147 else 0) + (base + len / 128) % 2 ^ 39 * 2 ^ 153 +
        (s.thread n).region % 2 ^ 32 * 2 ^ 192
      ∃ t, exec (.rpin x) s = .next t ∧ s.Sends t (s.valuesAt [n] x.d fun _ => BitVec.ofNat 64 i) ∧ (t.thread n).wait = .results ∧
        (∀ k < 4, t.reg (rHomeRet i + 8 * k) = BitVec.ofNat 64 (v / 2 ^ (64 * k))) ∧
        (∀ o, (∀ k < 4, o ≠ rHomeRet i + 8 * k) → t.reg o = u.reg o) ∧ t.m.mem = s.m.mem ∧ t.l = s.l ∧ t.c.warps = s.c.warps ∧ t.c.wgs = s.c.wgs ∧
        ∀ k, t.thread k = (s.thread k).control (t.thread k)) ∧
    ((∀ i < 8, u.retOn i = true) ∨ u.chooseWays (x.opx.toNat % 16) = none → ∃ t, exec (.rpin x) s = .next t ∧
      s.Sends t (s.valuesAt [n] x.d fun _ => BitVec.allOnes 64) ∧ t.b.regs = u.b.regs ∧ t.m.mem = s.m.mem)) ∧
  (∀ (x : M128A) (s : State) (n : Nat), s.solo (.runpin x) n = true → regsWf s.b.regs = true →
    let i := (s.opnd n x.a).toNat
    let mine := i ≤ 7 ∧ s.retOn i = true ∧ s.fld (rHomeRet i + 24) 31 0 = (s.thread n).region % 2 ^ 32
    (mine → ∃ t, exec (.runpin x) s = .next t ∧ s.Sends t (s.valuesAt [n] x.d fun _ => BitVec.ofNat 64 (s.fld (rHomeRet i + 24) 63 32)) ∧
      (∀ k < 4, t.reg (rHomeRet i + 8 * k) = 0) ∧ (∀ o, (∀ k < 4, o ≠ rHomeRet i + 8 * k) → t.reg o = s.reg o) ∧ t.m = s.m ∧
      (t.thread n).wait = .results) ∧
    (¬ mine → ∃ t, exec (.runpin x) s = .next t ∧ s.OnlyResults t ∧ s.Sends t (s.valuesAt [n] x.d fun _ => BitVec.allOnes 64))) ∧
  (let acts := fun (mk : M128A → Instr) (kind : Nat) => ∀ (x : M128A) (s u : State) (n : Nat) (p : Pte), s.solo (mk x) n = true →
      let va := (s.opnd n x.a + x.i32.signExtend 64).toNat
      let len := (s.opnd n x.b).toNat
      s.busy n = false → s.homeRange n va len = (u, .ok p) → ∃ t, exec (mk x) s = .next t ∧ t.c.pend = s.c.pend ∧
        t.c.warps = s.c.warps ∧ t.c.wgs = s.c.wgs ∧ t.l = s.l ∧ t.b.regs = u.b.regs ∧ t.m.mem = s.m.mem ∧ t.m.peer = s.m.peer ∧ t.m.host = s.m.host ∧
        (∀ k, t.thread k = (u.thread k).control (t.thread k)) ∧ (t.thread n).wait = .engine u.m.nextId ∧
        t.m = { u.m with
          nextId := u.m.nextId + 1
          mgmt := u.m.mgmt ++ if x.sc = .pod then s.others.map fun k => (k, .l2op s.b.pkg u.m.nextId (kind == 2) (p.addr va / 128) (len / 128)) else [] } ∧
        t.c.jobs = s.c.jobs ++ [{ id := u.m.nextId, kind := kind, core := coreOf n, region := (s.thread n).region, asid := 0, lo := p.addr va,
                                  hi := p.addr va + len, pod := x.sc == .pod, tids := [n], mods := if x.sc = .pod then s.others else [], ids := [],
                                  back := none }]
   acts .l2wb 1 ∧ acts .l2inv 2) ∧
  (∀ (s : State) (n : Nat), (∀ j ∈ s.c.jobs, j.id = n → j.kind = 3 ∨ j.mods ≠ []) → exec (.l2wbComplete n) s = .next s) ∧
  (∀ (s : State) (n : Nat) (j : EngineJob), (s.c.jobs.find? fun j => j.id == n && j.kind != 3 && j.mods.isEmpty) = some j →
    ∃ t, exec (.l2wbComplete n) s = .next t ∧
    t.c = { s.c with jobs := s.c.jobs.filter fun k => k.id != n } ∧ t.l = s.l ∧ t.b = s.b ∧ t.m.mem = s.m.mem ∧
    t.m.mgmt = s.m.mgmt ++ (match j.back with | some (m, id) => [(m, .ended s.b.pkg id)] | none => []) ∧
    (j.kind = 2 → t.m.l2 = s.m.l2.filter fun l => decide (l.xpa < j.lo ∨ j.hi ≤ l.xpa)) ∧
    (j.kind ≠ 2 → t.m.l2 = s.m.l2.map fun l => if j.lo ≤ l.xpa ∧ l.xpa < j.hi then { l with dirty := false } else l))

/-! ## Copies -/

/-- R248, R250, R252 to R255, R198: `cp` and `gthl` read and check their descriptor and put a transfer into the open batch; `cpseal` numbers the batch,
`cpwait` waits for one, `cppoll` asks; an access of the thread still outstanding comes first. -/
def Sys2Proof.Machine.CopyBatches : Prop :=
  (∀ (x : M128A) (s : State) (n : Nat) (g : Wg), s.solo (.cp x) n = true → s.wgOf n = some g →
    let w0 := s.readW n x.a.num
    let ws := [BitVec.ofNat 64 ((BitVec.ofInt 57 (slice w0.toNat 56 0 + x.i32.toInt)).toNat + slice w0.toNat 63 57 * 2 ^ 57),
      s.readW n (x.a.num + 1), s.readW n (x.a.num + 2), s.readW n (x.a.num + 3)]
    let seg := (g.segs.getD (cpDesc ws).n 0).toNat
    (s.busy n = true → ∃ t, exec (.cp x) s = .next t ∧ s.OnlyResults t ∧ t.c.pend = s.c.pend ∧ (t.thread n).wait = .drain) ∧
    (s.busy n = false → cpCheck ws g.win (x.opx == 1) seg = none → ∃ t, exec (.cp x) s = .next t ∧ s.Advances t (.cp x) ∧ t.Becomes n
      { s with
        c := { s.c with xfers := s.c.xfers ++ [{ Xfer.blank s.cur.pc n with
          id := s.m.nextId, wg := g.key, tids := [(n, none)], desc := ws, s2g := x.opx == 1, seg := seg }] }
        m := { s.m with nextId := s.m.nextId + 1 } }) ∧
    (∀ f, s.busy n = false → cpCheck ws g.win (x.opx == 1) seg = some f → ∃ t, exec (.cp x) s = .next t ∧
      s.Raises t n { f with pc := (s.thread n).pc, resume := (s.thread n).pc })) ∧
  (∀ (x : M128A) (s : State) (n : Nat) (g : Wg), s.solo (.gthl x) n = true → s.wgOf n = some g → s.debugIdle → s.seated →
    let ws := (List.range 4).map fun i => s.readW n (x.a.num + i)
    (s.busy n = true → ∃ t, exec (.gthl x) s = .next t ∧ s.OnlyResults t ∧ t.c.pend = s.c.pend ∧ (t.thread n).wait = .drain) ∧
    (s.busy n = false → glCheck ws g.win (x.opx.getLsbD 1) x.ty = none → x.rm ≠ .rs → ∃ t, exec (.gthl x) s = .next t ∧ s.Advances t (.gthl x) ∧ t.Becomes n
      { s with
        c := { s.c with xfers := s.c.xfers ++ [{ Xfer.blank s.cur.pc n with
          id := s.m.nextId + 1, wg := g.key, tids := [(n, none)], desc := ws
          gthl := some (x.opx.getLsbD 1, x.ty, x.rm, x.sat == .satf, x.hint, (s.thread n).rseed) }] }
        m := { s.m with nextId := s.m.nextId + 2 } }) ∧
    (∀ f, s.busy n = false → glCheck ws g.win (x.opx.getLsbD 1) x.ty = some f → ∃ t u, exec (.gthl x) s = .next t ∧
      t = u.raise n { f with pc := (s.thread n).pc, resume := (s.thread n).pc } ∧ s.KeepsStorage u ∧ u.c.xfers = s.c.xfers)) ∧
  (∀ (x : S64A) (s : State) (n : Nat), s.solo (.cpseal x) n = true → s.inUse n (s.thread n).batches.next = false →
    let b := (s.thread n).batches
    ∃ t, exec (.cpseal x) s = .next t ∧ s.Advances t (.cpseal x) ∧ s.Sends t (s.valuesAt [n] x.d fun _ => BitVec.ofNat 64 b.next) ∧
      t.c.xfers = s.c.xfers.map (fun y => { y with tids := y.tids.map fun q => if q = (n, none) then (n, some b.next) else q }) ∧ t.m = s.m ∧ t.c.wgs = s.c.wgs ∧
      t.thread n = { (s.thread n).control (t.thread n) with
        batches := { bs := b.bs ++ [{ num := b.next, f := b.opn }], opn := none, next := (b.next + 1) % 8 } } ∧ ∀ k, k ≠ n → t.thread k = s.thread k) ∧
  (∀ (x : S64A) (s : State) (n : Nat), s.solo (.cpwait x) n = true →
    let k := (s.opnd n x.a).toNat % 8
    let freed := fun (k : Nat) => { s.thread n with batches := { (s.thread n).batches with bs := (s.thread n).batches.bs.filter fun b => b.num != k } }
    (∀ j f, s.faultedBatch n = some (j, f) → f.deferred = false → f.code ≠ .trap → f.code ≠ .brk → ∃ t u, exec (.cpwait x) s = .next t ∧
      t = u.raise n { f with pc := (s.thread n).pc, resume := (s.thread n).pc } ∧ u.c.pend = s.c.pend ∧ s.OnlyThread u n (freed j)) ∧
    (s.faultedBatch n = none → s.inUse n k = true → s.batchBusy n k = true → ∃ t, exec (.cpwait x) s = .next t ∧ s.OnlyResults t ∧ t.c.pend = s.c.pend ∧
      (t.thread n).wait = .batch k ∧ (t.thread n).pc = (s.thread n).pc) ∧
    (s.faultedBatch n = none → s.inUse n k = false ∨ s.batchBusy n k = false → ∃ t, exec (.cpwait x) s = .next t ∧ s.Advances t (.cpwait x) ∧
      t.c.pend = s.c.pend ∧ s.OnlyThread t n (freed k))) ∧
  (∀ (x : S64A) (s : State) (n : Nat), s.solo (.cppoll x) n = true → s.faultedBatch n = none →
    let k := (s.opnd n x.a).toNat % 8
    ∃ t, exec (.cppoll x) s = .next t ∧ s.Advances t (.cppoll x) ∧ t.m = s.m ∧
      (s.inUse n k = true → s.batchBusy n k = true → s.Sends t (s.valuesAt [n] x.d fun _ => 0) ∧ s.OnlyResults t) ∧
      (s.inUse n k = false ∨ s.batchBusy n k = false → s.Sends t (s.valuesAt [n] x.d fun _ => 1)))

/-- R248, R251, R252, R256: a transfer that ends without a fault leaves its batch, with what it has moved; a row of global memory in one sector arrives in
scratch unchanged, and a transfer that meets a fault marks its batch. A piece that moves before the end is moved once. -/
def Sys2Proof.Machine.TransfersMoveRows : Prop :=
  (∀ (s u : State) (n : Nat) (x : Xfer) (g : Wg) (r : Region), (s.c.xfers.find? fun x => x.id == n) = some x → s.wg? x.wg = some g →
    s.region? g.region = some r → x.node = none → s.xferRun x g r = (u, none) → u.b.samples = [] → ∃ t, exec (.copyTransferEnd n) s = .next t ∧
      t = { u with c := { u.c with xfers := u.c.xfers.filter fun y => y.id != n } }) ∧
  (∀ (s u : State) (n k tid : Nat) (x : Xfer) (g : Wg) (r : Region) (f : FaultInfo), (s.c.xfers.find? fun x => x.id == n) = some x →
    s.wg? x.wg = some g → s.region? g.region = some r → x.node = none → s.xferRun x g r = (u, some f) → u.b.samples = [] → x.tids = [(tid, some k)] →
    (u.thread? tid).isSome → (u.thread tid).batches.hasFault = false → ∃ t, exec (.copyTransferEnd n) s = .next t ∧ t.m = u.m ∧ t.c.wgs = u.c.wgs ∧
      (t.thread tid).batches.bs = (u.thread tid).batches.bs.map (fun b => if b.num = k ∧ b.f = none then { b with f := some { f with deferred := false } } else b) ∧
      ∀ j, j ≠ tid → t.thread j = u.thread j) ∧
  (∀ (s : State) (n : Nat) (x : Xfer) (g : Wg) (r : Region) (e : TlbEnt), (s.c.xfers.find? fun x => x.id == n) = some x → s.wg? x.wg = some g →
    s.region? g.region = some r → x.node = none → x.gthl = none → x.fault = none → x.done = [] → x.page = none → x.s2g = false → s.debugIdle → s.seated →
    Memory.wf g.scr = true →
    let d := cpDesc x.desc
    let a := e.pte.addr d.gva
    d.segv = false → d.rn = 1 → d.rb = 4 → d.gva % 4 = 0 → d.gva < 2 ^ 57 → d.sof + 4 ≤ g.win → s.tlbHit g.core r.asid d.gva = some e →
    e.pte.perm.testBit 0 = true → a % 4 = 0 → s.homeHolds r.tenant a 4 true false →
    ∃ t scr, exec (.copyTransferEnd n) s = .next t ∧ t.m.mem = s.m.mem ∧ t.m.peer = s.m.peer ∧ t.m.host = s.m.host ∧
      t.c.wgs = s.c.wgs.map (fun h => if h.key = g.key then { g with scr := scr } else h) ∧ t.c.xfers = s.c.xfers.filter (fun y => y.id != n) ∧
      memNat scr d.sof 4 = s.rdNat a 4 ∧ ∀ a, a < d.sof ∨ d.sof + 4 ≤ a → memGet scr a = memGet g.scr a) ∧
  (∀ (s : State) (x : Xfer) (g : Wg) (r : Region) (key : Nat), s.copyPage g r x = (s, .ok (0, 0)) → x.done ≠ [] →
    let j := copyJob g r x (0, 0)
    let i := Config.freeChoice s.free key 8100 % j.d.rn
    let k := Config.freeChoice s.free key 8101 % (j.pieces i).length
    (x.done.contains (i, k) = true → s.copyPiece x g r key = s) ∧
    (∀ p u, (j.pieces i)[k]? = some p → x.done.contains (i, k) = false → j.move s p = (u, none) →
      s.copyPiece x g r key = u.modXfer x.id fun y => { y with page := some (0, 0), done := (i, k) :: y.done, fault := none }))

/-- The copy instructions and the transfers: both statements above. -/
def Obligations.CopiesAndTransfers : Prop := CopyBatches ∧ TransfersMoveRows

/-! ## The dependence graph -/

/-- R258, R259, R262 to R264, R267: `nnew` builds an idle node, and a new extension node is not linked; `nlink` records a successor, in an extension node where
the chain has no free slot, and counts it; `nsub` queues a node or marks it waiting, after the thread's earlier accesses; `nwait` waits for an idle node and
raises the fault of one that has failed. A number outside the arena is PERM. -/
def Sys2Proof.Machine.GraphInstructions : Prop :=
  let only := fun (s t : State) (n : Nat) => t.m = s.m ∧ t.l = s.l ∧ t.b.regs = s.b.regs ∧ t.c.warps = s.c.warps ∧
    (∀ k, t.thread k = (s.thread k).control (t.thread k)) ∧ ∀ k, k ≠ n → t.thread k = s.thread k
  let perm := fun (i : Instr) (s : State) (n : Nat) =>
    ∃ t, exec i s = .next t ∧ s.Raises t n { flt .perm with pc := (s.thread n).pc, resume := (s.thread n).pc }
  (∀ (x : M128A) (s : State) (n : Nat) (g : Wg), s.solo (.nnew x) n = true → s.wgOf n = some g → Memory.wf g.scr = true →
    let i := (s.opnd n x.a).toNat
    let kind := x.opx.toNat % 8
    let pay := slice (s.opnd n x.b).toNat 18 0
    (s.nodeNN g ≤ i → perm (.nnew x) s n) ∧
    (i < s.nodeNN g → kind = 1 → pay % 8 ≠ 0 ∨ g.win < pay + 40 → ∃ t, exec (.nnew x) s = .next t ∧
      s.Raises t n { fltAt .perm 0 0 pay with pc := (s.thread n).pc, resume := (s.thread n).pc }) ∧
    (i < s.nodeNN g → (kind = 1 → pay % 8 = 0 ∧ pay + 40 ≤ g.win) → nodeBad (s.node g.key i) = false →
      (s.nodeIdle g.key i = true → ∃ t, exec (.nnew x) s = .next t ∧ s.Advances t (.nnew x) ∧ only s t n ∧ s.Sends t (s.valuesAt [n] x.d fun _ => 0) ∧
        t.node g.key i = kind + pay * 2 ^ 32 ∧ ∀ j, j ≠ i → t.node g.key j =
          let v := s.node g.key j
          if kind = 5 ∧ j < s.nodeNN g ∧ nKind v ≠ 0 ∧ nOvf v = some i then putBits v 118 108 0 else v) ∧
      (s.nodeIdle g.key i = false → ∃ t, exec (.nnew x) s = .next t ∧ s.Advances t (.nnew x) ∧ s.OnlyResults t ∧
        s.Sends t (s.valuesAt [n] x.d fun _ => 1)))) ∧
  (∀ (x : M128A) (s : State) (n : Nat) (g : Wg), s.solo (.nlink x) n = true → s.wgOf n = some g → Memory.wf g.scr = true →
    let i := (s.opnd n x.a).toNat
    let j := (s.opnd n x.b).toNat
    let e := (s.opnd n x.c).toNat
    let ext := x.c.isW
    let vi := s.node g.key i
    let vj := s.node g.key j
    let quiet := fun (v : Nat) => ∃ t, exec (.nlink x) s = .next t ∧ s.Advances t (.nlink x) ∧ s.OnlyResults t ∧
      s.Sends t (s.valuesAt [n] x.d fun _ => BitVec.ofNat 64 v)
    let open_ := nBuilt vj = true ∧ nKind vi ≠ 0 ∧ nKind vi ≠ 5 ∧ nSt vi < 4 ∧ nCnt vj < 1024
    (s.nodeNN g ≤ i ∨ s.nodeNN g ≤ j ∨ (ext = true ∧ s.nodeNN g ≤ e) → perm (.nlink x) s n) ∧
    (i < s.nodeNN g → j < s.nodeNN g → (ext = true → e < s.nodeNN g ∧ nodeBad (s.node g.key e) = false) → nodeBad vi = false → nodeBad vj = false →
      (s.chainTo g.key 1024 i).2 = none →
      (nBuilt vj = false ∨ nKind vi = 0 ∨ nKind vi = 5 → quiet 1) ∧
      (nBuilt vj = true → nKind vi ≠ 0 → nKind vi ≠ 5 → nSt vi = 4 → quiet 0) ∧
      (nBuilt vj = true → nKind vi ≠ 0 → nKind vi ≠ 5 → nSt vi = 5 ∨ nSt vi = 6 → nOvf vj = none → (∀ k < 4, nSucc vj k = none) →
        ∃ t, exec (.nlink x) s = .next t ∧ s.Advances t (.nlink x) ∧ s.Sends t (s.valuesAt [n] x.d fun _ => 3) ∧ t.m = s.m ∧ t.l = s.l ∧
          t.b.regs = s.b.regs ∧ t.c.warps = s.c.warps ∧ (∀ k, t.thread k = (s.thread k).control (t.thread k)) ∧
          t.node g.key j = nEnd vj 6 (nCode vi) 0 ∧ ∀ h, h ≠ j → t.node g.key h = s.node g.key h) ∧
      (nBuilt vj = true → nKind vi ≠ 0 → nKind vi ≠ 5 → nSt vi < 4 → nCnt vj = 1024 → quiet 4) ∧
      (∀ c k, open_ → s.freeSlot g.key i = some (c, k) → c ≠ j → ∃ t, exec (.nlink x) s = .next t ∧ s.Advances t (.nlink x) ∧ only s t n ∧
        s.Sends t (s.valuesAt [n] x.d fun _ => 0) ∧ t.node g.key c = putBits (s.node g.key c) (74 + 11 * k) (64 + 11 * k) (1024 + j) ∧
        t.node g.key j = putBits vj 26 16 (nCnt vj + 1) ∧ ∀ h, h ≠ c → h ≠ j → t.node g.key h = s.node g.key h) ∧
      (∀ k < 4, open_ → i ≠ j → nSucc vi k = none → (∀ h < k, (nSucc vi h).isSome) → ∃ t, exec (.nlink x) s = .next t ∧ s.Advances t (.nlink x) ∧
        only s t n ∧ s.Sends t (s.valuesAt [n] x.d fun _ => 0) ∧ t.node g.key i = putBits vi (74 + 11 * k) (64 + 11 * k) (1024 + j) ∧
        t.node g.key j = putBits vj 26 16 (nCnt vj + 1) ∧ ∀ h, h ≠ i → h ≠ j → t.node g.key h = s.node g.key h) ∧
      (open_ → s.freeSlot g.key i = none → ext = false ∨ s.extFree g.key e = false → quiet 2) ∧
      (∀ last, open_ → s.freeSlot g.key i = none → ext = true → s.extFree g.key e = true → last = (s.chain g.key 1024 i).getLastD i → last ≠ j → e ≠ j →
        e ≠ last → ∃ t, exec (.nlink x) s = .next t ∧ s.Advances t (.nlink x) ∧ only s t n ∧ s.Sends t (s.valuesAt [n] x.d fun _ => 0) ∧
          t.node g.key last = putBits (s.node g.key last) 118 108 (1024 + e) ∧ t.node g.key e = putBits (s.node g.key e) 74 64 (1024 + j) ∧
          t.node g.key j = putBits vj 26 16 (nCnt vj + 1) ∧ ∀ h, h ≠ last → h ≠ e → h ≠ j → t.node g.key h = s.node g.key h))) ∧
  (∀ (x : M128A) (s : State) (n : Nat) (g : Wg), s.solo (.nsub x) n = true → s.wgOf n = some g → Memory.wf g.scr = true →
    let i := (s.opnd n x.a).toNat
    let v := s.node g.key i
    (s.busy n = true → ∃ t, exec (.nsub x) s = .next t ∧ s.OnlyResults t ∧ t.c.pend = s.c.pend ∧ (t.thread n).wait = .drain ∧
      (t.thread n).pc = (s.thread n).pc) ∧
    (s.busy n = false → s.nodeNN g ≤ i → perm (.nsub x) s n) ∧
    (s.busy n = false → i < s.nodeNN g → nodeBad v = false →
      (nBuilt v = true → nKind v ≠ 4 ∨ nCnt v ≠ 0 → ∃ t, exec (.nsub x) s = .next t ∧ s.Advances t (.nsub x) ∧ only s t n ∧
        s.Sends t (s.valuesAt [n] x.d fun _ => 0) ∧ t.node g.key i = putBits v 6 4 (if nCnt v = 0 then 2 else 1) ∧
        (t.wg? g.key).map (·.nsubs) = some ((i, n, s.cur.pc) :: g.nsubs.filter fun q => q.1 != i) ∧ ∀ j, j ≠ i → t.node g.key j = s.node g.key j) ∧
      (nBuilt v = true → nKind v = 4 → nCnt v = 0 → nOvf v = none → (∀ k < 4, nSucc v k = none) → ∃ t, exec (.nsub x) s = .next t ∧
        s.Advances t (.nsub x) ∧ t.m = s.m ∧ t.l = s.l ∧ s.Sends t (s.valuesAt [n] x.d fun _ => 0) ∧
        (∀ k, t.thread k = (s.thread k).control (t.thread k)) ∧ t.node g.key i = putBits v 6 4 4 ∧ ∀ j, j ≠ i → t.node g.key j = s.node g.key j) ∧
      (nBuilt v = false → ∃ t, exec (.nsub x) s = .next t ∧ s.Advances t (.nsub x) ∧ s.OnlyResults t ∧
        s.Sends t (s.valuesAt [n] x.d fun _ => if 1 ≤ nKind v ∧ nKind v ≤ 4 ∧ nSt v = 6 then 2 else 1)))) ∧
  (∀ (x : S64A) (s : State) (n : Nat) (g : Wg), s.solo (.nwait x) n = true → s.wgOf n = some g → s.faultedBatch n = none →
    let i := (s.opnd n x.a).toNat % 1024
    let v := s.node g.key i
    (s.nodeNN g ≤ i → perm (.nwait x) s n) ∧
    (i < s.nodeNN g → nodeBad v = false →
      (s.nodeIdle g.key i = false → ∃ t, exec (.nwait x) s = .next t ∧ s.OnlyResults t ∧ t.c.pend = s.c.pend ∧ (t.thread n).wait = .node i ∧
        (t.thread n).pc = (s.thread n).pc) ∧
      (s.nodeIdle g.key i = true → (nEnded v = true → nSt v = 4) → ∃ t, exec (.nwait x) s = .next t ∧ s.OnlyResults t ∧ t.c.pend = s.c.pend ∧
        s.Advances t (.nwait x)) ∧
      (s.nodeIdle g.key i = true → nEnded v = true → nSt v ≠ 4 → codeOfNum (nCode v) ≠ .trap → codeOfNum (nCode v) ≠ .brk → ∃ t,
        exec (.nwait x) s = .next t ∧ s.Raises t n { fltAt (codeOfNum (nCode v)) 0 0 (if nSt v = 5 then slice v 191 128 else 0) with
          pc := (s.thread n).pc, resume := (s.thread n).pc }))) ∧
  (∀ (x : S64A) (s : State) (n k : Nat) (f : FaultInfo) (g : Wg), s.solo (.nwait x) n = true → s.wgOf n = some g → s.faultedBatch n = some (k, f) →
    f.deferred = false → f.code ≠ .trap → f.code ≠ .brk → ∃ t u, exec (.nwait x) s = .next t ∧ t = u.raise n { f with pc := (s.thread n).pc, resume := (s.thread n).pc } ∧ u.c.pend = s.c.pend ∧
      s.OnlyThread u n { s.thread n with batches := { (s.thread n).batches with bs := (s.thread n).batches.bs.filter fun b => b.num != k } })

/-- R265, R266, R355, R382: a queued node starts: a copy with a good descriptor becomes a transfer, an enqueued task and a signature operation run, a wake-up
node is done; a node that is not queued stays. A running node whose work has ended is done, its task is dropped, its successor's count goes down and at 0 the
successor is queued; the threads that wait for it go on. One whose record has been spoilt fails with ILLEGAL (R260). -/
def Sys2Proof.Machine.GraphEvents : Prop :=
  (∀ (s : State) (wg i : Nat) (g : Wg), s.wg? wg = some g → i < s.nodeNN g → Memory.wf g.scr = true → nodeBad (s.node wg i) = false →
    let v := s.node wg i
    let others := fun (t : State) => (∀ j, j ≠ i → t.node wg j = s.node wg j) ∧ t.l = s.l ∧ t.b.regs = s.b.regs
    (nSt v ≠ 2 → exec (.nodeStart wg i) s = .next s) ∧
    (nSt v = 2 → nKind v = 2 → (g.mx.tasks.any fun t => t.node == some i) = true → ∃ t, exec (.nodeStart wg i) s = .next t ∧
      t.node wg i = putBits v 6 4 3 ∧ others t ∧ t.m = s.m ∧ t.b = s.b ∧ t.c.threads = s.c.threads) ∧
    (nSt v = 2 → nKind v = 2 → (∀ t ∈ g.mx.tasks, t.node ≠ some i) → exec (.nodeStart wg i) s = .next s) ∧
    (nSt v = 2 → nKind v = 4 → nOvf v = none → (∀ k < 4, nSucc v k = none) → ∃ t, exec (.nodeStart wg i) s = .next t ∧ t.node wg i = putBits v 6 4 4 ∧
      others t ∧ t.m = s.m) ∧
    (let pay := nPay v
     let ws := (List.range 4).map fun k => BitVec.ofNat 64 (memNat g.scr (pay + 8 * k) 8)
     let dir := memNat g.scr (pay + 32) 8
     let seg := (g.segs.getD (cpDesc ws).n 0).toNat
     nSt v = 2 → nKind v = 1 → pay + 40 ≤ g.win → dir < 2 → cpCheck ws g.win (dir == 1) seg = none → ∃ t, exec (.nodeStart wg i) s = .next t ∧
       t.node wg i = putBits v 6 4 3 ∧ others t ∧ t.m = { s.m with nextId := s.m.nextId + 1 } ∧ t.c.threads = s.c.threads ∧
       t.c.xfers = s.c.xfers ++ [{ Xfer.blank (g.nsubOf i).2 (g.nsubOf i).1 with
         id := s.m.nextId, wg := wg, node := some i, desc := ws, s2g := dir == 1, seg := seg }]) ∧
    (nSt v = 2 → nKind v = 3 → let s1 := ({ s with free := s.free + 1 } : State).setNode wg i (putBits v 6 4 3)
      (∀ u o, s1.sigOp g i = (u, .ok o) → ∃ t o1, exec (.nodeStart wg i) s = .next t ∧ t = u.modMx wg (fun m =>
        { m with nodes := (i, o1) :: m.nodes.filter fun q => q.1 != i }) ∧ (o1 = o ∨ ∃ e, o1 = { o with early := e })) ∧
      (∀ u f, s1.sigOp g i = (u, .error f) → exec (.nodeStart wg i) s = .next (u.walk1 wg i (.fail 5 f.code.num f.addr))))) ∧
  (∀ (s : State) (wg i : Nat) (g : Wg), s.wg? wg = some g → i < s.nodeNN g → Memory.wf g.scr = true → nSt (s.node wg i) = 3 →
    (s.c.xfers.any fun x => x.wg == wg && x.node == some i) = false → (∀ t ∈ g.mx.tasks, t.node = some i → t.todo = [] ∧ t.running = 0) →
    let v := s.node wg i
    let ends := fun (t : State) => t.m = s.m ∧ t.l = s.l ∧ t.b = s.b ∧
      (∃ h, t.wg? wg = some h ∧ ∀ k ∈ h.mx.tasks, k ∈ g.mx.tasks ∧ k.node ≠ some i) ∧
      ∀ n, (s.thread n).wait = .node i → (s.wgOf n).map (·.key) = some wg → 1 ≤ nKind v → nKind v ≤ 4 → (t.thread n).wait = .none
    (nodeBad v = false → (∀ q ∈ g.mx.nodes, q.1 ≠ i) → s.succs wg i = [] → (s.chainTo wg 1024 i).2 = none → ∃ t, exec (.nodeComplete wg i) s = .next t ∧
      t.node wg i = putBits v 6 4 4 ∧ (∀ j, j ≠ i → t.node wg j = s.node wg j) ∧ ends t) ∧
    (∀ j, nodeBad v = false → (∀ q ∈ g.mx.nodes, q.1 ≠ i) → s.succs wg i = [j] → (s.chainTo wg 1024 i).2 = none → j ≠ i → j ∉ s.chain wg 1024 i →
      let w := s.node wg j
      nodeBad w = false → 1 ≤ nKind w → nKind w ≤ 3 → nSt w ≤ 1 → ∃ t, exec (.nodeComplete wg i) s = .next t ∧ t.node wg i = putBits v 6 4 4 ∧
        t.node wg j = (let x := putBits w 26 16 (nCnt w - 1)
          if nSt w = 1 ∧ nCnt w ≤ 1 then putBits x 6 4 2 else x) ∧ (∀ h, h ≠ i → h ≠ j → t.node wg h = s.node wg h) ∧ ends t) ∧
    (nodeBad v = true → nOvf v = none → (∀ k < 4, nSucc v k = none) → ∃ t, exec (.nodeComplete wg i) s = .next t ∧
      t.node wg i = nEnd v 5 1 0 ∧ (∀ j, j ≠ i → t.node wg j = s.node wg j) ∧ ends t) ∧
    (∀ q u f, nodeBad v = false → (g.mx.nodes.find? fun q => q.1 == i) = some q →
      ({ s with free := s.free + 1 }.modMx wg fun m => { m with
        tasks := m.tasks.filter (fun t => t.node != some i), nodes := m.nodes.filter fun q => q.1 != i }).sigRun g i q.2 = (u, f) →
      exec (.nodeComplete wg i) s = .next ((u.walk1 wg i (match f with | some f => .fail 5 f.code.num f.addr | none => .done)).wakeStream wg)))

/-- The instructions and the events of the dependence graph: both statements above. -/
def Obligations.DependenceGraph : Prop := GraphInstructions ∧ GraphEvents

/-! ## Decision queues -/

/-- R276 to R284: `dqpush` appends an entry, or waits on a full queue until DEFERRED_PUSH writes it; `dqpop` takes the entry at the thread's cursor and
`bdq` branches on it, and on an empty queue both wait, or raise DQEMPTY once the context has gone; `dqsync` waits for the empty queue. -/
def Obligations.DecisionQueues : Prop :=
  let quiet := fun (s : State) (g : Wg) (n : Nat) => ∃ u ∈ s.c.threads, u.tid ≠ n ∧ g.warpThread u.tid = true ∧ u.gone = false ∧ u.cur = 0
  let noPop := fun (s : State) (g : Wg) => ∀ u ∈ s.c.threads, g.warpThread u.tid = true → ∀ d o p, u.wait ≠ .dqEmpty d o p
  (∀ (x : S64A) (s : State) (n : Nat) (g : Wg), s.solo (.dqpush x) n = true → s.wgOf n = some g → g.warpThread n = false →
    (s.busy n = true → ∃ t, exec (.dqpush x) s = .next t ∧ s.OnlyResults t ∧ t.c.pend = s.c.pend ∧ (t.thread n).wait = .drain ∧
      (t.thread n).pc = (s.thread n).pc) ∧
    (s.busy n = false → s.dqFull g.dq = true → ∃ t, exec (.dqpush x) s = .next t ∧ (t.thread n).wait = .dqFull ∧ (t.thread n).pc = (s.thread n).pc ∧
      t.Becomes n (s.modWg g.key fun h => { h with dq := { h.dq with pend := some (s.opnd n x.a) } })) ∧
    (s.busy n = false → s.dqFull g.dq = false → quiet s g n → noPop s g → ∃ t, exec (.dqpush x) s = .next t ∧ s.Advances t (.dqpush x) ∧
      t.Becomes n (s.modWg g.key fun h => { h with dq := { h.dq with ents := h.dq.ents ++ [s.opnd n x.a], pushn := (h.dq.pushn + 1) % 2 ^ 32, pend := none } }))) ∧
  (∀ (x : S64A) (s : State) (n : Nat) (g : Wg), s.solo (.dqpop x) n = true → s.wgOf n = some g → g.warpThread n = true → (s.thread n).pc = s.cur.pc →
    (∀ v, g.dq.ents[(s.thread n).cur]? = some v → quiet s g n → ∃ t, exec (.dqpop x) s = .next t ∧ s.Advances t (.dqpop x) ∧
      s.Sends t (s.valuesAt [n] x.d fun _ => v) ∧ s.OnlyThread t n { s.thread n with cur := (s.thread n).cur + 1 }) ∧
    (g.dq.ents[(s.thread n).cur]? = none → s.retires g = 0 → (∀ u ∈ s.c.threads, u.wait ≠ .dqSync) →
      (g.dq.dqx = false → ∃ t, exec (.dqpop x) s = .next t ∧ s.OnlyResults t ∧ t.c.pend = s.c.pend ∧ (t.thread n).wait = .dqEmpty x.d none x.park ∧
        (t.thread n).pc = (s.thread n).pc) ∧
      (g.dq.dqx = true → ∃ t, exec (.dqpop x) s = .next t ∧ s.Raises t n { flt .dqempty with pc := (s.thread n).pc, resume := (s.thread n).pc }))) ∧
  (∀ (x : SBrA) (s : State) (n : Nat) (g : Wg), s.solo (.bdq x) n = true → s.wgOf n = some g → g.warpThread n = true →
    (∀ v, g.dq.ents[(s.thread n).cur]? = some v → quiet s g n → ∃ t, exec (.bdq x) s = .next t ∧ t.c.pend = s.c.pend ∧
      s.OnlyThread t n { s.thread n with cur := (s.thread n).cur + 1, loop := (t.thread n).loop } ∧ (t.thread n).wait = .none ∧
      (v ≠ 0 → (t.thread n).pc = (BitVec.ofInt 64 (s.cur.pc + 4 * x.off.toInt)).toNat) ∧
      (v = 0 → (s.thread n).loop.act = false → (t.thread n).pc = (s.thread n).pc + 8)) ∧
    (g.dq.ents[(s.thread n).cur]? = none → s.retires g = 0 → (∀ u ∈ s.c.threads, u.wait ≠ .dqSync) → g.dq.dqx = false → ∃ t,
      exec (.bdq x) s = .next t ∧ s.OnlyResults t ∧ t.c.pend = s.c.pend ∧ (t.thread n).wait = .dqEmpty (.imm 0) (some x.off) x.park ∧
      (t.thread n).pc = (s.thread n).pc)) ∧
  (∀ (x : S64A) (s : State) (n : Nat) (g : Wg), s.solo (.dqsync x) n = true → s.wgOf n = some g →
    (g.dq.ents = [] → ∃ t, exec (.dqsync x) s = .next t ∧ s.OnlyResults t ∧ t.c.pend = s.c.pend ∧ s.Advances t (.dqsync x)) ∧
    (g.dq.ents ≠ [] → ∃ t, exec (.dqsync x) s = .next t ∧ s.OnlyResults t ∧ t.c.pend = s.c.pend ∧ (t.thread n).wait = .dqSync ∧
      (t.thread n).pc = (s.thread n).pc)) ∧
  (∀ (s : State) (wg : Nat) (g : Wg) (v : Word), s.wg? wg = some g → g.dq.pend = some v → s.dqFull g.dq = false →
    (∃ u ∈ s.c.threads, g.warpThread u.tid = true ∧ u.gone = false ∧ u.cur = 0) → noPop s g → ∃ t, exec (.deferredPush wg) s = .next t ∧
    t = { s.modWg wg (fun h => { h with dq := { h.dq with ents := h.dq.ents ++ [v], pushn := (h.dq.pushn + 1) % 2 ^ 32, pend := none } }) with
          c := { (s.modWg wg fun h => { h with dq := { h.dq with ents := h.dq.ents ++ [v], pushn := (h.dq.pushn + 1) % 2 ^ 32, pend := none } }).c with
                 threads := t.c.threads } } ∧
    ∀ n, let held := (s.thread n).wait = .dqFull ∧ s.isContextOf wg n = true
      (¬ held → t.thread n = s.thread n) ∧ (held → t.thread n = (s.thread n).control (t.thread n) ∧ (t.thread n).wait = .none ∧
        ((s.thread n).loop.act = false → (t.thread n).pc = (s.thread n).pc + 8)))

/-! ## Fork tasks, joins, spawned regions -/

/-- R298 to R303: `fork` puts a task at the head of its core's deque, whose 64th entry then goes to a free place of the core's overflow area in memory; a core
with room starts the head of its deque, behind the dead entries there, in a warp of the task's lanes; `tjoin` goes on once its word is 0 and else waits for the
re-read; `spawn` hands a child to the launch engine and waits. -/
def Obligations.ForksJoinsAndSpawns : Prop :=
  (∀ (x : M128A) (s : State) (n : Nat), s.solo (.fork x) n = true →
    let c := (s.opnd n x.c).toNat
    let faults := fun (f : FaultInfo) => ∃ t, exec (.fork x) s = .next t ∧ s.Raises t n { f with pc := (s.thread n).pc, resume := (s.thread n).pc }
    let u := s.overflow (coreOf n)
    (s.busy n = true → ∃ t, exec (.fork x) s = .next t ∧ s.OnlyResults t ∧ t.c.pend = s.c.pend ∧ (t.thread n).wait = .drain ∧
      (t.thread n).pc = (s.thread n).pc) ∧
    (s.busy n = false → c % 8 ≠ 0 → faults (fltAt .misalign 2 0 c)) ∧
    (s.busy n = false → c % 8 = 0 → 2 ^ 57 ≤ c → faults (fltAt .page 2 0 (c % 2 ^ 57))) ∧
    (s.busy n = false → c % 8 = 0 → c < 2 ^ 57 → 64 + 65536 ≤ s.dequeLen (coreOf n) → faults (flt .stackovf)) ∧
    (s.busy n = false → c % 8 = 0 → c < 2 ^ 57 → s.dequeLen (coreOf n) < 64 + 65536 → ∃ t, exec (.fork x) s = .next t ∧
      s.Advances t (.fork x) ∧ t.Becomes n (u.setDeque (coreOf n)
        ({ region := (s.thread n).region, mask := BitVec.ofNat 32 (2 ^ laneOf n), jca := c, arg := s.opnd n x.b,
           pc := (BitVec.ofInt 57 (s.cur.pc + 4 * x.i32.toInt)).toNat } :: u.deque (coreOf n))))) ∧
  (∀ (s : State) (core : Nat), ((s.deque core).length < 64 → s.overflow core = s) ∧
    (∀ k, (s.deque core)[63]? = some k → (s.overPlaces core).length < 65536 → s.canonical = true → ∃ p < 65536, p ∉ s.overPlaces core ∧
      (s.overflow core).overPlaces core = p :: s.overPlaces core ∧ (s.overflow core).deque core = (s.deque core).take 63 ∧
      (s.overflow core).canonical = true ∧
      (let a0 := s.fld rTovf 51 29 * 2 ^ 29 + 2 ^ 21 * core + 32 * p
       (∀ a, (∀ i < 32, s.place a ≠ s.place (a0 + i)) → (s.overflow core).byteAt a = s.byteAt a) ∧
       ((∀ i < 32, ∃ q, s.place (a0 + i) = some (1, q)) → k.region < 2 ^ 32 → k.jca < 2 ^ 57 → k.pc < 2 ^ 57 →
         (s.overflow core).rdNat (a0 + 28) 4 = k.region ∧ (s.overflow core).rdNat (a0 + 24) 4 = k.mask.toNat ∧
         (s.overflow core).rdNat (a0 + 16) 8 = k.jca ∧ (s.overflow core).rdNat (a0 + 8) 8 = k.arg.toNat ∧ (s.overflow core).rdNat a0 8 = k.pc)))) ∧
  (∀ (s : State) (core wid : Nat) (k : ForkTask) (r : Region), s.mayTake core = true → s.taskAgain core = none → s.taskRoom core k = some (r, wid) →
    let starts := fun (t : State) =>
      (∀ c, c ≠ core → t.deque c = s.deque c ∧ t.overPlaces c = s.overPlaces c) ∧
      (∃ w, t.c.warps = s.c.warps ++ [w] ∧ w.wid = wid ∧ w.wg = none ∧ w.region = r.num ∧ w.lanes = k.mask ∧ w.jca = some k.jca ∧
        (8 ≤ r.wa → w.w[0]? = some (BitVec.ofNat 64 k.jca))) ∧
      (∀ j < 32, k.mask.getLsbD j = true → ∃ th ∈ t.c.threads, th.tid = 32 * wid + j ∧ th.pc = k.pc % 2 ^ 57 ∧ th.gone = false ∧ th.region = r.num ∧
        th.rseed = seedOf r.rsb (k.jca + j) ∧ (0 < r.va → isCtx th.tid = false → th.v[0]? = some k.arg)) ∧
      (∀ th ∈ s.c.threads, th ∈ t.c.threads) ∧ t.c.threads.length = s.c.threads.length + ((List.range 32).filter fun j => k.mask.getLsbD j).length
    (∀ dead rest, s.deque core = dead ++ k :: rest → (∀ d ∈ dead, s.region? d.region = none) → ∃ t, exec (.forkTaskStart core) s = .next t ∧
      t.deque core = rest ∧ t.overPlaces core = s.overPlaces core ∧ starts t) ∧
    (∀ p rest, s.deque core = [] → s.overPlaces core = p :: rest → k = ForkTask.ofBits (s.rdNat (s.overAddr core p) 32) → ∃ t,
      exec (.forkTaskStart core) s = .next t ∧ t.deque core = [] ∧ t.overPlaces core = rest ∧ starts t)) ∧
  (∀ (x : M128A) (s u : State) (n : Nat) (v : Option Nat), s.solo (.tjoin x) n = true → s.busy n = false → s.debugIdle → s.seated →
    let ea := (s.opnd n x.a + x.i32.signExtend 64).toNat
    (∃ p va xpa m at_ bs, s.plan { sp := .gv, n := 8, need := .ratom, al := 8 } n ea = .mem p va xpa m at_ bs) →
    s.joinRead n ea s.cur.pc = (u, .ok v) →
    (v ≠ some 0 → ∃ t, exec (.tjoin x) s = .next t ∧ t.c.pend = s.c.pend ∧ t.c.wgs = s.c.wgs ∧ t.c.warps = s.c.warps ∧ t.l = s.l ∧ t.m.mem = s.m.mem ∧
      (t.thread n).wait = .tjoin ea [n] ∧ (t.thread n).pc = (s.thread n).pc ∧ ∀ k, t.thread k = (s.thread k).control (t.thread k)) ∧
    (v = some 0 → ∃ t, exec (.tjoin x) s = .next t ∧ t.c.pend = s.c.pend ∧ t.c.wgs = s.c.wgs ∧ t.c.warps = s.c.warps ∧ t.l = s.l ∧
      t.m.mem = s.m.mem ∧ s.Advances t (.tjoin x) ∧ ∀ k, t.thread k = (s.thread k).control (t.thread k))) ∧
  (∀ (s u : State) (n va : Nat) (v : Option Nat), (s.thread n).wait = .tjoin va [n] → (∀ o ∈ s.m.ops, o.tid ≠ n) →
    s.joinRead n va (s.thread n).pc = (u, .ok v) →
    (v ≠ some 0 → exec (.tjoinReread n) s = .next u) ∧
    (v = some 0 → (s.thread n).loop.act = false → u.c.threads = s.c.threads → ∃ t, exec (.tjoinReread n) s = .next t ∧ (t.thread n).wait = .none ∧
      (t.thread n).pc = (s.thread n).pc + 16 ∧ ∀ k, t.thread k = (s.thread k).control (t.thread k) ∧ (k ≠ n → t.thread k = s.thread k))) ∧
  (∀ (x : M128A) (s s1 s2 : State) (n : Nat) (r : Region) (q p : Pte), s.solo (.spawn x) n = true → s.busy n = false → s.regionOf n = some r →
    let va := (s.opnd n x.a + x.i32.signExtend 64).toNat
    va % 256 = 0 → s.xlate (coreOf n) r va .rd = (s1, .ok q) → s1.xlate (coreOf n) r va .w = (s2, .ok p) →
    (s.l.regions.length < 4096 → ∃ t c, exec (.spawn x) s = .next t ∧ t.m.mem = (s2.devWrite (p.addr va + 136) 8 r.rcb).m.mem ∧
      t.l = { s.l with spawned := s.l.spawned ++ [c] } ∧ c.rcb = p.addr va ∧ c.parent = r.num ∧ c.pri ≤ r.pri ∧ c.tids = [n] ∧ c.dst = s.dest n x.d ∧
      (t.thread n).wait = .spawn ∧ ((s.thread n).loop.act = false → (t.thread n).pc = (s.thread n).pc + 16) ∧ t.c.pend = s.c.pend ∧
      t.c.wgs = s.c.wgs ∧ ∀ k, t.thread k = (s.thread k).control (t.thread k)) ∧
    (4096 ≤ s.l.regions.length → ∃ t, exec (.spawn x) s = .next t ∧ s.Advances t (.spawn x) ∧ t.l = s.l ∧ t.m.mem = s2.m.mem ∧
      s.Sends t (s.valuesAt [n] x.d fun _ => BitVec.allOnes 64)))

/-! ## Barriers -/

/-- R312 to R327: an arrival opens its barrier or joins it, an episode with K arrived warps completes and frees its waiting threads, `barw` waits for the
thread's own arrival and is an acquire where it does not wait, `barq` answers the snapshot, a fork task has no barrier, and a timeout is recorded once with its block. -/
def Obligations.BarriersCompleteTogether : Prop :=
  let arrives := fun (i : Instr) (n count : Nat) (waits : Bool) => ∀ (s : State) (m : Nat) (g : Wg), s.solo i m = true → s.wgOf m = some g →
    let key := g.key
    let k := s.barCount key n count
    let e1 : Episode := { n := n, k := k, cmis := false, oclk := s.clk, timer := 0, timedOut := false, op := (m, s.cur.pc), cop := some count,
                          arrs := [(m, s.clk, s.cur.pc, some count)] }
    let only := fun (t : State) (same : Bool) => t.m.mem = s.m.mem ∧ t.l = s.l ∧ t.b.regs = s.b.regs ∧ t.c.pend = s.c.pend ∧ t.c.warps = s.c.warps ∧
      ∀ j, t.thread j = { (s.thread j).control (t.thread j) with
        lastPc := (t.thread j).lastPc, lastClk := (t.thread j).lastClk, fences := if same then (s.thread j).fences else (t.thread j).fences }
    (s.busy m = true → ∃ t, exec i s = .next t ∧ only t true ∧ t.c.wgs = s.c.wgs ∧ (t.thread m).wait = .drain ∧ (t.thread m).pc = (s.thread m).pc) ∧
    (s.busy m = false → s.arrived key n m = true → ∃ t, exec i s = .next t ∧ only t true ∧ t.c.wgs = s.c.wgs ∧ t.c.clusters = s.c.clusters ∧
      (t.thread m).wait = .barAgain n ∧ (t.thread m).pc = (s.thread m).pc) ∧
    (s.busy m = false → s.episode key n = none → s.arrn key n e1 < k → (n = 16 → (s.clusOfWg key).isSome) → ∃ t, exec i s = .next t ∧
      only t true ∧ t.episode key n = some e1 ∧ (∀ q ≤ 16, q ≠ n → t.episode key q = s.episode key q) ∧
      (t.thread m).wait = (if waits then .bar n else .none) ∧ ((s.thread m).loop.act = false → (t.thread m).pc = (s.thread m).pc + 8)) ∧
    (∀ e, s.debugIdle → s.busy m = false → s.episode key n = some e → e.has m = false → e.n = n →
      let e2 := { e with arrs := e.arrs ++ [(m, s.clk, s.cur.pc, some count)], cmis := e.cmis || e.differs count k }
      (s.arrn key n e2 < e.k → ∃ t, exec i s = .next t ∧ only t true ∧ t.episode key n = some e2 ∧ (t.thread m).wait = (if waits then .bar n else .none)) ∧
      (e.k ≤ s.arrn key n e2 → 0 < e.k → (∀ a ∈ e2.arrs, widOf a.1 ∈ s.arrivedWarps key n e2) → ∃ t, exec i s = .next t ∧ only t false ∧ t.episode key n = none ∧
        (t.thread m).wait = .none ∧ ∀ a ∈ e.arrs, (s.thread a.1).wait = .bar n → (t.thread a.1).wait = .none ∧ (t.thread a.1).pc = (s.thread a.1).pc))
  let waitsFor := fun (i : Instr) (n : Nat) => ∀ (s : State) (m : Nat) (g : Wg), s.solo i m = true → s.wgOf m = some g →
    let ids := (s.m.ops.filter fun o => o.tid == m).map (·.id)
    (s.arrived g.key n m = true → ∃ t, exec i s = .next t ∧ s.OnlyResults t ∧ t.c.pend = s.c.pend ∧ (t.thread m).wait = .bar n ∧
      ((s.thread m).loop.act = false → (t.thread m).pc = (s.thread m).pc + 8)) ∧
    (s.arrived g.key n m = false → (s.thread m).fences = [] → ∃ t, exec i s = .next t ∧ s.Advances t i ∧ t.c.pend = s.c.pend ∧
      (ids = [] → s.KeepsStorage t) ∧
      (ids ≠ [] → s.OnlyThread t m { s.thread m with fences := [{ ids := ids, reads := true, acq := some (if n = 16 then .clus else .core) }] }))
  (∀ x : S64A, arrives (.bar x) x.i16.toNat x.a.num true ∧ arrives (.bara x) x.i16.toNat x.a.num false ∧ arrives (.barc x) 16 0 true ∧
    arrives (.barcArr x) 16 0 false ∧ waitsFor (.barw x) x.i16.toNat ∧ waitsFor (.barcWait x) 16) ∧
  (∀ (x : S64A) (s : State) (m : Nat), s.solo (.bar x) m = true → s.wgOf m = none → ∃ t, exec (.bar x) s = .next t ∧
    s.Raises t m { flt .perm with pc := (s.thread m).pc, resume := (s.thread m).pc }) ∧
  (∀ (x : S64A) (s : State) (m : Nat) (g : Wg), s.solo (.barq x) m = true → s.wgOf m = some g →
    let n := x.i16.toNat
    ∃ t, exec (.barq x) s = .next t ∧ s.OnlyResults t ∧ s.Advances t (.barq x) ∧
      (s.episode g.key n = none → s.Sends t (s.valuesAt [m] x.d fun _ => 0)) ∧
      ∀ e, s.episode g.key n = some e → s.Sends t (s.valuesAt [m] x.d fun _ => BitVec.ofNat 64 (s.arrn g.key n e % 256 + e.k % 256 * 2 ^ 8 +
        (if e.has m then 2 ^ 16 else 0) + (if e.cmis then 2 ^ 17 else 0) + 2 ^ 18))) ∧
  (∀ (s : State) (wg n : Nat) (e : Episode) (g : Wg) (r : Region), s.episode wg n = some e → s.wg? wg = some g → s.region? g.region = some r →
    (e.timer < 2 ^ r.bto ∨ e.timedOut = true → exec (.bartimeout wg n) s = .next s) ∧
    (2 ^ r.bto ≤ e.timer → e.timedOut = false → r.pol = 2 → r.state = 6 → (n = 16 → (s.clusOfWg wg).isSome) → e.n = n →
      let off := 2048 * (r.timeouts % 2)
      ∃ t, exec (.bartimeout wg n) s = .next t ∧ t.episode wg n = some { e with timedOut := true } ∧ t.c.threads = s.c.threads ∧
        t.l = { s.l with regions := s.l.regions.map fun q => if q.num = r.num then { q with timeouts := r.timeouts + 1, fwr := (r.fwr + 1) % 2 ^ 32 } else q } ∧
        t.m = (((s.devWrite (r.flta + off) 2048 (s.diagBlock (r.timeouts + 1) wg n e)).devWrite (r.flta + 4096 + 64 * (r.fwr % r.fltn)) 64
          (recordBits r.num (s.wgi e.op.1) e.op.1 false { code := .bartimeout, pc := e.op.2, resume := 0, aux := off, clk := s.clk })).devWrite
          (r.rcb + 108) 4 ((r.fwr + 1) % 2 ^ 32)).m))

/-! ## Matrix and signature instructions -/

/-- R332 to R352, R354, R372 to R380: each matrix or signature instruction of a context reads its descriptors and segments at issue, checks them, and joins
the workgroup's stream of at most 16; a check that fails is a precise fault. `mmap` sets a descriptor at once, `mtask` enqueues the task of a record,
`msync` waits until stream and tasks are empty. -/
def Obligations.MatrixAndSignatureIssue : Prop :=
  let joins := fun (i : Instr) (s u : State) (n : Nat) (g : Wg) (op : StreamOp) => g.mx.stream.length < 16 → ∃ t, exec i s = .next t ∧ s.Advances t i ∧
    t.Becomes n (u.modWg g.key fun h => { h with mx := { h.mx with stream := h.mx.stream ++ [op] } })
  let waits := fun (i : Instr) (s : State) (n : Nat) => ∃ t, exec i s = .next t ∧ s.OnlyResults t ∧ t.c.pend = s.c.pend ∧ (t.thread n).wait = .stream ∧
    (t.thread n).pc = (s.thread n).pc
  let faults := fun (i : Instr) (s : State) (n : Nat) (f : FaultInfo) => ∃ t, exec i s = .next t ∧
    s.Raises t n { f with pc := (s.thread n).pc, resume := (s.thread n).pc }
  let op := fun (s : State) (n k : Nat) (ts zs args segs : List Nat) =>
    ({ opBlank k with pc := (s.thread n).pc, t := ts, z := zs, args := args, segs := segs, after := (s.m.ops.filter fun a => a.tid == n).map (·.id) } : StreamOp)
  let tile := fun (g : Wg) (k : Nat) => (g.mx.t.getD k 0).toNat
  let seg := fun (g : Wg) (d : Nat) => (g.segs.getD (slice d 62 59) 0).toNat
  let full := fun (g : Wg) => 16 ≤ g.mx.stream.length
  (∀ (x : M128A) (s : State) (n : Nat) (g : Wg), s.solo (.mmap x) n = true → s.wgOf n = some g →
    let v := (s.opnd n x.a).toNat + 2 ^ 64 * (s.opnd n x.b).toNat
    let z := (s.opnd n x.a).toNat
    (∀ k, x.d = .t k → slice v 127 66 = 0 → slice v 63 63 = 0 → slice v 65 64 ≠ 3 → ∃ t, exec (.mmap x) s = .next t ∧ s.Advances t (.mmap x) ∧
      t.Becomes n (s.modWg g.key fun h => { h with mx := { h.mx with t := h.mx.t.set k.toNat (BitVec.ofNat 128 v) } })) ∧
    (∀ k, x.d = .t k → slice v 127 66 ≠ 0 ∨ slice v 63 63 ≠ 0 ∨ slice v 65 64 = 3 → faults (.mmap x) s n (flt .illegal)) ∧
    (∀ k, x.d = .z k → z < 2 ^ 36 → ∃ t, exec (.mmap x) s = .next t ∧ s.Advances t (.mmap x) ∧
      t.Becomes n (s.modWg g.key fun h => { h with mx := { h.mx with z := h.mx.z.set k.toNat (s.opnd n x.a) } })) ∧
    (∀ k, x.d = .z k → 2 ^ 36 ≤ z → faults (.mmap x) s n (flt .illegal))) ∧
  (∀ (x : V96A) (s : State) (n : Nat) (g : Wg), s.solo (.mldb x) n = true → s.wgOf n = some g →
    let d := tile g x.a.num
    let T := tileOf d
    let v := seg g d
    let ok := mxFmt (segFmt v) = true ∧ T.cols = 1024 / T.width ∧ T.rows % 16 = 0 ∧ tilePlaced T v = true
    (full g → waits (.mldb x) s n) ∧
    (tilePerm g.win T v = none → ok → joins (.mldb x) s s n g (op s n 0x181 [d] [] [] [v])) ∧
    (g.mx.stream.length < 16 → tilePerm g.win T v = none → ¬ ok → faults (.mldb x) s n (flt .matrix)) ∧
    (∀ f, g.mx.stream.length < 16 → tilePerm g.win T v = some f → faults (.mldb x) s n f)) ∧
  (∀ (x : S64A) (s : State) (n : Nat) (g : Wg), s.solo (.mswp x) n = true → s.wgOf n = some g →
    (full g → waits (.mswp x) s n) ∧ joins (.mswp x) s s n g (op s n 0x182 [] [] [] [])) ∧
  (∀ (x : V96A) (s : State) (n : Nat) (g : Wg), s.solo (.mmul x) n = true → s.wgOf n = some g →
    let d := tile g x.a.num
    let z := (g.mx.z.getD x.d.num 0).toNat
    let cols := if x.b.num % 64 = 0 then 1024 else 16 * (x.b.num % 64)
    let rows := 32 * 2 ^ (x.opx.toNat % 4)
    let chk := s.mmulCheck g d (seg g d) z cols rows (x.opx.getLsbD 2) (x.opx.getLsbD 3) (activeOf g.mx.ahead) g.mx.sgcAhead
    (full g → waits (.mmul x) s n) ∧
    (chk = none → joins (.mmul x) s s n g { op s n 0x183 [d] [z] [cols, rows, bit (x.opx.getLsbD 2), bit (x.opx.getLsbD 3)] [seg g d] with
      satf := x.sat == .satf }) ∧
    (∀ f, g.mx.stream.length < 16 → chk = some f → f.deferred = false → f.code ≠ .trap → f.code ≠ .brk → faults (.mmul x) s n f)) ∧
  (∀ (x : S64A) (s : State) (n : Nat) (g : Wg), s.solo (.mzero x) n = true → s.wgOf n = some g →
    let z := (g.mx.z.getD x.d.num 0).toNat
    let fits := zFirst z + zRows z * zCols z ≤ s.accSize g
    (full g → waits (.mzero x) s n) ∧ (fits → joins (.mzero x) s s n g (op s n 0x184 [] [z] [] [])) ∧
    (g.mx.stream.length < 16 → ¬ fits → faults (.mzero x) s n (flt .matrix))) ∧
  (∀ (x : V96A) (s : State) (n : Nat) (g : Wg), s.solo (.mrd x) n = true → s.wgOf n = some g →
    let z := (g.mx.z.getD x.a.num 0).toNat
    let d := tile g x.d.num
    let base := (s.opnd n x.d).toNat
    let str := s.opnd n x.c
    let draw := fun (u : State) => (u.takeDraws n x.rm (zRows z * zCols z)).1
    let fin := fun (o : StreamOp) (args : List Nat) (bits : Nat) =>
      { o with z := [z], args := args ++ [bit (x.opx.getLsbD 1), (s.thread n).rseed.toNat, bits], rm := x.rm, satf := x.sat == .satf }
    (full g → waits (.mrd x) s n) ∧
    (x.opx.getLsbD 0 = false → s.mrdCheck g d (seg g d) z = none → joins (.mrd x) s (draw s) n g
      (fin (op s n 0x185 [d] [] [] [seg g d]) [0, 0, 0] (fmtBits (segFmt (seg g d))))) ∧
    (∀ f, g.mx.stream.length < 16 → x.opx.getLsbD 0 = false → s.mrdCheck g d (seg g d) z = some f → faults (.mrd x) s n f) ∧
    (∀ (r : Region) (u : State) (bits : Nat), x.opx.getLsbD 0 = true → s.regionOf n = some r → s.mrdGvCheck g r z base str.toInt = (u, .ok bits) →
      joins (.mrd x) s (draw u) n g (fin (op s n 0x185 [] [] [] []) [1, base, str.toNat] bits))) ∧
  (∀ (x : M128A) (s : State) (n : Nat) (g : Wg) (nd : Option Nat) (off : Nat), s.solo (.mtask x) n = true → s.wgOf n = some g →
    let a := (s.opnd n x.a).toNat
    let v := fun (i : Nat) => s.node g.key i
    let ws := (List.range 8).map fun k => BitVec.ofNat 64 (memNat g.scr (off + 8 * k) 8)
    let zacc := match s.region? g.region with | some r => r.zacc | none => 0
    let named := (x.opx ≠ 1 ∧ nd = none ∧ off = a % 2 ^ 19) ∨ (x.opx = 1 ∧ nd = some (a % 1024) ∧ a % 1024 < s.nodeNN g ∧ nodeBad (v (a % 1024)) = false ∧
      nKind (v (a % 1024)) = 2 ∧ nSt (v (a % 1024)) < 4 ∧ (∀ k ∈ g.mx.tasks, k.node ≠ nd) ∧ off = nPay (v (a % 1024)) % 2 ^ 19)
    let room := (g.mx.tasks.filter fun k => !k.ended).length < 16
    (s.busy n = true → ∃ t, exec (.mtask x) s = .next t ∧ s.OnlyResults t ∧ t.c.pend = s.c.pend ∧ (t.thread n).wait = .drain) ∧
    (s.busy n = false → ¬ room → ∃ t, exec (.mtask x) s = .next t ∧ s.OnlyResults t ∧ t.c.pend = s.c.pend ∧ (t.thread n).wait = .tasks ∧
      (t.thread n).pc = (s.thread n).pc) ∧
    (s.busy n = false → room → named → g.win < off + 64 → faults (.mtask x) s n (fltAt .perm 8 0 (max off g.win))) ∧
    (s.busy n = false → room → named → off + 64 ≤ g.win → off % 64 ≠ 0 → faults (.mtask x) s n (fltAt .misalign 8 0 off)) ∧
    (s.busy n = false → room → named → off + 64 ≤ g.win → off % 64 = 0 → s.debugIdle → s.seated → recOk ws zacc = true → ∃ t,
      exec (.mtask x) s = .next t ∧ s.Advances t (.mtask x) ∧
      t.Becomes n (s.newId.modWg g.key fun h => { h with mx := { h.mx with tasks := h.mx.tasks ++
        [{ id := s.m.nextId, off := off, node := nd, record := ws, todo := List.range ((slice (recWord ws 6) 9 0 + 64) / 64), running := 0, fault := none,
           pc := (s.thread n).pc, seed := (s.thread n).rseed, sgc := g.mx.sgcAhead }] } }))) ∧
  (∀ (x : S64A) (s : State) (n : Nat) (g : Wg), s.solo (.msync x) n = true → s.wgOf n = some g → (∀ h ∈ s.c.wgs, h.key = g.key → h = g) →
    (g.mx.stream = [] → g.mx.tasks = [] → (∀ u ∈ s.c.threads, u.wait ≠ .stream ∧ u.wait ≠ .tasks ∧ u.wait ≠ .msync) → ∃ t, exec (.msync x) s = .next t ∧
      s.OnlyResults t ∧ t.c.pend = s.c.pend ∧ s.Advances t (.msync x)) ∧
    (g.mx.stream ≠ [] → g.mx.tasks = [] → (∀ u ∈ s.c.threads, u.wait ≠ .stream ∧ u.wait ≠ .tasks ∧ u.wait ≠ .msync) → ∃ t, exec (.msync x) s = .next t ∧
      s.OnlyResults t ∧ t.c.pend = s.c.pend ∧ (t.thread n).wait = .msync ∧ (t.thread n).pc = (s.thread n).pc)) ∧
  (∀ (x : M128A) (s : State) (n : Nat) (g : Wg), s.solo (.sgcfg x) n = true → s.wgOf n = some g →
    let v := (s.opnd n x.a).toNat + 2 ^ 64 * (s.opnd n x.b).toNat
    let ok := slice v 127 80 = 0 ∧ slice v 63 47 = 0 ∧ slice v 37 37 = 0 ∧ slice v 36 32 ≤ 24 ∧ slice v 46 45 ≠ 3
    (full g → waits (.sgcfg x) s n) ∧ (ok → joins (.sgcfg x) s s n g (op s n 0x190 [] [] [v] [])) ∧
    (g.mx.stream.length < 16 → ¬ ok → faults (.sgcfg x) s n (flt .illegal))) ∧
  (∀ (x : M128A) (s : State) (n : Nat) (g : Wg), s.solo (.sgmap x) n = true → s.wgOf n = some g →
    let d := tile g x.a.num
    let T := tileOf d
    let fits := sgMap g.mx.sgcAhead + 2 * T.rows ≤ g.win
    let ok := T.rows ≤ 128 ∧ mxFmt (segFmt (seg g d)) = true ∧ tilePlaced T (seg g d) = true
    (full g → waits (.sgmap x) s n) ∧
    (tilePerm g.win T (seg g d) = none → fits → ok → joins (.sgmap x) s s n g (op s n 0x191 [d] [] [] [seg g d])) ∧
    (g.mx.stream.length < 16 → tilePerm g.win T (seg g d) = none → fits → ¬ ok → faults (.sgmap x) s n (flt .matrix))) ∧
  (let moves := fun (mk : M128A → Instr) (k : Nat) => ∀ (x : M128A) (s : State) (n : Nat) (g : Wg), s.solo (mk x) n = true → s.wgOf n = some g →
      let dd := tile g x.d.num
      let da := tile g x.a.num
      (full g → waits (mk x) s n) ∧
      (sgMoveCheck g dd da (seg g dd) (seg g da) g.mx.sgcAhead = none → joins (mk x) s s n g (op s n k [dd, da] [] [] [seg g dd, seg g da]))
   moves .sgsct 0x192 ∧ moves .sggth 0x193) ∧
  (∀ (x : S64A) (s : State) (n : Nat) (g : Wg), s.solo (.sgstat x) n = true → s.wgOf n = some g →
    (full g → waits (.sgstat x) s n) ∧
    (g.mx.stream.length < 16 → ∃ t ps, exec (.sgstat x) s = .next t ∧ s.Advances t (.sgstat x) ∧ t.c.pend = s.c.pend ++ ps ∧
      (∀ p ∈ ps, p.val = none ∧ p.op = s.m.nextId) ∧ ps.map (·.dst) = (s.targets [n] x.d).map (·.2.1) ∧
      t.c.wgs = (s.modWg g.key fun h => { h with mx := { h.mx with stream := h.mx.stream ++
        [op s n 0x194 [] [] [s.m.nextId, x.i16.toNat % 2] []] } }).c.wgs ∧ t.m = { s.m with nextId := s.m.nextId + 1 }))

/-- A list of rows holds, element by element, what one of some readings of the same rows holds; its shape is that of the first reading. -/
def Sys2Proof.Machine.Picked (ims : List (List (List (Nat × Nat)))) (l : List (List (Nat × Nat))) : Prop :=
  l.map List.length = (ims.headD []).map List.length ∧
  ∀ (i j : Nat) (x : Nat × Nat), ((l[i]?).bind fun (r : List (Nat × Nat)) => r[j]?) = some x →
    ∃ im ∈ ims, ((im[i]?).bind fun (r : List (Nat × Nat)) => r[j]?) = some x

/-- R341 to R351, R371, R376, R380: the oldest stream instruction is performed, once the context's accesses before it are, and leaves the stream; or, once, it
first reads its rows or writes some of them (R342) and stays. `mldb` loads the inactive macro, `mswp` exchanges the macros, `mzero` clears its entries, `mmul` accumulates each
entry from its rows and columns, `mrd` writes its entries as a tile, `sgcfg`, `sgmap` and `sgstat` act on the signature registers and the map. -/
def Sys2Proof.Machine.StreamsArePerformed : Prop :=
  (∀ (s : State) (wg : Nat) (g : Wg) (o : StreamOp) (rest : List StreamOp), s.wg? wg = some g → g.mx.stream = o :: rest →
    (∃ a ∈ s.m.ops, a.id ∈ o.after) → exec (.matrixStreamComplete wg) s = .next s) ∧
  (∀ (s : State) (wg : Nat) (g : Wg) (o : StreamOp) (rest : List StreamOp), s.wg? wg = some g → g.mx.stream = o :: rest → s.debugIdle → s.seated →
    (∀ a ∈ s.m.ops, a.id ∉ o.after) → o.op ∈ [0x181, 0x182, 0x183, 0x184, 0x185, 0x190, 0x191, 0x194] → (o.op = 0x185 → o.args.getD 0 0 = 0) →
    ∃ t, exec (.matrixStreamComplete wg) s = .next t ∧ t.m = s.m ∧ t.l = s.l ∧ t.b.regs = s.b.regs ∧
      ((o.early = [] ∧ o.done = [] ∧ ∃ e ds scr,
          t.wg? wg = some { g with scr := scr, mx := { g.mx with stream := { o with early := e, done := ds } :: rest } } ∧ t.c.pend = s.c.pend ∧
          (o.op ≠ 0x185 → scr = g.scr ∧ ds = []) ∧
          (o.op = 0x185 → segGeo (o.segs.headD 0) = 0 → Memory.wf g.scr = true → ∀ a,
            (∀ i < zRows (o.z.headD 0), let T := tileOf (o.t.headD 0)
              a < T.base + i * T.str ∨ T.base + i * T.str + T.rowBytes (segFmt (o.segs.headD 0)) ≤ a) → memGet scr a = memGet g.scr a)) ∨
       ∃ h, t.wg? wg = some h ∧
      let src : Src := ⟨g.ctx, o.pc, 2⟩
      let z := o.z.headD 0
      let d := o.t.headD 0
      let v := o.segs.headD 0
      let T := tileOf d
      let now := fun (t : Tile) (v n : Nat) => (s.tileRows g.key src t v n).2
      let same := h.mx.t = g.mx.t ∧ h.mx.z = g.mx.z ∧ h.mx.stream = rest ∧ h.segs = g.segs ∧ h.dq = g.dq
      let sig := h.mx.sgCfg0 = g.mx.sgCfg0 ∧ h.mx.sgCfg1 = g.mx.sgCfg1 ∧ h.mx.sgs = g.mx.sgs
      let macs := h.mx.mac0 = g.mx.mac0 ∧ h.mx.mac1 = g.mx.mac1 ∧ h.mx.active = g.mx.active
      same ∧
      (o.op = 0x181 → sig ∧ h.mx.acc = g.mx.acc ∧ h.mx.active = g.mx.active ∧ h.scr = g.scr ∧ ∃ cols, Picked [now T v T.rows, o.early] cols ∧
        (o.early = [] → segGeo v = 0 → cols = (List.range T.rows).map fun r =>
          (codesOf (segFmt v) T.cols (memNat g.scr (T.base + r * T.str) (T.rowBytes (segFmt v)))).map fun c => (c, 0)) ∧
        let m : Macro := { valid := true, desc := d, seg := v, cols := cols, more := [] }
        if g.mx.active then h.mx.mac0 = m ∧ h.mx.mac1 = g.mx.mac1 else h.mx.mac1 = m ∧ h.mx.mac0 = g.mx.mac0) ∧
      (o.op = 0x182 → sig ∧ h.mx.mac0 = g.mx.mac0 ∧ h.mx.mac1 = g.mx.mac1 ∧ h.mx.acc = g.mx.acc ∧ h.mx.active = !g.mx.active ∧ h.scr = g.scr) ∧
      (o.op = 0x183 → o.args.getD 3 0 = 0 → g.mx.acc.Pairwise (fun a b => a.1 < b.1) → sig ∧ h.mx.active = g.mx.active ∧ h.scr = g.scr ∧
        let held := if g.mx.active then g.mx.mac1 else g.mx.mac0
        let again := now (tileOf held.desc) held.seg (tileOf held.desc).rows
        (∃ more, (more = held.more ∨ more = held.more ++ [again]) ∧
          if g.mx.active then h.mx.mac1 = { held with more := more } ∧ h.mx.mac0 = g.mx.mac0
          else h.mx.mac0 = { held with more := more } ∧ h.mx.mac1 = g.mx.mac1) ∧
        ∃ rows cols, Picked [now T v (o.args.getD 1 0), o.early] rows ∧ Picked (held.cols :: held.more ++ [again]) cols ∧
          let wb := (tileOf held.desc).width
          let wa := if o.args.getD 2 0 = 1 then wb / 2 else wb
          let int := mxInt (segFmt v) (segGeo v) && mxInt (segFmt held.seg) (segGeo held.seg)
          let al := fun (f w : Nat) (l : List (Nat × Nat)) => alignRow (segFmt f) (segGeo f) w int l
          (∀ i < o.args.getD 1 0, ∀ j < o.args.getD 0 0, accGet h.mx.acc (zFirst z + i * o.args.getD 0 0 + j) =
            mxGroup int o.satf wa wb (min (alignLen (segGeo v)) (alignLen (segGeo held.seg))) (accGet g.mx.acc (zFirst z + i * o.args.getD 0 0 + j))
              ((rows.map (al v wa)).getD i []) ((cols.map (al held.seg wb)).getD j [])) ∧
          ∀ e, e < zFirst z ∨ zFirst z + o.args.getD 1 0 * o.args.getD 0 0 ≤ e → accGet h.mx.acc e = accGet g.mx.acc e) ∧
      (o.op = 0x184 → g.mx.acc.Pairwise (fun a b => a.1 < b.1) → sig ∧ macs ∧ h.scr = g.scr ∧
        ∀ e, accGet h.mx.acc e = if zFirst z ≤ e ∧ e < zFirst z + zRows z * zCols z then 0 else accGet g.mx.acc e) ∧
      (o.op = 0x185 → sig ∧ macs ∧ h.mx.acc = g.mx.acc ∧ (o.done = [] → segGeo v = 0 → Memory.wf g.scr = true → T.rowBytes (segFmt v) ≤ T.str →
        let ds := (draws (zRows z * zCols z) (BitVec.ofNat 64 (o.args.getD 4 0))).2
        (∀ i < zRows z, memNat h.scr (T.base + i * T.str) (T.rowBytes (segFmt v)) = ((List.range T.cols).foldl (fun n j =>
          n + mrdCode (segFmt v) o.rm o.satf (ds.getD (i * T.cols + j) 0) none (entryVal (o.args.getD 3 0 == 1)
            (accGet g.mx.acc (zFirst z + i * T.cols + j))) * 2 ^ (fmtBits (segFmt v) * j)) 0) % 256 ^ T.rowBytes (segFmt v)) ∧
        ∀ a, (∀ i < zRows z, a < T.base + i * T.str ∨ T.base + i * T.str + T.rowBytes (segFmt v) ≤ a) → memGet h.scr a = memGet g.scr a)) ∧
      (o.op = 0x190 → macs ∧ h.mx.acc = g.mx.acc ∧ h.mx.sgs = g.mx.sgs ∧ h.scr = g.scr ∧
        h.mx.sgCfg0 = BitVec.ofNat 64 (o.args.headD 0) ∧ h.mx.sgCfg1 = BitVec.ofNat 64 (o.args.headD 0 / 2 ^ 64)) ∧
      (o.op = 0x191 → macs ∧ h.mx.acc = g.mx.acc ∧ h.mx.sgCfg0 = g.mx.sgCfg0 ∧ h.mx.sgCfg1 = g.mx.sgCfg1 ∧
        (sgB g.mx.sgc = 0 → Memory.wf g.scr = true → h.mx.sgs = sgsAfter g.mx.sgs T.rows T.rows false ∧
          (∀ i < T.rows, memNat h.scr (sgMap g.mx.sgc + 2 * i) 2 = mapEntry true i i % 2 ^ 16) ∧
          ∀ a, a < sgMap g.mx.sgc ∨ sgMap g.mx.sgc + 2 * T.rows ≤ a → memGet h.scr a = memGet g.scr a)) ∧
      (o.op = 0x194 → macs ∧ h.mx.acc = g.mx.acc ∧ h.scr = g.scr ∧ h.mx.sgCfg0 = g.mx.sgCfg0 ∧ h.mx.sgCfg1 = g.mx.sgCfg1 ∧
        t.c.pend = s.c.pend.map (fun p => if p.op = o.args.headD 0 then { p with val := some g.mx.sgs } else p) ∧
        h.mx.sgs = if o.args.getD 1 0 = 1 then 0 else g.mx.sgs)))

/-- R355 to R359: a free engine of the cluster takes the oldest ready task's next subtask; a running subtask does one step after the other, a slice of windows
without a fault; its last step counts it off its task, a fault ends its task's other subtasks or kills the cluster. -/
def Sys2Proof.Machine.SubtasksRun : Prop :=
  (∀ (s : State) (clid : Nat) (c : Clus), (s.c.clusters.find? fun c => c.id == clid) = some c →
    let live := c.members.filterMap s.wg?
    let ready := fun (g : Wg) (t : Task) => g ∈ live ∧ t ∈ g.mx.tasks ∧ s.taskReady g.key t = true
    let idle := fun (g : Wg) => g ∈ live ∧ ∀ q ∈ s.c.subtasks, q.core ≠ g.core
    (∃ g t, ready g t) → (∃ g, idle g) → ∃ t g k x, exec (.subtaskDispatch clid) s = .next t ∧ ready g k ∧ idle x ∧ (∀ g' k', ready g' k' → k.id ≤ k'.id) ∧
      t.c.subtasks = s.c.subtasks ++ [Subtask.start g.key k.id (k.todo.headD 0) x.core] ∧ t.m = s.m ∧ t.l = s.l ∧ t.b = s.b ∧
      t.c.threads = s.c.threads ∧ t.c.pend = s.c.pend) ∧
  (∀ (s u : State) (n : Nat) (q : Subtask) (g x : Wg) (c : Clus) (r : Region) (k : Task), s.c.subtasks[n]? = some q →
    s.wg? q.wg = some g → s.clusOfWg q.wg = some c → (g.mx.tasks.find? fun t => t.id == q.task) = some k → s.region? g.region = some r →
    ((c.members.filterMap s.wg?).find? fun x => x.core == q.core) = some x →
    let s0 : State := { s with free := s.free + 1 }
    let out : State := { u with c := { u.c with subtasks := u.c.subtasks.eraseIdx n } }
    let off := fun (f : Task → Task) => ((out.modTask q.wg q.task f).taskEnd q.wg q.task).wakeStream q.wg
    (∀ q1, s0.subtaskStep g x c r k q = (u, .ok (some q1)) → exec (.subtaskComplete n) s =
      .next { u with c := { u.c with subtasks := u.c.subtasks.set n q1 } }) ∧
    (s0.subtaskStep g x c r k q = (u, .ok none) → exec (.subtaskComplete n) s = .next (off fun t => { t with running := t.running - 1 })) ∧
    (∀ f, s0.subtaskStep g x c r k q = (u, .error f) → f.kill = false → exec (.subtaskComplete n) s =
      .next (off fun t => { t with todo := [], running := t.running - 1, fault := t.fault.orElse fun _ => some f })) ∧
    (∀ f, s0.subtaskStep g x c r k q = (u, .error f) → f.kill = true → exec (.subtaskComplete n) s = .next (out.killCluster q.wg k.pc f))) ∧
  (∀ (s : State) (n : Nat) (q : Subtask) (g x : Wg) (c : Clus) (r : Region) (k : Task), s.c.subtasks[n]? = some q →
    s.wg? q.wg = some g → s.clusOfWg q.wg = some c → (g.mx.tasks.find? fun t => t.id == q.task) = some k → s.region? g.region = some r →
    ((c.members.filterMap s.wg?).find? fun x => x.core == q.core) = some x → s.debugIdle → s.seated →
    (∀ i ∈ [0, 2, 4], (recWord k.record i).testBit 63 = false ∧ (s.clwOf c (recWord k.record i)).isSome) → 1 ≤ q.step → q.step ≤ (taskRec k.record).ks →
    ∃ t q1, exec (.subtaskComplete n) s = .next t ∧ t.c.subtasks = s.c.subtasks.set n q1 ∧ q1.wg = q.wg ∧ q1.task = q.task ∧ q1.p = q.p ∧ q1.core = q.core ∧
      (q1.step = q.step + 1 ∨ (q.earlyA = [] ∧ q1.step = q.step)) ∧ t.m = s.m ∧ t.l = s.l ∧ t.b.regs = s.b.regs ∧ t.c.threads = s.c.threads)

/-- The stream and the tile tasks: both statements above. -/
def Obligations.StreamsAndTasksArePerformed : Prop := StreamsArePerformed ∧ SubtasksRun

/-! ## Expansion -/

/-- R385 to R398: `xbeg` gathers a pair of each thread and, with the last, answers prefix and total; `xdeal` takes an iteration of the dealt order and
submits it at the next; `xred` adds to the open contribution; a fold adds the contributions of each owner; `xend` answers the owner's sum once all
have ended, and while a resumed thread has still to execute its own again it waits (log entry 107); `xst` reports. -/
def Obligations.ExpansionsDealAndFold : Prop :=
  let only := fun (s t : State) => t.m = s.m ∧ t.l = s.l ∧ t.b.regs = s.b.regs ∧ t.c.warps = s.c.warps ∧
    ∀ k, t.thread k = (s.thread k).control (t.thread k)
  let faults := fun (i : Instr) (s : State) (n : Nat) => ∃ t, exec i s = .next t ∧
    s.Raises t n { flt .expand with pc := (s.thread n).pc, resume := (s.thread n).pc }
  let gets := fun (t : State) (n : Nat) (r : Option RegRef) (w : Word) => ∀ d, r = some d → ∃ p ∈ t.c.pend, p.dst = d ∧ p.val = some w ∧ p.owners = [n]
  (∀ (x : V96A) (s : State) (n : Nat) (g : Wg), s.solo (.xbeg x) n = true → s.wgOf n = some g →
    let nc := x.opx.toNat % 4
    let base := s.partRank n / 2 ^ nc * 2 ^ nc
    let exists_ := base + 2 ^ nc ≤ warpsIn g.warps.length (partOf n)
    let y := (s.expandOf n).getD { part := partOf n, dealing := false, nc := nc, base := base, ty := x.ty.code, fold := 0,
                                   lanes := List.replicate (32 * 2 ^ nc) XLane.none }
    let gl := 32 * (s.partRank n - base) + laneOf n
    let z := y.modLane gl fun l => if l.arr then l else { l with start := s.opnd n x.a, len := (s.opnd n x.b).setWidth 32, arr := true }
    let match_ := y.dealing = false ∧ y.nc = nc ∧ y.base = base ∧ y.ty = x.ty.code
    (¬ exists_ ∨ ¬ match_ → faults (.xbeg x) s n) ∧
    (exists_ → match_ → (∃ q ∈ s.xLive g z, (z.lane q.1).arr = false) → ∃ t, exec (.xbeg x) s = .next t ∧
      t.Becomes n (s.setExpand g.key (partOf n) (some z)) ∧ (t.thread n).wait = .xbeg x.d x.park ∧ (t.thread n).pc = (s.thread n).pc) ∧
    (exists_ → match_ → y.part = partOf n → y.lanes.length = 32 * 2 ^ nc → (gl, n) ∈ s.xLive g z → ((s.xLive g z).map (·.2)).Nodup →
      (∀ q ∈ s.xLive g z, (z.lane q.1).arr = true) →
      let len := fun (k : Nat) => if (s.xLive g z).any fun q => q.1 == k then (z.lane k).len.toNat else 0
      let total := ((List.range (32 * 2 ^ nc)).map len).sum
      total < 2 ^ 32 → ∃ t y', exec (.xbeg x) s = .next t ∧ only s t ∧ t.expandOf n = some y' ∧ y'.dealing = true ∧ y'.fold = 0 ∧ y'.total = total ∧
        gets t n (s.dest n x.d) (BitVec.ofNat 64 (((List.range gl).map len).sum + total * 2 ^ 32)) ∧
        (t.thread n).wait = .none ∧ ((s.thread n).loop.act = false → (t.thread n).pc = (s.thread n).pc + 12) ∧
        ∀ q ∈ s.xLive g z, ∀ d p, (s.thread q.2).wait = .xbeg d p → (t.thread q.2).wait = .none)) ∧
  (∀ (x : V96A) (s : State) (n : Nat) (g : Wg) (y : Expand) (gl : Nat), s.solo (.xdeal x) n = true → s.xPart n false = some (g, y, gl) →
    let f := y.fold * y.width + gl
    let z := y.modLane gl XLane.submit
    let r := match y.owner f with | some (o, off) => (off, f * 2 ^ 32 + o, 1) | none => (0, 0, 0)
    ((y.lane gl).taken = false → ∃ t, exec (.xdeal x) s = .next t ∧ only s t ∧ s.Advances t (.xdeal x) ∧
      s.Sends t (s.valuesAt [n] x.d (fun _ => BitVec.ofNat 64 r.1) ++ s.valuesAt [n] x.c (fun _ => BitVec.ofNat 64 r.2.1) ++
        s.valuesAt [n] x.e fun _ => BitVec.ofNat 64 r.2.2) ∧
      t.c.wgs = (s.setExpand g.key y.part (some (y.modLane gl fun l => { l with taken := true, sub := false, c := xId y.ty }))).c.wgs) ∧
    ((y.lane gl).taken = true → y.part = partOf n → (∃ q ∈ s.xLive g z, (z.lane q.1).sub = false ∧ (z.lane q.1).done = false) → ∃ t,
      exec (.xdeal x) s = .next t ∧ t.Becomes n (s.setExpand g.key y.part (some z)) ∧ (t.thread n).wait = .xdeal x.d x.c x.e x.park ∧
      (t.thread n).pc = (s.thread n).pc) ∧
    ((y.lane gl).taken = true → y.part = partOf n → y.lanes.length = y.width → (gl, n) ∈ s.xLive g z → gl < y.width →
      (∀ q ∈ s.xLive g z, (z.lane q.1).sub = true ∨ (z.lane q.1).done = true) → ∃ t y', exec (.xdeal x) s = .next t ∧ only s t ∧
      t.expandOf n = some y' ∧ y'.fold = y.fold + 1 ∧ (t.thread n).wait = .none ∧
      ((s.thread n).loop.act = false → (t.thread n).pc = (s.thread n).pc + 12) ∧
      (y.ty ≠ 11 → ∀ o < y.width, (y'.lane o).sum.toNat = ((y.lane o).sum.toNat + ((List.range y.width).map fun k =>
        if (z.lane k).sub && (y.owner (y.fold * y.width + k)).map (·.1) == some o then (z.lane k).c.toNat else 0).sum) % 2 ^ 32))) ∧
  (∀ (x : V96A) (s : State) (n : Nat) (g : Wg) (y : Expand) (gl : Nat), s.solo (.xred x) n = true → s.xPart n false = some (g, y, gl) →
    let ok := y.ty = x.ty.code ∧ (y.fold ≠ 0 ∨ (y.lane gl).taken = true)
    (ok → ∃ t, exec (.xred x) s = .next t ∧ s.Advances t (.xred x) ∧ t.Becomes n (s.setExpand g.key y.part (some (y.modLane gl fun l =>
      { l with c := BitVec.ofNat 32 (xOp y.ty l.c.toNat (srcEl x.ty x.a (s.opnd n x.a) 0)) })))) ∧
    (¬ ok → faults (.xred x) s n)) ∧
  (∀ (x : V96A) (s : State) (n : Nat) (g : Wg) (y : Expand) (gl : Nat), s.solo (.xend x) n = true → s.xPart n (s.thread n).replay = some (g, y, gl) →
    y.part = partOf n →
    let z := y.modLane gl fun l => { l.submit with done := true }
    ((∃ q ∈ s.xLive g z, (z.lane q.1).sub = false ∧ (z.lane q.1).done = false) → ∃ t, exec (.xend x) s = .next t ∧
      t.Becomes n (s.setExpand g.key y.part (some z)) ∧ (t.thread n).wait = .xend x.d x.park ∧ (t.thread n).pc = (s.thread n).pc) ∧
    ((∃ q ∈ s.xLive g z, q.2 ≠ n ∧ (s.thread q.2).replay = true ∧ (s.thread q.2).wait = .none) →
      (∀ q ∈ s.xLive g z, ∀ d c e p, (s.thread q.2).wait ≠ .xdeal d c e p) → ∃ t, exec (.xend x) s = .next t ∧ (t.thread n).wait = .xend x.d x.park ∧
      (t.thread n).pc = (s.thread n).pc ∧ (t.expandOf n).isSome) ∧
    ((gl, n) ∈ s.xLive g z → gl < y.lanes.length → ((s.xLive g z).map (·.2)).Nodup →
      (∀ q ∈ s.xLive g z, (z.lane q.1).done = true ∧ ∀ d c e p, (s.thread q.2).wait ≠ .xdeal d c e p) →
      (∀ q ∈ s.xLive g z, q.2 ≠ n → (s.thread q.2).replay = false ∨ (s.thread q.2).wait ≠ .none) → ∃ t,
      exec (.xend x) s = .next t ∧ only s t ∧ t.expandOf n = none ∧ (t.thread n).wait = .none ∧
      gets t n (s.dest n x.d) (BitVec.ofNat 64 ((if z.lanes.any (·.sub) then z.folded else z).lane gl).sum.toNat) ∧
      ((s.thread n).loop.act = false → (t.thread n).pc = (s.thread n).pc + 12))) ∧
  (∀ (x : V96A) (s : State) (n : Nat), s.solo (.xst x) n = true →
    (s.forkTask n = true → faults (.xst x) s n) ∧
    (s.forkTask n = false → ∃ t v, exec (.xst x) s = .next t ∧ s.OnlyResults t ∧ s.Advances t (.xst x) ∧ s.Sends t (s.valuesAt [n] x.d fun _ => BitVec.ofNat 64 v) ∧
      (s.expandOf n = none → x.opx.toNat % 4 ≠ 3 → v = 0) ∧
      (∀ y, s.expandOf n = some y → x.opx.toNat % 4 = 1 →
        v = (if y.dealing then y.total + 2 ^ 33 else 2 ^ 32) + y.nc * 2 ^ 34 + y.base % 256 * 2 ^ 40) ∧
      (∀ w, s.warp? (widOf n) = some w → x.opx.toNat % 4 = 3 → v = w.idx / 4 % 256 + w.idx % 256 * 2 ^ 8)))

/-! ## Multicast, trace, debug -/

/-- R415, R416, R449 to R451, R455 to R458: `mst` sends one store for each module of its mask; `trc` adds a record to its cluster's trace buffer when tracing
is on, and a full buffer counts it as lost; `smpl` marks its warp; the drain moves the oldest record to the ring; a monitor takes minimum and maximum. -/
def Obligations.MulticastTraceAndMonitors : Prop :=
  (∀ (x : M128A) (s : State) (n : Nat), s.solo (.mst x) n = true → s.accessReady n → ∀ p va xpa m,
    s.plan { sp := .gv, n := szBytes x.sz, need := .w, al := atmAlign x.atm, store := true } n (s.ea3 n x.b (.imm 0) x.i32) = .mem p va xpa m 0 [] →
    hostSpace xpa = false →
    let mask := (s.opnd n x.a).toNat
    let mods := (List.range 64).filter fun j => mask.testBit j
    let parts := mods.flatMap fun j => (sectorParts xpa (szBytes x.sz)).map fun q => (qualify 1 j (paOf q.1), q.2.1, q.2.2)
    (p.plc ≠ 1 ∨ 2 ^ s.nmod ≤ mask → ∃ t, exec (.mst x) s = .next t ∧
      s.FaultsFirst t n { fltAt .perm 1 p.lvl va with pc := (s.thread n).pc, resume := (s.thread n).pc }) ∧
    (p.plc = 1 → mask < 2 ^ s.nmod → mask ≠ 0 → s.nmod ≤ 64 → p.dty = true → ∃ t o, exec (.mst x) s = .next t ∧ s.KeepsStorage t ∧ s.Advances t (.mst x) ∧
      t.c.pend = s.c.pend ∧ o ∈ t.m.ops ∧ o.is n 1 va [] parts .none ∧ s.Collects t n o (parts.map fun q => (.store, q.1 / 32 * 32, sectorMask q.1 q.2.2,
        sectorData q.1 q.2.2 q.2.1 ((s.opnd n x.c).toNat + if szBytes x.sz = 16 then 2 ^ 64 * (s.opnd n x.c.succ).toNat else 0))))) ∧
  (∀ (x : S64A) (s : State) (n : Nat), s.solo (.trc x) n = true →
    let k := clusOf (s.cur.unit / 5)
    let on := s.fld (rPctl s.cur.unit) 8 8 = 1 ∧ s.fld (rTrb k) 0 0 = 1
    let b := s.traceBuf k
    let r := s.traceWord s.cur.unit (slotOf n) 1 (s.cur.pc % 2 ^ 57 * 2 ^ 279 + 2 ^ laneOf n * 2 ^ 336 + x.i16.toNat * 2 ^ 368 + (s.opnd n x.a).toNat * 2 ^ 384)
    (¬ on → ∃ t, exec (.trc x) s = .next t ∧ s.OnlyResults t ∧ t.c.pend = s.c.pend ∧ s.Advances t (.trc x)) ∧
    (on → b.lost = 0 → b.recs.length < 4096 → ∃ t, exec (.trc x) s = .next t ∧ s.Advances t (.trc x) ∧
      t.Becomes n (s.setTraceBuf { b with recs := b.recs ++ [r] })) ∧
    (on → 4096 ≤ b.recs.length → ∃ t, exec (.trc x) s = .next t ∧ s.Advances t (.trc x) ∧ t.Becomes n (s.setTraceBuf { b with lost := b.lost + 1 }))) ∧
  (∀ (x : S64A) (s : State) (n : Nat), s.solo (.smpl x) n = true → ∃ t, exec (.smpl x) s = .next t ∧ s.Advances t (.smpl x) ∧
    t.Becomes n { s with c := { s.c with warps := s.c.warps.map fun w => if w.wid = widOf n then { w with smpl := some x.i16 } else w } }) ∧
  (∀ (s : State) (k r : Nat) (rest : List Nat), k < 12 → (s.traceBuf k).recs = r :: rest → s.fld (rTrb k) 0 0 = 1 → regsWf s.b.regs = true →
    let slots := 2 ^ (s.fld (rTrb k) 7 2 - 6)
    let wp := s.fld (rTrb k + 8) 31 0
    let rp := s.fld (rTrb k + 8) 63 32
    let u := s.devWrite (s.fld (rTrb k) 51 12 * 4096 + 64 * (wp % slots)) 64 r
    ((wp + 2 ^ 32 - rp) % slots < slots - 1 → ∃ t, exec (.traceDrain k) s = .next t ∧ t.m = u.m ∧ (t.traceBuf k).recs = rest ∧
      t.fld (rTrb k + 8) 31 0 = (wp + 1) % 2 ^ 32 ∧ t.fld (rTrb k + 8) 63 32 = rp ∧ (∀ o, o ≠ rTrb k + 8 → t.reg o = u.reg o) ∧
      (∀ j, j ≠ k → t.traceBuf j = s.traceBuf j) ∧ t.c = s.c ∧ t.l = s.l) ∧
    (slots - 1 ≤ (wp + 2 ^ 32 - rp) % slots → exec (.traceDrain k) s = .next s)) ∧
  (∀ (s : State) (k v : Nat), k < 8 → s.clk % 2 ^ s.fld (rMon k) 12 8 = 0 → s.monLevel k = some v → v < 2 ^ 32 → regsWf s.b.regs = true → ∃ t,
    exec (.monitorLevelSample k) s = .next t ∧ t.fld (rMon k + 8) 31 0 = min v (s.fld (rMon k + 8) 31 0) ∧
    t.fld (rMon k + 8) 63 32 = max v (s.fld (rMon k + 8) 63 32) ∧ t.c = s.c ∧ t.m = s.m ∧ t.l = s.l ∧
    ∀ o, o < rMon k + 8 ∨ rMon k + 80 ≤ o → t.reg o = s.reg o)

/-- R433 to R447: a STOP makes a unit freeze at the end of its clock, with cause and clock reported; GO thaws it; a cluster's stop reaches each unit within 24
clocks; a step request starts one bundle of the stopped warp and ends with its code; a dump captures a frozen unit and is then written. -/
def Obligations.DebugStopsStepsAndDumps : Prop :=
  (∀ (s : State) (n : Nat) (v : BitVec 64), n < 960 → regsWf s.b.regs = true → s.gated (clusOf (n / 5)) = false → v.getLsbD 0 = true → v.getLsbD 1 = false →
    v.getLsbD 5 = false → s.frozen n = false → (s.unit n).due = none → ∃ t, exec (.dbgPctlStop n v) s = .next t ∧ (t.unit n).due = some s.clk ∧
    (t.unit n).cause = 1 ∧ (t.unit n).tclk = s.clk ∧ (∀ k, k ≠ n → t.unit k = s.unit k) ∧ t.fld (rPctl n) 8 5 = slice v.toNat 8 5 ∧
    (∀ o, o ≠ rPctl n → t.reg o = s.reg o) ∧ t.c = s.c ∧ t.m = s.m ∧ t.l = s.l) ∧
  (∀ (s : State) (n cause tclk : Nat) (sk : List Nat), n < 960 → regsWf s.b.regs = true → s.frozen n = false → s.stopReached n = some (cause, tclk, sk) →
    ∃ t, exec (.broadcastFreeze n) s = .next t ∧ t.frozen n = true ∧ t.fld (rPctl n) 23 20 = cause % 16 ∧ t.fld (rPctl n) 63 32 = tclk % 2 ^ 32 ∧
      (t.unit n).due = none ∧ (∀ o, o ≠ rPctl n → o ≠ rSkid n → o ≠ rSkid n + 8 → t.reg o = s.reg o) ∧ t.c = s.c ∧ t.m = s.m ∧ t.l = s.l) ∧
  (∀ (s : State) (n : Nat) (v : BitVec 64), n < 960 → regsWf s.b.regs = true → s.gated (clusOf (n / 5)) = false → v.getLsbD 0 = false → v.getLsbD 1 = true →
    s.frozen n = true → (∀ u ∈ s.c.threads, unitOf u.tid = n → u.faults = []) → ∃ t, exec (.dbgPctlGo n v) s = .next t ∧ t.frozen n = false ∧
    t.fld (rPctl n) 23 20 = s.fld (rPctl n) 23 20 ∧ t.fld (rPctl n) 63 32 = s.fld (rPctl n) 63 32 ∧ (∀ o, o ≠ rPctl n → t.reg o = s.reg o) ∧
    (t.unit n).step = none ∧ t.m = s.m ∧ t.l = s.l ∧ t.c = { s.c with threads := t.c.threads } ∧ ∀ k, t.thread k = (s.thread k).control (t.thread k)) ∧
  (∀ (s : State) (k : Nat), k < 12 → ∃ t, exec (.dbgClctlStop k) s = .next t ∧ t = { s with b := { s.b with units := t.b.units } } ∧
    (∀ n, n / 80 ≠ k → t.unit n = s.unit n) ∧ ∀ n, n / 80 = k → (s.unit n).bc = none → ∃ c, s.clk ≤ c ∧ c ≤ s.clk + 24 ∧ (t.unit n).bc = some (c, 1, s.clk)) ∧
  (∀ (s : State) (k : Nat), k < 12 → regsWf s.b.regs = true → (∀ u ∈ s.c.threads, u.faults = []) → ∃ t, exec (.dbgClctlGo k) s = .next t ∧ t.m = s.m ∧
    t.l = s.l ∧ (s.clPend k = true → t.fld (rClctl k) 1 1 = 1 ∧ t.c = s.c) ∧ (s.clPend k = false → ∀ n, n / 80 = k → t.frozen n = false)) ∧
  (∀ (s : State) (n : Nat) (v : BitVec 64), n < 960 → regsWf s.b.regs = true → s.gated (clusOf (n / 5)) = false → s.fld (rStep n) 4 4 = 0 →
    v.getLsbD 4 = true →
    let slot := v.toNat % 16
    let able := fun (u : Thread) => u ∈ s.c.threads ∧ widOf u.tid = 16 * n + slot ∧ u.gone = false
    (s.frozen n = false ∨ (∀ u, ¬ able u) → ∃ t, exec (.dbgStepReq n v) s = .next t ∧ t.fld (rStep n) 10 8 = 5 ∧ t.fld (rStep n) 4 4 = 0 ∧
      t.fld (rStep n) 3 0 = slot ∧ t.c = s.c ∧ t.m = s.m ∧ t.agenda = s.agenda ∧ ∀ o, o ≠ rStep n → t.reg o = s.reg o) ∧
    (s.frozen n = true → (∃ u, able u) → (∀ u, able u → s.stoppable u = false) → ∃ t, exec (.dbgStepReq n v) s = .next t ∧ t.fld (rStep n) 10 8 = 3 ∧
      t.fld (rStep n) 4 4 = 0 ∧ t.c = s.c ∧ t.m = s.m ∧ t.agenda = s.agenda) ∧
    (s.frozen n = true → (∃ u, able u ∧ s.stoppable u = true) → ∃ t ts, exec (.dbgStepReq n v) s = .next t ∧ t.fld (rStep n) 4 4 = 1 ∧
      (t.unit n).step = some ts ∧ ts ≠ [] ∧ (∀ i ∈ ts, ∃ u, able u ∧ u.tid = i) ∧ t.agenda = .issue n :: s.agenda ∧ t.c = s.c ∧ t.m = s.m)) ∧
  (∀ (s : State) (n : Nat) (v : BitVec 64), n < 960 → regsWf s.b.regs = true → s.gated (clusOf (n / 5)) = false → s.fld (rStep n) 4 4 = 1 → ∃ t,
    exec (.dbgStepReq n v) s = .next t ∧ t.fld (rStep n) 3 0 = v.toNat % 16 ∧ t.fld (rStep n) 4 4 = 1 ∧ t.agenda = s.agenda ∧ t.unit n = s.unit n ∧
    t.c = s.c ∧ t.m = s.m) ∧
  (∀ (s : State) (n : Nat) (ts : List Nat), n < 960 → regsWf s.b.regs = true → (s.unit n).step = some ts → (s.unit n).faulted = false →
    (∀ i ∈ ts, (s.thread? i).isSome → s.waitsElse i = false) →
    ((∀ i ∈ ts, (s.thread? i).isSome → s.owes i = false) → ∃ t, exec (.stepComplete n) s = .next t ∧ (t.unit n).step = none ∧ t.fld (rStep n) 10 8 = 1 ∧
      t.fld (rStep n) 4 4 = 0 ∧ t.fld (rStep n + 8) 56 0 = (s.thread (ts.headD 0)).pc % 2 ^ 57 ∧ t.c = s.c ∧ t.m = s.m ∧
      ∀ o, o ≠ rStep n → o ≠ rStep n + 8 → t.reg o = s.reg o) ∧
    ((∃ i ∈ ts, (s.thread? i).isSome ∧ s.owes i = true) → exec (.stepComplete n) s = .next s)) ∧
  (∀ (s : State) (v : BitVec 64), regsWf s.b.regs = true → s.b.dump = none → v.getLsbD 0 = true → v.getLsbD 51 = false → slice v.toNat 11 2 < 960 →
    let n := slice v.toNat 11 2
    ∃ t, exec (.dbgDumpReq v) s = .next t ∧ t.c = s.c ∧ t.m = s.m ∧ (∀ o, o ≠ rDump → t.reg o = s.reg o) ∧ t.fld rDump 51 2 = slice v.toNat 51 2 ∧
      (s.frozen n = true → t.b.dump = some (slice v.toNat 51 12 * 4096, s.dumpOf n) ∧ t.fld rDump 0 0 = 1 ∧ t.fld rDump 1 1 = 0) ∧
      (s.frozen n = false → t.b.dump = none ∧ t.fld rDump 1 1 = 1)) ∧
  (∀ (s : State) (v : BitVec 64) (d : Nat × Nat × Nat), regsWf s.b.regs = true → s.b.dump = some d → v.getLsbD 51 = false → ∃ t,
    exec (.dbgDumpReq v) s = .next t ∧ t.fld rDump 51 2 = slice v.toNat 51 2 ∧ t.b.dump = some d ∧ t.c = s.c ∧ t.m = s.m) ∧
  (∀ (s : State) (a k x : Nat), regsWf s.b.regs = true → s.b.dump = some (a, k, x) →
    let u := s.devWrite a k x
    ∃ t, exec .dumpComplete s = .next t ∧ t.m = u.m ∧ t.b.dump = none ∧ t.fld rDump 0 0 = 0 ∧ t.c = s.c ∧ ∀ o, o ≠ rDump → t.reg o = u.reg o)

/-- R441, R457, R459, R461: the watch-miss counter and the monitors clear; a monitor takes its source; EN starts a record whose first checkpoint is one period
away, at which the workgroups of the ASID are asked to stop; once none is on a core it is taken, and the next is one period later; RPL starts a replay
from the last checkpoint. -/
def Obligations.CountersMonitorsAndReplay : Prop :=
  (∀ (s : State) (c : Nat), c < 192 → regsWf s.b.regs = true → s.gated (clusOf c) = false → ∃ t, exec (.dbgWmissClear c) s = .next t ∧ t.reg (rWmiss c) = 0 ∧
    (∀ o, o ≠ rWmiss c → t.reg o = s.reg o) ∧ t.c = s.c ∧ t.m = s.m ∧ t.l = s.l) ∧
  (∀ (s : State) (k : Nat) (v : BitVec 64), k < 8 → regsWf s.b.regs = true → v.getLsbD 32 = true → ∃ t, exec (.dbgMonClr k v) s = .next t ∧
    (∀ i < 9, t.reg (rMon k + 8 + 8 * i) = regReset (rMon k + 8 + 8 * i)) ∧ (∀ o, o < rMon k ∨ rMon k + 80 ≤ o → t.reg o = s.reg o) ∧
    t.c = s.c ∧ t.m = s.m ∧ t.l = s.l) ∧
  (∀ (s : State) (k : Nat) (v : BitVec 64), k < 8 → regsWf s.b.regs = true → slice v.toNat 3 0 < 10 → slice v.toNat 12 8 < 21 → ∃ t,
    exec (.dbgMonSourceWrite k v) s = .next t ∧ t.fld (rMon k) 3 0 = slice v.toNat 3 0 ∧ t.fld (rMon k) 12 8 = slice v.toNat 12 8 ∧
    t.fld (rMon k) 23 16 = slice v.toNat 23 16 ∧ t.c = s.c ∧ t.m = s.m ∧
    (slice v.toNat 3 0 ≠ s.fld (rMon k) 3 0 ∨ slice v.toNat 23 16 ≠ s.fld (rMon k) 23 16 →
      ∀ i < 9, t.reg (rMon k + 8 + 8 * i) = regReset (rMon k + 8 + 8 * i)) ∧
    (slice v.toNat 3 0 = s.fld (rMon k) 3 0 → slice v.toNat 23 16 = s.fld (rMon k) 23 16 → v.getLsbD 32 = false → ∀ o, o ≠ rMon k → t.reg o = s.reg o)) ∧
  (∀ (s : State) (v : BitVec 64), regsWf s.b.regs = true → v.getLsbD 0 = true → v.getLsbD 1 = false → 1 ≤ slice v.toNat 47 38 → slice v.toNat 47 38 ≤ 1000 →
    s.fld rRpctl 0 0 = 0 → ∃ t, exec (.dbgRpctlRecord v) s = .next t ∧ t.fld rRpctl 0 0 = 1 ∧ t.fld rRpctl 1 1 = 0 ∧
    t.fld rRpctl 63 48 = slice v.toNat 63 48 ∧ t.b.logSeq = 0 ∧ t.c = s.c ∧ t.m = s.m ∧ t.l = s.l ∧
    t.b.ckpt = some { k := 0, due := s.clk + slice v.toNat 47 38 * 2500000, busy := false, start := 0, clusters := [] }) ∧
  (∀ (s : State) (v : BitVec 64), regsWf s.b.regs = true → v.getLsbD 0 = true → v.getLsbD 1 = true → 1 ≤ slice v.toNat 47 38 → slice v.toNat 47 38 ≤ 1000 →
    s.fld rRpctl 0 0 = 1 → s.fld rRpctl 1 1 = 0 → s.fld rRpctl 63 48 = slice v.toNat 63 48 → ∃ t, exec (.dbgRpctlReplay v) s = .next t ∧
    t.fld rRpctl 1 1 = 1 ∧ (∀ g ∈ t.c.wgs, g ∈ s.c.wgs ∧ ∀ r ∈ s.l.regions, r.asid = slice v.toNat 63 48 → r.num ≠ g.region) ∧ t.m.mem = s.m.mem ∧
    t.b.replayed = List.range (match s.b.ckpt with | some c => c.start | none => 0)) ∧
  (∀ (s : State) (c : Ckpt), s.b.ckpt = some c → s.fld rRpctl 0 0 = 1 →
    (c.busy = false → s.clk < c.due → exec .checkpoint s = .next s) ∧
    (c.busy = true → s.ckptIdle = false → exec .checkpoint s = .next s) ∧
    (c.busy = false → c.due ≤ s.clk → ∃ t, exec .checkpoint s = .next t ∧ t.b.ckpt = some { c with busy := true } ∧ t.m = s.m ∧ t.l = s.l ∧
      (∀ k, t.thread k = (s.thread k).control (t.thread k)) ∧
      ∀ g ∈ t.c.wgs, ∀ r, s.region? g.region = some r → r.asid = s.fld rRpctl 63 48 → g.preempt = true) ∧
    (c.busy = true → s.ckptIdle = true → ∃ t d, exec .checkpoint s = .next t ∧ t.b.ckpt = some d ∧ d.k = c.k + 1 ∧ d.busy = false ∧
      d.due = c.due + s.fld rRpctl 47 38 * 2500000 ∧ d.start = s.b.logSeq ∧ t.l = s.l ∧ ∀ k, t.thread k = (s.thread k).control (t.thread k)))

/-! ## Fabric -/

/-- R407, R420, R422 to R430: a link sends what must be sent again first, and a new message with the next sequence number, its CRC and one credit; a flit
with a wrong CRC or sequence number is discarded and asked for again, one in order is acknowledged and delivered; windows of errors and training
change the mode; FAB_CFG, FAB_LINK and FAB_PCINV act as written. -/
def Obligations.LinksCarryFlits : Prop :=
  (∀ (s : State) (n vc : Nat), s.linkUp n = true → n ≠ s.b.pkg →
    let l := s.peerLink n
    (∀ f rest, l.resend = f :: rest → ∃ t, exec (.flitSend n vc) s = .next t ∧ (t.peerLink n).resend = rest ∧ (t.peerLink n).txSeq = l.txSeq ∧
      (t.peerLink n).credits = l.credits ∧ (∀ k, k ≠ n → t.peerLink k = s.peerLink k) ∧ t.m = s.m ∧ t.c = s.c ∧ t.l = s.l ∧ t.b.regs = s.b.regs) ∧
    (l.resend = [] → 2048 ≤ l.unacked.length ∨ l.credits.getD vc 0 = 0 → exec (.flitSend n vc) s = .next s) ∧
    (∀ dst m u, l.resend = [] → l.unacked.length < 2048 → l.credits.getD vc 0 ≠ 0 → vc < l.credits.length → s.nextMsg n vc = some (dst, m, u) →
      (u.peerLink n).unacked = l.unacked → (u.peerLink n).credits = l.credits → (u.peerLink n).txSeq = l.txSeq → ∃ t f, exec (.flitSend n vc) s = .next t ∧
      (t.peerLink n).unacked = l.unacked ++ [f] ∧ f.msg = m ∧ f.dst = dst ∧ f.seq = BitVec.ofNat 12 l.txSeq ∧ f.vc = BitVec.ofNat 3 vc ∧
      f.crc = BitVec.ofNat 32 (crc32c (flitCovered f) 60 0xFFFFFFFF) ∧ f.ackv = true ∧ f.ack = BitVec.ofNat 12 ((u.peerLink n).rxNext + 4095) ∧
      (t.peerLink n).txSeq = (l.txSeq + 1) % 4096 ∧ (t.peerLink n).credits.getD vc 0 = l.credits.getD vc 0 - 1 ∧ t.m = u.m)) ∧
  (∀ (s : State) (n : Nat) (f : Flit), n < 64 → s.linkUp n = true → n ≠ s.b.pkg → regsWf s.b.regs = true →
    let l := s.peerLink n
    let good := f.crc = BitVec.ofNat 32 (crc32c (flitCovered f) 60 0xFFFFFFFF)
    (¬ good → ∃ t, exec (.flitReceive n f) s = .next t ∧ (t.peerLink n).nakDue = true ∧ (t.peerLink n).rxNext = l.rxNext ∧ t.m = s.m ∧
      t.fld (rLink n) 63 48 = min 0xFFFF (s.fld (rLink n) 63 48 + 1)) ∧
    (good → 5 ≤ f.vc.toNat ∨ f.seq.toNat ≠ l.rxNext → ∃ t, exec (.flitReceive n f) s = .next t ∧ (t.peerLink n).nakDue = true ∧
      (t.peerLink n).rxNext = l.rxNext ∧ t.m = s.m ∧ t.b.regs = s.b.regs) ∧
    (good → f.vc.toNat < 5 → f.seq.toNat = l.rxNext → f.dst ≠ s.b.pkg → ∃ t, exec (.flitReceive n f) s = .next t ∧
      (t.peerLink n).rxNext = (l.rxNext + 1) % 4096 ∧ (t.peerLink n).ackDue = true ∧ t.m = { s.m with mgmt := s.m.mgmt ++ [(f.dst, f.msg)] }) ∧
    (∀ w, good → f.vc.toNat < 5 → f.seq.toNat = l.rxNext → f.dst = s.b.pkg → f.msg = .req w → ∃ t, exec (.flitReceive n f) s = .next t ∧
      (t.peerLink n).rxNext = (l.rxNext + 1) % 4096 ∧ ∃ r, t.m = { s.m with rxQ := s.m.rxQ ++ [r], nextId := s.m.nextId + 1 } ∧ r.w = w ∧ r.org = .remote)) ∧
  (∀ (s : State) (n wave count : Nat), n < 64 → n ≠ s.b.pkg → wave < 32 → regsWf s.b.regs = true →
    let used := (s.peerLink n).waves.testBit wave
    let few := ((List.range 32).filter ((s.peerLink n).waves - 2 ^ wave).testBit).length < 8
    (used = false ∨ count < s.fld (rLink n) 22 16 → exec (.wavelengthErrorWindow n wave count) s = .next s) ∧
    (used = true → s.fld (rLink n) 22 16 ≤ count → ∃ t, exec (.wavelengthErrorWindow n wave count) s = .next t ∧
      (s.linkMode n = 2 → t.linkMode n = 1) ∧ (s.linkMode n = 3 → t.linkMode n = if few then 0 else 3) ∧
      (s.linkMode n = 3 → ¬ few → (t.peerLink n).waves = (s.peerLink n).waves - 2 ^ wave) ∧ t.c = s.c ∧ t.l = s.l ∧ t.m.mem = s.m.mem)) ∧
  (∀ (s : State) (n waves : Nat), n < 64 → n ≠ s.b.pkg → regsWf s.b.regs = true →
    let count := ((List.range 32).filter (waves % 2 ^ 32).testBit).length
    (s.linkMode n ≠ 1 → exec (.linkTrainingEnd n waves) s = .next s) ∧
    (s.linkMode n = 1 → ∃ t, exec (.linkTrainingEnd n waves) s = .next t ∧ t.fld (rLink n) 28 28 = 0 ∧ (t.peerLink n).resend = (s.peerLink n).unacked ∧
      (t.peerLink n).owed = [0, 0, 0, 0, 0] ∧ t.c = s.c ∧
      t.linkMode n = if count < 8 then 0 else if s.fld (rLink n) 28 28 = 1 ∧ count = 32 then 2 else 3)) ∧
  (∀ (s : State) (n : Nat) (v : BitVec 64), n < 64 → n ≠ s.b.pkg → n < s.nmod → s.fabEn = true → regsWf s.b.regs = true → v.getLsbD 28 = true →
    s.fld (rLink n) 28 28 = 0 → ∃ t, exec (.fabLinkRtr n v) s = .next t ∧ t.fld (rLink n) 28 28 = 1 ∧ t.linkMode n = 1 ∧ t.fld (rLink n) 13 8 = 0 ∧
    t.fld (rLink n) 24 23 = slice v.toNat 24 23 ∧ t.c = s.c ∧ t.m.mem = s.m.mem) ∧
  (∀ (s : State) (v : BitVec 64), regsWf s.b.regs = true →
    let n := slice v.toNat 6 0
    let t0 := slice v.toNat 39 32
    let bad := n = 0 ∨ 64 < n ∨ t0 < 20 ∨ 40 < t0 ∨ (s.fabEn = true ∧ n ≠ s.nmod) ∨ n < 2 ^ s.plog
    (bad → ∃ t, exec (.fabCfgWrite v) s = .next t ∧ t.fld rFabCfg 8 8 = 1 ∧ t.fld rFabCfg 7 0 = s.fld rFabCfg 7 0 ∧ t.fld rFabCfg 39 32 = s.fld rFabCfg 39 32 ∧
      (∀ o, o ≠ rFabCfg → t.reg o = s.reg o) ∧ t.m = s.m) ∧
    (¬ bad → ∃ t, exec (.fabCfgWrite v) s = .next t ∧ t.fld rFabCfg 7 0 = slice v.toNat 7 0 ∧ t.fld rFabCfg 39 32 = t0 ∧ t.c = s.c ∧ t.m.mem = s.m.mem ∧
      (v.getLsbD 8 = true → t.fld rFabCfg 8 8 = 0))) ∧
  (∀ (s : State) (v : BitVec 64), exec (.fabPcinv v) s = .next { s with m := { s.m with pdt := [] } })

/-! ## Host, power, resets -/

/-- R228, R463 to R467, R469: HOME_CFG, the ring registers, HOST_CTL and BAR0 take legal values and flag illegal ones; the new home ways come into force
with their lines gone; a release lets a parked region's threads go on; BAR2 reads and writes memory once RDY is set. -/
def Obligations.HostRegistersAndWindow : Prop :=
  (∀ (s : State) (v : BitVec 64), regsWf s.b.regs = true →
    let bad := slice v.toNat 10 8 = 7 ∨ 12 < slice v.toNat 3 0 ∨ (s.fld rHostCtl 0 0 = 1 ∧ (slice v.toNat 10 8 ≠ s.plog ∨ slice v.toNat 3 0 ≠ s.hs)) ∨
      (slice v.toNat 31 16 ≠ s.b.hwayNew.getD s.hway ∧ ∃ i < 8, s.retOn i = true)
    (bad → ∃ t, exec (.homeCfgWrite v) s = .next t ∧ t.fld rHomeCfg 7 7 = 1 ∧ t.plog = s.plog ∧ t.hs = s.hs ∧ t.hway = s.hway ∧ t.m = s.m ∧ t.c = s.c ∧
      t.b.hwayNew = s.b.hwayNew) ∧
    (¬ bad → ∃ t, exec (.homeCfgWrite v) s = .next t ∧ t.plog = slice v.toNat 10 8 ∧ t.hs = slice v.toNat 3 0 ∧ t.hway = s.hway ∧ t.m = s.m ∧ t.c = s.c ∧
      (v.getLsbD 7 = true → t.fld rHomeCfg 7 7 = 0) ∧
      t.b.hwayNew = if slice v.toNat 31 16 = s.hway then none else some (slice v.toNat 31 16))) ∧
  (∀ (s : State) (w : Nat), regsWf s.b.regs = true → s.b.hwayNew = some w → w < 2 ^ 16 → ∃ t, exec .hwayChange s = .next t ∧ t.hway = w ∧
    t.b.hwayNew = none ∧ (∀ x, x ∈ t.m.l2 ↔ x ∈ s.m.l2 ∧ w.testBit x.way = s.hway.testBit x.way) ∧ t.m.mem = s.m.mem ∧ t.c = s.c) ∧
  (∀ (s : State) (v : BitVec 64), regsWf s.b.regs = true → ∃ t, exec (.hostCtlWrite v) s = .next t ∧
    t = { s with b := { s.b with regs := t.b.regs } } ∧ t.fld rHostCtl 0 0 = v.toNat % 2 ∧ ∀ o, o ≠ rHostCtl → t.reg o = s.reg o) ∧
  (∀ (s : State) (v : BitVec 64) (r : Region), s.region? (v.toNat % 2 ^ 32) = some r →
    (r.state ≠ 6 → exec (.hostRel v) s = .next s) ∧
    (r.state = 6 → (∀ g ∈ s.c.wgs, ∀ k e, s.episode g.key k = some e → e.timedOut = false) → (∀ u ∈ s.c.threads, u.faults.length ≤ 1) → ∃ t, exec (.hostRel v) s = .next t ∧
      t.l.regions = s.l.regions.map (fun q => if q.num = r.num then { q with state := 2 } else q) ∧ t.m = (s.devWrite (r.rcb + 148) 1 2).m ∧
      t.c.threads = s.c.threads.map fun u => if (s.c.threads.any fun x => x.tid == u.tid && x.region == r.num && x.hostPark) = true then
        releaseThread r.y u else u)) ∧
  (∀ (s : State) (n : Nat) (v : BitVec 64), n < 8 → regsWf s.b.regs = true →
    let log := slice v.toNat 4 0
    let base := slice v.toNat 51 12 * 4096
    let ok := s.ringHead n = s.ringTail n ∧ 4 ≤ log ∧ log ≤ 20 ∧ base % (8 * 2 ^ log) = 0
    (ok → ∃ t, exec (.hostSubqBaseWrite n v) s = .next t ∧ t.reg (rSubqBase n) = BitVec.ofNat 64 (base + log) ∧
      (∀ o, o ≠ rSubqBase n → t.reg o = s.reg o) ∧ t.c = s.c ∧ t.m = s.m ∧ t.l = s.l) ∧
    (¬ ok → ∃ t, exec (.hostSubqBaseWrite n v) s = .next t ∧ t.fld rHostStat 1 1 = 1 ∧ t.reg (rSubqBase n) = s.reg (rSubqBase n) ∧ t.m = s.m)) ∧
  (∀ (s : State) (n : Nat) (v : BitVec 32), n < 8 → regsWf s.b.regs = true →
    let room := (v.toNat + 2 ^ 32 - s.ringHead n) % 2 ^ 32 ≤ 2 ^ s.fld (rSubqBase n) 4 0
    (room → ∃ t, exec (.hostSubqTailWrite n v) s = .next t ∧ t.ringTail n = v.toNat ∧ t.ringHead n = s.ringHead n ∧
      (∀ o, o ≠ rSubqPtr n → t.reg o = s.reg o) ∧ t.c = s.c ∧ t.m = s.m ∧ t.l = s.l) ∧
    (¬ room → ∃ t, exec (.hostSubqTailWrite n v) s = .next t ∧ t.fld rHostStat 1 1 = 1 ∧ t.ringTail n = s.ringTail n ∧ t.m = s.m)) ∧
  (∀ (s : State) (off size : Nat) (v : BitVec 64),
    (¬ (size = 4 ∨ size = 8) ∨ off % size ≠ 0 → exec (.registerWrite off size v) s = .next s) ∧
    (∀ u, u < 960 → regsWf s.b.regs = true → s.gated (clusOf (u / 5)) = false → ∃ t, exec (.registerWrite (rSctl u) 8 v) s = .next t ∧
      t.fld (rSctl u) 15 0 = v.toNat % 2 ^ 16 ∧ (∀ o, o ≠ rSctl u → t.reg o = s.reg o) ∧ t.c = s.c ∧ t.m = s.m ∧ t.l = s.l)) ∧
  (∀ (s : State) (off size : Nat), 0 < size → off + size ≤ 2 ^ 36 → ∃ t, exec (.hostWindowRead off size) s = .next t ∧
    t.c = s.c ∧ t.l = s.l ∧ t.m.peer = s.m.peer ∧ t.m.host = s.m.host ∧ t.b.hostRead.1.length = size ∧
    (s.m.errs = [] → t.m.mem = s.m.mem ∧ t.m.pois = s.m.pois) ∧
    (s.fld rHostStat 0 0 = 0 → t = { s with b := { s.b with hostRead := (List.replicate size 0, false) } }) ∧
    (s.fld rHostStat 0 0 = 1 → s.m.errs = [] → (∀ i < size, ∃ q, s.winAddr (off + i) = some q ∧ s.here q = true ∧ s.poisoned q = false) →
      t.b.hostRead.2 = false ∧ ∀ i < size, ∀ q, s.winAddr (off + i) = some q → t.b.hostRead.1[i]? = some (s.byteAt q))) ∧
  (∀ (s : State) (off q : Nat) (data : List (BitVec 8)), data ≠ [] → off % 32 + data.length ≤ 32 → off < 2 ^ 36 → s.winAddr off = some q →
    (s.fld rHostStat 0 0 = 0 → exec (.hostWindowWrite off data) s = .next s) ∧
    (s.fld rHostStat 0 0 = 1 → s.here q = true → s.poisonedIn q data.length = false → s.m.errs = [] → ∃ t, exec (.hostWindowWrite off data) s = .next t ∧
      t.m.mem = (s.wrNat q data.length (data.foldr (fun b a => b.toNat + 256 * a) 0)).m.mem ∧ t.m.pois = s.m.pois ∧ t.c = s.c ∧ t.l = s.l ∧
      ((∀ i < 8, s.retOn i = false) → t.b.regs = s.b.regs)))

/-- R470 to R474: a cold reset puts every register, queue and byte at its reset value, a function-level reset keeps memory and poison marks, RDY follows; power
averages, their threshold and their clearing; sags counted; gates asked for, closed on an empty cluster, and opened. What a reset keeps besides is the
model's choice (log entries 7, 8). -/
def Obligations.ResetsPowerAndGates : Prop :=
  (∀ s : State, ∃ t, exec .coldReset s = .next t ∧ t.m.mem = [] ∧ t.m.pois = [] ∧ t.c = State.reset.c ∧ t.l = State.reset.l ∧ t.b.regs = [] ∧ t.clk = 0 ∧
    t.m = { State.reset.m with peer := s.m.peer, host := s.m.host } ∧ t.b = { State.reset.b with pkg := s.b.pkg, sent := s.b.sent }) ∧
  (∀ s : State, ∃ t, exec .functionLevelReset s = .next t ∧ t.m.mem = s.m.mem ∧ t.m.pois = s.m.pois ∧ t.c = State.reset.c ∧ t.l = State.reset.l ∧
    t.b.regs = [] ∧ t.m = { State.reset.m with mem := s.m.mem, pois := s.m.pois, peer := s.m.peer, host := s.m.host }) ∧
  (∀ s : State, regsWf s.b.regs = true → ∃ t, exec .resetComplete s = .next t ∧ t.fld rHostStat 0 0 = 1 ∧ (∀ o, o ≠ rHostStat → t.reg o = s.reg o) ∧
    t = { s with b := { s.b with regs := t.b.regs } }) ∧
  (∀ (s : State) (avg : Nat), regsWf s.b.regs = true →
    let p := min avg s.powerCap
    let a := ((p :: s.b.pwr.take 998).take 100).sum / 100
    ∃ t, exec (.powerPeriod avg) s = .next t ∧ t.b.pwr = p :: s.b.pwr.take 998 ∧ t.c = s.c ∧ t.m = s.m ∧ t.l = s.l ∧
      (s.b.pwrN + 1 < 100 → t.b.regs = s.b.regs ∧ t.b.pwrN = s.b.pwrN + 1) ∧
      (100 ≤ s.b.pwrN + 1 → a < 2 ^ 16 → t.fld rPwrStat 47 32 = a ∧ t.fld rPwrStat 63 48 = max a (s.fld rPwrStat 63 48) ∧ t.b.pwrN = 0 ∧
        t.fld rPwrStat 1 1 = (if s.fld rPwr 15 0 < a then 1 else s.fld rPwrStat 1 1))) ∧
  (∀ (s : State) (v : BitVec 64), regsWf s.b.regs = true → v.getLsbD 0 = true → ∃ t, exec (.hostPwrstatClr v) s = .next t ∧ t.fld rPwrStat 63 48 = 0 ∧
    (v.getLsbD 1 = true → t.fld rPwrStat 1 1 = 0) ∧ t.fld rPwrStat 47 32 = s.fld rPwrStat 47 32 ∧ ∀ o, o ≠ rPwrStat → t.reg o = s.reg o) ∧
  (∀ (s : State) (k : Nat), k < 12 → regsWf s.b.regs = true → s.b.sag.contains k = false → ∃ t, exec (.supplySag k) s = .next t ∧ k ∈ t.b.sag ∧
    t.fld (rSag k) 31 0 = min 0xFFFFFFFF (s.fld (rSag k) 31 0 + 1) ∧ (∀ o, o ≠ rSag k → t.reg o = s.reg o) ∧ t.c = s.c ∧ t.m = s.m) ∧
  (∀ (s : State) (k : Nat), exec (.supplyRecovery k) s = .next { s with b := { s.b with sag := s.b.sag.filter (· != k) } }) ∧
  (∀ (s : State) (k : Nat), k < 12 → regsWf s.b.regs = true → ∃ t, exec (.hostSagClear k) s = .next t ∧ t.reg (rSag k) = 0 ∧
    (∀ o, o ≠ rSag k → t.reg o = s.reg o) ∧ t.c = s.c ∧ t.m = s.m) ∧
  (∀ (s : State) (v : BitVec 64), regsWf s.b.regs = true →
    ((∃ k < 12, v.getLsbD k = true ∧ s.gateAsked k = false) → ∃ t, exec (.hostPgateRequest v) s = .next t ∧ t.fld rPgate 11 0 = v.toNat % 2 ^ 12 ∧
      t.fld rPgate 27 16 = s.fld rPgate 27 16 ∧ (∀ o, o ≠ rPgate → t.reg o = s.reg o) ∧ t.c = s.c ∧ t.m = s.m) ∧
    ((∃ k < 12, v.getLsbD k = false ∧ s.gateAsked k = true) → ∃ t, exec (.hostPgateRelease v) s = .next t ∧ t.fld rPgate 11 0 = v.toNat % 2 ^ 12 ∧
      t.fld rPgate 27 16 = s.fld rPgate 27 16 ∧ (∀ o, o ≠ rPgate → t.reg o = s.reg o) ∧ t.c = s.c ∧ t.m = s.m)) ∧
  (∀ (s : State) (k : Nat), k < 12 → regsWf s.b.regs = true → s.gateAsked k = true → s.gated k = false →
    (s.clusterEmpty k = false → exec (.clusterGated k) s = .next s) ∧
    (s.clusterEmpty k = true → (s.traceBuf k).recs = [] → ∃ t, exec (.clusterGated k) s = .next t ∧ t.gated k = true ∧
      (∀ j < 12, j ≠ k → t.gated j = s.gated j) ∧ t.c = s.c ∧ t.m = s.m ∧ t.l = s.l)) ∧
  (∀ (s : State) (k : Nat), k < 12 → regsWf s.b.regs = true → s.gateAsked k = false → s.gated k = true → ∃ t, exec (.clusterPowerUp k) s = .next t ∧
    t.gated k = false ∧ (∀ j < 12, j ≠ k → t.gated j = s.gated j) ∧ (k, s.clk) ∈ t.b.phase ∧ t.c = s.c ∧ t.m = s.m ∧ t.l = s.l)

/-! ## Launch -/

/-- R83, R84, R291, R296, R297, R304 to R306: the launch engine takes the oldest entry of the highest ring that has one, registers the region and its first
cluster; a waiting cluster that fits starts with its workgroups, warps and threads at the entry; a request waits until a cluster may be pre-empted,
and the cluster is then saved and waits to resume. -/
def Obligations.RegionsLaunchAndResume : Prop :=
  (∀ s : State, s.fld rHostCtl 0 0 = 0 → (s.l.spawned = [] → exec .regionIntake s = .next s) ∧ exec .clusterPlacement s = .next s) ∧
  (∀ (s : State) (p : Nat), p < 8 → regsWf s.b.regs = true → s.fld rHostCtl 0 0 = 1 → s.l.regions.length < 4096 → s.ringHead p ≠ s.ringTail p →
    (∀ q < 8, p < q → s.ringHead q = s.ringTail q ∧ ∀ c ∈ s.l.spawned, c.pri ≠ q) →
    let e := s.rdNat (s.fld (rSubqBase p) 51 12 * 4096 + 8 * (s.ringHead p % 2 ^ s.fld (rSubqBase p) 4 0)) 8
    let u := s.setFld (rSubqPtr p) 31 0 ((s.ringHead p + 1) % 2 ^ 32)
    let h := u.resolve e s.l.nextRegion none (some p)
    let r := h.2
    (2 ^ 51 ≤ e ∨ e % 256 ≠ 0 → ∃ t, exec .regionIntake s = .next t ∧ t.fld rHostStat 1 1 = 1 ∧ t.ringHead p = (s.ringHead p + 1) % 2 ^ 32 ∧ t.l = s.l ∧
      t.m = s.m ∧ t.c = s.c) ∧
    (e < 2 ^ 51 → e % 256 = 0 → r.lerr = 0 → ∃ t, exec .regionIntake s = .next t ∧ t.ringHead p = (s.ringHead p + 1) % 2 ^ 32 ∧
      t.l.regions = s.l.regions ++ [r] ∧ r.num = s.l.nextRegion ∧ r.pri = p ∧ r.parent = none ∧ t.l.nextRegion = s.l.nextRegion + 1 ∧
      t.l.waiting = s.l.waiting ++ [Waiting.first r.num] ∧ t.c = { s.c with l1 := t.c.l1 } ∧
      t.m = (((h.1.devWrite (e + 136) 8 0).devWrite (e + 144) 4 r.num).rcbState e 1 0).m)) ∧
  (∀ (s : State) (w : Waiting) (r : Region) (k : Nat) (cores : List Nat), s.fld rHostCtl 0 0 = 1 → s.l.waiting = [w] → w.parked = false → w.victims = [] →
    w.saved = none → w.relaunch = 0 → w.absent = [] → s.region? w.region = some r → r.nwg ≤ (w.clid + 1) * r.size → s.b.ckpt = none → r.state = 2 →
    (∀ g ∈ s.c.wgs, g.preempt = false) → s.fit w r = some (k, cores) →
    let keys := (List.range r.size).map fun i => s.l.nextKey + 1 + i
    ∃ t, exec .clusterPlacement s = .next t ∧ t.c.wgs.map (·.key) = s.c.wgs.map (·.key) ++ keys ∧ t.l.waiting = [] ∧
      t.c.clusters = s.c.clusters ++
        [{ id := s.l.nextKey, region := r.num, clid := w.clid, phys := k, members := keys, ep := none, ended := w.ended }] ∧
      (∀ i < r.size, ∃ g ∈ t.c.wgs, g.key = s.l.nextKey + 1 + i ∧ cores[i]? = some g.core ∧ g.idx = w.clid * r.size + i ∧ g.rank = i ∧ g.clus = w.clid ∧
        g.region = r.num ∧ g.win = winBytes r.scr ∧ g.scr = [] ∧ g.segs = List.replicate 16 0 ∧ g.eps = [] ∧ g.warps.length = r.wgw + 1 ∧
        ∀ wid ∈ g.warps,
          (∃ x ∈ t.c.warps, x.wid = wid ∧ x.wg = some g.key ∧ x.w = launchW r.wa (BitVec.ofNat 64 r.arg) (BitVec.ofNat 64 g.idx)) ∧
          ∀ j < 32, ∃ th ∈ t.c.threads, th.tid = 32 * wid + j ∧ th.pc = (r.kha + 64) % 2 ^ 57 ∧ th.region = r.num ∧ th.ycnt = 0 ∧ th.ybud = r.y ∧ th.hm = false) ∧
      (∀ g ∈ s.c.wgs, g ∈ t.c.wgs) ∧ (∀ th ∈ s.c.threads, th ∈ t.c.threads) ∧ t.m = s.m ∧ t.b = s.b) ∧
  (∀ (s : State) (n : Nat), exec (.clusterBlocking n) s = .next { s with l := { s.l with waiting := s.l.waiting.modify n fun w =>
    match w.passed with | some c => if c + 2 ^ 20 ≤ s.clk then { w with blocking := true } else w | none => w } }) ∧
  (∀ (s : State) (id : Nat) (c : Clus) (r : Region), (s.c.clusters.find? fun c => c.id == id) = some c → s.region? c.region = some r →
    ((∃ g ∈ s.liveMembers c, g.preempt = false ∨ s.preemptible g = false) → exec (.preemptionTaken id) s = .next s) ∧
    (∀ (ks : List Nat) (u : State), s.liveMembers c ≠ [] → (∀ g ∈ s.liveMembers c, g.preempt = true ∧ s.preemptible g = true) → s.saveSlots c r = some ks →
      u = ({ s with free := s.free + 1 } : State).finishWork c.members → (u.liveMembers c).length = (s.liveMembers c).length →
      (∀ g ∈ u.liveMembers c, u.settled g = true) → u.region? c.region = some r → ∃ t, exec (.preemptionTaken id) s = .next t ∧
      (∀ g ∈ t.c.wgs, g.key ∉ c.members) ∧ (∀ x ∈ t.c.warps, ∀ k, x.wg = some k → k ∉ c.members) ∧
      ∃ w ∈ t.l.waiting, w.region = r.num ∧ w.clid = c.clid ∧ w.saved = some (ks.take (u.liveMembers c).length)))

/-! ## Encodings -/

/-- R28, R32 to R44, R64: an instruction that the decoder accepts is read back from its words with every field as it was, and every word that the
decoder accepts is, in the bits its LEN gives it, the words of the instruction it reads. -/
def Obligations.EncodingsRoundTrip : Prop :=
  (∀ i : Instr, i.wf = true → encode i < 2 ^ i.bits ∧ lenBits (encode i) = i.bits ∧ decode (encode i) = .ok i) ∧
  (∀ (w : Nat) (i : Instr), decode w = .ok i → i.wf = true ∧ i.isEvent = false ∧ lenBits w = i.bits ∧ encode i = w % 2 ^ i.bits)

/-- R28, R33 to R36, R38, R40 to R43: words written out from the encodings of the spec, and the instructions that they stand for; the words that R42
and R43 refuse. -/
def Obligations.WordsDecode : Prop :=
  decode 0x0000780000000000 = .ok (.nop ⟨false, .v 0, .v 0, .v 0, ⟨false, 15⟩, 0⟩) ∧
  decode 0x00007800000000A8 = .ok (.exit ⟨false, .v 0, .v 0, .v 0, ⟨false, 15⟩, 0⟩) ∧
  decode 0x0000080000010080 = .ok (.bra ⟨false, 8, ⟨false, 1⟩⟩) ∧
  decode 0x000078000020CCA4 = .ok (.sgstat ⟨true, .w 6, .v 0, .v 0, ⟨false, 15⟩, 0⟩) ∧
  decode 0xB00001518000000C02808405 =
    .ok (.fadd ⟨true, .v 4, .v 5, .v 6, .v 0, .v 0, ⟨false, 3⟩, ⟨true, 5⟩, .dflt, .f32x2, .none, .rne, .none, .thread, 0⟩) ∧
  decode 0x300800F7800005FA0400E201 =
    .ok (.iaddV96 ⟨false, .v 7, .v 8, .imm 0xFD, .v 0, .v 0, ⟨false, 15⟩, ⟨false, 15⟩, .dflt, .i16x4, .none, .rne, .sat, .thread, 0⟩) ∧
  decode 0xB01090F7C26000060100C801 =
    .ok (.cvt8 ⟨false, .v 6, .v 2, .v 3, .v 0, .imm 0x13, ⟨false, 15⟩, ⟨false, 15⟩, .dflt, .f32x2, .none, .rne, .satf, .thread, 9⟩) ∧
  decode 0x00000040065000003DE000120400C916 =
    .ok (.atom ⟨true, .v 6, .v 8, .v 9, .v 0, ⟨false, 15⟩, ⟨false, 15⟩, .dflt, .none, .b64, .gv, .pod, .rlx, .dflt, .rne, .none, 0, 0x40⟩) ∧
  (∀ w, opcodeOf w = 0x0FF → decode w = .error (.opcode (lenBits w) 0x0FF)) ∧
  (∀ w i, decode w = .ok i → i.opc = opcodeOf w) ∧
  (∀ w, w % 4 = 0 → opcodeOf w = 0x040 → decode w = .error (.opcode 64 0x040))

/-! ## The step -/

/-- Log entry 5 and R37, R42, R51, R270: a move of the agenda that issues a bundle, on either decoder, on the scalar pipe of a core or in a single step,
executes, in the bundle's threads, the instruction that the decoder reads at the thread's program counter in the block it fetched; an `exit` that other
issues of its clock follow comes after them; a word that does not decode raises ILLEGAL for the whole bundle; an event has its own meaning; an empty
agenda plans the next clock. -/
def Obligations.StepRunsTheDecodedInstruction : Prop :=
  (∀ (s : State) (rest : List Move) (n b : Nat) (t : Thread) (ts : List Thread) (a data w : Nat),
    s.agenda = .issue n :: rest → (s.unit n).step = none → firstOf (State.cands { s with agenda := rest } n) = some (b, t :: ts) →
    State.thread { s with agenda := rest } t.tid = t → t.loop.act = false → t.fetch = .ok a data → wordIn t.pc data = some w →
    (∀ i, decode w = .ok i → State.overTids { s with agenda := rest } (.instr i) ((t :: ts).map (·.tid)) = [] →
      (i.opc = 0x15 → (∀ x ∈ rest, x.isIssue = false) ∧ secondOf (b, t :: ts) (State.cands { s with agenda := rest } n) = none) →
      ∃ (u : State) (more : List Move), step s = exec i u ∧ u.cur = { unit := n, tids := (t :: ts).map (·.tid), pc := t.pc } ∧
        u = { s with agenda := more ++ rest, cur := u.cur, c := { s.c with threads := u.c.threads, wideAt := u.c.wideAt } } ∧
        (more = [] ∨ ∃ k, k ≠ b ∧ more = [.second n k]) ∧
        u.c.wideAt = (if i.wide then (n, s.clk) :: s.c.wideAt.filter (fun q => q.1 != n) else s.c.wideAt) ∧
        ∀ k, u.thread k = { s.thread k with losses := (u.thread k).losses, lostAt := (u.thread k).lostAt }) ∧
    (∀ e, decode w = .error e → State.overTids { s with agenda := rest } (.fault (flt .illegal)) ((t :: ts).map (·.tid)) = [] →
      ∃ u : State, step s = .next (u.raiseAll ((t :: ts).map (·.tid)) (flt .illegal)) ∧
        ∀ k, u.thread k = { s.thread k with losses := (u.thread k).losses, lostAt := (u.thread k).lostAt })) ∧
  (∀ (s : State) (rest : List Move) (m : Move) (n k : Nat) (ts : List Nat) (a data w : Nat),
    s.agenda = m :: rest →
    ((∃ all, (m = .pipe n all ∧ all.filter (fun x => State.ready { s with agenda := rest } (s.thread x)) = k :: ts) ∨
        ((m = .last n all ∨ (m = .issue n ∧ (s.unit n).step = some all)) ∧
          all.filter (fun x => State.stoppable { s with agenda := rest } (s.thread x)) = k :: ts)) ∨
      ∃ b, m = .second n b ∧ (State.bundleThreads { s with agenda := rest } n b).map (·.tid) = k :: ts) →
    (s.thread k).loop.act = false → (s.thread k).fetch = .ok a data → wordIn (s.thread k).pc data = some w →
    (∀ i, decode w = .ok i → State.overTids { s with agenda := rest } (.instr i) (k :: ts) = [] →
      (i.opc ≠ 0x15 ∨ (∀ x ∈ rest, x.isIssue = false) → step s = exec i { s with
        agenda := rest, cur := { unit := n, tids := k :: ts, pc := (s.thread k).pc },
        c := { s.c with wideAt := if i.wide then (n, s.clk) :: s.c.wideAt.filter (fun q => q.1 != n) else s.c.wideAt } }) ∧
      (i.opc = 0x15 → (∃ x ∈ rest, x.isIssue = true) → step s = .next { s with
        agenda := rest.takeWhile (· != .tick) ++ .last n (k :: ts) :: rest.dropWhile (· != .tick) })) ∧
    (∀ e, decode w = .error e → State.overTids { s with agenda := rest } (.fault (flt .illegal)) (k :: ts) = [] →
      step s = .next (State.raiseAll { s with agenda := rest, cur := { unit := n, tids := k :: ts, pc := (s.thread k).pc } } (k :: ts) (flt .illegal)))) ∧
  (∀ (s : State) (rest : List Move) (i : Instr), s.agenda = .event i :: rest → i.isEvent = true → step s = exec i { s with agenda := rest }) ∧
  (∀ s : State, s.agenda = [] → ∃ lag es ps ws, step s = .next { s with
    free := s.free + 1, c := { s.c with lag := lag }, agenda := List.map Move.event es ++ List.map Move.piece ps ++ List.map Move.event ws ++ [.arbitrate] })

/-- R37, R39, R42, R95, R96: no instruction and no step stops; an operand class or a modifier that an instruction does not accept is ILLEGAL for every
thread of the bundle, whatever the guards, and does nothing else; threads whose guard is false only go on; a register number that is out of range is
the fault of the thread whose guard is true; of several numbers, the one of the first field, D, A, B, C, E, is reported (log entry 17). -/
def Obligations.IssueAnswersAndChecks : Prop :=
  (∀ (i : Instr) (s : State), ∃ t, exec i s = .next t) ∧ (∀ s : State, ∃ t, step s = .next t) ∧
  (∀ (i : Instr) (s : State), i.isEvent = false → i.wfIn (s.cur.unit % 5 == 4) = false →
    exec i s = .next (s.raiseAll s.cur.tids (flt .illegal))) ∧
  (∀ (x : V96A) (i : Instr) (s : State),
    i ∈ [.mov x, .iaddV96 x, .isubV96 x, .imulV96 x, .imulh x, .imad x, .iminV96 x, .imaxV96 x, .iabs x, .ineg x, .bnot x, .shl x, .sel x, .fadd x,
         .fmul x, .ffma x, .fcmp x, .brx x] → s.clean i = true → s.executing i = [] →
    ∃ t, exec i s = .next t ∧ t.c.pend = s.c.pend ∧ s.OnlyResults t ∧ s.Advances t i) ∧
  (∀ (x : S64A) (i : Instr) (s : State), i ∈ [.nop x, .pause x, .lbrk x, .trap x, .brk x, .rfe x, .exit x] → s.clean i = true → s.executing i = [] →
    ∃ t, exec i s = .next t ∧ t.c.pend = s.c.pend ∧ s.OnlyResults t ∧ s.Advances t i) ∧
  (∀ (x : V96A) (i : Instr) (s : State) (n : Nat) (f : FaultInfo),
    i ∈ [.mov x, .iaddV96 x, .isubV96 x, .imulV96 x, .imad x, .bnot x, .shl x, .fadd x, .ffma x] →
    i.wfIn (s.cur.unit % 5 == 4) = true → s.cur.tids = [n] → (s.thread? n).isSome = true → s.guards n i = true → s.rangeFault i n = some f →
    ∃ t, exec i s = .next t ∧ s.Raises t n { f with pc := (s.thread n).pc, resume := (s.thread n).pc }) ∧
  (∀ (s : State) (i : Instr) (n : Nat), isCtx n = false → i.kNums = [] →
    let out := fun (q : Nat × Bool × Nat) => (if q.2.1 then (s.thread n).limit else s.wCount n) ≤ q.2.2
    ((∀ q ∈ i.regNums, ¬ out q) → s.rangeFault i n = none) ∧
    ((∃ q ∈ i.regNums, out q) → ∃ f, s.rangeFault i n = some f ∧ f.code = .regrange ∧
      ∃ q ∈ i.regNums, out q ∧ f.aux = q.2.2 ∧ ∀ p ∈ i.regNums, out p → q.1 ≤ p.1))

/-! ## Storage -/

/-- R9, R465, R470: after reset no thread, workgroup or region stands, nothing is in flight, every byte of the module's memory reads zero with no
poison, RDY is 0, and every control register reads the reset value of its map. -/
def Obligations.ResetState : Prop :=
  State.reset.canonical = true ∧ (∀ a, State.reset.byteAt a = 0) ∧ State.reset.m.pois = [] ∧
  State.reset.c.threads = [] ∧ State.reset.c.wgs = [] ∧ State.reset.l.regions = [] ∧ State.reset.c.pend = [] ∧ State.reset.m.ops = [] ∧
  (∀ o, State.reset.reg o = regReset o) ∧ State.reset.fld rHostStat 0 0 = 0 ∧ State.reset.fld rHostCtl 0 0 = 0 ∧
  State.reset.reg rPwr = 0x11F810680FA0 ∧ State.reset.hs = 12 ∧ State.reset.plog = 0 ∧ State.reset.hway = 0x0FFF ∧
  State.reset.nmod = 1 ∧ State.reset.fabEn = false ∧
  (∀ n, n < 8 → State.reset.reg (rSubqBase n) = 4) ∧ (∀ k, k < 8 → State.reset.reg (rMon k + 8) = 0xFFFFFFFF)

/-- R18, R225, R227, R470, R475: a byte written reads back, a byte stored elsewhere stays, a write outside the populated ranges changes nothing; two
addresses of one module that are populated never share a storage byte; a control register written reads back and leaves the others; every write keeps
the canonical form. -/
def Obligations.StorageReadsBack : Prop :=
  (∀ (s : State) (x : Nat) (v : Byte), s.canonical = true →
    (s.place x ≠ none → (s.setByte x v).byteAt x = v) ∧ (s.place x = none → s.setByte x v = s ∧ s.byteAt x = 0) ∧
    (∀ y, s.place y ≠ s.place x → (s.setByte x v).byteAt y = s.byteAt y) ∧
    (s.setByte x v).canonical = true) ∧
  (∀ (s : State) (x y : Nat), s.plog ≤ 6 → s.hs ≤ 12 → hostSpace x = false → hostSpace y = false → s.populated x = true → s.populated y = true →
    s.here x = true → s.here y = true → s.storeAddr x < 64 * (12 * 2 ^ 23) * 128 ∧ (s.storeAddr x = s.storeAddr y → x = y)) ∧
  (∀ (s : State) (x n v : Nat), s.canonical = true → (∀ i < n, s.place (x + i) ≠ none) → x / 128 = (x + n - 1) / 128 →
    (s.wrNat x n v).rdNat x n = v % 256 ^ n) ∧
  (∀ (s : State) (o : Nat) (x : Word), s.canonical = true →
    (s.setReg o x).reg o = x ∧ (∀ p, p ≠ o → (s.setReg o x).reg p = s.reg p) ∧ (s.setReg o x).canonical = true) ∧
  (∀ (l : List Cell) (a n v : Nat), Memory.wf l = true → Memory.wf (memPut l a n v) = true ∧ memNat (memPut l a n v) a n = v % 256 ^ n ∧
    ∀ b, b < a ∨ a + n ≤ b → memGet (memPut l a n v) b = memGet l b)

/-- R470, R475 and the model's own form of a memory: from every state whose memories and control registers are in canonical form, a step gives one
whose memories and control registers are. -/
def Obligations.StepKeepsStorageCanonical : Prop :=
  ∀ s t : State, s.canonical = true → step s = .next t → t.canonical = true
end

