-- ==== Sys2Proof/Laws/State.lean ====
section
/-! SUPPORT. One lemma for each part of the state and each setter, so that no proof unfolds a record update. -/

namespace Sys2Proof.Machine
open Sys2Proof

variable (s : State)

@[simp] theorem State.setThreads_clk (ts : List Thread) : (s.setThreads ts).clk = s.clk := rfl
@[simp] theorem State.setThreads_free (ts : List Thread) : (s.setThreads ts).free = s.free := rfl
@[simp] theorem State.setThreads_agenda (ts : List Thread) : (s.setThreads ts).agenda = s.agenda := rfl
@[simp] theorem State.setThreads_cur (ts : List Thread) : (s.setThreads ts).cur = s.cur := rfl
@[simp] theorem State.setThreads_c (ts : List Thread) : (s.setThreads ts).c = { s.c with threads := ts } := rfl
@[simp] theorem State.setThreads_l (ts : List Thread) : (s.setThreads ts).l = s.l := rfl
@[simp] theorem State.setThreads_m (ts : List Thread) : (s.setThreads ts).m = s.m := rfl
@[simp] theorem State.setThreads_b (ts : List Thread) : (s.setThreads ts).b = s.b := rfl

@[simp] theorem State.setWarps_clk (ws : List Warp) : (s.setWarps ws).clk = s.clk := rfl
@[simp] theorem State.setWarps_free (ws : List Warp) : (s.setWarps ws).free = s.free := rfl
@[simp] theorem State.setWarps_agenda (ws : List Warp) : (s.setWarps ws).agenda = s.agenda := rfl
@[simp] theorem State.setWarps_cur (ws : List Warp) : (s.setWarps ws).cur = s.cur := rfl
@[simp] theorem State.setWarps_c (ws : List Warp) : (s.setWarps ws).c = { s.c with warps := ws } := rfl
@[simp] theorem State.setWarps_l (ws : List Warp) : (s.setWarps ws).l = s.l := rfl
@[simp] theorem State.setWarps_m (ws : List Warp) : (s.setWarps ws).m = s.m := rfl
@[simp] theorem State.setWarps_b (ws : List Warp) : (s.setWarps ws).b = s.b := rfl

@[simp] theorem State.setWgs_clk (gs : List Wg) : (s.setWgs gs).clk = s.clk := rfl
@[simp] theorem State.setWgs_free (gs : List Wg) : (s.setWgs gs).free = s.free := rfl
@[simp] theorem State.setWgs_agenda (gs : List Wg) : (s.setWgs gs).agenda = s.agenda := rfl
@[simp] theorem State.setWgs_cur (gs : List Wg) : (s.setWgs gs).cur = s.cur := rfl
@[simp] theorem State.setWgs_c (gs : List Wg) : (s.setWgs gs).c = { s.c with wgs := gs } := rfl
@[simp] theorem State.setWgs_l (gs : List Wg) : (s.setWgs gs).l = s.l := rfl
@[simp] theorem State.setWgs_m (gs : List Wg) : (s.setWgs gs).m = s.m := rfl
@[simp] theorem State.setWgs_b (gs : List Wg) : (s.setWgs gs).b = s.b := rfl

@[simp] theorem State.setPend_clk (p : List Pend) : (s.setPend p).clk = s.clk := rfl
@[simp] theorem State.setPend_free (p : List Pend) : (s.setPend p).free = s.free := rfl
@[simp] theorem State.setPend_agenda (p : List Pend) : (s.setPend p).agenda = s.agenda := rfl
@[simp] theorem State.setPend_cur (p : List Pend) : (s.setPend p).cur = s.cur := rfl
@[simp] theorem State.setPend_c (p : List Pend) : (s.setPend p).c = { s.c with pend := p } := rfl
@[simp] theorem State.setPend_l (p : List Pend) : (s.setPend p).l = s.l := rfl
@[simp] theorem State.setPend_m (p : List Pend) : (s.setPend p).m = s.m := rfl
@[simp] theorem State.setPend_b (p : List Pend) : (s.setPend p).b = s.b := rfl

@[simp] theorem State.setXfers_clk (x : List Xfer) : (s.setXfers x).clk = s.clk := rfl
@[simp] theorem State.setXfers_free (x : List Xfer) : (s.setXfers x).free = s.free := rfl
@[simp] theorem State.setXfers_agenda (x : List Xfer) : (s.setXfers x).agenda = s.agenda := rfl
@[simp] theorem State.setXfers_cur (x : List Xfer) : (s.setXfers x).cur = s.cur := rfl
@[simp] theorem State.setXfers_c (x : List Xfer) : (s.setXfers x).c = { s.c with xfers := x } := rfl
@[simp] theorem State.setXfers_l (x : List Xfer) : (s.setXfers x).l = s.l := rfl
@[simp] theorem State.setXfers_m (x : List Xfer) : (s.setXfers x).m = s.m := rfl
@[simp] theorem State.setXfers_b (x : List Xfer) : (s.setXfers x).b = s.b := rfl

@[simp] theorem State.setRegions_clk (rs : List Region) : (s.setRegions rs).clk = s.clk := rfl
@[simp] theorem State.setRegions_free (rs : List Region) : (s.setRegions rs).free = s.free := rfl
@[simp] theorem State.setRegions_agenda (rs : List Region) : (s.setRegions rs).agenda = s.agenda := rfl
@[simp] theorem State.setRegions_cur (rs : List Region) : (s.setRegions rs).cur = s.cur := rfl
@[simp] theorem State.setRegions_c (rs : List Region) : (s.setRegions rs).c = s.c := rfl
@[simp] theorem State.setRegions_l (rs : List Region) : (s.setRegions rs).l = { s.l with regions := rs } := rfl
@[simp] theorem State.setRegions_m (rs : List Region) : (s.setRegions rs).m = s.m := rfl
@[simp] theorem State.setRegions_b (rs : List Region) : (s.setRegions rs).b = s.b := rfl

@[simp] theorem State.setReg_clk (off : Nat) (x : Word) : (s.setReg off x).clk = s.clk := rfl
@[simp] theorem State.setReg_free (off : Nat) (x : Word) : (s.setReg off x).free = s.free := rfl
@[simp] theorem State.setReg_agenda (off : Nat) (x : Word) : (s.setReg off x).agenda = s.agenda := rfl
@[simp] theorem State.setReg_cur (off : Nat) (x : Word) : (s.setReg off x).cur = s.cur := rfl
@[simp] theorem State.setReg_c (off : Nat) (x : Word) : (s.setReg off x).c = s.c := rfl
@[simp] theorem State.setReg_l (off : Nat) (x : Word) : (s.setReg off x).l = s.l := rfl
@[simp] theorem State.setReg_m (off : Nat) (x : Word) : (s.setReg off x).m = s.m := rfl
@[simp] theorem State.setReg_b (off : Nat) (x : Word) : (s.setReg off x).b = { s.b with regs := regSet s.b.regs off x } := rfl

@[simp] theorem State.setColQ_clk (q : List Req) : (s.setColQ q).clk = s.clk := rfl
@[simp] theorem State.setColQ_free (q : List Req) : (s.setColQ q).free = s.free := rfl
@[simp] theorem State.setColQ_agenda (q : List Req) : (s.setColQ q).agenda = s.agenda := rfl
@[simp] theorem State.setColQ_cur (q : List Req) : (s.setColQ q).cur = s.cur := rfl
@[simp] theorem State.setColQ_c (q : List Req) : (s.setColQ q).c = s.c := rfl
@[simp] theorem State.setColQ_l (q : List Req) : (s.setColQ q).l = s.l := rfl
@[simp] theorem State.setColQ_m (q : List Req) : (s.setColQ q).m = { s.m with colQ := q } := rfl
@[simp] theorem State.setColQ_b (q : List Req) : (s.setColQ q).b = s.b := rfl

@[simp] theorem State.setAQ_clk (q : List Req) : (s.setAQ q).clk = s.clk := rfl
@[simp] theorem State.setAQ_free (q : List Req) : (s.setAQ q).free = s.free := rfl
@[simp] theorem State.setAQ_agenda (q : List Req) : (s.setAQ q).agenda = s.agenda := rfl
@[simp] theorem State.setAQ_cur (q : List Req) : (s.setAQ q).cur = s.cur := rfl
@[simp] theorem State.setAQ_c (q : List Req) : (s.setAQ q).c = s.c := rfl
@[simp] theorem State.setAQ_l (q : List Req) : (s.setAQ q).l = s.l := rfl
@[simp] theorem State.setAQ_m (q : List Req) : (s.setAQ q).m = { s.m with aQ := q } := rfl
@[simp] theorem State.setAQ_b (q : List Req) : (s.setAQ q).b = s.b := rfl

@[simp] theorem State.setBQ_clk (q : List Req) : (s.setBQ q).clk = s.clk := rfl
@[simp] theorem State.setBQ_free (q : List Req) : (s.setBQ q).free = s.free := rfl
@[simp] theorem State.setBQ_agenda (q : List Req) : (s.setBQ q).agenda = s.agenda := rfl
@[simp] theorem State.setBQ_cur (q : List Req) : (s.setBQ q).cur = s.cur := rfl
@[simp] theorem State.setBQ_c (q : List Req) : (s.setBQ q).c = s.c := rfl
@[simp] theorem State.setBQ_l (q : List Req) : (s.setBQ q).l = s.l := rfl
@[simp] theorem State.setBQ_m (q : List Req) : (s.setBQ q).m = { s.m with bQ := q } := rfl
@[simp] theorem State.setBQ_b (q : List Req) : (s.setBQ q).b = s.b := rfl

@[simp] theorem State.setAnss_clk (a : List Ans) : (s.setAnss a).clk = s.clk := rfl
@[simp] theorem State.setAnss_free (a : List Ans) : (s.setAnss a).free = s.free := rfl
@[simp] theorem State.setAnss_agenda (a : List Ans) : (s.setAnss a).agenda = s.agenda := rfl
@[simp] theorem State.setAnss_cur (a : List Ans) : (s.setAnss a).cur = s.cur := rfl
@[simp] theorem State.setAnss_c (a : List Ans) : (s.setAnss a).c = s.c := rfl
@[simp] theorem State.setAnss_l (a : List Ans) : (s.setAnss a).l = s.l := rfl
@[simp] theorem State.setAnss_m (a : List Ans) : (s.setAnss a).m = { s.m with anss := a } := rfl
@[simp] theorem State.setAnss_b (a : List Ans) : (s.setAnss a).b = s.b := rfl

@[simp] theorem State.modThread_clk (tid : Nat) (f : Thread → Thread) : (s.modThread tid f).clk = s.clk := rfl
@[simp] theorem State.modThread_free (tid : Nat) (f : Thread → Thread) : (s.modThread tid f).free = s.free := rfl
@[simp] theorem State.modThread_agenda (tid : Nat) (f : Thread → Thread) : (s.modThread tid f).agenda = s.agenda := rfl
@[simp] theorem State.modThread_cur (tid : Nat) (f : Thread → Thread) : (s.modThread tid f).cur = s.cur := rfl
@[simp] theorem State.modThread_c (tid : Nat) (f : Thread → Thread) : (s.modThread tid f).c = { s.c with threads := s.c.threads.map fun t => if t.tid == tid then f t else t } := rfl
@[simp] theorem State.modThread_l (tid : Nat) (f : Thread → Thread) : (s.modThread tid f).l = s.l := rfl
@[simp] theorem State.modThread_m (tid : Nat) (f : Thread → Thread) : (s.modThread tid f).m = s.m := rfl
@[simp] theorem State.modThread_b (tid : Nat) (f : Thread → Thread) : (s.modThread tid f).b = s.b := rfl

@[simp] theorem State.modWarp_clk (wid : Nat) (f : Warp → Warp) : (s.modWarp wid f).clk = s.clk := rfl
@[simp] theorem State.modWarp_free (wid : Nat) (f : Warp → Warp) : (s.modWarp wid f).free = s.free := rfl
@[simp] theorem State.modWarp_agenda (wid : Nat) (f : Warp → Warp) : (s.modWarp wid f).agenda = s.agenda := rfl
@[simp] theorem State.modWarp_cur (wid : Nat) (f : Warp → Warp) : (s.modWarp wid f).cur = s.cur := rfl
@[simp] theorem State.modWarp_c (wid : Nat) (f : Warp → Warp) : (s.modWarp wid f).c = { s.c with warps := s.c.warps.map fun w => if w.wid == wid then f w else w } := rfl
@[simp] theorem State.modWarp_l (wid : Nat) (f : Warp → Warp) : (s.modWarp wid f).l = s.l := rfl
@[simp] theorem State.modWarp_m (wid : Nat) (f : Warp → Warp) : (s.modWarp wid f).m = s.m := rfl
@[simp] theorem State.modWarp_b (wid : Nat) (f : Warp → Warp) : (s.modWarp wid f).b = s.b := rfl

@[simp] theorem State.modWg_clk (key : Nat) (f : Wg → Wg) : (s.modWg key f).clk = s.clk := rfl
@[simp] theorem State.modWg_free (key : Nat) (f : Wg → Wg) : (s.modWg key f).free = s.free := rfl
@[simp] theorem State.modWg_agenda (key : Nat) (f : Wg → Wg) : (s.modWg key f).agenda = s.agenda := rfl
@[simp] theorem State.modWg_cur (key : Nat) (f : Wg → Wg) : (s.modWg key f).cur = s.cur := rfl
@[simp] theorem State.modWg_c (key : Nat) (f : Wg → Wg) : (s.modWg key f).c = { s.c with wgs := s.c.wgs.map fun g => if g.key == key then f g else g } := rfl
@[simp] theorem State.modWg_l (key : Nat) (f : Wg → Wg) : (s.modWg key f).l = s.l := rfl
@[simp] theorem State.modWg_m (key : Nat) (f : Wg → Wg) : (s.modWg key f).m = s.m := rfl
@[simp] theorem State.modWg_b (key : Nat) (f : Wg → Wg) : (s.modWg key f).b = s.b := rfl

@[simp] theorem State.modRegion_clk (n : Nat) (f : Region → Region) : (s.modRegion n f).clk = s.clk := rfl
@[simp] theorem State.modRegion_free (n : Nat) (f : Region → Region) : (s.modRegion n f).free = s.free := rfl
@[simp] theorem State.modRegion_agenda (n : Nat) (f : Region → Region) : (s.modRegion n f).agenda = s.agenda := rfl
@[simp] theorem State.modRegion_cur (n : Nat) (f : Region → Region) : (s.modRegion n f).cur = s.cur := rfl
@[simp] theorem State.modRegion_c (n : Nat) (f : Region → Region) : (s.modRegion n f).c = s.c := rfl
@[simp] theorem State.modRegion_l (n : Nat) (f : Region → Region) : (s.modRegion n f).l = { s.l with regions := s.l.regions.map fun r => if r.num == n then f r else r } := rfl
@[simp] theorem State.modRegion_m (n : Nat) (f : Region → Region) : (s.modRegion n f).m = s.m := rfl
@[simp] theorem State.modRegion_b (n : Nat) (f : Region → Region) : (s.modRegion n f).b = s.b := rfl

@[simp] theorem State.addPend_clk (p : List Pend) : (s.addPend p).clk = s.clk := rfl
@[simp] theorem State.addPend_free (p : List Pend) : (s.addPend p).free = s.free := rfl
@[simp] theorem State.addPend_agenda (p : List Pend) : (s.addPend p).agenda = s.agenda := rfl
@[simp] theorem State.addPend_cur (p : List Pend) : (s.addPend p).cur = s.cur := rfl
@[simp] theorem State.addPend_c (p : List Pend) : (s.addPend p).c = { s.c with pend := s.c.pend ++ p } := rfl
@[simp] theorem State.addPend_l (p : List Pend) : (s.addPend p).l = s.l := rfl
@[simp] theorem State.addPend_m (p : List Pend) : (s.addPend p).m = s.m := rfl
@[simp] theorem State.addPend_b (p : List Pend) : (s.addPend p).b = s.b := rfl

@[simp] theorem State.setUnit_clk (u : UnitSt) : (s.setUnit u).clk = s.clk := rfl
@[simp] theorem State.setUnit_free (u : UnitSt) : (s.setUnit u).free = s.free := rfl
@[simp] theorem State.setUnit_agenda (u : UnitSt) : (s.setUnit u).agenda = s.agenda := rfl
@[simp] theorem State.setUnit_cur (u : UnitSt) : (s.setUnit u).cur = s.cur := rfl
@[simp] theorem State.setUnit_c (u : UnitSt) : (s.setUnit u).c = s.c := rfl
@[simp] theorem State.setUnit_l (u : UnitSt) : (s.setUnit u).l = s.l := rfl
@[simp] theorem State.setUnit_m (u : UnitSt) : (s.setUnit u).m = s.m := rfl
@[simp] theorem State.setUnit_b (u : UnitSt) : (s.setUnit u).b = { s.b with units := insertBy (fun a b => decide (a.n ≤ b.n)) u (s.b.units.filter fun v => v.n != u.n) } := rfl

@[simp] theorem State.setTraceBuf_clk (x : TraceBuf) : (s.setTraceBuf x).clk = s.clk := rfl
@[simp] theorem State.setTraceBuf_free (x : TraceBuf) : (s.setTraceBuf x).free = s.free := rfl
@[simp] theorem State.setTraceBuf_agenda (x : TraceBuf) : (s.setTraceBuf x).agenda = s.agenda := rfl
@[simp] theorem State.setTraceBuf_cur (x : TraceBuf) : (s.setTraceBuf x).cur = s.cur := rfl
@[simp] theorem State.setTraceBuf_c (x : TraceBuf) : (s.setTraceBuf x).c = s.c := rfl
@[simp] theorem State.setTraceBuf_l (x : TraceBuf) : (s.setTraceBuf x).l = s.l := rfl
@[simp] theorem State.setTraceBuf_m (x : TraceBuf) : (s.setTraceBuf x).m = s.m := rfl
@[simp] theorem State.setTraceBuf_b (x : TraceBuf) : (s.setTraceBuf x).b = { s.b with traces := insertBy (fun a b => decide (a.k ≤ b.k)) x (s.b.traces.filter fun v => v.k != x.k) } := rfl

end Sys2Proof.Machine
end

