-- ==== Sys2Proof/Laws/Store.lean ====
section
/-! SUPPORT. Memories and the control registers: a read after a write, and the canonical form that every write keeps. -/

namespace Sys2Proof.Machine
open Sys2Proof

/-! ### Cells -/

theorem Memory.wf_cons (c : Cell) (r : List Cell) :
    Memory.wf (c :: r) = true ↔ c.2 ≠ 0 ∧ (∀ d ∈ r, c.1 < d.1) ∧ Memory.wf r = true := by
  induction r generalizing c with
  | nil => simp [Memory.wf]
  | cons d r ih =>
    simp only [Memory.wf, Bool.and_eq_true, bne_iff_ne, decide_eq_true_eq, List.mem_cons, forall_eq_or_imp]
    constructor
    · rintro ⟨⟨h1, h2⟩, h3⟩
      exact ⟨h1, ⟨h2, fun e he => lt_trans h2 (((ih d).1 h3).2.1 e he)⟩, h3⟩
    · rintro ⟨h1, ⟨h2, _⟩, h4⟩
      exact ⟨⟨h1, h2⟩, h4⟩

/-- Below the first listed address every byte is zero. -/
theorem memGet_below (m : List Cell) (a : Nat) (h : ∀ d ∈ m, a < d.1) : memGet m a = 0 := by
  induction m with
  | nil => rfl
  | cons c r ih =>
    have hc := h c (by simp)
    simp only [memGet, beq_iff_eq, show ¬ c.1 = a by omega, if_false]
    exact ih fun d hd => h d (by simp [hd])

/-- A byte that was written reads back. -/
theorem memGet_memSet_same (m : List Cell) (a : Nat) (x : Byte) (h : Memory.wf m = true) : memGet (memSet m a x) a = x := by
  induction m with
  | nil => unfold memSet; split <;> simp_all [memGet]
  | cons c r ih =>
    obtain ⟨_, h2, h3⟩ := (Memory.wf_cons c r).1 h
    unfold memSet
    split
    · rename_i hlt
      split
      · rename_i hx
        rw [memGet_below, eq_of_beq hx]
        intro d hd
        rcases List.mem_cons.1 hd with rfl | hd
        · exact hlt
        · exact lt_trans hlt (h2 d hd)
      · simp [memGet]
    · split
      · rename_i hca
        split
        · rename_i hx
          rw [memGet_below r a fun d hd => (eq_of_beq hca) ▸ h2 d hd, eq_of_beq hx]
        · simp [memGet]
      · rename_i hca
        simp only [memGet, hca, Bool.false_eq_true, if_false]
        exact ih h3

/-- A write leaves every other byte alone. -/
theorem memGet_memSet_ne (m : List Cell) (a b : Nat) (x : Byte) (h : b ≠ a) : memGet (memSet m a x) b = memGet m b := by
  induction m with
  | nil => unfold memSet; split <;> simp [memGet, Ne.symm h]
  | cons c r ih =>
    unfold memSet
    split
    · split <;> simp [memGet, Ne.symm h]
    · split
      · rename_i hca
        have : ¬ c.1 = b := by rw [eq_of_beq hca]; exact Ne.symm h
        split <;> simp [memGet, this, Ne.symm h]
      · simp only [memGet, ih]

theorem memSet_above (m : List Cell) (a c : Nat) (x : Byte) (hm : ∀ d ∈ m, c < d.1) (ha : c < a) : ∀ d ∈ memSet m a x, c < d.1 := by
  induction m with
  | nil => unfold memSet; split <;> simp [ha]
  | cons e r ih =>
    have he := hm e (by simp)
    have hr : ∀ d ∈ r, c < d.1 := fun d hd => hm d (by simp [hd])
    have hi := ih hr
    unfold memSet
    split
    · split
      · exact hm
      · simp only [List.mem_cons, forall_eq_or_imp]; tauto
    · split
      · split
        · exact hr
        · simp only [List.mem_cons, forall_eq_or_imp]; tauto
      · simp only [List.mem_cons, forall_eq_or_imp]; tauto

/-- A write keeps the canonical form. -/
theorem memSet_wf (m : List Cell) (a : Nat) (x : Byte) (h : Memory.wf m = true) : Memory.wf (memSet m a x) = true := by
  induction m with
  | nil => unfold memSet; split <;> simp_all [Memory.wf]
  | cons c r ih =>
    obtain ⟨h1, h2, h3⟩ := (Memory.wf_cons c r).1 h
    unfold memSet
    split
    · rename_i hlt
      split
      · exact h
      · rename_i hx
        refine (Memory.wf_cons _ _).2 ⟨by simpa using hx, ?_, h⟩
        simp only [List.mem_cons, forall_eq_or_imp]
        exact ⟨hlt, fun d hd => lt_trans hlt (h2 d hd)⟩
    · rename_i hlt
      split
      · rename_i hca
        split
        · exact h3
        · rename_i hx
          exact (Memory.wf_cons _ _).2 ⟨by simpa using hx, fun d hd => (eq_of_beq hca) ▸ h2 d hd, h3⟩
      · rename_i hca
        have : c.1 < a := by
          have : ¬ c.1 = a := by simpa using hca
          omega
        exact (Memory.wf_cons _ _).2 ⟨h1, memSet_above r a c.1 x h2 this, ih h3⟩

theorem memPut_wf (n : Nat) : ∀ (m : List Cell) (a x : Nat), Memory.wf m = true → Memory.wf (memPut m a n x) = true := by
  induction n with
  | zero => intro m a x h; exact h
  | succ n ih => intro m a x h; exact ih _ _ _ (memSet_wf m a _ h)

theorem memPutMask_wf (n : Nat) : ∀ (m : List Cell) (a k x : Nat), Memory.wf m = true → Memory.wf (memPutMask m a k n x) = true := by
  induction n with
  | zero => intro m a k x h; exact h
  | succ n ih =>
    intro m a k x h
    unfold memPutMask
    split
    · exact ih _ _ _ _ (memSet_wf m a _ h)
    · exact ih _ _ _ _ h

/-! ### Control registers -/

theorem regsWf_cons (c : Nat × Word) (r : List (Nat × Word)) :
    regsWf (c :: r) = true ↔ c.2 ≠ regReset c.1 ∧ (∀ d ∈ r, c.1 < d.1) ∧ regsWf r = true := by
  induction r generalizing c with
  | nil => simp [regsWf]
  | cons d r ih =>
    simp only [regsWf, Bool.and_eq_true, bne_iff_ne, decide_eq_true_eq, List.mem_cons, forall_eq_or_imp]
    constructor
    · rintro ⟨⟨h1, h2⟩, h3⟩
      exact ⟨h1, ⟨h2, fun e he => lt_trans h2 (((ih d).1 h3).2.1 e he)⟩, h3⟩
    · rintro ⟨h1, ⟨h2, _⟩, h4⟩
      exact ⟨⟨h1, h2⟩, h4⟩

theorem regGet_below (m : List (Nat × Word)) (a : Nat) (h : ∀ d ∈ m, a < d.1) : regGet m a = regReset a := by
  induction m with
  | nil => rfl
  | cons c r ih =>
    have hc := h c (by simp)
    simp only [regGet, beq_iff_eq, show ¬ c.1 = a by omega, if_false]
    exact ih fun d hd => h d (by simp [hd])

/-- A register word that was written reads back. -/
theorem regGet_regSet_same (m : List (Nat × Word)) (a : Nat) (x : Word) (h : regsWf m = true) : regGet (regSet m a x) a = x := by
  induction m with
  | nil => by_cases hx : x = regReset a <;> simp [regSet, regGet, hx]
  | cons c r ih =>
    obtain ⟨_, h2, h3⟩ := (regsWf_cons c r).1 h
    unfold regSet
    split
    · rename_i hlt
      split
      · rename_i hx
        rw [regGet_below, eq_of_beq hx]
        intro d hd
        rcases List.mem_cons.1 hd with rfl | hd
        · exact hlt
        · exact lt_trans hlt (h2 d hd)
      · simp [regGet]
    · split
      · rename_i hca
        split
        · rename_i hx
          rw [regGet_below r a fun d hd => (eq_of_beq hca) ▸ h2 d hd, eq_of_beq hx]
        · simp [regGet]
      · rename_i hca
        simp only [regGet, hca, Bool.false_eq_true, if_false]
        exact ih h3

/-- A register write leaves every other register word alone. -/
theorem regGet_regSet_ne (m : List (Nat × Word)) (a b : Nat) (x : Word) (h : b ≠ a) : regGet (regSet m a x) b = regGet m b := by
  induction m with
  | nil => unfold regSet; split <;> simp [regGet, Ne.symm h]
  | cons c r ih =>
    unfold regSet
    split
    · split <;> simp [regGet, Ne.symm h]
    · split
      · rename_i hca
        have : ¬ c.1 = b := by rw [eq_of_beq hca]; exact Ne.symm h
        split <;> simp [regGet, this, Ne.symm h]
      · simp only [regGet, ih]

theorem regSet_above (m : List (Nat × Word)) (a c : Nat) (x : Word) (hm : ∀ d ∈ m, c < d.1) (ha : c < a) : ∀ d ∈ regSet m a x, c < d.1 := by
  induction m with
  | nil => by_cases hx : x = regReset a <;> simp [regSet, hx, ha]
  | cons e r ih =>
    have he := hm e (by simp)
    have hi := ih fun d hd => hm d (by simp [hd])
    have hr : ∀ d ∈ r, c < d.1 := fun d hd => hm d (by simp [hd])
    unfold regSet
    split
    · split
      · exact hm
      · simp only [List.mem_cons, forall_eq_or_imp]; tauto
    · split
      · split
        · exact hr
        · simp only [List.mem_cons, forall_eq_or_imp]; tauto
      · simp only [List.mem_cons, forall_eq_or_imp]; tauto

/-- A register write keeps the canonical form. -/
theorem regSet_wf (m : List (Nat × Word)) (a : Nat) (x : Word) (h : regsWf m = true) : regsWf (regSet m a x) = true := by
  induction m with
  | nil => by_cases hx : x = regReset a <;> simp [regSet, regsWf, hx]
  | cons c r ih =>
    obtain ⟨h1, h2, h3⟩ := (regsWf_cons c r).1 h
    unfold regSet
    split
    · rename_i hlt
      split
      · exact h
      · rename_i hx
        refine (regsWf_cons _ _).2 ⟨by simpa using hx, ?_, h⟩
        simp only [List.mem_cons, forall_eq_or_imp]
        exact ⟨hlt, fun d hd => lt_trans hlt (h2 d hd)⟩
    · rename_i hlt
      split
      · rename_i hca
        split
        · exact h3
        · rename_i hx
          exact (regsWf_cons _ _).2 ⟨by simpa using hx, fun d hd => (eq_of_beq hca) ▸ h2 d hd, h3⟩
      · rename_i hca
        have : c.1 < a := by
          have : ¬ c.1 = a := by simpa using hca
          omega
        exact (regsWf_cons _ _).2 ⟨h1, regSet_above r a c.1 x h2 this, ih h3⟩

/-- The state's registers after a write. -/
theorem State.reg_setReg_same (s : State) (off : Nat) (x : Word) (h : regsWf s.b.regs = true) : (s.setReg off x).reg off = x :=
  regGet_regSet_same _ _ _ h
theorem State.reg_setReg_ne (s : State) (off o : Nat) (x : Word) (h : o ≠ off) : (s.setReg off x).reg o = s.reg o :=
  regGet_regSet_ne _ _ _ _ h

end Sys2Proof.Machine
end

