-- ==== Sys2Proof/Laws/Issue.lean ====
section
/-! SUPPORT. The issue of a bundle: what the count of an issue leaves alone, what an operand reads, and the state after an instruction whose body
only sends results on their way. -/

namespace Sys2Proof.Machine
open Sys2Proof

/-! ### Threads -/

theorem find_map_tid (ts : List Thread) (f : Thread → Thread) (hf : ∀ t, (f t).tid = t.tid) (n : Nat) :
    (ts.map f).find? (fun t => t.tid == n) = (ts.find? fun t => t.tid == n).map f := by
  induction ts with
  | nil => rfl
  | cons t r ih =>
    simp only [List.map_cons, List.find?_cons, hf]
    split <;> simp_all

theorem State.thread?_setThreads_map (s : State) (f : Thread → Thread) (hf : ∀ t, (f t).tid = t.tid) (n : Nat) :
    (s.setThreads (s.c.threads.map f)).thread? n = (s.thread? n).map f := find_map_tid _ _ hf n

theorem State.thread_tid (s : State) (n : Nat) : (s.thread n).tid = n := by
  unfold State.thread
  cases h : s.thread? n with
  | none => rfl
  | some t => simpa using List.find?_some h

theorem State.thread?_modThread (s : State) (k : Nat) (f : Thread → Thread) (hf : ∀ t, (f t).tid = t.tid) (n : Nat) :
    (s.modThread k f).thread? n = (s.thread? n).map fun t => if n = k then f t else t := by
  unfold State.modThread
  rw [State.thread?_setThreads_map]
  · unfold State.thread?
    cases h : s.c.threads.find? fun t => t.tid == n with
    | none => rfl
    | some t =>
      have := List.find?_some h
      simp only [beq_iff_eq] at this
      simp [this]
  · intro t; split <;> simp [hf]

theorem State.thread_modThread_ne (s : State) (k n : Nat) (f : Thread → Thread) (hf : ∀ t, (f t).tid = t.tid) (h : n ≠ k) :
    (s.modThread k f).thread n = s.thread n := by
  simp only [State.thread, s.thread?_modThread k f hf, h, if_false]
  cases s.thread? n <;> rfl

theorem State.thread_modThread_same (s : State) (k : Nat) (f : Thread → Thread) (hf : ∀ t, (f t).tid = t.tid) (h : (s.thread? k).isSome) :
    (s.modThread k f).thread k = f (s.thread k) := by
  simp only [State.thread, s.thread?_modThread k f hf, if_true]
  cases hk : s.thread? k with
  | none => simp [hk] at h
  | some t => rfl

/-! ### The count of an issue (R82) -/

@[simp] theorem State.skidCount_clk (s : State) (n : Nat) (ts : List Nat) : (s.skidCount n ts).clk = s.clk := by unfold State.skidCount; grind [State.setUnit]
@[simp] theorem State.skidCount_free (s : State) (n : Nat) (ts : List Nat) : (s.skidCount n ts).free = s.free := by unfold State.skidCount; grind [State.setUnit]
@[simp] theorem State.skidCount_agenda (s : State) (n : Nat) (ts : List Nat) : (s.skidCount n ts).agenda = s.agenda := by unfold State.skidCount; grind [State.setUnit]
@[simp] theorem State.skidCount_cur (s : State) (n : Nat) (ts : List Nat) : (s.skidCount n ts).cur = s.cur := by unfold State.skidCount; grind [State.setUnit]
@[simp] theorem State.skidCount_c (s : State) (n : Nat) (ts : List Nat) : (s.skidCount n ts).c = s.c := by unfold State.skidCount; grind [State.setUnit]
@[simp] theorem State.skidCount_l (s : State) (n : Nat) (ts : List Nat) : (s.skidCount n ts).l = s.l := by unfold State.skidCount; grind [State.setUnit]
@[simp] theorem State.skidCount_m (s : State) (n : Nat) (ts : List Nat) : (s.skidCount n ts).m = s.m := by unfold State.skidCount; grind [State.setUnit]

theorem State.skidCount_b (s : State) (n : Nat) (ts : List Nat) : (s.skidCount n ts).b = { s.b with units := (s.skidCount n ts).b.units } := by
  unfold State.skidCount
  simp only
  split
  · split <;> simp [State.setUnit]
  · rfl

theorem State.skidCount_eq (s : State) (n : Nat) (ts : List Nat) : s.skidCount n ts = { s with b := (s.skidCount n ts).b } := by
  unfold State.skidCount
  simp only
  split
  · split <;> simp [State.setUnit]
  · rfl

/-- What the count of an issue does to one thread of the bundle. -/
def State.counted (s : State) (i : Instr) (t : Thread) : Thread :=
  { t with
    ycnt := if t.replay || (i.opc == 0x16 && s.guards t.tid i) then t.ycnt else t.ycnt + 1
    wait := .none, park := false, losses := 0, issuedAt := if t.replay then t.issuedAt else s.clk }

theorem State.countIssue_eq (s : State) (i : Instr) :
    s.countIssue i s.cur.tids =
      { s with c := { s.c with threads := s.c.threads.map fun t => if s.cur.tids.contains t.tid then s.counted i t else t }
               b := { s.b with units := (s.skidCount s.cur.unit s.cur.tids).b.units } } := by
  unfold State.countIssue State.counted
  rw [← s.skidCount_b]
  simp only [State.setThreads, State.skidCount_c]
  conv_lhs => rw [show s.skidCount s.cur.unit s.cur.tids = { s with b := (s.skidCount s.cur.unit s.cur.tids).b } from s.skidCount_eq _ _]

theorem State.thread?_countIssue (s : State) (i : Instr) (n : Nat) :
    (s.countIssue i s.cur.tids).thread? n = (s.thread? n).map fun t => if s.cur.tids.contains n then s.counted i t else t := by
  rw [State.countIssue_eq]
  unfold State.thread?
  simp only
  rw [find_map_tid]
  · cases h : s.c.threads.find? fun t => t.tid == n with
    | none => rfl
    | some t =>
      have := List.find?_some h
      simp only [beq_iff_eq] at this
      simp [this]
  · intro t; split <;> rfl

theorem State.thread_countIssue (s : State) (i : Instr) (n : Nat) :
    (s.countIssue i s.cur.tids).thread n = (s.thread n).control ((s.countIssue i s.cur.tids).thread n) := by
  unfold State.thread
  rw [State.thread?_countIssue]
  cases s.thread? n with
  | none => rfl
  | some t => simp only [Option.map_some, Option.getD_some]; split <;> rfl

/-! ### Operands -/

/-- Two states from which every operand reads the same. -/
structure State.SameOperands (s t : State) : Prop where
  pend : t.c.pend = s.c.pend
  free : t.free = s.free
  warps : t.c.warps = s.c.warps
  regs : ∀ n, t.thread n = (s.thread n).control (t.thread n)
  snaps : ∀ n, (t.thread n).snap = (s.thread n).snap ∧ (t.thread n).replay = (s.thread n).replay

theorem State.SameOperands.countIssue (s : State) (i : Instr) : s.SameOperands (s.countIssue i s.cur.tids) where
  pend := by rw [State.countIssue_eq]
  free := by rw [State.countIssue_eq]
  warps := by rw [State.countIssue_eq]
  regs := s.thread_countIssue i
  snaps n := by
    unfold State.thread
    rw [State.thread?_countIssue]
    cases s.thread? n with
    | none => exact ⟨rfl, rfl⟩
    | some t => simp only [Option.map_some, Option.getD_some]; split <;> exact ⟨rfl, rfl⟩

variable {s t : State}

theorem State.SameOperands.pick (h : s.SameOperands t) (a k : Nat) (l : List Word) : t.pick a k l = s.pick a k l := by
  unfold State.pick; rw [h.free]

theorem State.SameOperands.pendVals (h : s.SameOperands t) (d : RegRef) : t.pendVals d = s.pendVals d := by
  unfold State.pendVals; rw [h.pend]

theorem State.SameOperands.outstanding (h : s.SameOperands t) (d : RegRef) : t.outstanding d = s.outstanding d := by
  unfold State.outstanding; rw [h.pend]

theorem State.SameOperands.warp? (h : s.SameOperands t) (n : Nat) : t.warp? n = s.warp? n := by
  unfold State.warp?; rw [h.warps]

theorem State.SameOperands.v (h : s.SameOperands t) (n : Nat) : (t.thread n).v = (s.thread n).v := by rw [h.regs n]; rfl
theorem State.SameOperands.win (h : s.SameOperands t) (n : Nat) : (t.thread n).win = (s.thread n).win := by rw [h.regs n]; rfl
theorem State.SameOperands.p (h : s.SameOperands t) (n : Nat) : (t.thread n).p = (s.thread n).p := by rw [h.regs n]; rfl
theorem State.SameOperands.rseed (h : s.SameOperands t) (n : Nat) : (t.thread n).rseed = (s.thread n).rseed := by rw [h.regs n]; rfl
theorem State.SameOperands.olthr (h : s.SameOperands t) (n : Nat) : (t.thread n).olthr = (s.thread n).olthr := by rw [h.regs n]; rfl
theorem State.SameOperands.limit (h : s.SameOperands t) (n : Nat) : (t.thread n).limit = (s.thread n).limit := by
  unfold Thread.limit; rw [h.v, h.win]
theorem State.SameOperands.phys (h : s.SameOperands t) (n k : Nat) : (t.thread n).phys k = (s.thread n).phys k := by
  unfold Thread.phys Thread.ring; rw [h.v, h.win]

theorem State.SameOperands.kept (h : s.SameOperands t) (n : Nat) (d : RegRef) (x : Word) : t.kept n d x = s.kept n d x := by
  unfold State.kept; rw [(h.snaps n).1]

theorem State.SameOperands.readV (h : s.SameOperands t) (n k : Nat) : t.readV n k = s.readV n k := by
  unfold State.readV State.readPhys; rw [h.kept, h.phys, h.pendVals, h.v, h.pick]

theorem State.SameOperands.readW (h : s.SameOperands t) (n k : Nat) : t.readW n k = s.readW n k := by
  unfold State.readW; rw [h.kept, h.warp?, h.pendVals, h.pick]

theorem State.SameOperands.readP (h : s.SameOperands t) (n k : Nat) : t.readP n k = s.readP n k := by
  unfold State.readP; rw [h.kept, h.p, h.pendVals, h.pick]

theorem State.SameOperands.opnd (h : s.SameOperands t) (n : Nat) (o : Opnd) : t.opnd n o = s.opnd n o := by
  cases o <;> simp only [State.opnd, h.readV, h.readW, h.readP]

theorem State.SameOperands.el (h : s.SameOperands t) (n : Nat) (ty : Ty) (o : Opnd) (e : Nat) :
    srcEl ty o (t.opnd n o) e = srcEl ty o (s.opnd n o) e := by rw [h.opnd]

theorem State.SameOperands.dest (h : s.SameOperands t) (n : Nat) (o : Opnd) : t.dest n o = s.dest n o := by
  cases o <;> simp only [State.dest, h.phys]

theorem State.SameOperands.targets (h : s.SameOperands t) (ts : List Nat) (d : Opnd) : t.targets ts d = s.targets ts d := by
  cases d <;> simp only [State.targets, h.dest]

theorem State.SameOperands.guard (h : s.SameOperands t) (n : Nat) (g : Guard) : t.guard n g = s.guard n g := by
  unfold State.guard; rw [h.readP]

theorem State.SameOperands.guards (h : s.SameOperands t) (n : Nat) (i : Instr) : t.guards n i = s.guards n i := by
  unfold State.guards; split <;> simp only [h.guard]

/-! ### Control of the threads -/

/-- The thread that has left its instruction, before its next block is chosen. -/
def Thread.stepped (i : Instr) (t : Thread) : Thread :=
  Thread.advance
    { t with
      park := i.park, replay := false, stage := 0, snap := [], walked := [], age := none
      bundle := if i.park || i.endsBundle then none else t.bundle } i.bytes

/-- The control of a thread that goes on to the next instruction. -/
def Thread.onward (s : State) (i : Instr) (t : Thread) : Thread := s.bodyFetch (t.stepped i)

theorem Thread.advance_eq (t : Thread) (n : Nat) : t.advance n = { t with pc := (t.advance n).pc, loop := (t.advance n).loop } := by
  unfold Thread.advance
  dsimp only
  split
  · split <;> rfl
  · rfl

/-- The choice of the next body block changes nothing but the block. -/
theorem State.bodyFetch_eq (s : State) (t : Thread) : s.bodyFetch t = { t with fetch := (s.bodyFetch t).fetch } := by
  unfold State.bodyFetch
  split
  · rfl
  · split
    · rfl
    · split <;> rfl

/-- That choice depends on the free counter alone. -/
theorem State.bodyFetch_free {s u : State} (h : u.free = s.free) (t : Thread) : u.bodyFetch t = s.bodyFetch t := by
  unfold State.bodyFetch; rw [h]

theorem Thread.onward_free {s u : State} (h : u.free = s.free) (i : Instr) (t : Thread) : t.onward u i = t.onward s i := State.bodyFetch_free h _

theorem Thread.onward_tid (s : State) (i : Instr) (t : Thread) : (t.onward s i).tid = t.tid := by
  unfold Thread.onward Thread.stepped; rw [State.bodyFetch_eq, Thread.advance_eq]
theorem Thread.onward_park (s : State) (i : Instr) (t : Thread) : (t.onward s i).park = i.park := by
  unfold Thread.onward Thread.stepped; rw [State.bodyFetch_eq, Thread.advance_eq]
theorem Thread.onward_wait (s : State) (i : Instr) (t : Thread) : (t.onward s i).wait = t.wait := by
  unfold Thread.onward Thread.stepped; rw [State.bodyFetch_eq, Thread.advance_eq]
theorem Thread.onward_control (s : State) (i : Instr) (t : Thread) : t.onward s i = t.control (t.onward s i) := by
  unfold Thread.onward Thread.stepped
  rw [State.bodyFetch_eq, Thread.advance_eq]
  rfl

theorem Thread.onward_pc (s : State) (i : Instr) (t : Thread) (h : t.loop.act = false) : (t.onward s i).pc = t.pc + i.bytes := by
  unfold Thread.onward
  rw [State.bodyFetch_eq]
  unfold Thread.stepped Thread.advance Thread.bodyPos
  simp [h]

theorem State.finish_next (i : Instr) (s s0 : State) (n : Nat) : s.finish i s0 n .next = s.modThread n (Thread.onward s i) := by
  unfold State.finish Thread.onward Thread.stepped; simp

/-- The control of a list of threads that all go on. -/
theorem State.finish_all (i : Instr) (s0 : State) (ts : List Nat) : ∀ s : State,
    ts.foldl (fun s n => State.finish i s s0 n Ctl.next) s =
      { s with c := { s.c with threads := (ts.foldl (fun s n => State.finish i s s0 n Ctl.next) s).c.threads } } := by
  induction ts with
  | nil => intro s; rfl
  | cons n ts ih =>
    intro s
    simp only [List.foldl_cons]
    rw [ih (State.finish i s s0 n Ctl.next), State.finish_next]
    rfl

theorem State.finish_all_thread (i : Instr) (s0 : State) (ts : List Nat) (hn : ts.Nodup) : ∀ (s : State) (n : Nat),
    (ts.foldl (fun s n => State.finish i s s0 n Ctl.next) s).thread? n = (s.thread? n).map fun t => if n ∈ ts then t.onward s i else t := by
  induction ts with
  | nil => intro s n; simp
  | cons k ts ih =>
    intro s n
    obtain ⟨hk, hn⟩ := List.nodup_cons.1 hn
    simp only [List.foldl_cons]
    rw [ih hn, State.finish_next, State.thread?_modThread _ _ _ (Thread.onward_tid s i)]
    cases s.thread? n with
    | none => rfl
    | some t =>
      simp only [Option.map_some, List.mem_cons]
      by_cases h : n = k
      · subst h; simp [hk]
      · simp only [h, if_false, false_or]
        split
        · exact congrArg some (Thread.onward_free rfl i t)
        · rfl

/-- The threads of a bundle after the split: only the bundle of one of them may change. -/
theorem State.splitBundle_eq (s : State) (ts : List Nat) :
    ∃ f : Thread → Thread, s.splitBundle ts = s.setThreads (s.c.threads.map f) ∧ (∀ t, f t = { t with bundle := (f t).bundle }) ∧
      ∀ t, t.tid ∉ ts → f t = t := by
  unfold State.splitBundle
  split
  · exact ⟨id, by simp [State.setThreads], fun _ => rfl, fun _ _ => rfl⟩
  · refine ⟨_, rfl, fun t => ?_, fun t h => ?_⟩
    split <;> rfl
    · simp [h]

/-! ### A body that only sends results on their way -/

/-- The bundle when nothing keeps the instruction from executing. -/
theorem State.runBundle_clean (s : State) (i : Instr) (body : Body) (h : s.clean i = true) :
    s.runBundle i body =
      let r := body (s.countIssue i s.cur.tids) (s.executing i)
      (s.cur.tids.foldl (fun u n => State.finish i u (s.countIssue i s.cur.tids) n ((r.2.find? (fun (c : Nat × Ctl) => c.1 == n)).elim .next (·.2)))
        { r.1 with free := r.1.free + 1 }).splitBundle s.cur.tids := by
  unfold State.clean at h
  simp only [Bool.and_eq_true, decide_eq_true_eq, List.all_eq_true] at h
  obtain ⟨⟨h1, _⟩, h3⟩ := h
  unfold State.rangeFault at h3
  unfold State.runBundle State.runStepped
  have hbad : (s.executing i).filterMap (fun t => (s.rangeBad i [] t).map fun f => (t, Ctl.fault f)) = [] := by
    rw [List.filterMap_eq_nil_iff]
    intro a ha
    have := h3 a ha
    rw [Option.isNone_iff_eq_none] at this
    simp [this]
  have hok : ((s.executing i).filter fun t => (s.rangeBad i [] t).isNone) = s.executing i := List.filter_eq_self.2 h3
  unfold State.executing at hbad hok
  simp only [h1, Bool.not_true, Bool.false_eq_true, if_false, hbad, hok, List.append_nil, State.executing]

/-- What a run of a result body does: it answers a next state, in which only the results and the threads' control are new. -/
theorem State.run_results (s : State) (i : Instr) (body : Body) (ps : List Pend) (h : s.clean i = true)
    (hb : body (s.countIssue i s.cur.tids) (s.executing i) = ((s.countIssue i s.cur.tids).addPend ps, [])) :
    ∃ t, s.run i body = .next t ∧ t.c.pend = s.c.pend ++ ps ∧ s.OnlyResults t ∧ s.Advances t i := by
  refine ⟨s.runBundle i body, rfl, ?_⟩
  have hn : s.cur.tids.Nodup := by
    unfold State.clean at h
    simp only [Bool.and_eq_true, decide_eq_true_eq] at h
    exact h.1.2
  have hrun := s.runBundle_clean i body h
  rw [hb] at hrun
  simp only [List.find?_nil, Option.elim_none] at hrun
  obtain ⟨u, hu⟩ : ∃ u, u = { (s.countIssue i s.cur.tids).addPend ps with free := ((s.countIssue i s.cur.tids).addPend ps).free + 1 } := ⟨_, rfl⟩
  rw [← hu] at hrun
  obtain ⟨w, hw⟩ : ∃ w, w = s.cur.tids.foldl (fun u n => State.finish i u (s.countIssue i s.cur.tids) n Ctl.next) u := ⟨_, rfl⟩
  rw [← hw] at hrun
  have hthr : ∀ n, u.thread? n = (s.countIssue i s.cur.tids).thread? n := by intro n; rw [hu]; rfl
  have hall := State.finish_all i (s.countIssue i s.cur.tids) s.cur.tids u
  have hth := State.finish_all_thread i (s.countIssue i s.cur.tids) s.cur.tids hn u
  rw [← hw] at hall hth
  obtain ⟨f, hf, hfe, hfn⟩ := w.splitBundle_eq s.cur.tids
  have hc := s.countIssue_eq i
  have heq : s.runBundle i body = { s with free := (s.runBundle i body).free, c := { s.c with threads := (s.runBundle i body).c.threads, pend := s.c.pend ++ ps }, b := { s.b with units := (s.runBundle i body).b.units } } := by
    rw [hrun, hf, hall, hu, hc]
    rfl
  have hthread : ∀ n, (s.runBundle i body).thread? n = (s.thread? n).map fun t =>
      if n ∈ s.cur.tids then f ((s.counted i t).onward u i) else t := by
    intro n
    rw [hrun, hf, State.thread?_setThreads_map _ _ (fun t => by rw [hfe]), hth, hthr, s.thread?_countIssue]
    cases hq : s.thread? n with
    | none => rfl
    | some t =>
      have ht : t.tid = n := by simpa using List.find?_some hq
      by_cases hm : n ∈ s.cur.tids
      · simp [hm]
      · simp [hm, hfn t (ht ▸ hm)]
  have hctl : ∀ t, f ((s.counted i t).onward u i) = t.control (f ((s.counted i t).onward u i)) := by
    intro t
    rw [hfe, Thread.onward_control]
    rfl
  refine ⟨by rw [heq], ⟨?_, ?_, ?_, ?_⟩, ?_⟩
  · conv_lhs => rw [heq]
    rw [heq]
  · intro n
    unfold State.thread
    rw [hthread]
    cases s.thread? n with
    | none => rfl
    | some t =>
      simp only [Option.map_some, Option.getD_some]
      split
      · exact hctl t
      · rfl
  · intro n hm
    unfold State.thread
    rw [hthread]
    cases s.thread? n <;> simp [hm]
  · intro a
    rw [heq]
    unfold State.byteAt State.populated State.here State.homeOf State.plog State.hs State.storeAddr State.slotOfLine State.fld State.reg
    rfl
  · intro n hm hs
    unfold State.thread
    rw [hthread]
    cases hq : s.thread? n with
    | none => simp [hq] at hs
    | some t =>
      simp only [Option.map_some, Option.getD_some, hm, if_true]
      rw [hfe]
      exact ⟨Thread.onward_park _ _ _, Thread.onward_wait _ _ _, fun hl => Thread.onward_pc u i (s.counted i t) hl⟩

/-- A result body (R55 to R57): its values are those of the operands at issue. -/
theorem State.run_resultBody (s : State) (i : Instr) (d : Opnd) (f : State → Nat → Word) (P : Nat → Word → Prop) (h : s.clean i = true)
    (hf : ∀ n, P n (f (s.countIssue i s.cur.tids) n)) :
    ∃ t, s.run i (resultBody d f) = .next t ∧ s.Computes t i d P := by
  have hs := State.SameOperands.countIssue s i
  obtain ⟨t, h1, h2, h3, h4⟩ := s.run_results i (resultBody d f)
    ((s.targets (s.executing i) d).map fun (q : Nat × RegRef × List Nat) =>
      { dst := q.2.1, val := some (f (s.countIssue i s.cur.tids) q.1), owners := q.2.2, pc := s.cur.pc, opd := d.code, op := 0 }) h
    (by
      unfold resultBody State.result State.emit
      rw [hs.targets]
      have hcur : (s.countIssue i s.cur.tids).cur = s.cur := by rw [State.countIssue_eq]
      simp only [hcur])
  exact ⟨t, h1, ⟨f (s.countIssue i s.cur.tids), h2, fun q _ => hf q.1⟩, h3, h4⟩

/-! ### A bundle that does not execute the instruction, and a bundle of one thread -/

/-- R42: an instruction whose words the pipe does not accept is ILLEGAL for every thread of the bundle, whatever its meaning. -/
theorem State.run_illegal (s : State) (i : Instr) (body : Body) (h : i.wfIn (s.cur.unit % 5 == 4) = false) :
    s.run i body = .next (s.raiseAll s.cur.tids (flt .illegal)) := by
  unfold State.run State.runBundle State.runStepped
  simp [h]

theorem State.run_next (s : State) (i : Instr) (body : Body) : s.run i body = .next (s.runBundle i body) := rfl

theorem State.solo_clean (s : State) (i : Instr) (n : Nat) (h : s.solo i n = true) : s.clean i = true ∧ s.executing i = [n] ∧ s.cur.tids = [n] := by
  unfold State.solo at h
  simp only [Bool.and_eq_true, beq_iff_eq] at h
  obtain ⟨⟨⟨⟨⟨h1, h2⟩, h3⟩, h4⟩, _⟩, _⟩ := h
  have he : s.executing i = [n] := by simp [State.executing, h2, h3]
  refine ⟨?_, he, h2⟩
  unfold State.clean
  simp [h1, h2, he, h4]

/-- One thread that executes: the body for it alone, and then its control. -/
theorem State.runBundle_solo (s : State) (i : Instr) (body : Body) (n : Nat) (h : s.solo i n = true) :
    s.runBundle i body =
      (State.finish i { (body (s.countIssue i [n]) [n]).1 with free := (body (s.countIssue i [n]) [n]).1.free + 1 } (s.countIssue i [n]) n
        (((body (s.countIssue i [n]) [n]).2.find? (fun (c : Nat × Ctl) => c.1 == n)).elim .next (·.2))).splitBundle [n] := by
  obtain ⟨h1, h2, h3⟩ := s.solo_clean i n h
  rw [s.runBundle_clean i body h1, h2, h3]
  rfl

/-- The control of a thread, but for a fault, changes nothing but threads. -/
theorem State.finish_rest (i : Instr) (s s0 : State) (n : Nat) (c : Ctl) (h : ∀ f, c ≠ .fault f) : ∃ ts, s.finish i s0 n c = s.setThreads ts := by
  cases c with
  | next => exact ⟨_, rfl⟩
  | jump a => exact ⟨_, rfl⟩
  | wait w => exact ⟨_, rfl⟩
  | hold w => exact ⟨_, rfl⟩
  | stay => exact ⟨s.c.threads, rfl⟩
  | fault f => exact absurd rfl (h f)

end Sys2Proof.Machine
end

