-- ==== Sys2Proof/Laws/Arith.lean ====
section
/-! SUPPORT. Sub-elements: a register that is computed sub-element by sub-element holds each of them. -/

namespace Sys2Proof.Machine
open Sys2Proof

theorem Ty.width_pos (t : Ty) : 0 < t.width := by cases t <;> decide
theorem Ty.width_mul_count (t : Ty) : t.width * t.count = 64 := by cases t <;> rfl

theorem packEl_lt (t : Ty) (l : List Nat) : packEl t l < 2 ^ (t.width * l.length) := by
  induction l with
  | nil => simp [packEl]
  | cons c r ih =>
    have h1 : c % 2 ^ t.width < 2 ^ t.width := Nat.mod_lt _ (by positivity)
    simp only [packEl, List.length_cons, Nat.mul_add, Nat.mul_one, Nat.pow_add]
    calc c % 2 ^ t.width + 2 ^ t.width * packEl t r
        < 2 ^ t.width * 1 + 2 ^ t.width * packEl t r := by omega
      _ = 2 ^ t.width * (packEl t r + 1) := by ring
      _ ≤ 2 ^ t.width * 2 ^ (t.width * r.length) := Nat.mul_le_mul_left _ ih
      _ = 2 ^ (t.width * r.length) * 2 ^ t.width := Nat.mul_comm _ _

theorem packEl_at (t : Ty) (l : List Nat) : ∀ e, e < l.length → packEl t l / 2 ^ (t.width * e) % 2 ^ t.width = l.getD e 0 % 2 ^ t.width := by
  induction l with
  | nil => intro e h; simp at h
  | cons c r ih =>
    intro e h
    cases e with
    | zero => simp [packEl, Nat.add_mod]
    | succ e =>
      have h' : e < r.length := by simpa using h
      rw [show t.width * (e + 1) = t.width + t.width * e by ring, Nat.pow_add, ← Nat.div_div_eq_div_mul]
      have : packEl t (c :: r) / 2 ^ t.width = packEl t r := by
        simp only [packEl]
        rw [Nat.add_mul_div_left _ _ (by positivity), Nat.div_eq_of_lt (Nat.mod_lt _ (by positivity)), Nat.zero_add]
      rw [this, ih e h']
      simp

/-- Sub-element e of a register computed sub-element by sub-element. -/
theorem subEl_mapEl (t : Ty) (f : Nat → Nat) (e : Nat) (h : e < t.count) : subEl t (mapEl t f) e = f e % 2 ^ t.width := by
  unfold subEl mapEl
  have hl : ((List.range t.count).map f).length = t.count := by simp
  have hlt := packEl_lt t ((List.range t.count).map f)
  rw [hl, Ty.width_mul_count t] at hlt
  rw [BitVec.toNat_ofNat, Nat.mod_eq_of_lt hlt, packEl_at t _ e (by simpa using h)]
  simp [h]

theorem subEl_lt (t : Ty) (x : Word) (e : Nat) : subEl t x e < 2 ^ t.width := Nat.mod_lt _ (by positivity)

/-- An integer result is below 2^w. -/
theorem intRes_lt (t : Ty) (sat : Bool) (r : Int) : intRes t sat r < 2 ^ t.width := BitVec.isLt _

theorem intVal_ofInt (t : Ty) (r : Int) (h : intLo t ≤ r ∧ r ≤ intHi t) : intVal t (BitVec.ofInt t.width r).toNat = r := by
  unfold intLo intHi at h
  unfold intVal
  rw [BitVec.ofNat_toNat, BitVec.setWidth_eq]
  cases t <;> simp only [Ty.signed, Ty.width, if_true, if_false, Bool.false_eq_true, BitVec.toInt_ofInt, BitVec.toNat_ofInt, Int.bmod_def] at h ⊢ <;>
    norm_num at h ⊢ <;> omega

/-- An integer result is right modulo 2^w, or clamped to the type's range (R115). -/
theorem intRes_spec (t : Ty) (sat : Bool) (r : Int) : IntResult t sat r (intRes t sat r) := by
  refine ⟨intRes_lt t sat r, ?_⟩
  cases sat with
  | true =>
    have hlo : intLo t ≤ intHi t := by cases t <;> decide
    have he : intRes t true r = (BitVec.ofInt t.width (max (intLo t) (min (intHi t) r))).toNat := rfl
    rw [if_pos rfl, he, intVal_ofInt t _ ⟨le_max_left _ _, by omega⟩]
    split
    · omega
    · split <;> omega
  | false =>
    have he : intRes t false r = (BitVec.ofInt t.width r).toNat := rfl
    rw [if_neg (by simp), he, BitVec.toNat_ofInt, Int.toNat_of_nonneg (Int.emod_nonneg _ (by positivity))]
    simp

end Sys2Proof.Machine
end

