-- ==== Sys2Proof/Laws/Canonical.lean ====
section
/-! SUPPORT. The storage operations over the whole state: each keeps the canonical form, and what each leaves alone. -/

namespace Sys2Proof.Machine
open Sys2Proof

theorem State.canonical_iff (s : State) :
    s.canonical = true ↔ Memory.wf s.m.mem = true ∧ Memory.wf s.m.peer = true ∧ Memory.wf s.m.host = true ∧ regsWf s.b.regs = true := by
  simp [State.canonical, and_assoc]

/-- The canonical form depends on the three memories and on the control registers alone. -/
theorem State.canonical_congr {s t : State} (h1 : t.m.mem = s.m.mem) (h2 : t.m.peer = s.m.peer) (h3 : t.m.host = s.m.host)
    (h4 : t.b.regs = s.b.regs) : t.canonical = s.canonical := by
  simp only [State.canonical, h1, h2, h3, h4]

theorem State.canonical_setByte (s : State) (x : Nat) (v : Byte) (h : s.canonical = true) : (s.setByte x v).canonical = true := by
  rw [State.canonical_iff] at h ⊢
  obtain ⟨h1, h2, h3, h4⟩ := h
  unfold State.setByte
  split
  · exact ⟨h1, h2, memSet_wf _ _ _ h3, h4⟩
  · split
    · exact ⟨h1, h2, h3, h4⟩
    · split
      · exact ⟨memSet_wf _ _ _ h1, h2, h3, h4⟩
      · exact ⟨h1, memSet_wf _ _ _ h2, h3, h4⟩

/-- A write of a byte touches the memories only. -/
theorem State.setByte_rest (s : State) (x : Nat) (v : Byte) :
    ∃ a b c, s.setByte x v = { s with m := { s.m with mem := a, peer := b, host := c } } := by
  unfold State.setByte
  split
  · exact ⟨_, _, _, rfl⟩
  · split
    · exact ⟨_, _, _, rfl⟩
    · split <;> exact ⟨_, _, _, rfl⟩

theorem State.canonical_wrNat (n : Nat) : ∀ (s : State) (x v : Nat), s.canonical = true → (s.wrNat x n v).canonical = true := by
  induction n with
  | zero => intro s x v h; exact h
  | succ n ih => intro s x v h; exact ih _ _ _ (s.canonical_setByte x _ h)

/-- A write of n bytes touches the memories only. -/
theorem State.wrNat_rest (n : Nat) : ∀ (s : State) (x v : Nat),
    ∃ a b c, s.wrNat x n v = { s with m := { s.m with mem := a, peer := b, host := c } } := by
  induction n with
  | zero => intro s x v; exact ⟨_, _, _, rfl⟩
  | succ n ih =>
    intro s x v
    obtain ⟨a, b, c, h1⟩ := s.setByte_rest x (BitVec.ofNat 8 v)
    obtain ⟨a', b', c', h2⟩ := ih (s.setByte x (BitVec.ofNat 8 v)) (x + 1) (v / 256)
    refine ⟨a', b', c', ?_⟩
    unfold State.wrNat
    rw [h2, h1]

theorem State.canonical_setReg (s : State) (off : Nat) (x : Word) (h : s.canonical = true) : (s.setReg off x).canonical = true := by
  rw [State.canonical_iff] at h ⊢
  exact ⟨h.1, h.2.1, h.2.2.1, regSet_wf _ _ _ h.2.2.2⟩

theorem State.canonical_setFld (s : State) (off hi lo x : Nat) (h : s.canonical = true) : (s.setFld off hi lo x).canonical = true :=
  s.canonical_setReg _ _ h

theorem State.canonical_satInc (s : State) (off lo n : Nat) (h : s.canonical = true) : (s.satInc off lo n).canonical = true :=
  s.canonical_setReg _ _ h

@[simp] theorem State.setPoison_canonical (s : State) (x : Nat) (on : Bool) : (s.setPoison x on).canonical = s.canonical := rfl

theorem State.canonical_msi (s : State) (v : Nat) (h : s.canonical = true) : (s.msi v).canonical = true := by
  unfold State.msi
  repeat' split
  all_goals exact h

theorem State.canonical_poisonNew (s : State) (x : Nat) (h : s.canonical = true) : (s.poisonNew x).canonical = true := by
  unfold State.poisonNew
  have h1 : ((s.setPoison x true).satInc rHomeErr 0 1).canonical = true := State.canonical_satInc _ _ _ _ (by simpa using h)
  dsimp only
  split
  · exact h1
  · exact State.canonical_msi _ _ (State.canonical_setReg _ _ _ h1)

theorem State.canonical_ecc (s : State) (x : Nat) (e : Ecc) (h : s.canonical = true) : (s.ecc x e).canonical = true := by
  unfold State.ecc
  split
  · exact h
  · exact s.canonical_satInc _ _ _ h
  · split
    · exact State.canonical_satInc _ _ _ _ h
    · split
      · exact s.canonical_poisonNew x h
      · exact s.canonical_satInc _ _ _ h
  · split
    · exact s.canonical_poisonNew x h
    · exact h

theorem State.canonical_findError (s : State) (x : Nat) (h : s.canonical = true) : (s.findError x).canonical = true := by
  unfold State.findError
  split
  · exact h
  · split
    · exact h
    · exact State.canonical_ecc _ _ _ h

theorem State.canonical_findErrors (s : State) (x n : Nat) (h : s.canonical = true) : (s.findErrors x n).canonical = true := by
  unfold State.findErrors
  generalize List.range (n / 32 + 2) = l
  induction l generalizing s with
  | nil => exact h
  | cons i l ih =>
    simp only [List.foldl_cons]
    refine ih _ ?_
    split
    · exact s.canonical_findError _ h
    · exact h

theorem State.canonical_l2Insert (s : State) (l : L2Line) (lru : Bool) (h : s.canonical = true) : (s.l2Insert l lru).canonical = true := by
  unfold State.l2Insert
  dsimp only
  have h1 : ∀ o : Option Nat, (match o with | some i => s.satInc (rHomeRet i + 24) 32 1 | none => s).canonical = true := by
    intro o; cases o <;> first | exact h | exact s.canonical_satInc _ _ _ h
  repeat' split
  all_goals first | exact h | exact h1 _ | exact h1 (some _)

theorem State.canonical_l2Home (s : State) (x : Nat) (hint : Hint) (ef w : Bool) (h : s.canonical = true) : (s.l2Home x hint ef w).canonical = true := by
  unfold State.l2Home
  split
  · unfold State.l2Hit; split <;> exact h
  · split
    · exact h
    · exact s.canonical_l2Insert _ _ h

/-- Whatever a home answers to a write of an engine, the storage stays canonical. -/
theorem State.canonical_engWrite (s : State) (tenant x n v : Nat) (rd : Bool) (h : s.canonical = true) : (s.engWrite tenant x n v rd).1.canonical = true := by
  have hf := s.canonical_findErrors x n h
  have hl : ∀ u : State, u.canonical = true → ((u.l2Home x .dflt false true).wrNat x n v).canonical = true :=
    fun u hu => State.canonical_wrNat n _ _ _ (u.canonical_l2Home _ _ _ _ hu)
  unfold State.engWrite
  by_cases hx : s.here x = true <;> simp only [hx, if_true, Bool.false_eq_true, if_false] <;> repeat' split
  all_goals first
    | exact h
    | exact State.canonical_wrNat n _ _ _ h
    | exact hf
    | exact hl _ hf

/-- A field write leaves every other register word alone. -/
theorem State.reg_setFld_ne (s : State) (off hi lo x o : Nat) (h : o ≠ off) : (s.setFld off hi lo x).reg o = s.reg o :=
  s.reg_setReg_ne _ _ _ h

theorem State.fld_setFld_ne (s : State) (off hi lo x o hi' lo' : Nat) (h : o ≠ off) : (s.setFld off hi lo x).fld o hi' lo' = s.fld o hi' lo' := by
  simp only [State.fld, s.reg_setFld_ne _ _ _ _ _ h]

end Sys2Proof.Machine
end

