-- ==== Sys2Proof/Tests/Slice0.lean ====
section
/-! SUPPORT. Small tests: ill-formed terms that the checks refuse, words written out from the spec's encodings, one step on a small state with the
spec's value, and for each statement a state and operands that meet its hypotheses (names `wit_`). -/

namespace Sys2Proof.Tests

set_option Elab.async false
open Sys2Proof Sys2Proof.Machine

/-! ### Helpers -/

/-- Instructions with every field neutral (R41) and always-true guards. -/
def s64 : S64A := ⟨false, .v 0, .v 0, .v 0, .always, 0⟩
def v96 : V96A := ⟨false, .v 0, .v 0, .v 0, .v 0, .v 0, .always, .always, .dflt, .none, .none, .rne, .none, .thread, 0⟩
def m128 : M128A :=
  ⟨false, .v 0, .v 0, .v 0, .v 0, .always, .always, .dflt, .none, .none, .gv, .thread, .rlx, .dflt, .rne, .none, 0, 0⟩
def nest0 : NestA := ⟨false, 0, 0, 0, 0, 0, 0, 5, .always, 0⟩
def loop0 : LoopA := ⟨false, 0, false, 0, .always, 0, 0⟩

/-- One thread on unit u of core 0, about to execute (log entry 5): tid 0 on unit 0, tid 2048 for the context on unit 4. -/
def at_ (u : Nat) : State := { State.reset.placed u 0 with agenda := [], cur := { unit := u, tids := [512 * u], pc := placedPc } }
def lane : State := at_ 0
def ctx : State := at_ 4
/-- A thread's register. -/
def setV (s : State) (n k : Nat) (x : Word) : State := s.modThread n fun t => { t with v := t.v.set k x }
/-- The result values in flight. -/
def vals (o : Host.Outcome State Fault Refusal) : List (Option Word) :=
  match o with | .next t => t.c.pend.map (·.val) | _ => []
/-- A condition on the next state. -/
def after (o : Host.Outcome State Fault Refusal) (p : State → Bool) : Bool := match o with | .next t => p t | _ => false

/-! ### Ill-formed terms -/

theorem test_reserved_field_refused : (Instr.nop { s64 with i16 := 1 }).wf = false := by decide
theorem test_reserved_operand_refused : (Instr.exit { s64 with d := .v 1 }).wf = false := by decide
theorem test_pause_takes_its_count : (Instr.pause { s64 with i16 := 1 }).wf = true := by decide
theorem test_v96_modifier_refused : (Instr.mov { v96 with ty := .i64 }).wf = false := by decide
theorem test_m128_size_refused : (Instr.movi { m128 with sz := .b32 }).wf = false := by decide
theorem test_immediate_destination_refused : (Instr.mov { v96 with d := .imm 3 }).wf = false := by decide
theorem test_uniform_form_takes_no_vector_source : (Instr.mov { v96 with d := .w 1, a := .v 2 }).wf = false := by decide
theorem test_uniform_guard_refused_in_a_warp :
    (Instr.mov { v96 with d := .w 1, a := .w 2, g0 := ⟨false, 1⟩ }).wfIn false = false := by decide
theorem test_integer_type_needed : (Instr.iaddV96 { v96 with ty := .f32x2 }).wf = false := by decide
theorem test_saturation_kind : (Instr.iaddV96 { v96 with ty := .i64, sat := .satf }).wf = false := by decide
theorem test_abs_is_signed : (Instr.iabs { v96 with ty := .u64 }).wf = false := by decide
theorem test_any_needs_a_predicate : (Instr.icmpV96 { v96 with ty := .i64, opx := 8 }).wf = false := by decide
theorem test_compare_code : (Instr.icmpV96 { v96 with d := .p 1, ty := .i64, opx := 6 }).wf = false := by decide
theorem test_carry_is_unsigned : (Instr.iaddc { v96 with ty := .i64, c := .p 1, e := .p 2 }).wf = false := by decide
theorem test_frnd_has_no_stochastic_mode : (Instr.frnd { v96 with ty := .f64, rm := .rs }).wf = false := by decide
theorem test_conversion_quarter : (Instr.fcvt { v96 with ty := .f16x4, ty2 := .f32x2, opx := 2 }).wf = false := by decide
theorem test_special_functions_have_no_f64 : (Instr.frcp { v96 with ty := .f64 }).wf = false := by decide
theorem test_shuffle_mode : (Instr.shfl { v96 with ty := .i64, opx := 4 }).wf = false := by decide
theorem test_broadcast_lane : (Instr.bcast { v96 with b := .imm 32 }).wf = false := by decide
theorem test_reduction_types : (Instr.vred { v96 with ty := .i64, opx := 0 }).wf = false := by decide
theorem test_format_code : (Instr.cvt8 { v96 with ty := .f32x2, e := .imm 0x17 }).wf = false := by decide
theorem test_block_size : (Instr.bmax { v96 with ty := .f32x2, opx := 0 }).wf = false := by decide
theorem test_nest_format : (Instr.nfill { nest0 with typ := 2 }).wf = false := by decide
theorem test_nest_stride : (Instr.nred { nest0 with opn := 1, flg := 1, str := 1 }).wf = false := by decide
theorem test_loop_entry_count : (Instr.loop { loop0 with ne := 17 }).wf = false := by decide
theorem test_loop_entry_slot : (Instr.loop { loop0 with ne := 1, ent := 0xC0 }).wf = false := by decide
theorem test_loop_trip_register : (Instr.loop { loop0 with tm := true, trip := 0x40 }).wf = false := by decide
theorem test_special_register_exists : (Instr.srd { s64 with a := .imm 0x0F }).wf = false := by decide
theorem test_read_only_special_register : (Instr.swr { s64 with d := .imm 0x0E, a := .v 1 }).wf = false := by decide
theorem test_live_count : (Instr.yield { s64 with b := .w 1 }).wf = false := by decide
theorem test_space_of_a_load : (Instr.ldV96 { v96 with opx := 3 }).wf = false := by decide
theorem test_hint_needs_global : (Instr.ldV96 { v96 with opx := 1, hint := .ef }).wf = false := by decide
theorem test_raw_size_needed : (Instr.ldM128 { m128 with d := .v 2 }).wf = false := by decide
theorem test_atomicity_size : (Instr.ldM128 { m128 with d := .v 2, sz := .b32, atm := .a8 }).wf = false := by decide
theorem test_pair_is_even : (Instr.ldM128 { m128 with d := .v 3, sz := .b128 }).wf = false := by decide
theorem test_atomic_size : (Instr.atom { m128 with sz := .b16 }).wf = false := by decide
theorem test_ordered_atomic_needs_a_scope : (Instr.atom { m128 with sz := .b32, ord := .acq }).wf = false := by decide
theorem test_fence_scope : (Instr.fence { s64 with i16 := 0 }).wf = false := by decide
theorem test_release_update : (Instr.rel { m128 with sc := .core, opx := 1 }).wf = false := by decide
theorem test_pin_ways : (Instr.rpin { m128 with d := .w 1, a := .w 2, b := .w 3, opx := 9 }).wf = false := by decide
theorem test_batch_number : (Instr.cpwait { s64 with a := .imm 8 }).wf = false := by decide
theorem test_node_kind : (Instr.nnew { m128 with d := .w 1, a := .w 2, b := .w 3, opx := 6 }).wf = false := by decide
theorem test_push_needs_a_context : (Instr.dqpush { s64 with a := .w 1 }).wfIn false = false := by decide
theorem test_pop_needs_a_warp : (Instr.dqpop { s64 with d := .w 1 }).wfIn true = false := by decide
theorem test_barrier_number : (Instr.bar { s64 with a := .imm 2, i16 := 16 }).wf = false := by decide
theorem test_barrier_form : (Instr.barcArr { s64 with i16 := 2 }).wf = false := by decide
theorem test_matrix_mode : (Instr.mmul { v96 with d := .z 1, a := .t 2, b := .imm 0, opx := 3 }).wf = false := by decide
theorem test_deal_registers_differ : (Instr.xdeal { v96 with d := .v 2, c := .v 2, e := .p 1 }).wf = false := by decide
theorem test_events_have_no_words : (Instr.coldReset).wf = false := by decide

/-! ### Words of the spec's encodings (R33 to R36, R38, R40, R43), family by family: the words are written out field by field from the tables -/

def is (w : Nat) (i : Instr) : Bool := decide (decode w = .ok i)

theorem test_decode_issue : is 0x0000780000000000 (.nop s64) = true := by decide +kernel
theorem test_decode_loop : is 0x417840000001C0013 (.loop { loop0 with trip := 7, ne := 1, ent := 0x41 }) = true := by decide +kernel
theorem test_decode_flow : is 0x0000080000010080 (.bra ⟨false, 8, ⟨false, 1⟩⟩) = true ∧ is 0x0000780000620090 (.jmark { s64 with d := .k 0 }) = true ∧
    is 0x00007800000000A8 (.exit s64) = true := by decide +kernel
theorem test_decode_registers : is 0x000003F80E0000083DE000000000012A (.call { m128 with opx := 2, i32 := 0x3F8 }) = true := by decide +kernel
theorem test_decode_integer : is 0x300800F7800005FA0400E201 (.iaddV96 { v96 with d := .v 7, a := .v 8, b := .imm 0xFD, ty := .i16x4, sat := .sat }) = true ∧
    is 0x000100006E0000343DE0000002E062BA (.icmpM128 { m128 with d := .p 3, a := .v 5, ty := .u32x2, opx := 13, i32 := 0x10000 }) = true := by decide +kernel
theorem test_decode_float : is 0xB00001518000000C02808405
    (.fadd { v96 with park := true, d := .v 4, a := .v 5, b := .v 6, g0 := ⟨false, 3⟩, g1 := ⟨true, 5⟩, ty := .f32x2 }) = true := by decide +kernel
theorem test_decode_codec : is 0xB01090F7C26000060100C801
    (.cvt8 { v96 with d := .v 6, a := .v 2, b := .v 3, e := .imm 0x13, ty := .f32x2, sat := .satf, opx := 9 }) = true := by decide +kernel
theorem test_decode_memory : is 0x00000040065000003DE000120400C916
    (.atom { m128 with park := true, d := .v 6, a := .v 8, b := .v 9, sz := .b64, sc := .pod, i32 := 0x40 }) = true ∧
    is 0x000D780000000920 (.fence { s64 with i16 := 0xD }) = true := by decide +kernel
theorem test_decode_translation : is 0x000000000E4000003DE0000081800A02 (.tlbinv { m128 with a := .w 3, sc := .pkg }) = true := by decide +kernel
theorem test_decode_retention : is 0x000000000E0000103DE002068120AA42 (.rpin { m128 with d := .w 5, a := .w 2, b := .w 3, opx := 4 }) = true := by decide +kernel
theorem test_decode_copy : is 0x000000000E0000003DE0000084000A82 (.cp { m128 with a := .w 8 }) = true ∧
    is 0x0000780101000A90 (.cpwait { s64 with a := .imm 2 }) = true := by decide +kernel
theorem test_decode_domestique : is 0x0000780082800B00 (.dqpush { s64 with a := .w 5 }) = true ∧
    is 0x0000780000006B0C (.dqpop { s64 with park := true, d := .v 3 }) = true := by decide +kernel
theorem test_decode_launch : is 0x000004000E0000003DE81A0400000B42 (.fork { m128 with b := .w 2, c := .w 3, i32 := 0x400 }) = true ∧
    is 0x000000000E0000003DE000008220AB52 (.spawn { m128 with d := .w 5, a := .w 4 }) = true := by decide +kernel
theorem test_decode_barrier : is 0x0003780101000B88 (.bara { s64 with a := .imm 2, i16 := 3 }) = true ∧
    is 0x0001780000000B98 (.barcArr { s64 with i16 := 1 }) = true := by decide +kernel
theorem test_decode_matrix : is 0x000000000E0000003DE0020A82646C02 (.mmap { m128 with d := .t 3, a := .w 4, b := .w 5 }) = true ∧
    is 0x001010F78000040191E62C19 (.mmul { v96 with d := .z 1, a := .t 3, b := .imm 0, opx := 1, sat := .satf }) = true := by decide +kernel
theorem test_decode_signature : is 0x000000000E0000003DE0022A8A000C82 (.sgcfg { m128 with a := .w 20, b := .w 21 }) = true ∧
    is 0x000078000020CCA4 (.sgstat { s64 with park := true, d := .w 6 }) = true := by decide +kernel
theorem test_decode_expand : is 0x000000F7E060500000012CCD (.xdeal { v96 with park := true, d := .v 9, c := .v 10, e := .p 3 }) = true ∧
    is 0xB00010F78000000E03010CC5 (.xbeg { v96 with park := true, d := .v 8, a := .v 6, b := .v 7, ty := .f32x2, opx := 1 }) = true := by decide +kernel
theorem test_decode_debug : is 0x0004780100000D40 (.trc { s64 with a := .imm 0, i16 := 4 }) = true ∧
    is 0x00000040060000003DE0320881000D02 (.mst { m128 with a := .w 2, b := .w 4, c := .v 6, sz := .b64, i32 := 0x40 }) = true := by decide +kernel
theorem test_decode_refuses_an_unassigned_opcode : decode 0x00007800000003F8 = .error (.opcode 64 0x7F) := by decide +kernel
theorem test_decode_refuses_another_length : decode 0x0000780000000200 = .error (.opcode 64 0x40) := by decide +kernel

/-! ### Witnesses: lane instructions -/

/-! Instructions that a lane executes cleanly, every one alone and with its result in a register or a predicate. -/

def iq : V96A := { v96 with d := .v 4, a := .v 5, b := .v 6, ty := .i16x4 }
def uq : V96A := { iq with ty := .u32x2, c := .v 7 }
def i1 : V96A := { iq with b := .v 0 }
def ib : V96A := { iq with ty := .none }
def io : V96A := { ib with b := .v 0 }
def fq : V96A := { iq with ty := .f32x2 }
def f1 : V96A := { fq with b := .v 0 }

def clean0 : List Instr :=
  [.iaddV96 { iq with sat := .sat }, .isubV96 iq, .imulV96 { iq with ty := .u64 }, .imulh iq, .imad { iq with c := .v 7 }, .iminV96 iq, .imaxV96 iq, .iabs i1, .ineg i1]
def clean1 : List Instr :=
  [.shl iq, .shr iq, .sar iq, .rol iq, .clz i1, .popc i1, .brev i1, .bfx uq, .bfi { uq with e := .imm 3 }]
def clean2 : List Instr :=
  [.bandV96 ib, .borV96 ib, .bxorV96 ib, .bnot io, .sel { ib with c := .p 2 }, .mov io, .mov { io with d := .w 9, a := .w 3 }]
def clean3 : List Instr :=
  [.icmpV96 { iq with d := .p 1, opx := 13 }, .icmpV96 iq, .fcmp { fq with d := .p 1, opx := 10 }, .fcmp fq,
   .iaddc { iq with ty := .u64, c := .p 1, e := .p 2 }]
def clean4 : List Instr :=
  [.fadd fq, .fsub fq, .fmul { fq with opx := 8 }, .ffma { fq with c := .v 7 }, .fcvt { f1 with ty2 := .f16x4, opx := 1 },
   .fcvt { f1 with ty := .f16x4, ty2 := .f32x2, opx := 1 }, .icvtf { f1 with ty2 := .i64 }, .fcvti { f1 with ty := .i64, ty2 := .f32x2, opx := 1 }]
def clean5 : List Instr :=
  [.fmin fq, .fmax fq, .fclass f1, .frnd f1, .frcp f1, .frsq f1, .fsqrt f1, .fex2 f1, .flg2 f1, .fsin f1, .fcos f1, .ftanh f1]
def clean6 : List Instr :=
  [.bmax { f1 with opx := 3 }, .bscl { i1 with e := .imm 0x13 }, .upk4 { f1 with e := .imm 1, opx := 7 }]
def clean7 : List Instr :=
  [.shfl { iq with opx := 3, b := .imm 31 }, .bcast { ib with b := .imm 31 }, .vote { io with d := .p 1, a := .p 2, opx := 2 },
   .ballot { io with d := .w 1, a := .p 2 }, .vperm { ib with c := .v 7 }]
def clean8 : List Instr :=
  [.vred { i1 with opx := 3 }, .vred { f1 with opx := 0 }, .vscan { i1 with opx := 11 }, .vscan { i1 with opx := 3 }, .tbl f1]

def cleanM128 : List Instr :=
  let i : M128A := { m128 with d := .v 4, a := .v 5, ty := .i16x4, i32 := 0xFFFD }
  let r : M128A := { i with ty := .none }
  [.iaddM128 i, .isubM128 i, .imulM128 i, .iminM128 i, .imaxM128 i, .icmpM128 { i with d := .p 3, opx := 13 }, .icmpM128 i, .bandM128 r, .borM128 r,
   .bxorM128 r, .movi { r with a := .v 0, opx := 1 }, .movi { r with a := .v 0 }, .movh { r with a := .v 0 }]

def cleanS64 : List Instr :=
  [.pand { s64 with d := .p 1, a := .p 2, b := .p 3, i16 := 3 }, .por { s64 with d := .p 1, a := .p 2, b := .p 3 },
   .pxor { s64 with d := .p 1, a := .p 2, b := .p 3, i16 := 1 }, .pnot { s64 with d := .p 1, a := .p 2 }, .pmov { s64 with d := .p 1, a := .imm 1 }, .nop s64]

/-- The hypothesis of IntegerArithmeticIsExact, ShiftsAndBitFields, WholeRegisterResults, ComparesCarriesAndPredicates, FloatArithmeticRoundsOnce,
FloatSelectionAndSpecialFunctions, CodecSplitsScalesAndUnpacks, ShufflesVotesAndPermutes, ReductionsAndScans. -/
theorem wit_lane_instructions_execute : ((clean0 ++ clean1 ++ clean2 ++ clean3 ++ clean4 ++ clean5 ++ clean6 ++ clean7 ++ clean8 ++ cleanM128 ++ cleanS64).all fun i => lane.clean i && lane.executing i == [0]) = true := by decide +kernel
theorem wit_context_instructions_execute :
    ([Instr.mov { v96 with d := .w 9, a := .w 3 }, .iaddV96 { v96 with d := .w 9, a := .w 3, b := .imm 0x80, ty := .i64 }, .pnot { s64 with d := .p 1, a := .p 2 }].all
      fun i => ctx.clean i && ctx.executing i == [2048]) = true := by decide +kernel

def f32 : V96A := { v96 with d := .v 4, a := .v 5, b := .v 6, ty := .f32x2 }
theorem wit_StochasticRoundingDraws :
    ([Instr.fadd { f32 with rm := .rs }, .fadd f32, .fsub { f32 with rm := .rs }, .fcvt { f32 with rm := .rs, b := .v 0, ty2 := .f16x4, opx := 1 }, .icvtf { f32 with rm := .rs, b := .v 0, ty2 := .i32x2 },
      .cvol { f32 with rm := .rs, c := .v 7, e := .imm 0x13, opx := 3 }, .fmul { f32 with rm := .rs }, .ffma { f32 with rm := .rs, c := .v 7 },
      .cvt8 { f32 with rm := .rs, e := .imm 0x13, opx := 9 }, .cvt8 { f32 with b := .v 0, e := .imm 3 }, .cvw8 { f32 with rm := .rs, b := .v 0, e := .imm 0x2E },
      .pk4 { f32 with rm := .rs, b := .v 0, e := .imm 2, opx := 7 }].all fun i => lane.solo i 0) = true := by decide +kernel
theorem wit_CodecSplits : (lane.solo (.cvol { f32 with c := .v 7, e := .imm 0x13, opx := 3 }) 0) = true := by decide +kernel

/-- IndexedMovesCheckTheIndex: the last index in range and the first beyond it, at either end. -/
theorem wit_IndexedMoves :
    let x : V96A := { v96 with d := .v 4, a := .v 5, b := .imm 0xFF }
    let at0 := fun (k : Word) => (setV (setV lane 0 5 k) 0 4 k : State)
    let k := fun (q : Word) => (((at0 q : State).opnd 0 x.a).toNat + ((at0 q : State).opnd 0 x.b).toInt : Int)
    (at0 1 : State).solo (.movxr x) 0 = true ∧ (at0 1 : State).solo (.movxw x) 0 = true ∧ ((at0 1 : State).thread 0).limit = 256 ∧
      k 1 = 0 ∧ k 256 = 255 ∧ k 0 < 0 ∧ k 257 = 256 := by decide +kernel

theorem wit_SpecialRegisterReads : ((List.range 15 ++ [0x10, 0x1F]).all fun k => lane.clean (.srd { s64 with d := .v 4, a := .imm (.ofNat 8 k) })) = true ∧
    lane.fld rRpctl 1 0 = 0 ∧ (lane.wgOf 0).isSome = true ∧ ctx.clean (.srd { s64 with d := .w 4, a := .imm 0x0A }) = true := by decide +kernel
theorem wit_SpecialAndSegmentRegisterWrites :
    ([0x0A, 0x0B, 0x0C, 0x0D, 0x10, 0x1F].all fun k => lane.solo (.swr { s64 with d := .imm (.ofNat 8 k), a := .v 4 }) 0) = true ∧
    (lane.wgOf 0).isSome = true ∧ segValueOk (lane.opnd 0 (.v 4)) = true ∧ segValueOk ((setV lane 0 4 0xFFFFFFFFFFFFFFFF).opnd 0 (.v 4)) = false := by decide +kernel

/-! ### Witnesses: state pieces -/

def thr (s : State) (f : Thread → Thread) : State := s.modThread 0 f
def wg0 (s : State) (f : Wg → Wg) : State := s.modWg 0 f
def cthr (s : State) (f : Thread → Thread) : State := s.modThread 2048 f
/-- An access of a thread with nothing in it. -/
def mop (tid kind : Nat) : MOp :=
  { id := 9, tid := tid, pc := 0, kind := kind, va := 0, dsts := [], parts := [], fmt := .none, acq := none, ranges := [], fill := false, clk := 0,
    sample := none, mst := false }
/-- A second live thread of the lane's warp, in lane k. -/
def mate (s : State) (k : Nat) : State := s.setThreads (s.c.threads ++ [{ s.thread 0 with tid := k }])

def quiet (s : State) : Bool := s.b.regs.isEmpty && s.c.warps.all (fun w => w.smpl.isNone) && s.b.samples.isEmpty
theorem quiet_idle (s : State) (h : quiet s = true) : s.debugIdle := by
  simp only [quiet, Bool.and_eq_true, List.isEmpty_iff, List.all_eq_true, Option.isNone_iff_eq_none] at h
  exact ⟨fun o _ => by unfold State.reg; rw [h.1.1]; rfl, h.1.2, h.2⟩
def sits (s : State) : Bool := decide (s.cur.unit < 960) && s.cur.tids.all (fun n => unitOf n == s.cur.unit) && s.c.wgs.all fun g => decide (g.core < 192)
theorem sits_seated (s : State) (h : sits s = true) : s.seated := by
  simp only [sits, Bool.and_eq_true, decide_eq_true_eq, List.all_eq_true, beq_iff_eq] at h
  exact ⟨h.1.1, h.1.2, h.2⟩
theorem wit_debug_idle : lane.debugIdle ∧ lane.seated ∧ ctx.debugIdle ∧ ctx.seated :=
  ⟨quiet_idle _ (by decide +kernel), sits_seated _ (by decide +kernel), quiet_idle _ (by decide +kernel), sits_seated _ (by decide +kernel)⟩

/-! ### Witnesses: tables, nests, flow -/

def job (swap started : Bool) : TableJob := { swap := swap, clk := 0, tids := [0], pc := 0, img := 7, bad := none, started := started }
def tables (l : List TableJob) : State := wg0 lane fun g => { g with table := { g.table with jobs := l } }
theorem wit_ActivationTables :
    lane.clean (.tbl f1) = true ∧ (lane.executing (.tbl f1)).all (fun n => (lane.wgOf n).isSome) = true ∧
    lane.solo (.tblsw s64) 0 = true ∧ lane.solo (.tblld { m128 with a := .w 3 }) 0 = true ∧
    (State.setOps lane [mop 0 0]).solo (.tblld { m128 with a := .w 3 }) 0 = true ∧ ((lane.opnd 0 (.w 3) + (8 : BitVec 32).signExtend 64).toNat) % 16 = 8 ∧
    ((lane.opnd 0 (.w 3)).toNat) % 16 = 0 ∧ lane.m.ops = [] ∧
    ((tables [job true false]).wg? 0).bind (fun g => g.table.swapAt) = some 0 ∧ (tables [job true false]).bankQuiet 0 1 = true ∧
    ((tables [job false false]).wg? 0).bind (fun g => g.table.loadAt) = some 0 ∧ (tables [job false false]).bankQuiet 0 1 = true ∧
    ((tables [job false true]).wg? 0).bind (fun g => g.table.jobs.findIdx? fun j => j.started) = some 0 := by decide +kernel

theorem wit_BranchesAndPauses :
    lane.clean (.nop s64) = true ∧ lane.solo (.pause { s64 with i16 := 0xFFFF }) 0 = true ∧ lane.solo (.bra ⟨true, 0x800000, .always⟩) 0 = true ∧
    ([0, 0x1FFFFFFFFFFFFFC, 0x200000000000000, 2].all fun a => (setV lane 0 5 a).solo (.brx { v96 with a := .v 5 }) 0) = true ∧
    lane.solo (.lbrk s64) 0 = true ∧ (thr lane fun t => { t with loop := { t.loop with act := true } }).solo (.lbrk s64) 0 = true ∧
    (lane.thread 0).loop.act = false := by decide +kernel

/-- A page for the code, and a loop with one `nop` in its body. -/
def pte0 : Pte := { page := 0, size := 16, pa := 0x10000, fmt := 0, geo := 0, ef := false, plc := 0, own := 0, dty := true, perm := 15, lvl := 3, entry := 0 }
def paged (s : State) : State := { s with m := { s.m with tlb := [{ level := 0, inst := 0, asid := 0, pte := pte0 }] } }
def coded : State := (paged lane).wrNat 0x11020 8 0x0000780000000000
def bodyOf (s : State) (x : LoopA) : State × Bool :=
  match s.loopBody 0 (s.cur.pc + 32) x 1 0 (s.cur.pc + 32) with
  | (u, .ok _) => (u, true)
  | (u, .error _) => (u, false)
/-- The conditions of the last part of LoopsStartOrSkip on a body of one instruction of 8 bytes. -/
def bodyStands (s : State) (x : LoopA) : Bool :=
  let a := s.cur.pc + 32
  let b := pte0.addr a / 32 * 32
  decide (a < 2 ^ 57) && (s.tlbHit (coreOf 0) 0 a).map (·.pte) == some pte0 && !hostSpace b && s.here b && s.tenantOk 0 b true false &&
    !s.poisonedIn b 32 && (match wordIn a (s.rdNat b 32) with | some w => bodyOk x 0 w && lenBits w == 64 | none => false)
theorem wit_LoopsStartOrSkip :
    ([{ loop0 with trip := 7 }, loop0, { loop0 with tm := true, trip := 63 }].all fun x => coded.solo (.loop x) 0 &&
      (bodyOf coded x).2 && (bodyOf coded x).1.solo (.loop x) 0 && decide ((bodyOf coded x).1.cur = coded.cur) && bodyStands coded x) = true ∧
    (let x := { loop0 with g := ⟨true, 15⟩ }
     (Instr.loop x).wfIn false = true ∧ (bodyOf coded x).2 = true ∧ (bodyOf coded x).1.guards 0 (.loop x) = false ∧ ((bodyOf coded x).1.thread? 0).isSome = true) ∧
    (bodyOf lane loop0).2 = false ∧ coded.m.errs = [] ∧ coded.cur.pc % 4 = 0 ∧ pte0.perm.testBit 3 = true ∧
    (coded.regionOf 0).any (fun r => r.asid == 0 && r.tenant == 0) = true := by decide +kernel

theorem wit_YieldBudget :
    ([0, 1, 0xFFFF].all fun k => lane.solo (.yield { s64 with i16 := k }) 0) = true ∧ (lane.regionOf 0).isSome = true ∧ lane.preempting 0 = false ∧ (wg0 lane fun g => { g with preempt := true }).preempting 0 = true ∧ (liveCount s64.b).isSome = true ∧
    (lane.thread 0).gone = false ∧ (lane.thread 0).replay = false ∧
    (let t := (thr lane fun t => { t with ycnt := 65535 }).thread 0; t.ybud < t.ycnt + 1) ∧ (lane.thread 0).ycnt + 1 ≤ (lane.thread 0).ybud := by decide +kernel

/-- Three states of mask 15: only this thread in it; another that has not come; another that waits. -/
def masked (arr : BitVec 16) : State := (mate lane 1).setThreads ((mate lane 1).c.threads.map fun t => { t with msk := 0x8000, arr := if t.tid == 1 then arr else 0 })
theorem wit_RejoinEpisodes :
    ([0, 1].all fun k => lane.solo (.jmark { s64 with d := .k 15, i16 := k }) 0) = true ∧ lane.solo (.jmark { s64 with d := .k 15, a := .w 1, i16 := 2 }) 0 = true ∧
    lane.c.threads.all (fun t => !t.arr.getLsbD 15) = true ∧
    ([.rjoin { s64 with d := .k 15 }, .jleave { s64 with d := .k 15 }].all fun i => lane.solo i 0 && (masked 0).solo i 0 && (masked 0x8000).solo i 0) = true ∧
    (masked 0).c.threads.any (fun u => u.tid == 1 && !u.gone && u.msk.getLsbD 15 && !u.arr.getLsbD 15 && !u.lft.getLsbD 15) = true ∧
    (masked 0x8000).c.threads.all (fun u => u.tid == 0 || u.arr.getLsbD 15) = true ∧ ((masked 0).thread 0).msk.getLsbD 15 = true ∧
    (lane.thread 0).msk.getLsbD 15 = false := by decide +kernel

/-! ### Witnesses: exceptions, windows -/

def policy (s : State) (p : Nat) : State := { s with l := { s.l with regions := s.l.regions.map fun r => { r with pol := p, hnd := 0x4000 } } }
theorem wit_TrapEntersTheHandler :
    let s := policy lane 3
    (s : State).solo (.trap { s64 with i16 := 0xFFFF }) 0 = true ∧ ((s : State).regionOf 0).isSome = true ∧
    ((s : State).regionOf 0).all (fun r => r.pol == 3) = true ∧ ((s : State).thread 0).hm = false ∧ ((s : State).thread 0).faults = [] ∧ ((s : State).thread 0).hostPark = false ∧
    ((s : State).thread 0).loop.act = false ∧ (s : State).owes 0 = false ∧ (s : State).fld (rPctl (unitOf 0)) 7 7 = 0 ∧ ((s : State).unit (unitOf 0)).step = none ∧
    (s : State).c.threads.all (fun k => k.dueFault == none) = true := by decide +kernel

theorem wit_BreakpointAndReturn :
    (let s := lane.setFld (rPctl 0) 6 6 1
     (s : State).solo (.brk s64) 0 = true ∧ (s : State).fld (rPctl (s : State).cur.unit) 6 6 = 1 ∧ (s : State).fld (rPctl (s : State).cur.unit) 5 5 = 0 ∧ (s : State).frozen (s : State).cur.unit = false ∧
       ((s : State).unit (s : State).cur.unit).due = none) ∧
    lane.solo (.brk s64) 0 = true ∧ lane.fld (rPctl lane.cur.unit) 6 6 = 0 ∧ lane.solo (.rfe s64) 0 = true ∧ (lane.thread 0).hm = false ∧
    ([0x1FFFFFFFFFFFFFC, 0x200000000000000, 2].all fun a => (thr lane fun t => { t with hm := true, tpc := a }).solo (.rfe s64) 0) = true := by decide +kernel

def deep (ws : List Win) (dep : Nat) : State := thr lane fun t => { t with win := { t.win with dep := dep, f := 8, res := ws }, spl := 0x10000 }
theorem wit_CallsAndReturns :
    (deep [⟨8, 0⟩] 0).solo (.call { m128 with opx := 29, i32 := 0xFFFFFFFC }) 0 = true ∧ isCtx 0 = false ∧ ((deep [⟨8, 0⟩] 0).thread 0).ring = 240 ∧
    (setV (deep [⟨8, 0⟩] 0) 0 5 0x1FFFFFFFFFFFFFC).solo (.call { m128 with opx := 61, a := .v 5 }) 0 = true ∧
    (thr lane fun t => { t with v := t.v.take 32 }).solo (.call { m128 with opx := 30 }) 0 = true ∧ ((thr lane fun t => { t with v := t.v.take 32 }).thread 0).ring < 240 ∧
    lane.solo (.ret s64) 0 = true ∧ (lane.thread 0).win.dep = 0 ∧
    (deep [⟨8, 0x100⟩, ⟨8, 0x200⟩] 1).solo (.ret s64) 0 = true ∧ (deep [⟨8, 0x200⟩] 1).solo (.ret s64) 0 = true ∧
    ((deep [⟨8, 0x200⟩] 1).thread 0).spills = [] ∧ (deep [⟨8, 0x100⟩, ⟨8, 0x200⟩] 1).solo (.wflush s64) 0 = true ∧
    ((deep [⟨8, 0x100⟩, ⟨8, 0x200⟩] 1).thread 0).win.spo + Win.bytes ⟨8, 0x100⟩ ≤ ((deep [⟨8, 0x100⟩, ⟨8, 0x200⟩] 1).thread 0).spl := by decide +kernel

def spill (st : SpillSt) : Spill := { off := 0, words := [5, 6], pc := 0, st := st }
def spilled : State := thr (paged lane) fun t => { t with spb := 0x2000, spills := [spill .held, spill .fresh] }
def refilled : State := thr ((paged lane).wrNat 0x12040 8 8) fun t =>
  { t with spb := 0x2000, spl := 0x10000, wait := .refill, win := { t.win with dep := 1, spo := 72, f := 8, res := [⟨8, 0x300⟩] } }
def refills (s : State) : Bool := match s.refill 0 with | (_, .ok _) => true | (_, .error _) => false
theorem wit_SpillsAndRefills :
    (spilled.writeSpill 0 (spill .fresh)).2 = none ∧ ((thr spilled fun t => { t with spb := 0x20000000 }).writeSpill 0 (spill .fresh)).2.isSome = true ∧
    (spilled.thread 0).hostPark = false ∧ (spilled.thread 0).faults = [] ∧ (spilled.thread 0).spills = [spill .held, spill .fresh] ∧
    (refilled.thread 0).wait = .refill ∧ (refilled.thread? 0).isSome = true ∧ refills refilled = true ∧
    refills (thr refilled fun t => { t with spb := 0x20000000 }) = false := by decide +kernel

theorem wit_ExitEndsTheThread :
    let s := mate lane 1
    (s : State).solo (.exit s64) 0 = true ∧ (s : State).owes 0 = false ∧ (s : State).busy 0 = false ∧ (s : State).c.xfers = [] ∧ ((s : State).thread 0).batches = Batches.none ∧
    ((s : State).warp? (widOf 0)).all (fun w => w.jca == none) = true ∧ ((s : State).wgOf 0).all (fun g => g.eps == [] && g.xp == [] && g.dq.ents == [] && g.key == 0) = true ∧
    ((s : State).wgOf 0).isSome = true ∧ (s : State).c.clusters.all (fun c => c.ep == none) = true ∧ ((s : State).thread 0).msk = 0 ∧
    (s : State).c.threads.all (fun q => q.wait != .dqSync) = true ∧ ((s : State).thread? 1).isSome = true ∧ ((s : State).thread 1).gone = false ∧
    (((s : State).warp? (widOf 1)).bind (·.wg)) = some 0 := by decide +kernel

/-! ### Witnesses: accesses -/

/-- A thread whose code and data page, 64 KiB from virtual 0, is in its L1 TLB, with a scratch window of 4 KiB. -/
def mapped : State := wg0 (paged lane) fun g => { g with win := 4096 }
def cmapped : State := wg0 (paged ctx) fun g => { g with win := 4096 }
def busyLane : State := mapped.setOps [mop 0 0]
def ready (s : State) (n : Nat) : Bool :=
  quiet s && sits s && !s.acquiring n && (s.thread n).fences.isEmpty && s.c.rows.all (fun j => j.lanes.all fun l => l.tid != n) &&
    s.c.l1.all (fun e => e.core != coreOf n) && s.m.colQ.all fun r => r.core != coreOf n
theorem ready_unheld (s : State) (n : Nat) (h : ready s n = true) : s.unheld n := by
  simp only [ready, Bool.and_eq_true, List.all_eq_true, Bool.not_eq_true', bne_iff_ne, List.isEmpty_iff] at h
  exact ⟨h.1.1.1.1.2, h.1.1.1.2, h.1.1.2⟩
theorem ready_accessReady (s : State) (n : Nat) (h : ready s n = true) : s.accessReady n := by
  have hu := ready_unheld s n h
  simp only [ready, Bool.and_eq_true, List.all_eq_true, Bool.not_eq_true', bne_iff_ne, List.isEmpty_iff] at h
  exact ⟨quiet_idle _ h.1.1.1.1.1.1, sits_seated _ h.1.1.1.1.1.2, hu, h.1.2, h.2⟩
theorem wit_accessReady : mapped.accessReady 0 ∧ cmapped.accessReady 2048 ∧ busyLane.accessReady 0 :=
  ⟨ready_accessReady _ _ (by decide +kernel), ready_accessReady _ _ (by decide +kernel), ready_accessReady _ _ (by decide +kernel)⟩

def isMem : Plan → Bool | .mem p _ xpa _ 0 [] => !hostSpace xpa && p.dty | _ => false
def isScr (key : Nat) : Plan → Bool | .scr k _ _ 0 [] [] => k == key | _ => false
def isPFault : Plan → Bool | .fault f => !f.deferred && f.code != .trap && f.code != .brk | _ => false
def isMiss : Plan → Bool | .miss _ => true | _ => false

def ldv : V96A := { v96 with d := .v 4, a := .v 5, b := .imm 0 }
def stv : V96A := { v96 with c := .v 4, a := .v 5, b := .imm 0 }
def ldm : M128A := { m128 with d := .v 4, a := .v 5, sz := .b128 }
def stm : M128A := { m128 with c := .v 4, a := .v 5, sz := .b128, atm := .a16 }
def ask (al n : Nat) (need : Need) : Ask := { sp := .gv, n := n, need := need, al := al }

/-- Each clause of AccessChecksInOrder: over the line's end, off its alignment, at 2^57, in no TLB, allowed, refused. -/
def pteNone : Pte := { pte0 with perm := 0 }
theorem wit_AccessChecks :
    (mapped.regionOf 0).isSome = true ∧ 128 < 121 % 128 + 8 ∧ 4 % 8 ≠ 0 ∧ (2 ^ 57 : Nat) % 128 + 8 ≤ 128 ∧ lane.tlbHit 0 0 8 = none ∧ (lane.thread 0).walked = [] ∧
    (mapped.tlbHit (coreOf 0) 0 0xFFF8).isSome = true ∧ (mapped.tlbHit (coreOf 0) 0 0x10000).isNone = true ∧
    mapped.plan (ask 8 8 .rd) 0 121 = .fault (fltAt .misalign 0 0 121) ∧ mapped.plan (ask 8 8 .rd) 0 (2 ^ 57) = .fault (fltAt .page 0 0 (2 ^ 57)) ∧
    isMem (mapped.plan (ask 8 8 .w) 0 120) = true := by decide +kernel

theorem wit_LoadsAndStores :
    LdStForm (.ldV96 ldv) (V96A.ldst ldv) ldv.d false (fun s t => s.ea2 t ldv.a ldv.b) ∧ LdStForm (.stM128 stm) (M128A.ldst stm) stm.c true (M128A.ea stm) ∧
    mapped.solo (.ldV96 ldv) 0 = true ∧ mapped.solo (.stV96 stv) 0 = true ∧ mapped.solo (.ldM128 ldm) 0 = true ∧ mapped.solo (.stM128 stm) 0 = true ∧
    isMem (mapped.plan (LdSt.ask (V96A.ldst ldv) false) 0 (mapped.ea2 0 ldv.a ldv.b)) = true ∧
    isMem (mapped.plan (LdSt.ask (M128A.ldst ldm) false) 0 (M128A.ea ldm mapped 0)) = true ∧
    isMem (mapped.plan (LdSt.ask (V96A.ldst stv) true) 0 (mapped.ea2 0 stv.a stv.b)) = true ∧
    isMem (mapped.plan (LdSt.ask (M128A.ldst stm) true) 0 (M128A.ea stm mapped 0)) = true ∧
    isPFault (mapped.plan (LdSt.ask (V96A.ldst ldv) false) 0 121) = true ∧ isMiss (lane.plan (LdSt.ask (V96A.ldst ldv) false) 0 (lane.ea2 0 ldv.a ldv.b)) = true ∧
    lane.solo (.ldV96 ldv) 0 = true ∧ (setV mapped 0 5 121).solo (.ldV96 ldv) 0 = true := by
  refine ⟨.ldV96 _, .stM128 _, ?_⟩; decide +kernel

theorem wit_ScratchAccesses :
    (let l := { ldv with opx := 1 }; mapped.solo (.ldV96 l) 0 = true ∧ isScr 0 (mapped.plan (LdSt.ask (V96A.ldst l) false) 0 4088) = true ∧
      isScr 0 (mapped.plan (LdSt.ask (V96A.ldst l) false) 0 (mapped.ea2 0 l.a l.b)) = true) ∧
    (let x := { stm with sp := .own }; mapped.solo (.stM128 x) 0 = true ∧ isScr 0 (mapped.plan (LdSt.ask (M128A.ldst x) true) 0 (M128A.ea x mapped 0)) = true) ∧
    (let x : M128A := { m128 with d := .v 6, a := .v 8, b := .v 9, sz := .b64, sp := .own, opx := 11 };
      mapped.solo (.atom x) 0 = true ∧ isScr 0 (mapped.plan { sp := .own, n := 8, need := .watom, al := 8 } 0 (M128A.eaI x mapped 0)) = true) ∧
    (let x : M128A := { m128 with d := .v 6, a := .w 8, b := .v 10, c := .v 12, sz := .b128, sp := .own };
      mapped.solo (.cas x) 0 = true ∧ isScr 0 (mapped.plan { sp := .own, n := 16, need := .watom, al := 16 } 0 (M128A.eaI x mapped 0)) = true) ∧
    (mapped.wg? 0).all (fun g => Memory.wf g.scr) = true ∧ (mapped.wg? 0).isSome = true ∧ (mapped.c.wgs.map (·.key)).Nodup ∧ mapped.c.lag = [] ∧ mapped.c.scrQ = [] ∧
    mapped.c.rows = [] ∧ mapped.busy 0 = false := by decide +kernel

def am : M128A := { m128 with d := .v 6, a := .v 8, b := .v 9, sz := .b64 }
theorem wit_Atomics :
    (let x := { am with sc := .pod, ord := .rel }; mapped.solo (.atom x) 0 = true ∧ mapped.busy 0 = false ∧
      isMem (mapped.plan { sp := x.sp, n := szBytes x.sz, need := .watom, al := szBytes x.sz } 0 (M128A.eaI x mapped 0)) = true) ∧
    (let x : M128A := { m128 with d := .v 6, a := .w 8, b := .v 10, c := .v 12, sz := .b128 }; mapped.solo (.cas x) 0 = true ∧
      isMem (mapped.plan { sp := x.sp, n := szBytes x.sz, need := .watom, al := szBytes x.sz } 0 (M128A.eaI x mapped 0)) = true) ∧
    (let x : M128A := { m128 with d := .v 6, a := .v 8, sc := .core }; mapped.solo (.acq x) 0 = true ∧
      isMem (mapped.plan { sp := .gv, n := 8, need := .ratom, al := 8 } 0 (M128A.eaI x mapped 0)) = true) ∧
    (let x : M128A := { m128 with a := .v 8, b := .imm 1, sc := .core, opx := 16 }; mapped.solo (.rel x) 0 = true ∧ busyLane.solo (.rel x) 0 = true ∧
      isMem (mapped.plan { sp := .gv, n := 8, need := .watom, al := 8 } 0 (M128A.eaI x mapped 0)) = true) ∧
    busyLane.busy 0 = true := by decide +kernel

def bindReg (s : State) (k : Nat) : State :=
  { s with l := { s.l with regions := s.l.regions.map fun r => { r with binds := (List.range k).map fun i => (i, 0, 0, 128) } } }
def setW (s : State) (wid n : Nat) (x : Word) : State :=
  { s with c := { s.c with warps := s.c.warps.map fun q => if q.wid == wid then { q with w := q.w.set n x } else q } }
theorem wit_FencesBindingsPrefetch :
    ([0x4, 0x5, 0xC, 0xD, 0x14].all fun k => mapped.solo (.fence { s64 with i16 := k }) 0 && busyLane.solo (.fence { s64 with i16 := k }) 0 &&
      busyLane.solo (.fence { s64 with i16 := k, park := true }) 0) = true ∧ busyLane.busy 0 = true ∧ (busyLane.thread 0).fences = [] ∧ mapped.busy 0 = false ∧
    (let s := setW mapped 0 4 128; let x : M128A := { m128 with d := .w 1, a := .w 2, b := .w 3, c := .w 4 };
      (s : State).solo (.bind x) 0 = true ∧ (bindReg s 64).solo (.bind x) 0 = true ∧ ((s : State).opnd 0 x.c).toNat = 128 ∧ ((s : State).opnd 0 x.a).toNat % 8 = 0) ∧
    ((bindReg mapped 63).regionOf 0).all (fun r => (List.range 63).all fun i => r.binds.any fun e => e.1 == i) = true ∧
    mapped.solo (.unbind { m128 with a := .w 2 }) 0 = true ∧ mapped.solo (.prf { m128 with a := .v 5, opx := 1 }) 0 = true ∧
    isMem (mapped.plan { sp := .gv, n := 1, need := .rd, watch := false } 0 (M128A.eaI { m128 with a := .v 5 } mapped 0)) = true := by decide +kernel

def holds (s : State) (tenant x n : Nat) (rd w : Bool) : Bool :=
  s.m.errs.isEmpty && (sectorParts x n).all fun q => !hostSpace q.1 && s.here q.1 && !s.poisoned q.1 && (List.range 32).all fun i => s.tenantOk tenant (q.1 / 32 * 32 + i) rd w
def isRow (slots : Nat) : Except (Option FaultInfo × Nat) Row → Bool
  | .ok r => r.slots.length == slots && r.els.length == 1 && r.els.all (fun e => e.p.dty) && r.slots.all fun q => q.2.2 % 2 == 0 && holds mapped 0 q.2.2 2 true false
  | .error _ => false
/-- A page of scaled one-byte codes. -/
def scaled : State := { mapped with m := { mapped.m with tlb := [{ level := 0, inst := 0, asid := 0, pte := { pte0 with fmt := 0x13, geo := 1 } }] } }
/-- A row of one lane of which k elements are left: whole words, or elements of four bits. -/
def rowJob (store : Bool) (fmt k : Nat) : RowJob :=
  { id := 9, store := store, pc := 0, lanes := [{ op := 9, tid := 0, key := 0, so := 0, seed := 1 }], ty := .f32x2, rm := .rne, satf := false, hint := .dflt,
    els := (List.range k).map fun i => { i := i, bit := fmtBits fmt * i, va := fmtBits fmt * i / 8, p := pte0, fmt := fmt, slot := none },
    todo := List.range k, codes := [], fault := false }
def rowing (store : Bool) (fmt k : Nat) : State :=
  let s := mapped.setOps [{ mop 0 0 with fmt := .none }]
  { s with c := { s.c with rows := [rowJob store fmt k] } }
def rowStands (store : Bool) (fmt k : Nat) : Bool :=
  let s := rowing store fmt k
  let j := rowJob store fmt k
  decide ((s.c.rows.find? fun q => q.id == 9) = some j) && quiet s && s.c.l1.isEmpty && !(s.rowReady j).isEmpty && (s.regionOf 0).isSome &&
    s.m.ops.all (fun o => !o.mst && o.fmt == .none) && (s.wg? 0).any (fun g => Memory.wf g.scr && decide (g.core < 192)) &&
    (s.rowReady j).all fun e => e.p.dty && decide (e.p.addr e.va % 32 + (e.bits .f32x2 + 7) / 8 ≤ 32) && holds s 0 (e.p.addr e.va) ((e.bits .f32x2 + 7) / 8) (!store) store
theorem wit_GathersAndScatters :
    (let x : M128A := { m128 with d := .w 1, a := .v 5, b := .v 6, c := .w 2 };
      mapped.solo (.gth { x with ty := .i32x2 }) 0 = true ∧ mapped.solo (.sct x) 0 = true ∧ mapped.solo (.sctr { x with ty := .f32x2 }) 0 = true ∧ mapped.busy 0 = false ∧
      scaled.solo (.gth { x with ty := .f32x2 }) 0 = true ∧ scaled.busy 0 = false ∧ isRow 1 (scaled.rowPlan 0 .rd .f32x2 1 0 0) = true ∧
      isRow 0 (mapped.rowPlan 0 .rd .i32x2 1 0 0) = true ∧ isRow 0 (mapped.rowPlan 0 .w .none 1 4095 0x7F) = true ∧ isRow 0 (mapped.rowPlan 0 .watom .f32x2 1 0 0) = true ∧
      busyLane.solo (.gth { x with ty := .i32x2 }) 0 = true ∧ busyLane.solo (.sct x) 0 = true ∧ busyLane.solo (.sctr { x with ty := .f32x2 }) 0 = true) ∧
    (mapped.regionOf 0).any (fun r => r.tenant == 0) = true ∧ mapped.c.rows = [] ∧ mapped.c.l1 = [] ∧ mapped.m.errs = [] ∧ quiet scaled = true ∧ sits scaled = true ∧
    ([false, true].all fun st => rowStands st 0 1 && rowStands st 0 2 && rowStands st 1 2) = true ∧ fmtBits 1 = 4 := by decide +kernel

/-! ### Witnesses: issue events and nests -/

def due (v : Option Word) (set : Nat) : State :=
  lane.setPend [{ dst := .v 0 4, val := v, owners := [0], pc := 0, opd := 4, set := set }, { dst := .p 0 2, val := v, owners := [0], pc := 0, opd := 4, set := set }]
def fetches (s : State) (pc : Nat) : Bool := match s.fetchBlock 0 pc with | (_, .ok _) => true | (_, .error _) => false
theorem wit_WindowsFetchesAndResults :
    (lane.c.threads.map (·.tid)).Nodup ∧ lane.phaseOf 0 = 0 ∧ (State.phaseOf { lane with clk := 1 } 0) = 1 ∧
    fetches (thr mapped fun t => { t with fetch := .none }) 0x1000 = true ∧ ((thr mapped fun t => { t with fetch := .none }).thread 0).fetched = false ∧
    (mapped.thread 0).gone = false ∧ fetches (thr lane fun t => { t with fetch := .none, pc := 2 }) 2 = false ∧
    ([0, 1].all fun k => ((due (some 3) k).c.pend.all fun p => p.val == some 3 && p.set == k) && (due (some 3) k).c.pend.length == 2) = true ∧
    ((thr lane fun t => { t with wait := .pause 5 }).thread 0).wait = .pause 5 ∧ lane.clk = 0 := by decide +kernel

def nestOf (op : Nat) (x : NestA) : Nest :=
  { wid := 0, tids := [0], op := op, a := x, base := [0, 8, 0], img := 0, iter := 0, part := 0, pc := 0, back := [(0, false, 0)] }
def nesting (op : Nat) (x : NestA) : State := { mapped with c := { mapped.c with nests := [nestOf op x, { nestOf op x with wid := 1, tids := [32] }] } }
def nx : NestA := { nest0 with ext := 1, str := 4, typ := 5 }
def fill3 : Nest := nestOf 0xE2 { nx with typ := 3 }
def walks (n : Nest) : Bool := match mapped.walkNest n 2 0 0 with | .ok _ => true | .error _ => false
theorem wit_LoopNests :
    ([.nmap { nest0 with opn := 8, flg := 1 }, .nred { nest0 with opn := 1, flg := 1 }, .nfill nx].all fun i => mapped.solo i 0) = true ∧
    ((nesting 0xE2 nx).c.nests.find? fun n => n.wid / 16 == 0) = some (nestOf 0xE2 nx) ∧ (nesting 0xE2 nx).frozen 0 = false ∧
    walks (nestOf 0xE2 nx) = true ∧ walks { nestOf 0xE2 nx with base := [4096, 8, 0] } = false ∧ (nestOf 0xE2 nx).inner * (nestOf 0xE2 nx).outer = 2 ∧
    mapped.c.scrQ = [] ∧ mapped.c.rows = [] ∧
    (mapped.wgOf 0).isSome = true ∧ nestFloat fill3.a.typ.toNat = false ∧ 0 < nestSize fill3.a.typ.toNat ∧
    ([0, 1].all fun k => decide (0 ≤ fill3.offset k 0 ∧ fill3.offset k 0 + nestSize 3 ≤ 4096 ∧ fill3.offset k 0 % nestSize 3 = 0)) = true ∧
    nestSrcs 8 ≠ 2 ∧ (match mapped.nestAt (nestOf 0xE0 { nest0 with opn := 8 }) 0 0, mapped.nestAt (nestOf 0xE0 { nest0 with opn := 8 }) 0 1 with
      | .ok a, .ok b => a.1 == b.1 && a.1 == 0 | _, _ => false) = true := by decide +kernel

/-! ### Witnesses: the path of a request -/

def wire (op : ReqOp) (x : Nat) : WireReq :=
  { src := 0, tag := 0, dst := 0, vc := 0, op := op, xpa := x, size := 8, ksz := 8, mask := 0xFF, data := 5, cmp := 0, sc := .thread, ord := .rlx, tenant := 0, nr := false }
def req (id : Nat) (op : ReqOp) (x : Nat) : Req :=
  { id := id, core := 0, org := .part 9 0, w := wire op x, hint := .dflt, ef := false, region := 1, sent := none, thr := [0], vfill := false,
    cut := 0, todo := 2 ^ 32 - 1, got := 0 }
/-- A line of another module. -/
def far : Nat := 2 * 2 ^ 52
def withM (f : MemSys → MemSys) : State := { mapped with m := f mapped.m }
theorem wit_RequestsReachTheirHome :
    (takeFirst (fun (r : Req) => r.core == 0) [req 3 .load 0]).isSome = true ∧ quiet mapped = true ∧ mapped.here 0 = true ∧ mapped.reachable 0 = true ∧
    mapped.reachable far = false ∧ keyEq (wire .load 0) (wire .load 32) = false ∧ keyEq (wire .load 0) (wire .load 0) = true ∧ reqCombines (wire .load 0) = true ∧
    mapped.waitRoom 1 = true ∧ (takeFirst (fun (r : Req) => mapped.here r.w.xpa) [req 3 .load 0]).isSome = true ∧ mapped.tagRoom mapped.b.pkg = true ∧
    1 ≠ mapped.b.pkg ∧ (takeFirst (fun (r : Req) => r.w.src == 1) [{ req 3 .load 0 with w := { wire .load 0 with src := 1 } }]).isSome = true ∧
    mapped.m.dups.length < 8192 ∧ regsWf mapped.b.regs = true := by decide +kernel

/-- A request at its home: outside storage; allowed, of each operation; at a poisoned sector. -/
theorem wit_HomesPerformOperations :
    ([.load, .store, .atom 0, .cas, .acq, .rel, .join].all fun op => (withM fun m => { m with bQ := [req 3 op 0] }).homeNext 0 [] [req 3 op 0] == some (req 3 op 0) &&
      (withM fun m => { m with bQ := [req 3 op 0] }).pdtMiss (req 3 op 0) == none && mapped.tenantOk 0 0 (op != .store) (op != .load && op != .acq && op != .join)) = true ∧
    mapped.populated 0 = true ∧ mapped.populated (2 ^ 50) = false ∧ mapped.homeNext (agentOf (2 ^ 50)) [] [req 3 .load (2 ^ 50)] = some (req 3 .load (2 ^ 50)) ∧
    (withM fun m => { m with pois := [0] }).poisonedIn 0 8 = true ∧ mapped.poisonedIn 0 8 = false ∧ quiet mapped = true ∧ mapped.m.errs = [] ∧ Memory.wf mapped.m.mem = true ∧
    (State.tenantOk (State.setFld mapped rFabCfg 8 8 1) 5 0 true false) = (State.tenantOk (State.setFld mapped rFabCfg 8 8 1) 5 0 true false) := by decide +kernel

def ans3 : Ans := { req := req 3 .load 0, data := 0x1234, fault := none }
def op9 : MOp := { mop 0 0 with id := 9, dsts := [.v 0 4], parts := [{ xpa := 0, size := 8, at_ := 0, done := false, data := 0, fault := none }], fmt := .raw 8 }
theorem wit_AnswersReturn :
    (takeFirst (fun (w : WaitEnt) => w.lead == 3) [{ point := 1, lead := 3, foll := req 4 .load 0, e := 0 }]).isSome = true ∧
    (takeFirst (fun (a : Ans) => a.req.id == 3 && a.req.org != .remote) [ans3]).isSome = true ∧ mapped.m.waits = [] ∧ mapped.here 0 = true ∧
    ((withM fun m => { m with ops := [op9] }).m.ops.find? fun o => o.id == 9) = some op9 ∧ (withM fun m => { m with ops := [op9] }).mayReturn (req 3 .load 0) = true ∧
    (mapped.thread 0).fences = [] ∧ mapped.m.pdt = [] ∧ Memory.wf mapped.m.host = true ∧ op9.parts.length = 1 ∧ op9.dsts = [.v 0 4] ∧
    (takeFirst (fun (r : Req) => r.id == 3 && (!mapped.reachable r.w.xpa || false)) [req 3 .load far]).isSome = true ∧
    (takeFirst (fun (h : Held) => h.agent == 2) [{ agent := 2, word := 64 }]).isSome = true ∧
    (takeFirst (fun (r : Req) => r.id == 3) [{ req 3 .store (2 ^ 51) with org := .dropped }]).isSome = true ∧ hostSpace (2 ^ 51) = true := by decide +kernel

def missing (started : Bool) : Walk := { die := 0, core := 0, asid := 0, ttb := 0, va := 0x20000, tenant := 0, started := started, tids := [0] }
/-- A level-0 table at pa 0 that names a level-1 table, whose first entry is a 1 GiB leaf. -/
def tableMem : State := (mapped.wrNat 0 8 0x200001).wrNat 0x200000 8 0x27D
/-- How a walk from table 0 ends: the fault's code or the page's size. -/
def walked (s : State) (va : Nat) : Option (Except Code Nat) := match s.walk 0 0 va with | (_, .ok p) => some (.ok p.size) | (_, .error e) => some (.error e.code)
theorem wit_WalksFillTheTlbs :
    (withM fun m => { m with walks := [missing false] }).m.walks[0]? = some (missing false) ∧ (withM fun m => { m with walks := [missing true] }).m.walks[0]? = some (missing true) ∧
    ((withM fun m => { m with walks := [missing false] }).m.walks.filter fun w => w.die == 0 && w.started) = [] ∧
    walked mapped 0x20000 = some (.error .page) ∧ walked tableMem 0x20000 = some (.ok 30) := by decide +kernel

theorem wit_InvalidationsAndProbes :
    (let s := setW mapped 0 3 0x8000; let u := setW mapped 0 3 0x200000000000000
     ([{ m128 with a := .w 3, sc := .pkg }, { m128 with a := .w 3, sc := .pod }, { m128 with sc := .pod, opx := 1 }].all fun x =>
       (s : State).solo (.tlbinv x) 0 && (u : State).solo (.tlbinv x) 0 && busyLane.solo (.tlbinv x) 0) = true ∧ (s : State).busy 0 = false ∧ busyLane.busy 0 = true ∧
     ((u : State).opnd 0 (.w 3)).toNat = 2 ^ 57 ∧
     (s : State).solo (.pprobe { m128 with d := .w 4, a := .w 3, opx := 3 }) 0 = true ∧ (u : State).solo (.pprobe { m128 with d := .w 4, a := .w 3 }) 0 = true ∧
     ((s : State).tlbHit (coreOf 0) 0 0x8000).isSome = true ∧ lane.solo (.pprobe { m128 with d := .v 4, a := .w 3 }) 0 = true ∧ (lane.tlbHit (coreOf 0) 0 0).isNone = true ∧
     walked lane 0 = some (.error .page) ∧ lane.m.walks = [] ∧ (setW tableMem 0 3 0x20000).solo (.pprobe { m128 with d := .v 4, a := .w 3 }) 0 = true ∧
     (tableMem.tlbHit (coreOf 0) 0 0x20000).isNone = true) ∧ (lane.regionOf 0).any (fun r => r.ttb == 0 && r.tenant == 0 && r.asid == 0) = true := by decide +kernel

def retained (k : Nat) : State := (List.range k).foldl (fun s i => s.setReg (rHomeRet i) 1) (setW mapped 0 3 128)
def ranged (s : State) : Bool := match s.homeRange 0 0 128 with | (_, .ok _) => true | (_, .error _) => false
def act (kind : Nat) (mods : List Nat) : State :=
  { mapped with c := { mapped.c with jobs := [{ EngineJob.blank with id := 5, kind := kind, lo := 0, hi := 128, mods := mods, back := some (1, 7) }] } }
theorem wit_RetentionAndCacheActs :
    (let x : M128A := { m128 with d := .w 5, a := .w 2, b := .w 3, opx := 1 }
     ([0, 7, 8].all fun k => (retained k).solo (.rpin x) 0 && regsWf (retained k).b.regs && ranged (retained k)) = true ∧
     (retained 7).retOn 7 = false ∧ ((List.range 7).all fun j => (retained 7).retOn j) = true ∧ ((retained 7).chooseWays 1).isSome = true ∧
     (((retained 0).setFld rHomeCfg 31 16 0).chooseWays 1).isNone = true ∧ ((List.range 8).all fun j => (retained 8).retOn j) = true) ∧
    (let s := ((setW mapped 0 3 7).setReg (rHomeRet 7) 1).setReg (rHomeRet 7 + 24) 1
     (s : State).solo (.runpin { m128 with d := .w 5, a := .w 3 }) 0 = true ∧ (s : State).retOn 7 = true ∧ (s : State).fld (rHomeRet 7 + 24) 31 0 = ((s : State).thread 0).region % 2 ^ 32 ∧
     regsWf (s : State).b.regs = true ∧ mapped.solo (.runpin { m128 with d := .w 5, a := .w 3 }) 0 = true ∧ mapped.retOn 0 = false) ∧
    ([.l2wb { m128 with a := .w 2, b := .w 3, sc := .pkg }, .l2inv { m128 with a := .w 2, b := .w 3, sc := .pod }].all fun i => (retained 0).solo i 0) = true ∧
    (retained 0).busy 0 = false ∧ ([1, 2].all fun k => ((act k []).c.jobs.find? fun j => j.id == 5 && j.kind != 3 && j.mods.isEmpty).isSome) = true ∧
    ((act 3 []).c.jobs ++ (act 1 [1]).c.jobs).all (fun j => j.kind == 3 || j.mods != []) = true := by decide +kernel

/-! ### Witnesses: copies, graph, queues, launch, barriers -/

/-- A lane whose descriptor registers w8 to w11 hold the given words. -/
def desc (s : State) (a b c d : Word) : State := setW (setW (setW (setW s 0 8 a) 0 9 b) 0 10 c) 0 11 d
def words (s : State) : List Word := (List.range 4).map fun i => s.readW 0 (8 + i)
theorem wit_CopyBatches :
    (let x : M128A := { m128 with a := .w 8 }
     mapped.solo (.cp x) 0 = true ∧ busyLane.solo (.cp x) 0 = true ∧ (mapped.wgOf 0).isSome = true ∧ mapped.busy 0 = false ∧ cpCheck (words mapped) 4096 false 0 = none ∧
     (desc mapped 0 4096 0 0).solo (.cp x) 0 = true ∧ (cpCheck (words (desc mapped 0 4096 0 0)) 4096 false 0).isSome = true ∧
     (cpCheck (words (desc mapped 0 4095 0 0)) 4096 false 0) = none) ∧
    mapped.solo (.gthl { m128 with a := .w 8, opx := 2, ty := .i32x2 }) 0 = true ∧ glCheck (words mapped) 4096 true .i32x2 = none ∧
    mapped.solo (.cpseal { s64 with d := .v 4 }) 0 = true ∧ mapped.inUse 0 (mapped.thread 0).batches.next = false ∧ mapped.faultedBatch 0 = none := by decide +kernel

def sealed (k : Nat) (open_ : Bool) : State :=
  let s := thr mapped fun t => { t with batches := { bs := [{ num := k, f := none }], opn := none, next := 0 } }
  { s with c := { s.c with xfers := if open_ then [{ Xfer.blank 0 0 with tids := [(0, some k)] }] else [] } }
theorem wit_CopyWaits :
    ([0, 7].all fun k => (sealed k true).solo (.cpwait { s64 with a := .imm (.ofNat 8 k) }) 0 && (sealed k true).inUse 0 k && (sealed k true).batchBusy 0 k &&
      (sealed k false).inUse 0 k && !(sealed k false).batchBusy 0 k && (sealed k true).faultedBatch 0 == none &&
      (sealed k true).solo (.cppoll { s64 with d := .p 1, a := .imm (.ofNat 8 k) }) 0) = true := by decide +kernel

/-- A row of four bytes, and what a transfer of it does. -/
def xf : Xfer := { Xfer.blank 0 0 with id := 4, tids := [(0, some 0)], desc := [0, 0, 0x30000, 0] }
def moving (x : Xfer) : State := { (sealed 0 false) with c := { (sealed 0 false).c with xfers := [x] } }
def onXfer (x : Xfer) (p : State → Wg → Region → Bool) : Bool :=
  match (moving x).wg? 0, (moving x).region? 1 with | some g, some r => p (moving x) g r | _, _ => false
def begun (l : List (Nat × Nat)) : Xfer := { xf with done := l }
/-- The page at virtual 0 may be read and written. -/
def readWrite : Bool :=
  (mapped.region? 1).any fun r => match mapped.xlate 0 r 0 .rd with
    | (u, .ok _) => (match u.xlate 0 r 0 .w with
      | (_, .ok _) => true
      | (_, .error _) => false)
    | (_, .error _) => false
theorem wit_TransfersMoveRows :
    onXfer xf (fun s g r => (s.xferRun xf g r).2.isNone && (s.xferRun xf g r).1.b.samples.isEmpty) = true ∧
    (let x := { xf with desc := [0x20000, 0, 0, 0] }
     onXfer x fun s g r => match s.xferRun x g r with | (u, some _) => (u.thread? 0).isSome && !(u.thread 0).batches.hasFault && u.b.samples.isEmpty | (_, none) => false) = true ∧
    ((moving xf).c.xfers.find? fun x => x.id == 4) = some xf ∧ quiet (moving xf) = true ∧ sits (moving xf) = true ∧
    (let d := cpDesc xf.desc; d.segv = false ∧ d.rn = 1 ∧ d.rb = 4 ∧ d.gva = 0 ∧ d.sof + 4 ≤ 4096) ∧
    ((moving xf).tlbHit 0 0 0).map (·.pte) = some pte0 ∧ (pte0.addr 0) % 4 = 0 ∧ holds (moving xf) 0 (pte0.addr 0) 4 true false = true ∧
    onXfer xf (fun _ g r => g.core == 0 && r.asid == 0 && r.tenant == 0 && Memory.wf g.scr && decide (4 ≤ g.win)) = true ∧
    ([begun [(0, 0)], begun [(5, 5)]].all fun x => onXfer x fun s g r =>
      (match s.copyPage g r x with | (u, .ok q) => q == (0, 0) && decide (u = s) | (_, .error _) => false) &&
      ((copyJob g r x (0, 0)).pieces 0).length == 1 && ((copyJob g r x (0, 0)).pieces 0).all fun p => ((copyJob g r x (0, 0)).move s p).2.isNone) = true := by decide +kernel

/-- The nodes of a graph at scratch 0, and a payload of four zero words and a direction at 128. -/
def graphOf (vs : List Nat) : State :=
  let s := wg0 { mapped with l := { mapped.l with regions := mapped.l.regions.map fun r => { r with nn := vs.length } } }
    fun g => { g with win := 4096, scr := (vs.zip (List.range vs.length)).foldl (fun m q => memPut m (32 * q.2) 32 q.1) [] }
  setW (setW s 0 3 1) 0 4 2
def graphed (vi vj : Nat) : State := graphOf [vi, vj]
/-- A node whose four successor fields hold 1, and one that goes on in node 2. -/
def full : Nat := 1 + 1025 * (2 ^ 64 + 2 ^ 75 + 2 ^ 86 + 2 ^ 97)
def chained : Nat := full + 1026 * 2 ^ 108
theorem wit_DependenceGraph :
    (let x : M128A := { m128 with d := .w 5, a := .w 3, b := .w 2, opx := 1 }
     (graphed 0 0).solo (.nnew x) 0 = true ∧ (graphed 0 1).solo (.nnew x) 0 = true ∧ mapped.solo (.nnew x) 0 = true ∧ mapped.wgOf 0 ≠ none ∧
     (setW (graphed 0 0) 0 2 4).solo (.nnew x) 0 = true ∧ (graphed chained 0).solo (.nnew { x with a := .w 4, opx := 5 }) 0 = true ∧
     (graphed 0 0).nodeIdle 0 1 = true ∧ (graphed 0 1).nodeIdle 0 1 = false ∧ ((graphed 0 0).wg? 0).all (fun g => Memory.wf g.scr && (graphed 0 0).nodeNN g == 2) = true ∧
     nodeBad ((graphed 0 1).node 0 1) = false) ∧
    (let x : M128A := { m128 with d := .w 5, a := .w 2, b := .w 3 }
     ([(1, 0), (0, 1), (0x41, 1), (0x51, 1), (1, 1 + 1024 * 65536), (1, 1), (1 + 1024 * (2 ^ 64 + 2 ^ 75 + 2 ^ 86), 1), (full, 1)].all fun q => (graphed q.1 q.2).solo (.nlink x) 0 &&
       !nodeBad ((graphed q.1 q.2).node 0 0) && !nodeBad ((graphed q.1 q.2).node 0 1) && ((graphed q.1 q.2).chainTo 0 1024 0).2.isNone) = true ∧
     nBuilt 0 = false ∧ nBuilt 1 = true ∧ nSt 0x41 = 4 ∧ nSt 0x51 = 5 ∧ nCnt (1 + 1024 * 65536) = 1024 ∧ nSucc 1 0 = none ∧
     nSucc (1 + 1024 * (2 ^ 64 + 2 ^ 75 + 2 ^ 86)) 3 = none ∧ ((List.range 3).all fun h => (nSucc (1 + 1024 * (2 ^ 64 + 2 ^ 75 + 2 ^ 86)) h).isSome) = true ∧
     (graphed full 1).freeSlot 0 0 = none ∧
     (let s := graphOf [full, 1, 5]; s.solo (.nlink { x with c := .w 4 }) 0 = true ∧ State.extFree s 0 2 = true ∧ State.freeSlot s 0 0 = none ∧ State.chain s 0 1024 0 = [0]) ∧
     (let s := graphOf [chained, 1, 5]; s.solo (.nlink x) 0 = true ∧ State.extFree s 0 2 = false ∧ State.freeSlot s 0 0 = some (2, 0) ∧ (State.chainTo s 0 1024 0).2 = none)) ∧
    ([0, 0x64, 1, 0x10004, 4].all fun v => (graphed v 0).solo (.nsub { m128 with d := .w 5, a := .w 2 }) 0 && !nodeBad ((graphed v 0).node 0 0)) = true ∧
    (graphed 0 0).busy 0 = false ∧ nKind 0x10004 = 4 ∧ nCnt 0x10004 = 1 ∧ nBuilt 4 = true ∧ nCnt 4 = 0 ∧
    ([1, 0, 0x41, 0x61 + 256].all fun v => (graphed v 0).solo (.nwait { s64 with a := .w 2 }) 0) = true ∧ (graphed 1 0).nodeIdle 0 0 = false ∧
    (graphed 0x161 0).nodeIdle 0 0 = true ∧ nEnded 0x161 = true ∧ nSt 0x161 = 6 ∧ codeOfNum (nCode 0x161) ≠ .trap ∧ codeOfNum (nCode 0x161) ≠ .brk ∧
    (graphed 0 0).faultedBatch 0 = none ∧
    (let s := thr (graphed 0 0) fun t => { t with batches := { bs := [{ num := 3, f := some (flt .page) }], opn := none, next := 0 } }
     State.solo s (.nwait { s64 with a := .w 2 }) 0 = true ∧ (State.faultedBatch s 0).isSome = true) := by decide +kernel

def task0 : Task := { id := 1, off := 0, node := some 0, record := [], todo := [], running := 0, fault := none, pc := 0, seed := 0, sgc := 0 }
theorem wit_GraphEvents :
    ([0x22, 0x24, 0x23, 0x21 + 128 * 2 ^ 32].all fun v => nSt v == 2 && !nodeBad ((graphed v 0).node 0 0)) = true ∧ nSt 1 ≠ 2 ∧ nKind 0x22 = 2 ∧
    ([task0].any fun t => t.node == some 0) = true ∧ nPay (0x21 + 128 * 2 ^ 32) = 128 ∧ cpCheck (List.replicate 4 0) 4096 false 0 = none ∧
    ((graphed (0x21 + 128 * 2 ^ 32) 0).wg? 0).all (fun g => memNat g.scr 128 32 == 0 && memNat g.scr 160 8 == 0) = true ∧
    (let s := graphed 0x31 0; nSt 0x31 = 3 ∧ nodeBad (State.node s 0 0) = false ∧ State.succs s 0 0 = [] ∧ (State.chainTo s 0 1024 0).2 = none ∧ (State.c s).xfers = [] ∧
      (State.wg? s 0).all (fun g => g.mx.tasks == [] && g.mx.nodes == []) = true) ∧
    (let s := graphed (0x31 + 1025 * 2 ^ 64) (0x11 + 2 ^ 16)
     State.succs s 0 0 = [1] ∧ State.chain s 0 1024 0 = [0] ∧ nodeBad (State.node s 0 1) = false ∧ nKind (State.node s 0 1) = 1 ∧ nSt (State.node s 0 1) = 1 ∧
       nCnt (State.node s 0 1) = 1) ∧
    nodeBad ((graphed 0x39 0).node 0 0) = true ∧ nSt 0x39 = 3 ∧ nOvf 0x39 = none := by decide +kernel

/-- The context beside a lane thread of its workgroup, with n entries in the queue. -/
def dqd (u n : Nat) : State :=
  let s := wg0 (at_ u) fun g => { g with warps := [0], dq := { g.dq with ents := List.replicate n 1 } }
  if u == 0 then mate s 1
  else { s with c := { s.c with threads := s.c.threads ++ lane.c.threads, warps := s.c.warps ++ lane.c.warps } }
theorem wit_DecisionQueues :
    (dqd 4 0).solo (.dqpush { s64 with a := .w 5 }) 2048 = true ∧ (dqd 4 64).solo (.dqpush { s64 with a := .imm 1 }) 2048 = true ∧ (dqd 4 0).busy 2048 = false ∧
    ((dqd 4 64).wgOf 2048).all (fun g => (dqd 4 64).dqFull g.dq && !g.warpThread 2048 && g.warpThread 0) = true ∧ ((dqd 4 64).wgOf 2048).isSome = true ∧
    ((dqd 4 63).wgOf 2048).all (fun g => !(dqd 4 63).dqFull g.dq) = true ∧ ((dqd 4 0).setOps [mop 2048 0]).busy 2048 = true ∧
    (dqd 4 0).c.threads.any (fun u => u.tid == 0 && !u.gone && u.cur == 0) = true ∧ (dqd 4 0).c.threads.all (fun u => u.wait == .none) = true ∧
    (dqd 0 1).solo (.dqpop { s64 with d := .v 3 }) 0 = true ∧ (dqd 0 0).solo (.dqpop { s64 with d := .w 3 }) 0 = true ∧ ((dqd 0 1).thread 0).pc = (dqd 0 1).cur.pc ∧
    ((dqd 0 1).wgOf 0).all (fun g => g.warpThread 0 && g.dq.ents[0]? == some 1 && (dqd 0 1).retires g == 0) = true ∧
    (dqd 0 1).c.threads.any (fun u => u.tid == 1 && !u.gone && u.cur == 0) = true ∧ ((dqd 0 0).wgOf 0).all (fun g => !g.dq.dqx && (dqd 0 0).retires g == 0) = true ∧
    (dqd 0 1).solo (.bdq ⟨false, 8, .always⟩) 0 = true ∧ (dqd 0 0).solo (.bdq ⟨false, 8, .always⟩) 0 = true ∧ (dqd 4 0).solo (.dqsync s64) 2048 = true ∧
    (dqd 4 1).solo (.dqsync s64) 2048 = true := by decide +kernel

def fk : ForkTask := { region := 1, mask := 1, jca := 0, arg := 0, pc := 0 }
/-- A machine whose core 0 holds n entries on the chip and k in memory. -/
def forked (n k : Nat) : State := (mapped.setDeque 0 (List.replicate n fk)).setOver 0 (List.range k)
theorem deque_length (n k : Nat) : (forked n k).dequeLen 0 = n + k := by
  have h : mapped.c.deques = [] := by decide +kernel
  have h' : mapped.c.over_ = [] := by decide +kernel
  simp [forked, State.dequeLen, State.deque, State.setDeque, State.overPlaces, State.setOver, h, h', List.filter_eq_self.2, Function.comp_def]
theorem wit_fork_full_deque : (forked 64 65536).dequeLen 0 = 64 + 65536 := deque_length _ _
theorem low_place (s : State) (hp : s.plog = 0) (hh : s.hs = 12) (hb : s.b.pkg = 0) (x : Nat) (h : x < 2 ^ 22) : ∃ q, s.place x = some (1, q) := by
  have h0 : hostSpace x = false := by simp only [hostSpace, beq_eq_false_iff_ne]; omega
  have h1 : localOf x = none := by simp only [localOf]; rw [if_pos]; simp only [beq_iff_eq]; omega
  have h2 : s.populated x = true := by
    unfold State.populated
    rw [h1]
    simp [h0, hp, hh, slice, paOf]
    omega
  have h3 : s.here x = true := by
    unfold State.here State.homeOf
    rw [h1, hb, hp]
    simp
    omega
  unfold State.place
  simp [h0, h2, h3]
def onChip : State := mapped.setDeque 0 (List.replicate 64 fk)
theorem wit_fork_overflow : (onChip.deque 0)[63]? = some fk ∧ (onChip.overPlaces 0).length < 65536 ∧ onChip.canonical = true ∧ (mapped.deque 0).length < 64 ∧
    fk.region < 2 ^ 32 ∧ fk.jca < 2 ^ 57 ∧ fk.pc < 2 ^ 57 ∧
    (∀ p < 65536, ∀ i < 32, ∃ q, onChip.place (onChip.fld rTovf 51 29 * 2 ^ 29 + 2 ^ 21 * 0 + 32 * p + i) = some (1, q)) := by
  refine ⟨by decide +kernel, by decide +kernel, by decide +kernel, by decide +kernel, by decide, by decide, by decide, fun p hp i hi =>
    low_place _ (by decide +kernel) (by decide +kernel) (by decide +kernel) _ ?_⟩
  rw [show onChip.fld rTovf 51 29 = 0 by decide +kernel]
  omega
/-- The word that a `tjoin` of address 0 reads. -/
def joins (s : State) : Option (Option Nat) := match s.joinRead 0 0 0 with | (u, .ok v) => if u.c.threads = s.c.threads then some v else none | (_, .error _) => none
def startable : State := State.setDeque { lane with l := { lane.l with regions := lane.l.regions.map fun r => { r with va := 32 } } } 0 []
theorem wit_ForksJoinsAndSpawns :
    (let x : M128A := { m128 with b := .w 2, c := .w 3, i32 := 0x400 }
     ([0, 4, 0x200000000000000].all fun c => (setW mapped 0 3 c).solo (.fork x) 0 && !(setW mapped 0 3 c).busy 0) = true ∧ busyLane.solo (.fork x) 0 = true ∧
     mapped.dequeLen 0 < 64 + 65536) ∧
    (let k : ForkTask := { region := 1, mask := 3, jca := 8, arg := 5, pc := 0x2000 }
     let s := startable.setDeque 0 [{ k with region := 9 }, k]
     let u := (startable.setOver 0 [3]).wrNat (startable.overAddr 0 3) 32 k.bits
     (s : State).mayTake 0 = true ∧ (s : State).taskAgain 0 = none ∧ (s : State).deque 0 = [{ k with region := 9 }, k] ∧ (s : State).region? 9 = none ∧
     ((s : State).taskRoom 0 k).isSome = true ∧ (u : State).mayTake 0 = true ∧ (u : State).taskAgain 0 = none ∧ (u : State).deque 0 = [] ∧ (u : State).overPlaces 0 = [3] ∧
     k = ForkTask.ofBits ((u : State).rdNat ((u : State).overAddr 0 3) 32) ∧ ((u : State).taskRoom 0 k).isSome = true) ∧
    (let x : M128A := { m128 with a := .w 3 }
     mapped.solo (.tjoin x) 0 = true ∧ mapped.busy 0 = false ∧ isMem (mapped.plan { sp := .gv, n := 8, need := .ratom, al := 8 } 0 0) = true ∧
     joins mapped = some (some 0) ∧ joins (mapped.wrNat 0x10000 8 7) = some (some 7) ∧ mapped.m.ops = [] ∧
     ((thr mapped fun t => { t with wait := .tjoin 0 [0] }).thread 0).wait = .tjoin 0 [0]) ∧
    (mapped.solo (.spawn { m128 with d := .w 5, a := .w 3 }) 0 = true ∧ mapped.l.regions.length < 4096 ∧
     readWrite = true) := by decide +kernel

def ep3 (k : Nat) (l : List (Nat × Nat × Nat)) : Episode :=
  { n := 3, k := k, cmis := false, oclk := 0, timer := 0, timedOut := false, op := ((l.headD (0, 0, 0)).1, 0x1000), cop := some 2, arrs := l.map fun a => (a.1, a.2.1, a.2.2, some 2) }
/-- A workgroup of two warps with an open episode. -/
def met (k : Nat) (l : List (Nat × Nat × Nat)) : State :=
  let s := wg0 lane fun g => { g with warps := [0, 1], eps := if l == [] then [] else [ep3 k l] }
  { s with c := { s.c with threads := s.c.threads ++ [{ s.thread 0 with tid := 32, wait := .bar 3 }],
                           warps := s.c.warps ++ (s.c.warps.map fun w => { w with wid := 1, idx := 1 }) } }
theorem wit_BarriersCompleteTogether :
    (let x : S64A := { s64 with a := .imm 2, i16 := 3 }
     ([.bar x, .bara x, .barw { x with a := .v 0 }, .barc s64, .barcArr { s64 with i16 := 1 }, .barcWait { s64 with i16 := 2 }, .barq { s64 with d := .v 4, i16 := 16 }].all
       fun i => (met 2 []).solo i 0) = true ∧ (met 2 []).busy 0 = false ∧ ((met 2 []).setOps [mop 0 0]).busy 0 = true ∧
     ((met 2 []).wgOf 0).isSome = true ∧ (met 2 []).episode 0 3 = none ∧ (met 2 []).arrn 0 3 (ep3 2 [(0, 0, 0x1000)]) = 1 ∧ (met 2 []).barCount 0 3 2 = 2 ∧
     ((met 2 []).clusOfWg 0).isSome = true ∧ (met 2 [(32, 0, 0)]).solo (.bar x) 0 = true ∧ (met 2 [(32, 0, 0)]).episode 0 3 = some (ep3 2 [(32, 0, 0)]) ∧
     (met 2 [(32, 0, 0)]).arrn 0 3 (ep3 2 [(32, 0, 0), (0, 0, 0x1000)]) = 2 ∧ (met 3 [(32, 0, 0)]).arrn 0 3 (ep3 3 [(32, 0, 0), (0, 0, 0x1000)]) < 3 ∧
     ([(32, 0, 0), (0, 0, 0x1000)].all fun a => ((met 2 [(32, 0, 0)]).arrivedWarps 0 3 (ep3 2 [(32, 0, 0), (0, 0, 0x1000)])).contains (widOf a.1)) = true ∧
     (met 2 [(0, 0, 0)]).arrived 0 3 0 = true ∧ (met 2 [(0, 0, 0)]).busy 0 = false ∧ (met 2 []).arrived 0 3 0 = false ∧ ((met 2 []).thread 0).fences = [] ∧ quiet (met 2 [(32, 0, 0)]) = true ∧ ((met 2 [(32, 0, 0)]).thread 32).wait = .bar 3) ∧
    (let t := { lane with c := { lane.c with warps := lane.c.warps.map fun w => { w with wg := none } } }
     State.solo t (.bar { s64 with a := .imm 0 }) 0 = true ∧ State.wgOf t 0 = none) ∧
    (let r := placedRegion; let e := { ep3 2 [(0, 0, 0)] with timer := 2 ^ 30 }
     r.bto = 30 ∧ e.timedOut = false ∧ State.region? { lane with l := { lane.l with regions := lane.l.regions.map fun r => { r with pol := 2, state := 6 } } } 1 =
       some { r with pol := 2, state := 6 }) := by decide +kernel

/-! ### Witnesses: matrix and signature -/

/-- A tile descriptor and its segment: r rows of c one-byte codes, 128 bytes apart, in the first 4 KiB. -/
def tileD (r c : Nat) : Nat := (r - 1) * 2 ^ 19 + (c - 1) * 2 ^ 29 + 128 * 2 ^ 39 + 2 ^ 64
def segV : Word := 3 + 256 * 2 ^ 32
def zD (r c : Nat) : Word := BitVec.ofNat 64 ((r - 1) * 2 ^ 16 + (c - 1) * 2 ^ 26)
def held (d : Nat) : Macro := { valid := true, desc := d, seg := segV.toNat, cols := List.replicate 16 [], more := [] }
def op0 (k : Nat) (d z : List Nat) (args segs : List Nat) : StreamOp := { opBlank k with t := d, z := z, args := args, segs := segs }
/-- A context whose workgroup has tile t1, accumulator descriptor z1, segment 0, one page of accumulator, a loaded macro, and n instructions in its stream. -/
def mxS (d z n : Nat) : State :=
  let s := wg0 cmapped fun g => { g with
    segs := g.segs.set 0 segV
    mx := { g.mx with t := g.mx.t.set 1 (BitVec.ofNat 128 d), z := g.mx.z.set 1 (BitVec.ofNat 64 z), mac0 := held (tileD 16 128), stream := List.replicate n (op0 0x182 [] [] [] []) } }
  { s with l := { s.l with regions := s.l.regions.map fun r => { r with zacc := 1 } } }
def mxG (s : State) (p : Wg → Bool) : Bool := (s.wgOf 2048).any p
def mxBase : State := mxS (tileD 16 128) 0 0
def mxFull : State := mxS (tileD 16 128) 0 16

def mxInstrs : List Instr :=
  [.mmap { m128 with d := .t 3, a := .w 4, b := .w 5 }, .mmap { m128 with d := .z 3, a := .w 4 }, .mldb { v96 with a := .t 1 }, .mswp s64,
   .mmul { v96 with d := .z 1, a := .t 1, b := .imm 1 }, .mzero { s64 with d := .z 1 }, .mrd { v96 with d := .t 1, a := .z 1 },
   .mrd { v96 with d := .w 4, a := .z 1, c := .w 5, opx := 1 }, .mtask { m128 with a := .w 4 }, .mtask { m128 with a := .w 4, opx := 1 }, .msync s64] ++
  [.sgcfg { m128 with a := .w 4, b := .w 5 }, .sgmap { m128 with a := .t 1 }, .sgsct { m128 with d := .t 1, a := .t 1 }, .sggth { m128 with d := .t 1, a := .t 1 },
   .sgstat { s64 with d := .w 4, i16 := 1 }]
theorem wit_matrix_instructions_stand : (mxInstrs.all fun i => mxBase.solo i 2048 && mxFull.solo i 2048) = true ∧ (mxBase.wgOf 2048).isSome = true ∧
    mxG mxBase (fun g => decide (g.mx.stream.length < 16)) = true ∧ mxG mxFull (fun g => decide (16 ≤ g.mx.stream.length)) = true := by decide +kernel

def tOk (s : State) (d : Nat) : Bool :=
  mxG s fun g => (tilePerm g.win (tileOf d) segV.toNat).isNone && mxFmt (segFmt segV.toNat) && tilePlaced (tileOf d) segV.toNat
/-- `mrd` of one entry to a page of one-byte codes. -/
def mrdToMemory : Bool :=
  let s : State := { mxBase with m := { mxBase.m with tlb := [{ level := 0, inst := 0, asid := 0, pte := { pte0 with fmt := 3 } }] } }
  (s.regionOf 2048).any fun r => mxG s fun g => match s.mrdGvCheck g r 0 0 0 with
    | (_, .ok _) => true
    | (_, .error _) => false
theorem wit_matrix_checks :
    tOk mxBase (tileD 16 128) = true ∧ (tileOf (tileD 16 128)).cols = 1024 / (tileOf (tileD 16 128)).width ∧ (tileOf (tileD 16 128)).rows % 16 = 0 ∧
    (tileOf (tileD 17 128)).rows % 16 ≠ 0 ∧ tOk mxBase (tileD 17 128) = true ∧ (tilePerm 4096 (tileOf (tileD 33 128)) segV.toNat).isSome = true ∧
    mxG (mxS (tileD 32 128) (zD 32 16).toNat 0) (fun g => (mxS (tileD 32 128) (zD 32 16).toNat 0).mmulCheck g (tileD 32 128) segV.toNat (zD 32 16).toNat 16 32 false false
      (activeOf g.mx.ahead) g.mx.sgcAhead == none) = true ∧
    mxG mxBase (fun g => (mxBase.mmulCheck g (tileD 16 128) segV.toNat 0 16 32 false false (activeOf g.mx.ahead) g.mx.sgcAhead).any fun f =>
      !f.deferred && f.code == .matrix) = true ∧
    mxG mxBase (fun g => decide (zFirst 0 + zRows 0 * zCols 0 ≤ mxBase.accSize g)) = true ∧
    mxG cmapped (fun g => decide (¬ zFirst 0 + zRows 0 * zCols 0 ≤ cmapped.accSize g)) = true ∧
    mxG mxBase (fun g => (mxBase.mrdCheck g (tileD 16 128) segV.toNat (zD 16 128).toNat).isNone) = true ∧
    mrdToMemory = true := by decide +kernel

theorem wit_matrix_operands :
    slice 0 127 66 = 0 ∧ slice (2 ^ 66) 127 66 ≠ 0 ∧ slice (3 * 2 ^ 64) 65 64 = 3 ∧ slice (2 ^ 63) 63 63 ≠ 0 ∧ (setW mxBase 64 4 (BitVec.ofNat 64 (2 ^ 36))).solo (.mmap { m128 with d := .z 3, a := .w 4 }) 2048 = true ∧
    recOk [0, 0, 0, 0, 0, 0, 31 + 15 * 1024, 0] 1 = true ∧ mxG mxBase (fun g => decide (0 + 64 ≤ g.win) && g.mx.tasks == []) = true ∧ (cmapped.setOps [mop 2048 0]).busy 2048 = true ∧
    mxBase.busy 2048 = false ∧ (mxBase.c.threads.all fun u => u.wait != .stream && u.wait != .tasks && u.wait != .msync) = true ∧
    (mxBase.c.wgs.filter fun h => h.key == 0).length = 1 ∧
    mxG (wg0 mxBase fun g => { g with mx := { g.mx with tasks := List.replicate 16 { task0 with todo := [0] } } }) (fun g => (g.mx.tasks.filter fun k => !k.ended).length == 16) = true ∧
    (let s : State := wg0 { mxBase with l := { mxBase.l with regions := mxBase.l.regions.map fun r => { r with nn := 1 } } } fun g => { g with scr := memPut [] 0 8 2 }
     mxG s fun g => s.nodeNN g == 1 && nKind (s.node 0 0) == 2 && nSt (s.node 0 0) == 0 && !nodeBad (s.node 0 0) && nPay (s.node 0 0) == 0) = true ∧
    mxG mxBase (fun g => decide (sgMap g.mx.sgcAhead + 2 * 16 ≤ g.win)) = true ∧ (tileOf (tileD 16 128)).rows ≤ 128 := by decide +kernel

/-- A context with one instruction in its stream, that has read nothing early, or row 0 of its tile. -/
def streamed (o : StreamOp) : State := wg0 mxBase fun g => { g with mx := { g.mx with stream := [o] } }
theorem wit_StreamsAndTasks :
    ([0x181, 0x182, 0x183, 0x184, 0x185, 0x190, 0x191, 0x194].all fun k => [[], [[(3, 0)]]].all fun e =>
      let o := { op0 k [tileD 16 128] [(zD 16 128).toNat] [0, 0, 0, 0, 1] [segV.toNat] with early := e }
      let s := streamed o
      quiet s && sits s && s.m.ops.isEmpty && (s.wg? 0).any fun g => decide (g.mx.stream = [o] ∧ g.mx.acc = []) && Memory.wf g.scr && sgB g.mx.sgc == 0) = true ∧
    segGeo segV.toNat = 0 ∧ (tileOf (tileD 16 128)).rowBytes (segFmt segV.toNat) ≤ (tileOf (tileD 16 128)).str ∧
    (let o := { op0 0x182 [] [] [] [] with after := [9] }
     ((streamed o).setOps [mop 2048 0]).m.ops.any (fun a => o.after.contains a.id) = true) ∧
    (let s := wg0 mxBase fun g => { g with mx := { g.mx with tasks := [{ task0 with node := none, todo := [0] }] } }
     (State.c s).clusters.any (fun c => c.id == 0 && (c.members.filterMap (State.wg? s)).any fun g => g.mx.tasks.any fun t => State.taskReady s g.key t) = true ∧
       (State.c s).subtasks = []) := by decide +kernel

/-- A record of 32 rows and 16 columns, one slice, whose three operands are tiles of the cluster's first member; and its task's one running subtask. -/
def record0 (d : Word) : List Word := [0, 128, 0, 128, d, 128, 31 + 15 * 1024 + 2 ^ 26, 0]
def sub (k : Nat) (done : List Nat) : Subtask := { Subtask.start 0 1 0 0 with step := k, done := done }
def tasked (d : Word) (q : Subtask) : State := wg0 { mxBase with c := { mxBase.c with subtasks := [q] } } fun g => { g with
  mx := { g.mx with tasks := [{ task0 with node := none, running := 1, record := record0 d }] } }
def onTask (d : Word) (q : Subtask) (p : State → Wg → Clus → Region → Task → Bool) : Bool :=
  let s := tasked d q
  match s.wg? 0, s.clusOfWg 0, s.region? 1 with
  | some g, some c, some r => (g.mx.tasks.find? fun t => t.id == 1).any fun k => ((c.members.filterMap s.wg?).find? fun x => x.core == 0) == some g && p s g c r k
  | _, _, _ => false
/-- A readout that has no row left ends the subtask, whatever it might have taken in two parts. -/
theorem step_ends (s : State) (g x : Wg) (c : Clus) (r : Region) (k : Task) (q : Subtask)
    (h : (match s.subJob g x c r k q.p with
      | (_, .ok j) => decide (q.step ≠ 0 ∧ j.t.ks < q.step) && !q.done.isEmpty && ((List.range j.n).filter fun i => !q.done.contains i).isEmpty
      | (_, .error _) => false) = true) : ∃ u, s.subtaskStep g x c r k q = (u, .ok none) := by
  unfold State.subtaskStep
  split at h
  · rename_i s1 j hj
    simp only [Bool.and_eq_true, decide_eq_true_eq, Bool.not_eq_true', List.isEmpty_iff] at h
    obtain ⟨⟨⟨h0, hk⟩, hd⟩, hl⟩ := h
    refine ⟨{ s1 with c := { s1.c with imgs := (s1.c.imgs.filter fun i => i.core != j.core) ++
      [{ core := j.core, clus := j.clus, tag := j.tag, slices := q.im }] } }, ?_⟩
    have hp : ∀ s : State, j.put s [] = (s, none) := fun _ => rfl
    simp only [hj, SubJob.step, beq_iff_eq, h0, if_false, Nat.not_le.2 hk, hl, List.filter_nil, ite_self, hp, if_true]
  · exact absurd h (by simp)
theorem wit_subtask_ends : onTask 0 (sub 2 (List.range 32)) (fun s g c r k =>
    match ({ s with free := s.free + 1 } : State).subJob g g c r k 0 with
    | (_, .ok j) => decide ((sub 2 (List.range 32)).step ≠ 0 ∧ j.t.ks < (sub 2 (List.range 32)).step) && !(sub 2 (List.range 32)).done.isEmpty &&
        ((List.range j.n).filter fun i => !(sub 2 (List.range 32)).done.contains i).isEmpty
    | (_, .error _) => false) = true := by decide +kernel
theorem wit_SubtasksRun :
    onTask 0 (sub 0 []) (fun s g c r k => match ({ s with free := s.free + 1 } : State).subtaskStep g g c r k (sub 0 []) with
      | (_, .ok (some _)) => true
      | (_, _) => false) = true ∧
    onTask (15 * 2 ^ 19) (sub 0 []) (fun s g c r k => match ({ s with free := s.free + 1 } : State).subtaskStep g g c r k (sub 0 []) with
      | (_, .error _) => true
      | (_, _) => false) = true ∧
    onTask 0 (sub 1 []) (fun s _ c _ k => quiet s && sits s && [0, 2, 4].all (fun i => !(recWord k.record i).testBit 63 && (s.clwOf c (recWord k.record i)).isSome) &&
      decide (1 ≤ (taskRec k.record).ks)) = true := by decide +kernel

/-! ### Witnesses: expansion -/

/-- A workgroup of warp 0 alone, with an expansion of its one participant. -/
def xq (ty : Nat) (dealing : Bool) (l : XLane) : Expand :=
  { part := 0, dealing := dealing, nc := 0, base := 0, ty := ty, fold := 0, lanes := l :: List.replicate 31 XLane.none }
def xs (x : List Expand) (more : Bool) : State :=
  let s := wg0 lane fun g => { g with xp := x }
  if more then mate s 1 else s
def xl : XLane := { XLane.none with start := 0x100, len := 3, arr := true }
def xb : V96A := { v96 with park := true, d := .v 8, a := .v 6, b := .imm 2, ty := .f32x2 }
theorem wit_ExpansionsDealAndFold :
    ([.xbeg xb, .xbeg { xb with opx := 3 }, .xst { v96 with d := .v 2, opx := 1 }, .xst { v96 with d := .w 2, opx := 3 }].all fun i => (xs [] false).solo i 0 && (xs [] true).solo i 0) = true ∧
    (xs [] false).partRank 0 = 0 ∧ warpsIn 1 0 = 1 ∧ ((xs [] true).wgOf 0).any (fun g => ((xs [] true).xLive g (xq 11 false xl)).any fun q => q.1 == 1) = true ∧
    ((xs [] false).wgOf 0).any (fun g => (xs [] false).xLive g (xq 11 false xl) == [(0, 0)]) = true ∧ ((xs [xq 11 true xl] false).expandOf 0).isSome = true ∧
    ([.xdeal { v96 with d := .v 9, c := .v 10, e := .p 3 }, .xred { v96 with a := .v 5, ty := .f32x2 }, .xend { v96 with d := .v 9 }].all fun i =>
      (xs [xq 11 true xl] false).solo i 0 && (xs [xq 11 true { xl with taken := true }] true).solo i 0) = true ∧
    ((xs [xq 11 true xl] false).xPart 0 false).isSome = true ∧ (((xs [xq 11 true { xl with taken := true }] true).xPart 0 false).any fun q => (q.2.1.lane q.2.2).taken) = true ∧
    (((xs [xq 5 true { xl with taken := true }] false).xPart 0 false).any fun q => q.2.1.lanes.length == q.2.1.width && q.2.1.ty != 11 && q.2.1.part == partOf 0) = true ∧
    ((xs [xq 11 true xl] false).thread 0).replay = false ∧ (xs [] false).forkTask 0 = false ∧
    (let t := { lane with c := { lane.c with warps := lane.c.warps.map fun w => { w with wg := none, jca := some 0 } } }
     State.forkTask t 0 = true ∧ State.solo t (.xst { v96 with d := .v 2, opx := 1 }) 0 = true) ∧
    (let s := xs [xq 11 true xl] true
     let t := s.setThreads (s.c.threads.map fun u => { u with replay := u.tid == 1 })
     State.solo t (.xend { v96 with d := .v 9 }) 0 = true ∧ ((t : State).thread 0).replay = false ∧ ((t : State).thread 1).replay = true ∧
       ((t : State).thread 1).wait = .none ∧ ((t : State).thread 0).wait = .none ∧
       (((t : State).xPart 0 false).any fun q => ((t : State).xLive q.1 (q.2.1.modLane q.2.2 fun l => { l.submit with done := true })).any fun e => e.2 == 1) = true) := by decide +kernel

/-! ### Witnesses: multicast, debug, fabric, host, launch -/

/-- A machine whose page at virtual 0 is module-local, in a pod of two modules. -/
def localPage : State :=
  let s : State := { mapped with m := { mapped.m with tlb := [{ level := 0, inst := 0, asid := 0, pte := { pte0 with plc := 1 } }] } }
  setW (s.setFld rFabCfg 6 0 2) 0 2 3
def mstI : M128A := { m128 with a := .w 2, b := .w 4, c := .v 6, sz := .b64 }
/-- `accessReady` allows a control register below 0x100000 to be written. -/
theorem low_idle (s : State) (o : Nat) (x : Word) (h : s.b.regs = [(o, x)]) (ho : o < 0x100000) (hw : s.c.warps.all (fun w => w.smpl.isNone) = true)
    (hs : s.b.samples = []) : s.debugIdle := by
  refine ⟨fun p hp => ?_, by simpa [Option.isNone_iff_eq_none] using hw, hs⟩
  have : o ≠ p := by omega
  simp [State.reg, h, regGet, this]
theorem wit_mst_ready : localPage.accessReady 0 := by
  refine ⟨low_idle _ rFabCfg 0x2000000002 (by decide +kernel) (by decide) (by decide +kernel) (by decide +kernel), sits_seated _ (by decide +kernel),
    ⟨by decide +kernel, by decide +kernel, by decide +kernel⟩, ?_⟩
  decide +kernel
theorem wit_MulticastTraceAndMonitors :
    localPage.solo (.mst mstI) 0 = true ∧ isMem (localPage.plan { sp := .gv, n := 8, need := .w, al := atmAlign .dflt, store := true } 0 (localPage.ea3 0 mstI.b (.imm 0) mstI.i32)) = true ∧
    (localPage.opnd 0 mstI.a).toNat = 3 ∧ 3 < 2 ^ localPage.nmod ∧ mapped.solo (.mst mstI) 0 = true ∧
    lane.solo (.trc { s64 with a := .imm 0, i16 := 4 }) 0 = true ∧ lane.fld (rTrb 0) 0 0 = 0 ∧
    (let s := (lane.setFld (rPctl 0) 8 8 1).setFld (rTrb 0) 0 0 1
     State.solo s (.trc { s64 with a := .imm 0, i16 := 4 }) 0 = true ∧ State.fld s (rPctl 0) 8 8 = 1 ∧ State.fld s (rTrb 0) 0 0 = 1 ∧ (State.traceBuf s 0).lost = 0 ∧ (State.traceBuf s 0).recs = []) ∧
    lane.solo (.smpl { s64 with i16 := 7 }) 0 = true ∧
    (let s := (lane.setFld (rTrb 11) 0 0 1).setTraceBuf { lane.traceBuf 11 with recs := [5] }
     (State.traceBuf s 11).recs = [5] ∧ State.fld s (rTrb 11) 0 0 = 1 ∧ regsWf (State.b s).regs = true ∧
       (State.fld s (rTrb 11 + 8) 31 0 + 2 ^ 32 - State.fld s (rTrb 11 + 8) 63 32) % 2 ^ (State.fld s (rTrb 11) 7 2 - 6) < 2 ^ (State.fld s (rTrb 11) 7 2 - 6) - 1) ∧
    lane.clk % 2 ^ lane.fld (rMon 7) 12 8 = 0 ∧ ((lane.setFld (rMon 7) 3 0 8).monLevel 7).isSome = true := by decide +kernel

def frozen (n : Nat) : State := lane.setFld (rPctl n) 15 15 1
def stopped (n : Nat) (ts : List Nat) : State := (frozen n).setUnit { (frozen n).unit n with step := some ts }
theorem wit_DebugStopsStepsAndDumps :
    lane.gated (clusOf (959 / 5)) = false ∧ lane.frozen 959 = false ∧ (lane.unit 959).due = none ∧ (frozen 959).frozen 959 = true ∧ regsWf (frozen 959).b.regs = true ∧
    ((lane.setUnit { lane.unit 959 with due := some 0, cause := 1 }).stopReached 959).isSome = true ∧ (lane.unit 959).bc = none ∧ lane.clPend 11 = false ∧
    ((frozen 0).c.threads.all fun u => u.faults == []) = true ∧ (frozen 0).fld (rStep 0) 4 4 = 0 ∧
    ((frozen 0).c.threads.any fun u => widOf u.tid == 0 && !u.gone && (frozen 0).stoppable u) = true ∧
    ((thr (frozen 0) fun t => { t with wait := .stream }).c.threads.all fun u => !(thr (frozen 0) fun t => { t with wait := .stream }).stoppable u) = true ∧
    ((stopped 0 [0]).unit 0).step = some [0] ∧ ((stopped 0 [0]).unit 0).faulted = false ∧ (stopped 0 [0]).waitsElse 0 = false ∧ (stopped 0 [0]).owes 0 = false ∧
    ((stopped 0 [0]).setPend [{ dst := .v 0 4, val := none, owners := [0], pc := 0, opd := 4 }]).owes 0 = true ∧ lane.b.dump = none ∧
    ((frozen 0).setFld (rStep 0) 4 4 1).fld (rStep 0) 4 4 = 1 ∧
    slice (BitVec.toNat (1 + 959 * 4 : BitVec 64)) 11 2 = 959 := by decide +kernel

theorem wit_CountersMonitorsAndReplay :
    lane.gated (clusOf 191) = false ∧ regsWf lane.b.regs = true ∧ slice (BitVec.toNat (0x1409 : BitVec 64)) 3 0 = 9 ∧ slice (BitVec.toNat (0x1409 : BitVec 64)) 12 8 = 20 ∧
    (let v : BitVec 64 := 1 + 1000 * 2 ^ 38; slice v.toNat 47 38 = 1000 ∧ v.getLsbD 0 = true ∧ v.getLsbD 1 = false) ∧ lane.fld rRpctl 0 0 = 0 ∧
    (let s := lane.setFld rRpctl 0 0 1; let v : BitVec 64 := 3 + 2 ^ 38
     State.fld s rRpctl 0 0 = 1 ∧ State.fld s rRpctl 1 1 = 0 ∧ State.fld s rRpctl 63 48 = slice v.toNat 63 48 ∧ 1 ≤ slice v.toNat 47 38 ∧
     State.ckptIdle { (s : State) with b := { (s : State).b with ckpt := some { k := 0, due := 5, busy := true, start := 0, clusters := [] } } } = false) ∧
    (let s := (lane.setFld rRpctl 0 0 1).setFld rRpctl 63 48 7
     State.fld s rRpctl 0 0 = 1 ∧ State.ckptIdle { (s : State) with b := { (s : State).b with ckpt := some { k := 0, due := 5, busy := true, start := 0, clusters := [] } } } = true) := by decide +kernel

/-- A link that is up: module 1 of a pod of two, mode 2, with credits. -/
def up : State :=
  let s : State := ((lane.setFld rFabCfg 6 0 2).setFld rFabCfg 7 7 1).setFld (rLink 1) 2 0 2
  s.setLink { s.peerLink 1 with waves := 2 ^ 32 - 1 }
def flit0 (m : Msg) (dst : Nat) : Flit :=
  let f : Flit := { rsvd := 0, ackv := false, ack := 0, nak := false, vc := 0, seq := 0, pay := 0, crc := 0, dst := dst, msg := m }
  { f with crc := BitVec.ofNat 32 (crc32c (flitCovered f) 60 0xFFFFFFFF) }
theorem wit_LinksCarryFlits :
    up.linkUp 1 = true ∧ 1 ≠ up.b.pkg ∧ regsWf up.b.regs = true ∧ (up.peerLink 1).resend = [] ∧ (up.peerLink 1).unacked.length < 2048 ∧ (up.peerLink 1).rxNext = 0 ∧
    (let f := flit0 .idle 0; f.crc = BitVec.ofNat 32 (crc32c (flitCovered f) 60 0xFFFFFFFF) ∧ f.vc.toNat < 5 ∧ f.dst = up.b.pkg) ∧
    ({ flit0 .idle 0 with crc := (flit0 .idle 0).crc + 1 }).crc ≠ BitVec.ofNat 32 (crc32c (flitCovered (flit0 .idle 0)) 60 0xFFFFFFFF) ∧ (flit0 .idle 2).dst ≠ up.b.pkg ∧
    up.linkMode 1 = 2 ∧ (lane.setFld (rLink 1) 2 0 1).linkMode 1 = 1 ∧ (lane.setFld (rLink 1) 2 0 3).linkMode 1 = 3 ∧ (up.peerLink 1).waves.testBit 31 = true ∧ up.fld (rLink 1) 22 16 ≤ 127 ∧
    1 < up.nmod ∧ up.fabEn = true ∧ up.fld (rLink 1) 28 28 = 0 ∧
    (let v : BitVec 64 := 64 + 40 * 2 ^ 32; slice v.toNat 6 0 = 64 ∧ slice v.toNat 39 32 = 40 ∧ ¬ (slice v.toNat 6 0 < 2 ^ lane.plog) ∧ lane.fabEn = false) := by decide +kernel

theorem wit_HostRegistersAndWindow :
    regsWf lane.b.regs = true ∧ slice 0x0FFF060C 10 8 = 6 ∧ slice 0x0FFF060C 3 0 = 12 ∧ slice 0x0FFF060C 31 16 = lane.hway ∧ lane.fld rHostCtl 0 0 = 0 ∧ lane.retOn 0 = false ∧
    ((lane.l.regions.map fun r => { r with state := 6 }).any fun r => r.num == 1) = true ∧ (lane.region? 1).any (fun r => r.state != 6) = true ∧
    lane.ringHead 7 = lane.ringTail 7 ∧ (let v : BitVec 64 := 20 + 2 ^ 23; slice v.toNat 4 0 = 20 ∧ slice v.toNat 51 12 * 4096 % (8 * 2 ^ 20) = 0) ∧
    (16 + 2 ^ 32 - lane.ringHead 7) % 2 ^ 32 ≤ 2 ^ lane.fld (rSubqBase 7) 4 0 ∧ ¬ (17 + 2 ^ 32 - lane.ringHead 7) % 2 ^ 32 ≤ 2 ^ lane.fld (rSubqBase 7) 4 0 ∧
    lane.fld rHostStat 0 0 = 0 ∧ (lane.setFld rHostStat 0 0 1).fld rHostStat 0 0 = 1 ∧ lane.winAddr 0 = some 0 ∧ lane.here 0 = true ∧ lane.poisonedIn 0 32 = false ∧ lane.m.errs = [] ∧
    ((2 ^ 36 - 32) % 32 + 32 ≤ 32) := by decide +kernel

theorem wit_ResetsPowerAndGates :
    regsWf lane.b.regs = true ∧ lane.b.pwrN + 1 < 100 ∧ 100 ≤ ({ lane.b with pwrN := 99 }).pwrN + 1 ∧ lane.b.sag.contains 11 = false ∧ lane.gateAsked 11 = false ∧
    (let s := lane.setFld rPgate 11 11 1; State.gateAsked s 11 = true ∧ State.gated s 11 = false ∧ State.clusterEmpty s 11 = true ∧ (State.traceBuf s 11).recs = []) ∧
    (let s := lane.setFld rPgate 0 0 1; State.gateAsked s 0 = true ∧ State.gated s 0 = false ∧ State.clusterEmpty s 0 = false) ∧
    (let s := lane.setFld rPgate 27 27 1; State.gateAsked s 11 = false ∧ State.gated s 11 = true) := by decide +kernel

/-- A machine with one entry in ring 7: a control block whose kernel header is at virtual 0x10000 under the table at 2^21, the header, and the table, of one
page of 1 GiB. Then one with a region that waits for the cores of one cluster. -/
def ringed (e : Nat) : State :=
  [(0, e), (256, 0x10000), (264, 0x200000), (292, 1), (296, 0x10001), (328, 2 ^ 24), (360, 1), (0x10000, 0x14B5A + 8 * 2 ^ 32 + 8 * 2 ^ 48), (0x200000, 0x400001),
   (0x400000, 0x27D)].foldl (fun s q => s.wrNat q.1 8 q.2) ((State.reset.setFld rHostCtl 0 0 1).setFld (rSubqPtr 7) 63 32 1)
def queued (cls : Nat) : State :=
  let r := { placedRegion with va := 32, wa := 8, scr := 0, cls := cls, nwg := 2 ^ cls }
  { (State.reset.setFld rHostCtl 0 0 1) with l := { State.reset.l with regions := [r], waiting := [Waiting.first 1] } }
/-- A cluster whose one workgroup is asked to leave its core, with a save area. -/
def leaving : State :=
  let s := wg0 (thr lane fun t => { t with hostPark := true }) fun g => { g with preempt := true }
  { s with l := { s.l with regions := s.l.regions.map fun r => { r with sav := 0x100000, savl := 2 ^ 24 } } }
theorem wit_intake : (((ringed 256).setFld (rSubqPtr 7) 31 0 1).resolve 256 (ringed 256).l.nextRegion none (some 7)).2.lerr = 0 := by decide +kernel
theorem wit_RegionsLaunchAndResume :
    State.reset.fld rHostCtl 0 0 = 0 ∧ (ringed 256).fld rHostCtl 0 0 = 1 ∧ (ringed 256).ringHead 7 ≠ (ringed 256).ringTail 7 ∧ (ringed 256).l.spawned = [] ∧
    (ringed 256).rdNat ((ringed 256).fld (rSubqBase 7) 51 12 * 4096 + 8 * ((ringed 256).ringHead 7 % 2 ^ (ringed 256).fld (rSubqBase 7) 4 0)) 8 = 256 ∧
    regsWf (ringed 256).b.regs = true ∧
    ([0, 1].all fun k => (queued k).l.waiting.all fun w => (queued k).l.regions.all fun r => (w.region == r.num) && ((queued k).fit w r).any (fun q => q.2.length == 2 ^ k) &&
      decide (r.nwg ≤ (w.clid + 1) * r.size) && r.state == 2) = true ∧
    (queued 0).b.ckpt = none ∧ (lane.c.clusters.any fun c => c.id == 0 && (lane.liveMembers c).any fun g => !g.preempt) = true ∧
    (leaving.c.clusters.all fun c => (leaving.region? c.region).any (fun r => (leaving.saveSlots c r).isSome) && (leaving.liveMembers c).length == 1 &&
      (leaving.liveMembers c).all (fun g => g.preempt && leaving.preemptible g) &&
      (let u := ({ leaving with free := leaving.free + 1 } : State).finishWork c.members
       (u.liveMembers c).length == 1 && (u.liveMembers c).all u.settled && decide (u.region? c.region = leaving.region? c.region))) = true := by decide +kernel

/-! ### Witnesses: encodings, steps, storage -/

theorem wit_EncodingsRoundTrip : ((mxInstrs ++ clean0 ++ clean5 ++ cleanM128 ++ cleanS64).all fun i => i.wf && is (encode i) i) = true ∧
    ([Instr.bra ⟨true, 0x800000, ⟨true, 3⟩⟩, .loop { loop0 with trip := 7, ne := 1, ent := 0x41 }, .nfill nx].all fun i => i.wf && is (encode i) i) = true := by decide +kernel

def issuing (w : Nat) : State := State.reset.placed 0 w
theorem wit_StepRuns :
    ([0x0000780000000000, 0x00007800000003F8].all fun w => (issuing w).agenda == [.issue 0] && ((issuing w).unit 0).step == none &&
      (match firstOf (State.cands { issuing w with agenda := [] } 0) with | some (_, t :: _) => wordIn t.pc w == some w && !t.loop.act && decide (t.fetch = .ok placedPc w) | _ => false)) = true ∧
    State.overTids (issuing 0) (.fault (flt .illegal)) [0] = [] ∧
    ([0x0000780000000000, 0x00007800000003F8].all fun w => let s := State.reset.placed 4 w; s.agenda == [.pipe 4 [2048]] &&
      ([2048].filter fun x => State.ready { s with agenda := [] } (s.thread x)) == [2048] && !(s.thread 2048).loop.act &&
      decide ((s.thread 2048).fetch = .ok placedPc w) && wordIn (s.thread 2048).pc w == some w &&
      State.overTids { s with agenda := [] } (.fault (flt .illegal)) [2048] == []) = true ∧
    ([0x0000780000000000, 0x00007800000000A8].all fun w => let s : State := { issuing w with agenda := [.issue 1, .tick] }
      ([0].filter fun x => State.stoppable s (s.thread x)) == [0] && decide ((s.thread 0).fetch = .ok placedPc w) && wordIn (s.thread 0).pc w == some w &&
      ((s.thread 0).bundle.map fun b => (State.bundleThreads s 0 b).map (·.tid)) == some [0] && State.overTids s (.fault (flt .illegal)) [0] == [] &&
      s.agenda.any (·.isIssue)) = true ∧ (match firstOf (State.cands { issuing 0xA8 with agenda := [] } 0) with
        | some q => (secondOf q (State.cands { issuing 0xA8 with agenda := [] } 0)).isNone
        | none => false) = true ∧ (Instr.coldReset).isEvent = true ∧ State.reset.agenda = [] := by decide +kernel

def unguarded : Guard := ⟨true, 15⟩
def small : State := thr lane fun t => { t with v := t.v.take 16, win := { t.win with f := 0 } }
theorem wit_IssueAnswersAndChecks :
    (Instr.mov { v96 with ty := .i64 }).wfIn (lane.cur.unit % 5 == 4) = false ∧
    (let x := { io with g0 := unguarded }; lane.clean (.mov x) = true ∧ lane.executing (.mov x) = []) ∧ (let x := { s64 with g := unguarded }; lane.clean (.trap x) = true ∧ lane.executing (.trap x) = []) ∧
    (let i := Instr.mov { io with d := .v 255 }; i.wfIn false = true ∧ small.guards 0 i = true ∧ (small.rangeFault i 0).isSome = true ∧ (small.thread? 0).isSome = true ∧
      i.kNums = [] ∧ isCtx 0 = false) := by decide +kernel

theorem wit_StorageReadsBack :
    State.reset.canonical = true ∧ State.reset.place 0 = some (1, 0) ∧ State.reset.place (2 ^ 51) = some (0, 2 ^ 51) ∧ State.reset.place (2 ^ 50) = none ∧
    State.reset.plog ≤ 6 ∧ State.reset.hs ≤ 12 ∧ State.reset.populated (64 * 12 * 2 ^ 30 - 1) = true ∧ State.reset.populated (64 * 12 * 2 ^ 30) = false ∧
    (State.reset.setFld rHomeCfg 3 0 11).populated (2 ^ 52) = true ∧ (State.reset.setFld rHomeCfg 3 0 11).here (2 ^ 52) = true ∧ 120 / 128 = (120 + 8 - 1) / 128 := by decide +kernel

/-! ### One instruction each, on the values of the spec's worked examples and on corners worked out by hand from the rules -/

/-- The result of an instruction whose sources v5, v6, v7 hold the given values and whose destination v4 holds `d`. -/
def run (i : Instr) (a b : Word) (c d : Word := 0) : List (Option Word) := vals (exec i (setV (setV (setV (setV lane 0 5 a) 0 6 b) 0 7 c) 0 4 d))
def gives (i : Instr) (a b r : Word) : Bool := run i a b == [some r]
def gives4 (i : Instr) (a b c d r : Word) : Bool := run i a b c d == [some r]

/-- The worked example under R120: with `.sat` and without. -/
theorem test_iadd : gives (.iaddV96 { iq with b := .imm 0xFD, sat := .sat }) 0x0064800000058001 0 0x0061800000028000 = true ∧
    gives (.iaddV96 { iq with b := .imm 0xFD }) 0x0064800000058001 0 0x00617FFD00027FFE = true := by decide +kernel
theorem test_isub_saturates_unsigned_at_zero : gives (.isubV96 { uq with sat := .sat, c := .v 0 }) 0x0000000100000005 0x0000000200000003 0x0000000000000002 = true := by decide +kernel
theorem test_imul : gives (.imulV96 { iq with ty := .u8x8 }) 0x0302010004FF10FF 0x0202020202021002 0x0604020008FE00FE = true := by decide +kernel
theorem test_imulh_rounds_down : gives (.imulh { iq with ty := .i64 }) 0xFFFFFFFFFFFFFFFF 3 0xFFFFFFFFFFFFFFFF = true ∧
    gives (.imulh { iq with ty := .u64 }) 0xFFFFFFFFFFFFFFFF 0xFFFFFFFFFFFFFFFF 0xFFFFFFFFFFFFFFFE = true := by decide +kernel
theorem test_imad : gives4 (.imad { iq with c := .v 7, ty := .i32x2 }) 0x00000003FFFFFFFE 0x0000000500000007 0x0000000100000004 0 0x00000010FFFFFFF6 = true := by decide +kernel
theorem test_iabs_wraps_unless_saturated : gives (.iabs { i1 with ty := .i8x8 }) 0x80FF7F0180FF7F01 0 0x80017F0180017F01 = true ∧
    gives (.iabs { i1 with ty := .i8x8, sat := .sat }) 0x80FF7F0180FF7F01 0 0x7F017F017F017F01 = true := by decide +kernel
theorem test_shift_by_the_width : gives (.shl { iq with ty := .u32x2 }) 0x8000000100000001 0x0000002000000001 0x0000000000000002 = true ∧
    gives (.sar { iq with ty := .u32x2 }) 0x8000000140000000 0x0000002100000004 0xFFFFFFFF04000000 = true := by decide +kernel
theorem test_shr_and_rol : gives (.shr iq) 0x8000FFFF00010002 0x000F000100100001 0x00017FFF00000001 = true ∧
    gives (.rol iq) 0x8001123400010002 0x0001000400100011 0x0003234100010004 = true := by decide +kernel
theorem test_bit_counts : gives (.clz { i1 with ty := .u32x2 }) 0x0000000000008000 0 0x0000002000000010 = true ∧
    gives (.popc i1) 0x00FF800100007FFF 0 0x000800020000000F = true ∧ gives (.brev i1) 0x0001800012340000 0 0x800000012C480000 = true := by decide +kernel
/-- R116: a field that runs past the top is filled with the sign; an insertion stops at the top. -/
theorem test_bit_fields : gives4 (.bfx { iq with c := .v 7 }) 0x8F000000000000F5 0x000C000000000004 0x0008000000000004 0 0xFFF800000000FFFF = true ∧
    gives4 (.bfi { iq with c := .v 7, e := .imm 8 }) 0x00000000FFFFFFFF 0x00AB000000000012 0x000C001000040000 0 0xB0000000F00FFF12 = true := by decide +kernel
theorem test_sel : vals (exec (.sel { ib with c := .p 15 }) (setV (setV lane 0 5 7) 0 6 9)) = [some 7] ∧ vals (exec (.sel { ib with c := .p 2 }) (setV (setV lane 0 5 7) 0 6 9)) = [some 9] := by decide +kernel
/-- The worked example under R120: `icmp.ge.any.u32x2 p3, v5, 0x1_0000`. -/
theorem test_icmp_any : (let i : Instr := .icmpM128 { m128 with d := .p 3, a := .v 5, ty := .u32x2, opx := 13, i32 := 0x10000 }
    run i 0x0001117000000004 0 == [some 1] && run i 0x0000000900000004 0 == [some 0]) = true := by decide +kernel
theorem test_icmp_masks : gives (.icmpV96 { iq with opx := 2 }) 0xFFFF000100020003 0x0000000100030002 0xFFFF0000FFFF0000 = true := by decide +kernel
theorem test_iaddc_carries : vals (exec (.iaddc { iq with ty := .u64, c := .p 15, e := .p 2 }) (setV (setV lane 0 5 0xFFFFFFFFFFFFFFFF) 0 6 0)) = [some 0, some 1] := by decide +kernel
theorem test_logic : gives (.bandV96 ib) 0xF0F0 0xFF00 0xF000 = true ∧ gives (.borV96 { ib with b := .imm 0x80 }) 1 0 0xFFFFFFFFFFFFFF81 = true ∧
    gives (.bxorV96 ib) 5 3 6 = true ∧ gives (.bnot io) 5 0 0xFFFFFFFFFFFFFFFA = true := by decide +kernel
theorem test_moves : gives (.movi { m128 with d := .v 4, i32 := 0x80000000 }) 0 0 0xFFFFFFFF80000000 = true ∧ gives (.movi { m128 with d := .v 4, opx := 1, i32 := 0x80000000 }) 0 0 0x80000000 = true ∧
    gives4 (.movh { m128 with d := .v 4, i32 := 7 }) 0 0 0 0x1122334455667788 0x0000000755667788 = true := by decide +kernel

/-! Floating point. -/

theorem test_fadd_rounds_ties_to_even : gives (.fadd fq) 0x3F8000004B800000 0x400000003F800000 0x404000004B800000 = true ∧ gives (.fadd { fq with rm := .ru }) 0x3F8000004B800000 0x400000003F800000 0x404000004B800001 = true := by decide +kernel
theorem test_fsub_zero_sign : gives (.fsub fq) 0x3F8000003F800000 0x3F8000003F800000 0 = true ∧ gives (.fsub { fq with rm := .rd }) 0x3F8000003F800000 0x3F8000003F800000 0x8000000080000000 = true := by decide +kernel
theorem test_fmul_nan_is_canonical : gives (.fmul fq) 0x7F800000FFC12345 0x000000003F800000 0x7FC000007FC00000 = true := by decide +kernel
/-- One rounding: (1 + 2^-12)^2 - (1 + 2^-11) is 2^-24. -/
theorem test_ffma_rounds_once : gives4 (.ffma { fq with c := .v 7 }) 0x000000003F800800 0x000000003F800800 0x00000000BF801000 0 0x0000000033800000 = true := by decide +kernel
theorem test_fmul_overflow : gives (.fmul fq) 0x7F7FFFFFFF7FFFFF 0x4000000040000000 0x7F800000FF800000 = true ∧ gives (.fmul { fq with sat := .satf }) 0x7F7FFFFFFF7FFFFF 0x4000000040000000 0x7F7FFFFFFF7FFFFF = true := by decide +kernel
theorem test_fmul_ftz : gives (.fmul { fq with opx := 8 }) 0x0000000180800000 0x3F8000003F000000 0x0000000080000000 = true := by decide +kernel
theorem test_fmin_orders_zeros : gives (.fmin fq) 0x000000007FC00000 0x8000000040000000 0x8000000040000000 = true ∧ gives (.fmax fq) 0x000000007FC00000 0x800000007FC00000 0x000000007FC00000 = true := by decide +kernel
theorem test_fcmp_nan : gives (.fcmp { fq with opx := 1 }) 0x7FC0000080000000 0x7FC0000000000000 0xFFFFFFFF00000000 = true ∧ gives (.fcmp { fq with opx := 0 }) 0x7FC0000080000000 0x7FC0000000000000 0x00000000FFFFFFFF = true := by decide +kernel
theorem test_fclass : gives (.fclass f1) 0x7F80000180000000 0 0x0000010000000008 = true := by decide +kernel
theorem test_frnd_keeps_the_sign : gives (.frnd { f1 with rm := .rz }) 0xBE80000040200000 0 0x8000000040000000 = true := by decide +kernel
/-- The worked example under R125, with and without `.satf`. -/
theorem test_fcvt : (let x : V96A := { f1 with ty := .f16x4, ty2 := .f32x2, opx := 1 }
    gives4 (.fcvt x) 0x322BCC77477FF000 0 0 0x1111222233334444 0x00007C0033334444 && gives4 (.fcvt { x with sat := .satf }) 0x322BCC77477FF000 0 0 0x1111222233334444 0x00007BFF33334444) = true := by decide +kernel
theorem test_fcvti_saturates : gives (.fcvti { f1 with ty := .i32x2, ty2 := .f32x2 }) 0x7FC00000CF800000 0 0x0000000080000000 = true := by decide +kernel
theorem test_icvtf_rounds : gives (.icvtf { f1 with ty2 := .i32x2 }) 0xFFFFFFFF01000001 0 0xBF8000004B800000 = true := by decide +kernel
theorem test_reciprocals : gives (.frcp f1) 0x8000000040400000 0 0xFF8000003EAAAAAB = true ∧ gives (.frsq f1) 0x8000000040800000 0 0xFF8000003F000000 = true ∧
    gives (.fsqrt f1) 0x8000000040000000 0 0x800000003FB504F3 = true := by decide +kernel
theorem test_exponentials : gives (.fex2 f1) 0xFF80000040400000 0 0x0000000041000000 = true ∧ gives (.flg2 f1) 0x000000003F800000 0 0xFF80000000000000 = true := by decide +kernel
theorem test_trigonometry : gives (.fsin f1) 0xC00000003F000000 0 0x800000003F800000 = true ∧ gives (.fcos f1) 0x3F80000040200000 0 0xBF80000000000000 = true ∧
    gives (.ftanh f1) 0xFF80000080000000 0 0xBF80000080000000 = true := by decide +kernel
/-- R155: from s = 1 the first draw leaves 0x4082_2041 and is 0. -/
theorem test_first_draw : drawStep 1 = (0x40822041, 0) := by decide +kernel
/-- R128's worked value: x0 = -4, s = 32, x = 1 is segment 160 at t = 0, whose c0 is the result. -/
theorem test_table_segment : tblEl (0xC0800000 + 0x42000000 * 2 ^ 32 + 0x40490FDB * 2 ^ (8 * (16 + 16 * 160))) .f32x2 false 0x3F800000 = 0x40490FDB := by decide +kernel

/-! Codec: the worked examples of R163, R169. -/

theorem test_decode_scaled : (([0x79, 0x8A].map fun c => fp32.enc .rne false 0 (prod (((fmtOf 0x13).getD (unsignedFmt 8)).decode c) 0x200)) = [0x43900000, 0xBCA00000]) ∧
    [0x3FF, 0x600].map (fun c => fp32.enc .rne false 0 (prod (((fmtOf 0x13).getD (unsignedFmt 8)).decode 0x79) c)) = [0x7FC00000, 0x7FC00000] := by decide +kernel
theorem test_cvt8 : (let x : V96A := { fq with e := .imm 0x13, sat := .satf, opx := 9 }
    gives4 (.cvt8 x) 0xBCA3D70A43960000 0x0000020000000200 0 0x1111222233334444 0x111122228A794444 && gives4 (.cvt8 x) 0xBCA3D70A44160000 0x0000020000000200 0 0x1111222233334444 0x111122228A7E4444 &&
    gives4 (.cvt8 { x with sat := .none }) 0xBCA3D70A44160000 0x0000020000000200 0 0x1111222233334444 0x111122228A7F4444) = true := by decide +kernel
theorem test_cvw8 : gives (.cvw8 { fq with b := .v 0, e := .imm 0x13 }) 0x8A79 0 0xBC20000043100000 = true := by decide +kernel
/-- A warp of three lanes with the given v2, each with `%olthr` = 100.0. -/
def three (a b c : Word) : State :=
  let s := (mate (mate lane 1) 2).setThreads ((mate (mate lane 1) 2).c.threads.map fun t => { t with olthr := 0x42C80000 })
  { setV (setV (setV s 0 2 a) 1 2 b) 2 2 c with cur := { unit := 0, tids := [0, 1, 2], pc := placedPc } }
theorem test_cvol : (let o := vals (exec (.cvol { v96 with d := .v 6, a := .v 2, b := .v 10, c := .v 11, ty := .f32x2, e := .imm 0x13 }) (three 0x43FA000040400000 0x3F000000C47A0000 0x7FC0000040E00000))
    [0x4C, 0x3800, 0x8056, 2, 0x101, 0x200, 0xC47A43FA].all (fun x => o.contains (some x)) && decide (o.length = 9) && decide (o.count (some 0) = 2)) = true := by decide +kernel
/-- The block of 300.0 has exponent 8, whose scale code in binary8p4 is 0x200. -/
theorem test_block_scale : gives (.bmax { f1 with opx := 1 }) 0xBCA3D70A43960000 0 0x0000000800000008 = true ∧ gives (.bscl { i1 with ty := .i32x2, e := .imm 0x13 }) 0x0000000800007FFF 0 0x00000200000003FF = true := by decide +kernel
theorem test_pk4_clamps : gives4 (.pk4 { f1 with e := .imm 1, opx := 1 }) 0xC120000040200000 0 0 0 0x8200 = true := by decide +kernel
theorem test_upk4_clamps : gives (.upk4 { i1 with ty := .u16x4, e := .imm 1, opx := 1 }) 0x8721F000 0 0x0000000700020001 = true := by decide +kernel

/-! Across lanes. -/

/-- The worked example of R139: lanes 0, 2 and 3 hold (2^24, 0), (1, 0), (1, 0). -/
theorem test_vred_fixed_tree : (let s : State := { setV (setV (setV (mate (mate lane 2) 3) 0 2 0x4B800000) 2 2 0x3F800000) 3 2 0x3F800000 with cur := { unit := 0, tids := [0, 2, 3], pc := placedPc } }
    vals (exec (.vred { v96 with d := .v 3, a := .v 2, ty := .f32x2 }) s) == List.replicate 3 (some 0x4B8000014B800001)) = true := by decide +kernel
theorem test_vscan_exclusive : vals (exec (.vscan { v96 with d := .v 3, a := .v 2, ty := .i32x2, opx := 11 }) (three 0x0000000200000001 0x0000000400000003 0x0000000600000005)) =
    [some 0x0000000100000000, some 0x0000000600000003, some 0x0000000F0000000A] := by decide +kernel
/-- Up by one slot; slot 0 has no source and keeps its value. -/
theorem test_shfl_up : (let s := (three 0x0000000200000001 0x0000000400000003 0x0000000600000005)
    vals (exec (.shfl { v96 with d := .v 2, a := .v 2, b := .imm 1, ty := .i32x2, opx := 1 }) s)) = [some 0x0000000100000001, some 0x0000000300000002, some 0x0000000500000004] := by decide +kernel
theorem test_bcast_outside_the_group : vals (exec (.bcast { v96 with d := .v 3, a := .v 2, b := .imm 2 }) (three 1 2 3)) = [some 3, some 3, some 3] ∧
    (vals (exec (.bcast { v96 with d := .v 3, a := .v 2, b := .imm 3 }) (three 1 2 3))).all (fun x => x == some 0) = true := by decide +kernel
theorem test_vperm : gives4 (.vperm { ib with c := .v 7 }) 0x1716151413121110 0x80000F0807017F20 0x2F2E2D2C2B2A2928 0 0x00102F2817112F10 = true := by decide +kernel
theorem test_predicates : vals (exec (.pand { s64 with d := .p 2, a := .p 15, b := .p 3, i16 := 2 }) lane) = [some 1] ∧ vals (exec (.pmov { s64 with d := .p 2, a := .imm 1, i16 := 1 }) lane) = [some 0] := by decide +kernel

/-! Flow, windows, translation, homes, the matrix engine. -/

theorem test_bra_goes_back : after (exec (.bra ⟨false, 0xFFFFFF, ⟨false, 15⟩⟩) lane) (fun t => (t.thread 0).pc == placedPc - 4) = true := by decide +kernel
/-- The worked window example: V_a = 40, H = 24, call with a frame of 16 spills the window of depth 0, 200 bytes. -/
theorem test_call_spills : (let s := thr lane fun t => { t with v := t.v.take 40, spl := 256, win := { t.win with f := 24, res := [{ size := 24, radr := 0 }] } }
    after (exec (.call { m128 with opx := 2, i32 := 0x3F8 }) s) fun t =>
      let u := t.thread 0
      u.pc == placedPc + 0xFE0 && u.win.b == 0 && u.win.f == 16 && u.win.dep == 1 && u.win.spo == 200 && u.spills.length == 1 && u.win.res == [{ size := 16, radr := placedPc + 16 }]) = true := by decide +kernel
/-- The worked walk of R224. -/
theorem test_walk : (let s : State := (((mapped.wrNat 0x1000000120 8 0x0000001000200001).wrNat 0x1000200688 8 0x0000001000201001).wrNat 0x1000201598 8 0x0000001000202001).wrNat 0x10002020C0 8 0x1C0000023450005D
    match s.walk 0x1000000000 0 0x123456789ABC with
    | (_, .ok p) => p.addr 0x123456789ABC == 0x234509ABC && p.fmt == 7 && p.lvl == 3 && p.perm == 7 && !p.dty && p.entry == 0x10002020C0
    | (_, .error _) => false) = true := by decide +kernel
/-- The worked hash of R246: h = 0x7BB, agent 59, module 7 of 16, slot 72,234, set 42. -/
theorem test_home_of_a_line : lineHash 0x468A135 = 0x7BB ∧ agentOf 0x234509ABC = 59 ∧ (lane.setFld rHomeCfg 10 8 4).homeOf 0x234509ABC = 7 ∧
    (lane.setFld rHomeCfg 10 8 4).slotOfLine 0x234509ABC = 72234 ∧ (lane.setFld rHomeCfg 10 8 4).l2Set 0x234509ABC = 42 := by decide +kernel
/-- The worked accumulation of R340: 225 + 2^-21 + 2^-40 is 225 + 2^-20 in ACC36. -/
theorem test_accumulation : (let row := fun (c0 c1 c32 : Nat) => alignRow 0x13 2 8 false ((List.range 128).map fun k => (if k == 0 then c0 else if k == 1 then c1 else if k == 32 then c32 else 0, if k / 32 == 0 then 0x1FC else if k / 32 == 1 then 0x1AC else 0x1FC))
    mxGroup false false 8 8 32 0x350000000 (row 0x7E 0x47 0x40) (row 0x40 0x40 0x40)) = 0x436100001 := by decide +kernel
/-- Splitting a combined fetch-and-add (R24, path 1): the follower's answer is the leader's plus its operand. -/
theorem test_combined_add : mergeOperand 0 8 2 1 = 3 ∧ applyValue (.atom 0) 8 100 2 = 102 ∧ applyValue (.atom 0) 8 100 1 = 101 := by decide +kernel

end Sys2Proof.Tests
end

section
/-! PROOFS. What the state after reset holds (R9, R465, R470). A memory with no cell listed reads zero, a register file with no word listed reads the
reset values of the maps; the rest is a value of the maps' Reset columns. -/

namespace Sys2Proof.Machine
open Sys2Proof

/-- A state whose memories list no cell reads zero at every address, wherever the address is homed (R470). -/
theorem State.byteAt_of_no_cells (s : State) (hmem : s.m.mem = []) (hpeer : s.m.peer = []) (hhost : s.m.host = []) (x : Nat) : s.byteAt x = 0 := by
  unfold State.byteAt
  split
  · rw [hhost, memGet]
  · split
    · rfl
    · split
      · rw [hmem, memGet]
      · rw [hpeer, memGet]

/-- A state whose register file lists no word is at the reset values of the maps (R9). -/
theorem State.reg_of_no_words (s : State) (hregs : s.b.regs = []) (o : Nat) : s.reg o = regReset o := by
  rw [State.reg, hregs, regGet]

@[simp] theorem State.reset_byteAt (x : Nat) : State.reset.byteAt x = 0 := State.byteAt_of_no_cells _ rfl rfl rfl x

@[simp] theorem State.reset_reg (o : Nat) : State.reset.reg o = regReset o := State.reg_of_no_words _ rfl o

theorem State.reset_fld (o hi lo : Nat) : State.reset.fld o hi lo = slice (regReset o).toNat hi lo := by
  rw [State.fld, State.reset_reg]

theorem State.reset_canonical : State.reset.canonical = true :=
  (State.canonical_iff _).2 ⟨rfl, rfl, rfl, rfl⟩

/-- Each submission queue's base word: LOG, the logarithm of its ring's size, is 4 and BASE is 0 (R466). -/
theorem regReset_subqBase (n : Nat) (h : n < 8) : regReset (rSubqBase n) = 4 := by
  have hpwr : ¬ (rSubqBase n == rPwr) = true := by simp only [rSubqBase, rPwr, beq_iff_eq]; omega
  have hsubq : 0x100 ≤ rSubqBase n ∧ rSubqBase n < 0x180 ∧ (rSubqBase n % 16 == 0) = true := by
    simp only [rSubqBase, beq_iff_eq]; omega
  rw [regReset, if_neg hpwr, if_pos hsubq]

/-- Each monitor's second word: MIN stands at the largest 32-bit value, MAX at 0 (R457). -/
theorem regReset_monMin (k : Nat) (h : k < 8) : regReset (rMon k + 8) = 0xFFFFFFFF := by
  have hmon : 0x142000 ≤ rMon k + 8 ∧ rMon k + 8 < 0x142400 ∧ (rMon k + 8) % 128 = 8 := by unfold rMon; omega
  generalize rMon k + 8 = o at hmon
  obtain ⟨hlo, hhi, hword⟩ := hmon
  simp only [regReset, rPwr, rHomeCfg, rFabCfg, rFabWbcap, beq_iff_eq]
  iterate 8 rw [if_neg (by omega)]
  rw [if_pos ⟨hlo, hhi, hword⟩]

/-- Settles O58: nothing is listed after reset, so every byte reads zero and every control register reads its map's reset value. -/
theorem resetState : Obligations.ResetState := by
  unfold Obligations.ResetState
  have hfld := State.reset_fld
  refine ⟨State.reset_canonical, State.reset_byteAt, rfl, rfl, rfl, rfl, rfl, rfl, State.reset_reg, ?hostStat, ?hostCtl, ?pwr, ?hs, ?plog, ?hway,
    ?nmod, ?fabEn, ?subq, ?mon⟩
  case hostStat => rw [hfld]; decide
  case hostCtl => rw [hfld]; decide
  case pwr => rw [State.reset_reg]; decide
  case hs => rw [State.hs, hfld]; decide
  case plog => rw [State.plog, hfld]; decide
  case hway => rw [State.hway, hfld]; decide
  case nmod => rw [State.nmod, hfld]; decide
  case fabEn => rw [State.fabEn, hfld]; decide
  case subq => exact fun n hn => (State.reset_reg _).trans (regReset_subqBase n hn)
  case mon => exact fun k hk => (State.reset_reg _).trans (regReset_monMin k hk)

end Sys2Proof.Machine
end

section
/-! PROOFS. Little-endian numbers in a memory (R5): the bytes that a write puts, and the number that a read gives back. -/

namespace Sys2Proof.Machine
open Sys2Proof

/-- n bytes that a function gives from an address on, as a little-endian number: what a read of any memory computes. -/
def leNat (f : Nat → Byte) (a : Nat) : Nat → Nat
  | 0 => 0
  | n + 1 => (f a).toNat + 256 * leNat f (a + 1) n

theorem memNat_eq_leNat (m : List Cell) (n : Nat) : ∀ a, memNat m a n = leNat (memGet m) a n := by
  induction n with
  | zero => intro a; rfl
  | succ n ih => intro a; rw [memNat, leNat, ih]

theorem State.rdNat_eq_leNat (s : State) (n : Nat) : ∀ x, s.rdNat x n = leNat s.byteAt x n := by
  induction n with
  | zero => intro x; rfl
  | succ n ih => intro x; rw [State.rdNat, leNat, ih]

@[simp] theorem byteOf_zero (x : Nat) : byteOf x 0 = x % 256 := by simp [byteOf]

theorem byteOf_succ (x i : Nat) : byteOf x (i + 1) = byteOf (x / 256) i := by
  rw [byteOf, byteOf, Nat.div_div_eq_div_mul, pow_succ']

theorem byteOf_lt (x i : Nat) : byteOf x i < 256 := Nat.mod_lt _ (by norm_num)

/-- Bytes that are those of a number make up that number. -/
theorem leNat_of_bytes (f : Nat → Byte) (n : Nat) : ∀ a v, (∀ i < n, (f (a + i)).toNat = byteOf v i) → leNat f a n = v % 256 ^ n := by
  induction n with
  | zero => intro a v _; rw [leNat, pow_zero, Nat.mod_one]
  | succ n ih =>
    intro a v h
    have hlow : (f a).toNat = v % 256 := by simpa using h 0 (by omega)
    have hhigh : leNat f (a + 1) n = v / 256 % 256 ^ n := ih _ _ fun i hi => by
      rw [← byteOf_succ, ← h (i + 1) (by omega), Nat.add_right_comm, Nat.add_assoc]
    rw [leNat, hlow, hhigh, pow_succ', Nat.mod_mul]

/-- Byte i of a number that was read is the byte at that place. -/
theorem byteOf_leNat (f : Nat → Byte) (n : Nat) : ∀ a i, i < n → byteOf (leNat f a n) i = (f (a + i)).toNat := by
  induction n with
  | zero => intro a i h; omega
  | succ n ih =>
    intro a i h
    have hb : (f a).toNat < 256 := (f a).isLt
    cases i with
    | zero => rw [byteOf_zero, leNat, Nat.add_mul_mod_self_left, Nat.mod_eq_of_lt hb, Nat.add_zero]
    | succ i =>
      have hdiv : leNat f a (n + 1) / 256 = leNat f (a + 1) n := by rw [leNat]; omega
      rw [byteOf_succ, hdiv, ih _ _ (by omega), Nat.add_right_comm, Nat.add_assoc]

theorem byteOf_memNat (m : List Cell) (a n i : Nat) (h : i < n) : byteOf (memNat m a n) i = (memGet m (a + i)).toNat := by
  rw [memNat_eq_leNat, byteOf_leNat _ _ _ _ h]

/-- What n bytes of a memory hold after a write: outside them every byte stays. -/
theorem memGet_memPut_outside (n : Nat) : ∀ (m : List Cell) (a x b : Nat), b < a ∨ a + n ≤ b → memGet (memPut m a n x) b = memGet m b := by
  induction n with
  | zero => intro m a x b _; rfl
  | succ n ih =>
    intro m a x b h
    rw [memPut, ih _ _ _ _ (by omega), memGet_memSet_ne _ _ _ _ (by omega)]

/-- Inside them, each byte is the number's. -/
theorem memGet_memPut_inside (n : Nat) : ∀ (m : List Cell) (a x i : Nat), Memory.wf m = true → i < n →
    (memGet (memPut m a n x) (a + i)).toNat = byteOf x i := by
  induction n with
  | zero => intro m a x i _ h; omega
  | succ n ih =>
    intro m a x i hm h
    cases i with
    | zero => rw [memPut, memGet_memPut_outside _ _ _ _ _ (by omega), Nat.add_zero, memGet_memSet_same _ _ _ hm, byteOf_zero, BitVec.toNat_ofNat]
    | succ i =>
      rw [memPut, byteOf_succ, ← ih _ (a + 1) _ i (memSet_wf _ _ _ hm) (by omega), Nat.add_right_comm, Nat.add_assoc]

/-- Both in one: the byte at any address after a write. -/
theorem memGet_memPut (m : List Cell) (a n x b : Nat) (hm : Memory.wf m = true) :
    (memGet (memPut m a n x) b).toNat = if a ≤ b ∧ b < a + n then byteOf x (b - a) else (memGet m b).toNat := by
  split
  · rename_i h
    rw [← memGet_memPut_inside n m a x (b - a) hm (by omega), Nat.add_sub_cancel' h.1]
  · rw [memGet_memPut_outside _ _ _ _ _ (by omega)]

theorem memNat_memPut (m : List Cell) (a n x : Nat) (hm : Memory.wf m = true) : memNat (memPut m a n x) a n = x % 256 ^ n := by
  rw [memNat_eq_leNat]
  exact leNat_of_bytes _ _ _ _ fun i hi => memGet_memPut_inside n m a x i hm hi

end Sys2Proof.Machine
end

section
/-! PROOFS. Where a byte of an address is kept, and the reads of it after a write (R18, R225 to R227, R475). -/

namespace Sys2Proof.Machine
open Sys2Proof

/-! ### The place of an address -/

/-- The cell that a place names: host memory, this module's memory, another module's; no place reads zero. -/
def State.atPlace (s : State) : Option (Nat × Nat) → Byte
  | some (0, a) => memGet s.m.host a
  | some (1, a) => memGet s.m.mem a
  | some (_, a) => memGet s.m.peer a
  | none => 0

/-- Where a byte is kept, and what a read and a write of it do there (R227, R475). -/
theorem State.place_cases (s : State) (x : Nat) :
    (s.place x = none ∧ ∀ v, s.setByte x v = s) ∨
    (s.place x = some (0, paOf x) ∧ ∀ v, s.setByte x v = { s with m := { s.m with host := memSet s.m.host (paOf x) v } }) ∨
    (s.place x = some (1, s.storeAddr x) ∧ ∀ v, s.setByte x v = { s with m := { s.m with mem := memSet s.m.mem (s.storeAddr x) v } }) ∨
    (s.place x = some (2, x) ∧ ∀ v, s.setByte x v = { s with m := { s.m with peer := memSet s.m.peer x v } }) := by
  unfold State.place State.setByte
  by_cases hh : hostSpace x = true <;> by_cases hp : s.populated x = true <;> by_cases ht : s.here x = true <;> simp [hh, hp, ht]

theorem State.byteAt_eq_atPlace (s : State) (x : Nat) : s.byteAt x = s.atPlace (s.place x) := by
  unfold State.byteAt State.place
  repeat' split
  all_goals rfl

/-- Places depend on the control registers and the module's number alone. -/
theorem State.place_congr {s t : State} (h : t.b = s.b) : t.place = s.place := by
  funext x
  unfold State.place State.populated State.here State.storeAddr State.slotOfLine State.homeOf State.plog State.hs State.fld State.reg
  rw [h]

@[simp] theorem State.place_setByte (s : State) (x : Nat) (v : Byte) : (s.setByte x v).place = s.place := by
  obtain ⟨a, b, c, h⟩ := s.setByte_rest x v
  exact State.place_congr (by rw [h])

/-- R475: outside the populated ranges a write is dropped and a read gives zero. -/
theorem State.setByte_of_no_place (s : State) (x : Nat) (v : Byte) (h : s.place x = none) : s.setByte x v = s := by
  obtain ⟨_, he⟩ | ⟨hp, _⟩ | ⟨hp, _⟩ | ⟨hp, _⟩ := s.place_cases x
  · exact he v
  all_goals simp [hp] at h

theorem State.byteAt_of_no_place (s : State) (x : Nat) (h : s.place x = none) : s.byteAt x = 0 := by
  rw [State.byteAt_eq_atPlace, h, State.atPlace]

/-- A byte that was written reads back. -/
theorem State.byteAt_setByte_same (s : State) (x : Nat) (v : Byte) (hs : s.canonical = true) (h : s.place x ≠ none) :
    (s.setByte x v).byteAt x = v := by
  obtain ⟨hmem, hpeer, hhost, _⟩ := s.canonical_iff.1 hs
  rw [State.byteAt_eq_atPlace, State.place_setByte]
  obtain ⟨hp, _⟩ | ⟨hp, he⟩ | ⟨hp, he⟩ | ⟨hp, he⟩ := s.place_cases x
  · exact absurd hp h
  all_goals rw [hp, he]
  · exact memGet_memSet_same _ _ _ hhost
  · exact memGet_memSet_same _ _ _ hmem
  · exact memGet_memSet_same _ _ _ hpeer

/-- A write of one place leaves the cell of every other place alone: that cell lies in another memory, or at another address of the same one. -/
theorem State.byteAt_setByte_ne (s : State) (x y : Nat) (v : Byte) (h : s.place y ≠ s.place x) : (s.setByte x v).byteAt y = s.byteAt y := by
  rw [State.byteAt_eq_atPlace, State.byteAt_eq_atPlace, State.place_setByte]
  obtain ⟨_, he⟩ | ⟨hx, he⟩ | ⟨hx, he⟩ | ⟨hx, he⟩ := s.place_cases x <;>
    obtain ⟨hy, _⟩ | ⟨hy, _⟩ | ⟨hy, _⟩ | ⟨hy, _⟩ := s.place_cases y <;> rw [he, hy] <;> rw [hx, hy] at h <;> try rfl
  all_goals exact memGet_memSet_ne _ _ _ _ fun hab => h (by rw [hab])

/-! ### Bytes of one line -/

theorem paOf_eq (x : Nat) : paOf x = x / 128 % 2 ^ 45 * 128 + x % 128 := by unfold paOf; omega

/-- Two bytes of one line that are kept have two places. -/
theorem State.place_ne_of_line (s : State) (x y : Nat) (hline : x / 128 = y / 128) (hne : x ≠ y) (hx : s.place x ≠ none) : s.place x ≠ s.place y := by
  have hoff : x % 128 ≠ y % 128 := by omega
  have hpx := paOf_eq x
  have hpy := paOf_eq y
  have hpl : paOf x / 128 = paOf y / 128 := by omega
  have hlocal : localOf x = localOf y := by
    have : x / 2 ^ 52 = y / 2 ^ 52 := by omega
    simp only [localOf, this]
  have hslot : s.slotOfLine x = s.slotOfLine y := by simp only [State.slotOfLine, hpl, hlocal]
  have hagent : agentOf x = agentOf y := by simp only [agentOf, hpl]
  have hpa : paOf x ≠ paOf y := by omega
  have hstore : s.storeAddr x ≠ s.storeAddr y := by simp only [State.storeAddr, hslot, hagent]; omega
  obtain ⟨hp, _⟩ | ⟨hp, _⟩ | ⟨hp, _⟩ | ⟨hp, _⟩ := s.place_cases x
  · exact absurd hp hx
  all_goals obtain ⟨hq, _⟩ | ⟨hq, _⟩ | ⟨hq, _⟩ | ⟨hq, _⟩ := s.place_cases y <;> simp [hp, hq, hpa, hstore, hne]

@[simp] theorem State.place_wrNat (n : Nat) (s : State) (x v : Nat) : (s.wrNat x n v).place = s.place := by
  obtain ⟨a, b, c, h⟩ := State.wrNat_rest n s x v
  exact State.place_congr (by rw [h])

/-- A write leaves a byte alone whose place is none of those written. -/
theorem State.byteAt_wrNat_ne (n : Nat) : ∀ (s : State) (x v y : Nat), (∀ i < n, s.place y ≠ s.place (x + i)) →
    (s.wrNat x n v).byteAt y = s.byteAt y := by
  induction n with
  | zero => intro s x v y _; rfl
  | succ n ih =>
    intro s x v y h
    rw [State.wrNat, ih _ _ _ _ fun i hi => ?_, State.byteAt_setByte_ne _ _ _ _ (by simpa using h 0 (by omega))]
    rw [State.place_setByte, Nat.add_assoc, Nat.add_comm 1]
    exact h (i + 1) (by omega)

/-- Each byte of a write inside one line is the number's. -/
theorem State.byteAt_wrNat (n : Nat) : ∀ (s : State) (x v i : Nat), s.canonical = true → (∀ j < n, s.place (x + j) ≠ none) →
    (∀ j < n, (x + j) / 128 = x / 128) → i < n → ((s.wrNat x n v).byteAt (x + i)).toNat = byteOf v i := by
  induction n with
  | zero => intro s x v i _ _ _ h; omega
  | succ n ih =>
    intro s x v i hs hp hl h
    rw [State.wrNat]
    cases i with
    | zero =>
      have hfirst : s.place x ≠ none := hp 0 (by omega)
      change (((s.setByte x _).wrNat (x + 1) n _).byteAt x).toNat = _
      rw [State.byteAt_wrNat_ne, State.byteAt_setByte_same _ _ _ hs hfirst, byteOf_zero, BitVec.toNat_ofNat]
      intro j hj
      have := hl (j + 1) (by omega)
      rw [State.place_setByte]
      exact s.place_ne_of_line _ _ (by omega) (by omega) hfirst
    | succ i =>
      have hnext : ∀ j, x + 1 + j = x + (j + 1) := by omega
      rw [byteOf_succ, ← ih (s.setByte x _) (x + 1) (v / 256) i (s.canonical_setByte _ _ hs) ?_ ?_ (by omega), hnext]
      · intro j hj
        rw [State.place_setByte, hnext]
        exact hp _ (by omega)
      · intro j hj
        have h1 := hl (j + 1) (by omega)
        have h2 := hl 1 (by omega)
        rw [hnext, h1, h2]

/-- A number written inside one line reads back. -/
theorem State.rdNat_wrNat (s : State) (x n v : Nat) (hs : s.canonical = true) (hp : ∀ i < n, s.place (x + i) ≠ none)
    (hl : x / 128 = (x + n - 1) / 128) : (s.wrNat x n v).rdNat x n = v % 256 ^ n := by
  rw [State.rdNat_eq_leNat]
  exact leNat_of_bytes _ _ _ _ fun i hi => State.byteAt_wrNat n s x v i hs hp (fun j hj => by omega) hi

end Sys2Proof.Machine
end

section
/-! PROOFS. Two populated addresses of one module never share a storage byte (R225, R227): a line is its hash, of which agent, slot and home hold
disjoint parts, with its number above the low 12 bits, which the slot holds. -/

namespace Sys2Proof.Machine
open Sys2Proof

/-! ### The hash of a line -/

theorem lineHash_lt (l : Nat) : lineHash l < 4096 := by
  have h : ∀ x, x % 4096 < 2 ^ 12 := fun x => Nat.mod_lt _ (by norm_num)
  have h3 : l / 2 ^ 36 % 8 < 2 ^ 12 := lt_trans (Nat.mod_lt _ (by norm_num)) (by norm_num)
  exact Nat.xor_lt_two_pow (Nat.xor_lt_two_pow (Nat.xor_lt_two_pow (h _) (h _)) (h _)) h3

/-- The hash and the bits above the low 12 determine the line. -/
theorem line_eq_of_lineHash {l k : Nat} (hq : l / 4096 = k / 4096) (hh : lineHash l = lineHash k) : l = k := by
  have h12 : l / 2 ^ 12 = k / 2 ^ 12 := hq
  have h24 : l / 2 ^ 24 = k / 2 ^ 24 := by omega
  have h36 : l / 2 ^ 36 = k / 2 ^ 36 := by omega
  unfold lineHash at hh
  rw [h12, h24, h36] at hh
  have hlow : l % 4096 = k % 4096 := by simpa only [Nat.xor_left_inj] using hh
  omega

/-- A number made of a high and a low part determines both. -/
theorem mul_add_inj {a b r t k : Nat} (hr : r < k) (ht : t < k) (h : a * k + r = b * k + t) : a = b ∧ r = t := by
  have hk : 0 < k := by omega
  have hx := (Nat.div_mod_unique hk).2 ⟨(by ring : r + k * a = a * k + r), hr⟩
  have hy := (Nat.div_mod_unique hk).2 ⟨(by rw [h]; ring : t + k * b = a * k + r), ht⟩
  exact ⟨hx.1.symm.trans hy.1, hx.2.symm.trans hy.2⟩

/-- A hash is its agent, its slot bits and its home bits, wherever the slot bits end. -/
theorem hash_eq_of_parts {h k m : Nat} (hm : m ≤ 6) (hh : h < 4096) (hk : k < 4096) (hagent : h % 64 = k % 64)
    (hslot : h / 64 % 2 ^ (6 - m) = k / 64 % 2 ^ (6 - m)) (hhome : h / 2 ^ (12 - m) % 2 ^ m = k / 2 ^ (12 - m) % 2 ^ m) : h = k := by
  interval_cases m <;> omega

/-! ### The range of an address -/

/-- The bytes that the populated range of an address's placement holds (R227). -/
def State.rangeLimit (s : State) (x : Nat) : Nat :=
  match localOf x with
  | some _ => 64 * (12 - s.hs) * 2 ^ 30
  | none => 2 ^ s.plog * 64 * s.hs * 2 ^ 30

theorem State.populated_iff (s : State) (x : Nat) :
    s.populated x = true ↔ hostSpace x = false ∧ slice (paOf x) 50 46 = 0 ∧ slice (paOf x) 45 0 < s.rangeLimit x := by
  unfold State.populated State.rangeLimit
  cases localOf x <;> simp [and_assoc]

/-- A populated address lies below its range's limit, and no bit of it from 46 to 51 is set. -/
theorem State.paOf_lt (s : State) (x : Nat) (h : s.populated x = true) : paOf x < 2 ^ 46 ∧ paOf x < s.rangeLimit x := by
  obtain ⟨hhost, hhigh, hlow⟩ := (s.populated_iff x).1 h
  generalize s.rangeLimit x = r at hlow
  simp only [hostSpace, slice, paOf, beq_eq_false_iff_ne, ne_eq] at *
  omega

/-- The line of a populated address. -/
theorem State.line_of_populated (s : State) (x : Nat) (h : s.populated x = true) : paOf x / 128 % 2 ^ 39 = paOf x / 128 := by
  have := (s.paOf_lt x h).1
  omega

/-! ### The slot of a line -/

/-- A module-local line's slots lie above the interleaved ones, and all below the end of the agent's storage. -/
theorem State.slotOfLine_local (s : State) (x m : Nat) (hl : localOf x = some m) :
    s.slotOfLine x = s.hs * 2 ^ 23 + (paOf x / 128 % 2 ^ 39 / 4096 * 64 + lineHash (paOf x / 128 % 2 ^ 39) / 64 % 64) := by
  simp only [State.slotOfLine, hl]; omega

theorem State.slotOfLine_inter (s : State) (x : Nat) (hl : localOf x = none) :
    s.slotOfLine x = paOf x / 128 % 2 ^ 39 / 4096 * 2 ^ (6 - s.plog) + lineHash (paOf x / 128 % 2 ^ 39) / 64 % 2 ^ (6 - s.plog) := by
  simp only [State.slotOfLine, hl]

theorem State.slotOfLine_local_range (s : State) (x m : Nat) (hhs : s.hs ≤ 12) (hp : s.populated x = true) (hl : localOf x = some m) :
    s.hs * 2 ^ 23 ≤ s.slotOfLine x ∧ s.slotOfLine x < 12 * 2 ^ 23 := by
  have hlim := (s.paOf_lt x hp).2
  rw [s.slotOfLine_local x m hl, s.line_of_populated x hp]
  simp only [State.rangeLimit, hl] at hlim
  generalize lineHash (paOf x / 128) = h
  omega

theorem State.slotOfLine_inter_lt (s : State) (x : Nat) (hm : s.plog ≤ 6) (hp : s.populated x = true) (hl : localOf x = none) :
    s.slotOfLine x < s.hs * 2 ^ 23 := by
  have hlim := (s.paOf_lt x hp).2
  rw [s.slotOfLine_inter x hl, s.line_of_populated x hp]
  simp only [State.rangeLimit, hl] at hlim
  generalize lineHash (paOf x / 128) = h
  generalize s.plog = m at *
  interval_cases m <;> omega

theorem State.slotOfLine_lt (s : State) (x : Nat) (hm : s.plog ≤ 6) (hhs : s.hs ≤ 12) (hp : s.populated x = true) : s.slotOfLine x < 12 * 2 ^ 23 := by
  cases hl : localOf x with
  | none => exact lt_of_lt_of_le (s.slotOfLine_inter_lt x hm hp hl) (Nat.mul_le_mul_right _ hhs)
  | some m => exact (s.slotOfLine_local_range x m hhs hp hl).2

/-- A storage address holds its agent, its slot and the offset in the line. -/
theorem State.storeAddr_inj (s : State) (x y : Nat) (hx : s.slotOfLine x < 12 * 2 ^ 23) (hy : s.slotOfLine y < 12 * 2 ^ 23)
    (h : s.storeAddr x = s.storeAddr y) : agentOf x = agentOf y ∧ s.slotOfLine x = s.slotOfLine y ∧ x % 128 = y % 128 := by
  unfold State.storeAddr at h
  omega

theorem State.storeAddr_lt (s : State) (x : Nat) (hx : s.slotOfLine x < 12 * 2 ^ 23) : s.storeAddr x < 64 * (12 * 2 ^ 23) * 128 := by
  have : agentOf x < 64 := Nat.mod_lt _ (by norm_num)
  unfold State.storeAddr
  omega

/-! ### The address from its storage byte -/

/-- The home of a module-local line is the module of its address; of an interleaved one, the top bits of the hash. -/
theorem State.here_local (s : State) (x m : Nat) (hl : localOf x = some m) (h : s.here x = true) : m = s.b.pkg := by
  simpa [State.here, State.homeOf, hl] using h

theorem State.here_inter (s : State) (x : Nat) (hl : localOf x = none) (h : s.here x = true) :
    lineHash (paOf x / 128 % 2 ^ 39) / 2 ^ (12 - s.plog) % 2 ^ s.plog = s.b.pkg := by
  simpa [State.here, State.homeOf, hl] using h

theorem localOf_eq_none (x : Nat) : localOf x = none ↔ x / 2 ^ 52 = 0 := by simp [localOf]

theorem localOf_eq_some (x m : Nat) : localOf x = some m ↔ x / 2 ^ 52 = m + 1 := by
  simp only [localOf, beq_iff_eq]
  split
  · simp; omega
  · rw [Option.some.injEq]; omega

/-- Two interleaved lines of one home, agent and slot are one line. -/
theorem State.line_eq_inter (s : State) (x y : Nat) (hm : s.plog ≤ 6) (hcx : localOf x = none) (hcy : localOf y = none) (hx : s.here x = true)
    (hy : s.here y = true) (hagent : agentOf x = agentOf y) (hslot : s.slotOfLine x = s.slotOfLine y) :
    paOf x / 128 % 2 ^ 39 = paOf y / 128 % 2 ^ 39 := by
  rw [s.slotOfLine_inter x hcx, s.slotOfLine_inter y hcy] at hslot
  obtain ⟨hhigh, hpart⟩ := mul_add_inj (Nat.mod_lt _ (by positivity)) (Nat.mod_lt _ (by positivity)) hslot
  have hhome := (s.here_inter x hcx hx).trans (s.here_inter y hcy hy).symm
  exact line_eq_of_lineHash hhigh (hash_eq_of_parts hm (lineHash_lt _) (lineHash_lt _) hagent hpart hhome)

/-- Two module-local lines of one agent and slot are one line. -/
theorem State.line_eq_local (s : State) (x y k m : Nat) (hcx : localOf x = some k) (hcy : localOf y = some m) (hagent : agentOf x = agentOf y)
    (hslot : s.slotOfLine x = s.slotOfLine y) : paOf x / 128 % 2 ^ 39 = paOf y / 128 % 2 ^ 39 := by
  rw [s.slotOfLine_local x k hcx, s.slotOfLine_local y m hcy] at hslot
  obtain ⟨hhigh, hpart⟩ := mul_add_inj (Nat.mod_lt _ (by norm_num)) (Nat.mod_lt _ (by norm_num)) (Nat.add_left_cancel hslot)
  exact line_eq_of_lineHash hhigh (hash_eq_of_parts (m := 0) (by norm_num) (lineHash_lt _) (lineHash_lt _) hagent hpart (by simp [Nat.mod_one]))

/-- Agent and slot of two populated lines of this module determine placement and line. -/
theorem State.line_eq_of_slot (s : State) (x y : Nat) (hm : s.plog ≤ 6) (hhs : s.hs ≤ 12) (px : s.populated x = true) (py : s.populated y = true)
    (hx : s.here x = true) (hy : s.here y = true) (hagent : agentOf x = agentOf y) (hslot : s.slotOfLine x = s.slotOfLine y) :
    x / 2 ^ 52 = y / 2 ^ 52 ∧ paOf x / 128 % 2 ^ 39 = paOf y / 128 % 2 ^ 39 := by
  cases hcx : localOf x with
  | none =>
    cases hcy : localOf y with
    | none =>
      exact ⟨((localOf_eq_none x).1 hcx).trans ((localOf_eq_none y).1 hcy).symm, s.line_eq_inter x y hm hcx hcy hx hy hagent hslot⟩
    | some m =>
      have hlow := s.slotOfLine_inter_lt x hm px hcx
      have hhigh := (s.slotOfLine_local_range y m hhs py hcy).1
      omega
  | some k =>
    cases hcy : localOf y with
    | none =>
      have hlow := s.slotOfLine_inter_lt y hm py hcy
      have hhigh := (s.slotOfLine_local_range x k hhs px hcx).1
      omega
    | some m =>
      obtain rfl : k = m := (s.here_local x k hcx hx).trans (s.here_local y m hcy hy).symm
      exact ⟨((localOf_eq_some x k).1 hcx).trans ((localOf_eq_some y k).1 hcy).symm, s.line_eq_local x y k k hcx hcy hagent hslot⟩

/-- Agent, slot and offset of two populated addresses of this module determine the address. -/
theorem State.eq_of_storage (s : State) (x y : Nat) (hm : s.plog ≤ 6) (hhs : s.hs ≤ 12) (px : s.populated x = true) (py : s.populated y = true)
    (hx : s.here x = true) (hy : s.here y = true) (hagent : agentOf x = agentOf y) (hslot : s.slotOfLine x = s.slotOfLine y)
    (hoff : x % 128 = y % 128) : x = y := by
  obtain ⟨hplace, hline⟩ := s.line_eq_of_slot x y hm hhs px py hx hy hagent hslot
  rw [s.line_of_populated x px, s.line_of_populated y py] at hline
  unfold paOf at hline
  omega

/-- Settles O59: a byte is read back from its place, places of populated addresses are their own, and a number is its bytes. -/
theorem storageReadsBack : Obligations.StorageReadsBack := by
  unfold Obligations.StorageReadsBack
  refine ⟨fun s x v hs => ⟨s.byteAt_setByte_same x v hs, fun hp => ⟨s.setByte_of_no_place x v hp, s.byteAt_of_no_place x hp⟩,
    fun y hy => s.byteAt_setByte_ne x y v hy, s.canonical_setByte x v hs⟩, ?storage, fun s x n v hs => s.rdNat_wrNat x n v hs, ?regs, ?cells⟩
  case storage =>
    intro s x y hm hhs _ _ px py hx hy
    have slotx := s.slotOfLine_lt x hm hhs px
    refine ⟨s.storeAddr_lt x slotx, fun h => ?_⟩
    obtain ⟨hagent, hslot, hoff⟩ := s.storeAddr_inj x y slotx (s.slotOfLine_lt y hm hhs py) h
    exact s.eq_of_storage x y hm hhs px py hx hy hagent hslot hoff
  case regs =>
    intro s o x hs
    obtain ⟨_, _, _, hregs⟩ := s.canonical_iff.1 hs
    exact ⟨s.reg_setReg_same o x hregs, fun p hp => s.reg_setReg_ne o p x hp, s.canonical_setReg o x hs⟩
  case cells =>
    exact fun l a n v hl => ⟨memPut_wf n l a v hl, memNat_memPut l a n v hl, memGet_memPut_outside n l a v⟩

end Sys2Proof.Machine
end

section
/-! PROOFS. An instruction that one thread executes, with a body that leaves the threads as the count of the issue does: what stays, and how the thread
goes on. -/

namespace Sys2Proof.Machine
open Sys2Proof

/-- Everything that programs store, but for the threads' registers and the windows of scratch, and the issuing bundle. -/
structure State.KeepsRest (s t : State) : Prop where
  cur : t.cur = s.cur
  warps : t.c.warps = s.c.warps
  clusters : t.c.clusters = s.c.clusters
  launch : t.l = s.l
  regs : t.b.regs = s.b.regs
  mem : t.m.mem = s.m.mem
  peer : t.m.peer = s.m.peer
  host : t.m.host = s.m.host
  pois : t.m.pois = s.m.pois

theorem State.KeepsRest.trans {s t u : State} (h : s.KeepsRest t) (k : t.KeepsRest u) : s.KeepsRest u where
  cur := k.cur.trans h.cur
  warps := k.warps.trans h.warps
  clusters := k.clusters.trans h.clusters
  launch := k.launch.trans h.launch
  regs := k.regs.trans h.regs
  mem := k.mem.trans h.mem
  peer := k.peer.trans h.peer
  host := k.host.trans h.host
  pois := k.pois.trans h.pois

theorem State.KeepsRest.countIssue (s : State) (i : Instr) : s.KeepsRest (s.countIssue i s.cur.tids) := by
  rw [State.countIssue_eq]
  exact ⟨rfl, rfl, rfl, rfl, rfl, rfl, rfl, rfl, rfl⟩

theorem State.KeepsRest.reg {s t : State} (h : s.KeepsRest t) (o : Nat) : t.reg o = s.reg o := by rw [State.reg, State.reg, h.regs]

theorem State.KeepsRest.keepsStorage {s t : State} (h : s.KeepsRest t) (hwgs : t.c.wgs = s.c.wgs)
    (hthr : ∀ k, t.thread k = (s.thread k).control (t.thread k)) : s.KeepsStorage t :=
  ⟨h.warps, hwgs, h.clusters, h.launch, h.regs, h.mem, h.peer, h.host, h.pois, hthr⟩

/-- One thread's instruction whose body leaves every thread as it was counted: the thread goes on, and the rest is the body's. -/
theorem State.run_solo_next (s : State) (i : Instr) (body : Body) (n : Nat) (u : State) (h : s.solo i n = true)
    (hb : body (s.countIssue i s.cur.tids) [n] = (u, [])) (hthr : ∀ k, u.thread? k = (s.countIssue i s.cur.tids).thread? k) :
    ∃ t, s.run i body = .next t ∧ t = { u with free := t.free, c := { u.c with threads := t.c.threads } } ∧
      (∀ k, t.thread k = (s.thread k).control (t.thread k)) ∧ s.Advances t i := by
  obtain ⟨-, -, hcur⟩ := s.solo_clean i n h
  refine ⟨s.runBundle i body, rfl, ?_⟩
  have hrun := s.runBundle_solo i body n h
  rw [← hcur] at hrun
  rw [hcur] at hb
  rw [hcur, hb] at hrun
  simp only [List.find?_nil, Option.elim_none, State.finish_next] at hrun
  obtain ⟨f, hf, hfe, -⟩ := State.splitBundle_eq (State.modThread { u with free := u.free + 1 } n (Thread.onward { u with free := u.free + 1 } i)) [n]
  rw [hf] at hrun
  have hthread : ∀ k, (s.runBundle i body).thread? k = (s.thread? k).map fun t =>
      f (if k = n then (s.counted i t).onward { u with free := u.free + 1 } i else t) := by
    intro k
    rw [hrun, State.thread?_setThreads_map _ _ (fun t => by rw [hfe]), State.thread?_modThread _ _ _ (Thread.onward_tid _ i)]
    change ((u.thread? k).map _).map f = _
    rw [hthr, s.thread?_countIssue, hcur]
    cases s.thread? k with
    | none => rfl
    | some t => by_cases hk : k = n <;> simp [hk]
  refine ⟨by rw [hrun]; rfl, fun k => ?_, fun k hk hs => ?_⟩
  · unfold State.thread
    rw [hthread]
    cases s.thread? k with
    | none => rfl
    | some t =>
      simp only [Option.map_some, Option.getD_some]
      rw [hfe]
      split
      · rw [Thread.onward_control]; rfl
      · rfl
  · obtain rfl : k = n := by simpa [hcur] using hk
    unfold State.thread
    rw [hthread]
    cases hq : s.thread? k with
    | none => simp [hq] at hs
    | some t =>
      simp only [Option.map_some, Option.getD_some, if_true]
      rw [hfe]
      exact ⟨Thread.onward_park _ _ _, Thread.onward_wait _ _ _, fun hl => Thread.onward_pc _ i (s.counted i t) hl⟩

/-! ### Results on their way -/

/-- A result adds one entry for each destination, with its value. -/
theorem State.result_sends (s : State) (ts : List Nat) (d : Opnd) (f : Nat → Word) :
    ∃ ps : List Pend, s.result ts d f = s.addPend ps ∧ ps.map (fun p => (p.dst, p.val)) = s.valuesAt ts d f :=
  ⟨_, rfl, by simp [State.valuesAt]⟩

@[simp] theorem State.valuesAt_addPend (s : State) (ps : List Pend) (ts : List Nat) (d : Opnd) (f : Nat → Word) :
    (s.addPend ps).valuesAt ts d f = s.valuesAt ts d f := by
  cases d <;> rfl

theorem State.SameOperands.valuesAt {s t : State} (h : s.SameOperands t) (ts : List Nat) (d : Opnd) (f : Nat → Word) :
    t.valuesAt ts d f = s.valuesAt ts d f := by
  rw [State.valuesAt, State.valuesAt, h.targets]

/-- A number of up to 16 bytes goes to a register, or to a pair when it has 16 (R183, R185). -/
theorem State.pairResult_sends (s : State) (n m : Nat) (d : Opnd) (v : Nat) :
    ∃ ps : List Pend,
      (if m == 16 then (s.result [n] d fun _ => BitVec.ofNat 64 v).result [n] d.succ fun _ => BitVec.ofNat 64 (v / 2 ^ 64)
        else s.result [n] d fun _ => BitVec.ofNat 64 v) = s.addPend ps ∧
      ps.map (fun p => (p.dst, p.val)) = s.valuesAt [n] d (fun _ => BitVec.ofNat 64 v) ++
        if m = 16 then s.valuesAt [n] d.succ (fun _ => BitVec.ofNat 64 (v / 2 ^ 64)) else [] := by
  obtain ⟨p1, h1, hv1⟩ := s.result_sends [n] d fun _ => BitVec.ofNat 64 v
  rw [h1]
  by_cases hm : m = 16
  · obtain ⟨p2, h2, hv2⟩ := (s.addPend p1).result_sends [n] d.succ fun _ => BitVec.ofNat 64 (v / 2 ^ 64)
    refine ⟨p1 ++ p2, ?_, ?_⟩
    · rw [if_pos (by simpa using hm), h2]
      simp only [State.addPend, State.setPend, List.append_assoc]
    · rw [if_pos hm, List.map_append, hv1, hv2, State.valuesAt_addPend]
  · exact ⟨p1, by rw [if_neg (by simpa using hm)], by rw [if_neg hm, hv1, List.append_nil]⟩

end Sys2Proof.Machine
end

section
/-! PROOFS. Scratch accesses of one thread (R17, R174, R183 to R188) while no debug register is set up: the checks and the wait of the common body, a
window read and written, and the operation of the scratch atomic unit. -/

namespace Sys2Proof.Machine
open Sys2Proof

/-- A fold whose every step leaves the state alone ends in it. -/
theorem foldl_stays {α β : Type} (f : α → β → α) (a : α) (l : List β) (h : ∀ b ∈ l, f a b = a) : l.foldl f a = a := by
  induction l with
  | nil => rfl
  | cons b l ih => rw [List.foldl_cons, h b (by simp), ih fun c hc => h c (by simp [hc])]

/-! ### No watchpoint, no sample, no log -/

/-- The debug registers of the units, the cores and the sampling counts reset to zero, and DBG_RPCTL does (R465). -/
theorem regReset_debug (o : Nat) (h : 0x100000 ≤ o ∧ o < 0x13C100 ∨ 0x13C1C0 ≤ o ∧ o < 0x142000) : regReset o = 0 := by
  simp only [regReset, rPwr, rHomeCfg, rFabCfg, rFabWbcap, beq_iff_eq]
  iterate 9 rw [if_neg (by omega)]

theorem State.debugIdle.reg_eq_zero {s : State} (h : s.debugIdle) (o : Nat) (ho : 0x100000 ≤ o ∧ o < 0x13C100 ∨ 0x13C1C0 ≤ o ∧ o < 0x142000) :
    s.reg o = 0 := (h.1 o (by omega)).trans (regReset_debug o ho)

/-- The scratch watchpoints of a core stand at zero. -/
def State.unwatched (s : State) (core : Nat) : Prop := ∀ m < 4, s.reg (rSwp core m) = 0

theorem State.debugIdle.unwatched {s : State} (h : s.debugIdle) (core : Nat) (hc : core < 192) : s.unwatched core := by
  intro m hm
  exact h.reg_eq_zero _ (by unfold rSwp; omega)

/-- R440: a core whose watchpoints are off sees no scratch access. -/
theorem State.swatch_unwatched (s : State) (old new : Wg) (src : Src) (ak off n : Nat) (h : s.unwatched old.core) :
    s.swatch old new src ak off n = s := by
  unfold State.swatch
  refine foldl_stays _ _ _ fun m hm => ?_
  simp [h m (by simpa using hm), slice]

/-- The issuing unit has counted an issue that may be sampled (R452). -/
def State.unitCounted (s : State) : State := s.setUnit { s.unit s.cur.unit with cnt := (s.unit s.cur.unit).cnt + 1 }

/-- The state in which a load-store instruction makes its accesses when its issue is not sampled. -/
def State.accessStart (s : State) : State := s.unitCounted.newId

theorem State.KeepsRest.accessStart (s : State) : s.KeepsRest s.accessStart := ⟨rfl, rfl, rfl, rfl, rfl, rfl, rfl, rfl, rfl⟩

theorem State.SameOperands.accessStart {s t : State} (h : s.SameOperands t) : s.SameOperands t.accessStart :=
  ⟨h.pend, h.free, h.warps, h.regs, h.snaps⟩

/-- R452: with no mark on a warp and no period set, an issue is not sampled. -/
theorem State.sampleTake_idle (s : State) (ts : List Nat) (hw : ∀ w ∈ s.c.warps, w.smpl = none) (hp : s.reg (rSctl s.cur.unit) = 0) :
    s.sampleTake ts = (s.unitCounted, none) := by
  have hmark : ((ts.map widOf).dedup.findSome? fun w => (s.warp? w).bind (·.smpl)) = none := by
    rw [List.findSome?_eq_none_iff]
    intro w _
    cases hq : s.warp? w with
    | none => rfl
    | some q => exact hw q (List.mem_of_find?_eq_some hq)
  have hwarps : (s.c.warps.map fun w => if (ts.map widOf).dedup.contains w.wid then { w with smpl := none } else w) = s.c.warps :=
    (List.map_congr_left fun w hm => by
      split
      · rw [← hw w hm]
        rfl
      · rfl).trans (List.map_id _)
  have hper : s.fld (rSctl s.cur.unit) 15 0 = 0 := by simp [State.fld, hp, slice]
  unfold State.sampleTake
  simp only [hmark, hwarps, hper]
  rfl

theorem State.debugIdle.notSampled {s : State} (h : s.debugIdle) (hu : s.cur.unit < 960) : s.reg (rSctl s.cur.unit) = 0 :=
  h.reg_eq_zero _ (by unfold rSctl; omega)

/-- The virtual watchpoints see no access of scratch (R439). -/
theorem State.watchIssue_nil (s : State) (ak : Nat) : s.watchIssue ak [] = s := by
  simp [State.watchIssue, State.vwatchAll, State.setThreads]

/-- Neither recorded nor replayed (R459, R461): an event keeps its value and the order log stands. -/
theorem State.logged_idle (s : State) (h : s.reg rRpctl = 0) (tid kind : Nat) (v : Word) : s.logged tid kind v = v := by
  have hrep : ∀ a, s.replaying a = false := by intro a; simp [State.replaying, State.fld, h, slice]
  unfold State.logged
  cases s.regionOf tid <;> simp [hrep]

theorem State.logOf_idle (s : State) (h : s.reg rRpctl = 0) (tid kind : Nat) (v : Word) : s.logOf tid kind v = s := by
  unfold State.logOf State.orderLog State.replaying State.fld
  cases s.regionOf tid <;> simp [h, slice]

/-! ### The plan of a scratch access -/

/-- An access of memory has no plan in a window. -/
theorem State.planGv_ne_scr (s : State) (q : Ask) (n ea key off m fmt : Nat) (blk : List Nat) (sl : List (Nat × Nat)) :
    s.planGv q n ea ≠ .scr key off m fmt blk sl := by
  unfold State.planGv
  dsimp only
  repeat' split
  all_goals simp

/-- The plan of a scratch access depends on warps, windows and clusters alone. -/
theorem State.planScr_congr {s t : State} (hw : t.c.warps = s.c.warps) (hg : t.c.wgs = s.c.wgs) (hc : t.c.clusters = s.c.clusters)
    (q : Ask) (n ea : Nat) : t.planScr q n ea = s.planScr q n ea := by
  unfold State.planScr State.window State.windowOf State.wgOf State.warp? State.wg?
  rw [hw, hg, hc]

/-- A plan in a window: the access names scratch. -/
theorem State.plan_scr (s : State) (q : Ask) (n ea key off m : Nat) (h : s.plan q n ea = .scr key off m 0 [] []) :
    q.sp ≠ .gv ∧ s.planScr q n ea = .scr key off m 0 [] [] := by
  unfold State.plan at h
  split at h
  · exact absurd h (s.planGv_ne_scr _ _ _ _ _ _ _ _ _)
  · rename_i hsp
    exact ⟨by simpa using hsp, h⟩

theorem State.plan_countIssue (s : State) (i : Instr) (q : Ask) (n ea key off m : Nat) (h : s.plan q n ea = .scr key off m 0 [] []) :
    (s.countIssue i s.cur.tids).plan q n ea = .scr key off m 0 [] [] := by
  obtain ⟨hsp, hplan⟩ := s.plan_scr q n ea key off m h
  have hk := State.KeepsRest.countIssue s i
  unfold State.plan
  rw [if_neg (by simpa using hsp), State.planScr_congr hk.warps (by rw [State.countIssue_eq]) hk.clusters, hplan]

/-! ### The common body -/

/-- What a thread's next access waits for does not come from the count of its issue. -/
theorem State.unheld_countIssue (s : State) (i : Instr) (n : Nat) (h : s.unheld n) : (s.countIssue i s.cur.tids).unheld n := by
  obtain ⟨hacq, hf, hrows⟩ := h
  refine ⟨?_, by rw [State.thread_countIssue]; exact hf, by rw [State.countIssue_eq]; exact hrows⟩
  rw [← hacq, State.countIssue_eq]
  rfl

theorem State.busy_countIssue (s : State) (i : Instr) (n : Nat) : (s.countIssue i s.cur.tids).busy n = s.busy n := by
  have hops : (s.countIssue i s.cur.tids).m.ops = s.m.ops := by rw [State.countIssue_eq]
  have hsp : ((s.countIssue i s.cur.tids).thread n).spilled = (s.thread n).spilled := by rw [State.thread_countIssue]; rfl
  rw [State.busy, State.busy, hops, hsp]

theorem memWait_scr (q : Ask) (s : State) (n key off m : Nat) (hu : s.unheld n) (hb : q.need.atomic = true → s.busy n = false) :
    memWait q false s [(n, .scr key off m 0 [] [])] = none := by
  obtain ⟨hacq, hf, hrows⟩ := hu
  have hrow : s.rowBlocks n (.scr key off m 0 [] []) = false := by
    simp only [State.rowBlocks, List.any_eq_false]
    intro j hj
    simpa using hrows j hj
  have hat : (q.need.atomic && s.busy n) = false := by
    cases hq : q.need.atomic
    · rfl
    · rw [hb hq]; rfl
  simp [memWait, hacq, hf, hrow, State.fenceIds, Plan.ordered, hat]

/-- The sets of an issue that join older requests: a change of the collector's queue and its waits only. -/
theorem State.joinOlder_eq (s : State) (since : Nat) : ∃ q w, s.joinOlder since = { s with m := { s.m with colQ := q, waits := w } } := by
  unfold State.joinOlder
  dsimp only
  generalize s.m.colQ.filter _ = l
  induction l generalizing s with
  | nil => exact ⟨_, _, rfl⟩
  | cons r l ih =>
    rw [List.foldl_cons]
    split
    · obtain ⟨q, w, h⟩ := ih (State.addWait (State.setColQ s _) _)
      exact ⟨q, w, h⟩
    · exact ih s

/-- The body of a load-store instruction that makes one scratch access. -/
theorem memBody_scr (q : Ask) (ea : State → Nat → Nat) (go : Nat → List (Nat × Plan) → State → Nat → Plan → State × Option FaultInfo)
    (s u : State) (n key off m : Nat) (hplan : s.plan q n (ea s n) = .scr key off m 0 [] [])
    (hwait : memWait q false s [(n, .scr key off m 0 [] [])] = none) (hw : ∀ w ∈ s.c.warps, w.smpl = none) (hp : s.reg (rSctl s.cur.unit) = 0)
    (hgo : go s.m.nextId [(n, .scr key off m 0 [] [])] s.accessStart n (.scr key off m 0 [] []) = (u, none)) :
    memBody q false ea go s [n] = (u.joinOlder s.m.nextId, []) := by
  have hsp := (s.plan_scr q n _ key off m hplan).1
  have hlanes : q.lanes (ea s) [(n, .scr key off m 0 [] [])] = [] := by simp [Ask.lanes, hsp]
  unfold memBody
  simp only [List.map_cons, List.map_nil, hplan, hwait, s.sampleTake_idle [n] hw hp, hlanes, State.watchIssue_nil, List.foldl_cons, List.foldl_nil]
  rw [show s.unitCounted.newId = s.accessStart from rfl, show s.unitCounted.m.nextId = s.m.nextId from rfl, hgo]
  rfl

/-! ### Windows -/

theorem memPutMask_ones (n : Nat) : ∀ (m : List Cell) (a x : Nat), memPutMask m a (2 ^ n - 1) n x = memPut m a n x := by
  induction n with
  | zero => intro m a x; rfl
  | succ n ih =>
    intro m a x
    have hpos : 0 < 2 ^ n := by positivity
    have hodd : ((2 ^ (n + 1) - 1) % 2 == 1) = true := by rw [beq_iff_eq, pow_succ]; omega
    have hhalf : (2 ^ (n + 1) - 1) / 2 = 2 ^ n - 1 := by rw [pow_succ]; omega
    rw [memPutMask, if_pos hodd, hhalf, ih, memPut]

/-- The workgroups after a window of one of them has changed. -/
def withWindow (gs : List Wg) (key : Nat) (g : Wg) (scr : List Cell) : List Wg := gs.map fun h => if h.key = key then { g with scr := scr } else h

theorem State.scrRead_unwatched (s : State) (key : Nat) (src : Src) (ak off n : Nat) (g : Wg) (hg : s.wg? key = some g) (h : s.unwatched g.core) :
    s.scrRead key src ak off n = (s, memNat g.scr off n) := by
  simp only [State.scrRead, hg, s.swatch_unwatched g g src ak off n h]

theorem State.scrWrite_unwatched (s : State) (key : Nat) (src : Src) (ak off n v : Nat) (g : Wg) (hg : s.wg? key = some g) (h : s.unwatched g.core) :
    s.scrWrite key src ak off n v = s.setWgs (withWindow s.c.wgs key g (memPut g.scr off n v)) := by
  simp only [State.scrWrite, State.scrWriteMask, hg, memPutMask_ones]
  refine (State.swatch_unwatched (s.modWg key _) g _ src ak off n h).trans ?_
  simp only [State.modWg, withWindow, beq_iff_eq]

/-- A window written with the bytes that it holds: the workgroups stand. -/
theorem withWindow_self (s : State) (key : Nat) (g : Wg) (hg : s.wg? key = some g) (hn : (s.c.wgs.map (·.key)).Nodup) :
    withWindow s.c.wgs key g g.scr = s.c.wgs := by
  have hmem := List.mem_of_find?_eq_some hg
  have hkey : g.key = key := by simpa using List.find?_some hg
  refine (List.map_congr_left fun h hh => ?_).trans (List.map_id _)
  split
  · rename_i hk
    exact List.inj_on_of_nodup_map hn hmem hh (hkey.trans hk.symm)
  · rfl

/-- The scratch atomic unit (R174, R175): it answers what the operation receives, and the word takes the new value if there is one. -/
theorem State.scrAtomic_unwatched (s : State) (key : Nat) (src : Src) (off n : Nat) (f : Nat → Nat × Option Nat) (g : Wg) (hg : s.wg? key = some g)
    (h : s.unwatched g.core) (hn : (s.c.wgs.map (·.key)).Nodup) (hwf : Memory.wf g.scr = true) :
    ∃ scr, s.scrAtomic key src off n f = (s.setWgs (withWindow s.c.wgs key g scr), (f (memNat g.scr off n)).1) ∧
      ∀ a, (memGet scr a).toNat = if off ≤ a ∧ a < off + n then byteOf ((f (memNat g.scr off n)).2.getD (memNat g.scr off n)) (a - off)
        else (memGet g.scr a).toNat := by
  simp only [State.scrAtomic, hg]
  cases (f (memNat g.scr off n)).2 with
  | some x => exact ⟨_, by simp only [s.scrWrite_unwatched key src akAtomic off n x g hg h], fun a => memGet_memPut g.scr off n x a hwf⟩
  | none =>
    refine ⟨g.scr, ?_, fun a => ?_⟩
    · simp only [s.swatch_unwatched g g src akAtomic off n h, withWindow_self s key g hg hn]
      rfl
    · split
      · rename_i ha
        rw [Option.getD_none, byteOf_memNat _ _ _ _ (by omega), Nat.add_sub_cancel' ha.1]
      · rfl

end Sys2Proof.Machine
end

section
/-! PROOFS. The scratch statements (O28): a thread's load, store and atomic, each from the state in which the common body lets it act. -/

namespace Sys2Proof.Machine
open Sys2Proof

/-! ### The state in which the lane acts -/

/-- The state in which the one lane of an instruction acts on its window. -/
def State.scrStart (s : State) (i : Instr) : State := (s.countIssue i s.cur.tids).accessStart

theorem State.KeepsRest.scrStart (s : State) (i : Instr) : s.KeepsRest (s.scrStart i) :=
  (State.KeepsRest.countIssue s i).trans (State.KeepsRest.accessStart _)

theorem State.SameOperands.scrStart (s : State) (i : Instr) : s.SameOperands (s.scrStart i) := (State.SameOperands.countIssue s i).accessStart

theorem State.scrStart_wgs (s : State) (i : Instr) : (s.scrStart i).c.wgs = s.c.wgs := by
  change (s.countIssue i s.cur.tids).c.wgs = _
  rw [State.countIssue_eq]

theorem State.scrStart_wg? (s : State) (i : Instr) (key : Nat) : (s.scrStart i).wg? key = s.wg? key := by
  rw [State.wg?, State.wg?, State.scrStart_wgs]

theorem State.scrStart_lagging (s : State) (i : Instr) : (s.scrStart i).lagging = s.lagging := by
  change (s.countIssue i s.cur.tids).lagging = _
  rw [State.countIssue_eq]
  rfl

/-- Threads that look up the same, in whatever list, give the same operands. -/
theorem State.SameOperands.setThreads {s : State} {ts : List Thread} (h : ∀ k, (s.setThreads ts).thread? k = s.thread? k) :
    s.SameOperands (s.setThreads ts) where
  pend := rfl
  free := rfl
  warps := rfl
  regs n := by rw [State.thread, h, ← State.thread]; rfl
  snaps n := by rw [State.thread, h, ← State.thread]; exact ⟨rfl, rfl⟩

/-- A raw access draws nothing (R154, R160): every thread looks up the same. -/
theorem State.takeDraws_zero (s : State) (n : Nat) (rm : Rm) :
    ∃ ts, (s.takeDraws n rm 0).1 = s.setThreads ts ∧ ∀ k, (s.setThreads ts).thread? k = s.thread? k := by
  unfold State.takeDraws
  split
  · refine ⟨_, rfl, fun k => ?_⟩
    refine (s.thread?_modThread n (fun t => { t with rseed := (s.thread n).rseed }) (fun _ => rfl) k).trans ?_
    cases hq : s.thread? k with
    | none => rfl
    | some t =>
      simp only [Option.map_some]
      split
      · rename_i hk
        rw [State.thread, ← hk, hq]
        rfl
      · rfl
  · exact ⟨s.c.threads, rfl, fun k => rfl⟩

/-- What the scratch statements share: one thread executes, nothing holds its access back, no debug register acts, and the access is a raw one of a
workgroup's window. -/
structure ScrIssue (s : State) (i : Instr) (q : Ask) (ea : State → Nat → Nat) (n key off m : Nat) (g : Wg) : Prop where
  solo : s.solo i n = true
  idle : s.debugIdle
  seated : s.seated
  unheld : s.unheld n
  done : q.need.atomic = true → s.busy n = false
  addr : ∀ t, s.SameOperands t → ea t n = ea s n
  window : s.wg? key = some g
  plan : s.plan q n (ea s n) = .scr key off m 0 [] []

section
variable {s : State} {i : Instr} {q : Ask} {ea : State → Nat → Nat} {n key off m : Nat} {g : Wg}

theorem ScrIssue.start_window (h : ScrIssue s i q ea n key off m g) : (s.scrStart i).wg? key = some g :=
  (s.scrStart_wg? i key).trans h.window

theorem ScrIssue.start_unwatched (h : ScrIssue s i q ea n key off m g) : (s.scrStart i).unwatched g.core := by
  obtain ⟨_, _, hcore⟩ := h.seated
  intro k hk
  rw [(State.KeepsRest.scrStart s i).reg]
  exact h.idle.unwatched g.core (hcore g (List.mem_of_find?_eq_some h.window)) k hk

/-- R459, R461: no record and no replay. -/
theorem ScrIssue.start_unlogged (h : ScrIssue s i q ea n key off m g) : (s.scrStart i).reg rRpctl = 0 := by
  rw [(State.KeepsRest.scrStart s i).reg]
  exact h.idle.reg_eq_zero _ (by decide)

/-- The instruction, once its lane's act is known: the thread goes on, and results and windows are those of the act. -/
theorem ScrIssue.run (h : ScrIssue s i q ea n key off m g)
    (go : Nat → List (Nat × Plan) → State → Nat → Plan → State × Option FaultInfo) (u : State)
    (hgo : ∀ since, go since [(n, .scr key off m 0 [] [])] (s.scrStart i) n (.scr key off m 0 [] []) = (u, none))
    (hrest : (s.scrStart i).KeepsRest u) (hthr : ∀ k, u.thread? k = (s.scrStart i).thread? k) :
    ∃ t, s.run i (memBody q false ea go) = .next t ∧ t.c.pend = u.c.pend ∧ t.c.wgs = u.c.wgs ∧ s.KeepsRest t ∧
      (∀ k, t.thread k = (s.thread k).control (t.thread k)) ∧ s.Advances t i := by
  have hk := State.KeepsRest.countIssue s i
  obtain ⟨hunit, _, _⟩ := h.seated
  obtain ⟨_, hsmpl, _⟩ := h.idle
  have hea := h.addr _ (State.SameOperands.countIssue s i)
  have hbody := memBody_scr q ea go (s.countIssue i s.cur.tids) u n key off m (hea ▸ s.plan_countIssue i q n _ key off m h.plan)
    (memWait_scr q _ n key off m (s.unheld_countIssue i n h.unheld) fun ha => (s.busy_countIssue i n).trans (h.done ha))
    (by rw [hk.warps]; exact hsmpl) (by rw [hk.reg, hk.cur]; exact h.idle.notSampled hunit) (hgo _)
  obtain ⟨cq, w, hj⟩ := u.joinOlder_eq (s.countIssue i s.cur.tids).m.nextId
  rw [hj] at hbody
  obtain ⟨t, hrun, ht, hctl, hadv⟩ := s.run_solo_next i _ n _ h.solo hbody hthr
  have hut : u.KeepsRest t := by rw [ht]; exact ⟨rfl, rfl, rfl, rfl, rfl, rfl, rfl, rfl, rfl⟩
  exact ⟨t, hrun, by rw [ht], by rw [ht], ((State.KeepsRest.scrStart s i).trans hrest).trans hut, hctl, hadv⟩

/-! ### Loads and stores -/

/-- R183: a raw load of a window sends its bytes and nothing else. -/
theorem ScrIssue.load {l : LdSt} (h : ScrIssue s i (LdSt.ask l false) ea n key off m g) (hlag : s.lagging = false) (d : Opnd) :
    ∃ t, s.run i (memBody (LdSt.ask l false) false ea (loadLane l d)) = .next t ∧ s.KeepsStorage t ∧ s.Advances t i ∧
      s.Sends t (s.valuesAt [n] d (fun _ => BitVec.ofNat 64 (memNat g.scr off m)) ++
        if m = 16 then s.valuesAt [n] d.succ (fun _ => BitVec.ofNat 64 (memNat g.scr off m / 2 ^ 64)) else []) := by
  have hsame := State.SameOperands.scrStart s i
  obtain ⟨ts, hdraw, hthr⟩ := (s.scrStart i).takeDraws_zero n l.rm
  have hread := ((s.scrStart i).setThreads ts).scrRead_unwatched key ⟨n, (s.scrStart i).cur.pc, 0⟩ akRead off m g h.start_window h.start_unwatched
  obtain ⟨ps, hps, hvals⟩ := ((s.scrStart i).setThreads ts).pairResult_sends n m d (memNat g.scr off m)
  obtain ⟨t, hrun, hpend, hwgs, hrest, hctl, hadv⟩ := h.run (loadLane l d) (((s.scrStart i).setThreads ts).addPend ps)
    (fun since => by
      rw [← hps]
      simp only [loadLane, beq_self_eq_true, if_true, hdraw, s.scrStart_lagging, hlag, Bool.false_and, Bool.false_eq_true, if_false,
        State.readScrSlots, List.foldl_nil, hread])
    ⟨rfl, rfl, rfl, rfl, rfl, rfl, rfl, rfl, rfl⟩ hthr
  refine ⟨t, hrun, hrest.keepsStorage (hwgs.trans (s.scrStart_wgs i)) hctl, hadv, ps, hpend.trans ?_, ?_⟩
  · exact congrArg (· ++ ps) hsame.pend
  · simp only [hvals, (State.SameOperands.setThreads hthr).valuesAt, hsame.valuesAt]

/-- R184: a raw store of a window writes its bytes and nothing else. -/
theorem ScrIssue.store {l : LdSt} (h : ScrIssue s i (LdSt.ask l true) ea n key off m g) (hlag : s.lagging = false) (c : Opnd) :
    ∃ t, s.run i (memBody (LdSt.ask l true) false ea (storeLane l c)) = .next t ∧ t.c.pend = s.c.pend ∧
      t.c.wgs = withWindow s.c.wgs key g (memPut g.scr off m (s.data n c (m == 16))) ∧ s.KeepsRest t ∧
      (∀ k, t.thread k = (s.thread k).control (t.thread k)) ∧ s.Advances t i := by
  have hsame := State.SameOperands.scrStart s i
  have hdata : (s.scrStart i).data n c (m == 16) = s.data n c (m == 16) := by simp only [State.data, hsame.opnd]
  obtain ⟨ts, hdraw, hthr⟩ := (s.scrStart i).takeDraws_zero n l.rm
  have hwrite := ((s.scrStart i).setThreads ts).scrWrite_unwatched key ⟨n, (s.scrStart i).cur.pc, 0⟩ akWrite off m (s.data n c (m == 16)) g
    h.start_window h.start_unwatched
  obtain ⟨t, hrun, hpend, hwgs, hrest, hctl, hadv⟩ := h.run (storeLane l c)
    (((s.scrStart i).setThreads ts).setWgs (withWindow (s.scrStart i).c.wgs key g (memPut g.scr off m (s.data n c (m == 16)))))
    (fun since => by
      simp only [storeLane, beq_self_eq_true, if_true, hdraw, s.scrStart_lagging, hlag, Bool.false_and, Bool.false_eq_true, if_false,
        State.readScrSlots, List.foldl_nil, hdata, hwrite, State.setThreads_c])
    ⟨rfl, rfl, rfl, rfl, rfl, rfl, rfl, rfl, rfl⟩ hthr
  exact ⟨t, hrun, hpend.trans hsame.pend, hwgs.trans (by rw [← s.scrStart_wgs i]; rfl), hrest, hctl, hadv⟩

/-! ### Atomics -/

/-- R185, R188: an atomic of a window puts the new value, if there is one, into its word, and sends the value received unless `nr` is set. -/
theorem ScrIssue.atomic (h : ScrIssue s i q ea n key off m g) (hn : (s.c.wgs.map (·.key)).Nodup) (hwf : Memory.wf g.scr = true)
    (b : Nat) (op : ReqOp) (d : Opnd) (nr : Bool) (sc : Sc) (ord : MOrd) (hint : Hint) (e c : State → Nat → Nat)
    (f : List (Nat × Plan) → State → Nat → Nat → Nat → Nat → Nat × Option Nat) (r : Nat × Option Nat)
    (hr : f [(n, .scr key off m 0 [] [])] (s.scrStart i) n key off (memNat g.scr off b) = r) :
    ∃ t scr, s.run i (memBody q false ea (atomLane b op d nr sc ord hint e c f)) = .next t ∧ s.KeepsRest t ∧ s.Advances t i ∧
      (∀ k, t.thread k = (s.thread k).control (t.thread k)) ∧
      s.Sends t (if nr then [] else s.valuesAt [n] d (fun _ => BitVec.ofNat 64 r.1) ++
        if b = 16 then s.valuesAt [n] d.succ (fun _ => BitVec.ofNat 64 (r.1 / 2 ^ 64)) else []) ∧
      t.c.wgs = withWindow s.c.wgs key g scr ∧
      ∀ a, (memGet scr a).toNat = if off ≤ a ∧ a < off + b then byteOf (r.2.getD (memNat g.scr off b)) (a - off) else (memGet g.scr a).toNat := by
  have hsame := State.SameOperands.scrStart s i
  obtain ⟨scr, hact, hbytes⟩ := (s.scrStart i).scrAtomic_unwatched key ⟨n, (s.scrStart i).cur.pc, 0⟩ off b
    (f [(n, .scr key off m 0 [] [])] (s.scrStart i) n key off) g h.start_window h.start_unwatched (by rw [s.scrStart_wgs]; exact hn) hwf
  rw [hr] at hact hbytes
  obtain ⟨u, hu⟩ : ∃ u, u = (s.scrStart i).setWgs (withWindow (s.scrStart i).c.wgs key g scr) := ⟨_, rfl⟩
  rw [← hu] at hact
  have hlog : u.reg rRpctl = 0 := by rw [hu]; exact h.start_unlogged
  obtain ⟨ps, hps, hvals⟩ := u.pairResult_sends n b d r.1
  have hgo : ∀ since, atomLane b op d nr sc ord hint e c f since [(n, .scr key off m 0 [] [])] (s.scrStart i) n (.scr key off m 0 [] []) =
      (u.addPend (if nr then [] else ps), none) := by
    intro since
    cases nr
    · simp only [atomLane, hact, u.logged_idle hlog, u.logOf_idle hlog, Bool.false_eq_true, if_false, ← hps]
    · simp only [atomLane, hact, if_true, State.addPend, List.append_nil]
      rfl
  obtain ⟨t, hrun, hpend, hwgs, hrest, hctl, hadv⟩ := h.run _ _ hgo (by rw [hu]; exact ⟨rfl, rfl, rfl, rfl, rfl, rfl, rfl, rfl, rfl⟩)
    (by rw [hu]; exact fun k => rfl)
  have hwindow : t.c.wgs = withWindow s.c.wgs key g scr := by
    rw [hwgs, hu]
    exact congrArg (withWindow · key g scr) (s.scrStart_wgs i)
  have hvalues : ∀ o v, u.valuesAt [n] o v = s.valuesAt [n] o v := by
    intro o v
    rw [← hsame.valuesAt, hu]
    cases o <;> rfl
  refine ⟨t, scr, hrun, hrest, hadv, hctl, ⟨if nr then [] else ps, ?_, ?_⟩, hwindow, hbytes⟩
  · rw [hpend, hu, ← hsame.pend]
    rfl
  · cases nr
    · simp only [Bool.false_eq_true, if_false, hvals, hvalues]
    · rfl

end

/-! ### The statements -/

theorem LdStForm.addr {i : Instr} {l : LdSt} {o : Opnd} {st : Bool} {ea : State → Nat → Nat} (h : LdStForm i l o st ea) {s t : State}
    (hs : s.SameOperands t) (n : Nat) : ea t n = ea s n := by
  cases h <;> simp only [State.ea2, M128A.ea, State.ea3, hs.opnd]

theorem M128A.eaI_congr (x : M128A) {s t : State} (hs : s.SameOperands t) (n : Nat) : M128A.eaI x t n = M128A.eaI x s n := by
  simp only [M128A.eaI, State.ea3, hs.opnd]

theorem LdStForm.exec_load {i : Instr} {l : LdSt} {o : Opnd} {ea : State → Nat → Nat} (h : LdStForm i l o false ea) (s : State) :
    exec i s = s.run i (memBody (LdSt.ask l false) false ea (loadLane l o)) := by cases h <;> rfl

theorem LdStForm.exec_store {i : Instr} {l : LdSt} {o : Opnd} {ea : State → Nat → Nat} (h : LdStForm i l o true ea) (s : State) :
    exec i s = s.run i (memBody (LdSt.ask l true) false ea (storeLane l o)) := by cases h <;> rfl

/-- A pair of registers or a register as the statements write it. -/
theorem State.data_eq (s : State) (n : Nat) (o : Opnd) (m : Nat) :
    s.data n o (m == 16) = (s.opnd n o).toNat + if m = 16 then 2 ^ 64 * (s.opnd n o.succ).toNat else 0 := by
  simp only [State.data, beq_iff_eq]

/-- The loads and stores of O28. -/
theorem scratchLoadsAndStores : ScratchLoadsAndStores := by
  unfold ScratchLoadsAndStores
  intro i l o st ea s n key off m g hform hsolo hidle hseated hunheld hlag hq hg hplan
  have hissue : ScrIssue s i (LdSt.ask l st) ea n key off m g :=
    ⟨hsolo, hidle, hseated, hunheld, by cases st <;> intro h <;> simp [LdSt.ask, Need.atomic] at h, fun t ht => hform.addr ht n, hg, hplan⟩
  have hnolag : s.lagging = false := by
    obtain ⟨_, _, hcur⟩ := s.solo_clean i n hsolo
    simp only [State.lagging, hcur, List.any_cons, List.any_nil, Bool.or_false, hlag, Bool.false_or, List.any_eq_false, beq_iff_eq]
    exact hq
  constructor
  · rintro rfl
    rw [hform.exec_load]
    exact hissue.load hnolag o
  · rintro rfl hwf
    obtain ⟨t, hrun, hpend, hwgs, hk, hctl, hadv⟩ := hissue.store hnolag o
    rw [hform.exec_store]
    rw [s.data_eq] at hwgs
    exact ⟨t, _, hrun, hadv, hpend, hk.mem, hk.peer, hk.host, hk.regs, hk.launch, hk.warps, hctl, hwgs, memPut_wf _ _ _ _ hwf,
      fun a => memGet_memPut _ _ _ _ _ hwf⟩

/-- Of one lane, nothing merges (R175): it receives the word, and the word takes the operation's result. -/
theorem scrAtom_single (op b : Nat) (comb : Bool) (e : Nat → Nat) (n key off m v : Nat) :
    scrAtom op b comb e [(n, .scr key off m 0 [] [])] key off n v = (v, some (atomNew op b v (e n))) := by
  unfold scrAtom
  cases comb <;> simp [scrMates, mergedOperand]

/-- An atomic of a window meets the shared premises, and waits for no earlier access. -/
theorem ScrIssue.of_atomic {x : M128A} {s : State} {i : Instr} {k key off m b : Nat} {g : Wg} (hsolo : s.solo i k = true) (hidle : s.debugIdle)
    (hseated : s.seated) (hunheld : s.unheld k) (hbusy : s.busy k = false) (hg : s.wg? key = some g)
    (hplan : s.plan (atomAsk x.sp b) k (M128A.eaI x s k) = .scr key off m 0 [] []) :
    ScrIssue s i (atomAsk x.sp b) (M128A.eaI x) k key off m g ∧ (x.sp == .gv && x.ord == .rel) = false := by
  have hsp : (x.sp == .gv) = false := beq_eq_false_iff_ne.2 (s.plan_scr _ _ _ _ _ _ hplan).1
  exact ⟨⟨hsolo, hidle, hseated, hunheld, fun _ => hbusy, fun _ ht => M128A.eaI_congr x ht k, hg, hplan⟩, by rw [hsp, Bool.false_and]⟩

/-- The bytes of an operand that an atomic uses (R185). -/
def M128A.atomOpnd (x : M128A) (o : Opnd) (s : State) (k : Nat) : Nat := s.data k o (szBytes x.sz == 16) % 256 ^ szBytes x.sz

theorem M128A.atomOpnd_eq (x : M128A) (o : Opnd) {s t : State} (h : s.SameOperands t) (k : Nat) :
    M128A.atomOpnd x o t k = ((s.opnd k o).toNat + if szBytes x.sz = 16 then 2 ^ 64 * (s.opnd k o.succ).toNat else 0) % 256 ^ szBytes x.sz := by
  simp only [M128A.atomOpnd, State.data, h.opnd, beq_iff_eq]

/-- What a lane of `atom` and of `cas` does to a word of scratch (R175, R188). -/
def M128A.atomAct (x : M128A) (ps : List (Nat × Plan)) (s : State) (k key off : Nat) : Nat → Nat × Option Nat :=
  scrAtom (x.opx.extractLsb' 0 4).toNat (szBytes x.sz)
    (x.opx.extractLsb' 0 4 != 10 && x.opx.extractLsb' 0 4 != 11 && x.ord == .rlx && decide (szBytes x.sz ≤ 8)) (M128A.atomOpnd x x.b s) ps key off k

def M128A.casAct (x : M128A) (_ : List (Nat × Plan)) (s : State) (k _ _ v : Nat) : Nat × Option Nat :=
  (v, if v == M128A.atomOpnd x x.b s k then some (M128A.atomOpnd x x.c s k) else none)

/-- The word after a `cas`: the new value where the old one compares equal. -/
theorem M128A.casAct_word (x : M128A) (ps : List (Nat × Plan)) (s : State) (k key off v : Nat) :
    (M128A.casAct x ps s k key off v).2.getD v = if v = M128A.atomOpnd x x.b s k then M128A.atomOpnd x x.c s k else v := by
  unfold M128A.casAct
  by_cases h : v = M128A.atomOpnd x x.b s k <;> simp [h]

theorem exec_atom (x : M128A) (s : State) :
    exec (.atom x) s = s.run (.atom x) (memBody (atomAsk x.sp (szBytes x.sz)) (x.sp == .gv && x.ord == .rel) (M128A.eaI x)
      (atomLane (szBytes x.sz) (.atom (x.opx.extractLsb' 0 4)) x.d (x.opx.getLsbD 4) x.sc x.ord x.hint (M128A.atomOpnd x x.b) (fun _ _ => 0)
        (M128A.atomAct x))) := rfl

theorem exec_cas (x : M128A) (s : State) :
    exec (.cas x) s = s.run (.cas x) (memBody (atomAsk x.sp (szBytes x.sz)) (x.sp == .gv && x.ord == .rel) (M128A.eaI x)
      (atomLane (szBytes x.sz) .cas x.d false x.sc x.ord x.hint (M128A.atomOpnd x x.c) (M128A.atomOpnd x x.b) (M128A.casAct x))) := rfl

/-- The atomics of O28. -/
theorem scratchAtomics : ScratchAtomics := by
  unfold ScratchAtomics
  refine ⟨?atom, ?cas⟩ <;> intro x s k key off m g hsolo hidle hseated hunheld hbusy hg hn hwf hplan <;>
    obtain ⟨hissue, hdrain⟩ := ScrIssue.of_atomic hsolo hidle hseated hunheld hbusy hg hplan
  case atom =>
    have hb := M128A.atomOpnd_eq x x.b (State.SameOperands.scrStart s (.atom x)) k
    have hact := scrAtom_single (x.opx.extractLsb' 0 4).toNat (szBytes x.sz)
      (x.opx.extractLsb' 0 4 != 10 && x.opx.extractLsb' 0 4 != 11 && x.ord == .rlx && decide (szBytes x.sz ≤ 8))
      (M128A.atomOpnd x x.b (s.scrStart (.atom x))) k key off m (memNat g.scr off (szBytes x.sz))
    obtain ⟨t, scr, hrun, hk, hadv, hctl, hsends, hwgs, hbytes⟩ := hissue.atomic hn hwf (szBytes x.sz) (.atom (x.opx.extractLsb' 0 4)) x.d
      (x.opx.getLsbD 4) x.sc x.ord x.hint (M128A.atomOpnd x x.b) (fun _ _ => 0) (M128A.atomAct x) _ hact
    refine ⟨t, scr, ?_, hadv, hk.mem, hk.regs, hk.launch, hk.warps, hctl, hsends, hwgs, ?_⟩
    · rw [exec_atom, hdrain, hrun]
    · rwa [hb] at hbytes
  case cas =>
    have hb := M128A.atomOpnd_eq x x.b (State.SameOperands.scrStart s (.cas x)) k
    have hc := M128A.atomOpnd_eq x x.c (State.SameOperands.scrStart s (.cas x)) k
    obtain ⟨t, scr, hrun, hk, hadv, hctl, hsends, hwgs, hbytes⟩ := hissue.atomic hn hwf (szBytes x.sz) .cas x.d
      false x.sc x.ord x.hint (M128A.atomOpnd x x.c) (M128A.atomOpnd x x.b) (M128A.casAct x) _ rfl
    refine ⟨t, scr, ?_, hadv, hk.mem, hk.regs, hk.launch, hk.warps, hctl, hsends, hwgs, ?_⟩
    · rw [exec_cas, hdrain, hrun]
    · rwa [M128A.casAct_word, hb, hc] at hbytes

/-- Settles O28: a scratch access of one thread acts at once on its window, whose other bytes stay, as every other window does. -/
theorem scratchAccesses : Obligations.ScratchAccesses := ⟨scratchLoadsAndStores, scratchAtomics⟩

end Sys2Proof.Machine
end

section
/-! PROOFS. Cutting a code word into fields and putting it together (R28, R33 to R36), and the codes of the fields (R37 to R40). -/

namespace Sys2Proof

/-! ### Fields of a word -/

/-- Each value of a list fits in the width at its place. -/
def Fits (ns xs : List Nat) : Prop := List.Forall₂ (fun n x => x < 2 ^ n) ns xs

theorem pack_lt : ∀ l : List (Nat × Nat), pack l < 2 ^ (l.map Prod.fst).sum
  | [] => by simp [pack]
  | (n, x) :: r => by
    have hx : x % 2 ^ n < 2 ^ n := Nat.mod_lt _ (Nat.two_pow_pos n)
    rw [pack, List.map_cons, List.sum_cons, Nat.pow_add]
    calc x % 2 ^ n + 2 ^ n * pack r < 2 ^ n * (pack r + 1) := by rw [Nat.mul_succ]; omega
      _ ≤ 2 ^ n * 2 ^ (r.map Prod.fst).sum := Nat.mul_le_mul_left _ (pack_lt r)

theorem unpack_fits (ns : List Nat) : ∀ w, Fits ns (unpack ns w) := by
  induction ns with
  | nil => exact fun _ => .nil
  | cons n ns ih => exact fun w => .cons (Nat.mod_lt _ (Nat.two_pow_pos n)) (ih _)

theorem unpack_pack {ns xs : List Nat} (h : Fits ns xs) : unpack ns (pack (ns.zip xs)) = xs := by
  induction h with
  | nil => rfl
  | @cons n x ns xs hx _ ih =>
    simp only [List.zip_cons_cons, pack, unpack, Nat.mod_eq_of_lt hx, Nat.add_mul_mod_self_left, Nat.add_mul_div_left _ _ (Nat.two_pow_pos n),
      Nat.div_eq_of_lt hx, Nat.zero_add, ih]

theorem pack_unpack (ns : List Nat) : ∀ w, pack (ns.zip (unpack ns w)) = w % 2 ^ ns.sum := by
  induction ns with
  | nil => intro w; simp [pack, unpack, Nat.mod_one]
  | cons n ns ih =>
    intro w
    rw [unpack, List.zip_cons_cons, pack, ih, Nat.mod_mod, List.sum_cons, Nat.pow_add, Nat.mod_mul]

/-! ### Codes of fields -/

/-- The codes of a class of field: below a bound, each read back as the value it stands for, and every value that is read has the code it was read from. -/
structure Coded {α : Type} (of : Nat → Option α) (code : α → Nat) (bound : Nat) : Prop where
  lt : ∀ a, code a < bound
  of_code : ∀ a, of (code a) = some a
  code_of : ∀ x a, of x = some a → code a = x

theorem Ty.coded : Coded Ty.ofCode Ty.code 16 :=
  ⟨fun a => by cases a <;> decide, fun a => by cases a <;> rfl, fun x a h => by unfold Ty.ofCode at h; split at h <;> cases h <;> rfl⟩
theorem Rm.coded : Coded Rm.ofCode Rm.code 8 :=
  ⟨fun a => by cases a <;> decide, fun a => by cases a <;> rfl, fun x a h => by unfold Rm.ofCode at h; split at h <;> cases h <;> rfl⟩
theorem Sat.coded : Coded Sat.ofCode Sat.code 4 :=
  ⟨fun a => by cases a <;> decide, fun a => by cases a <;> rfl, fun x a h => by unfold Sat.ofCode at h; split at h <;> cases h <;> rfl⟩
theorem Sc.coded : Coded Sc.ofCode Sc.code 8 :=
  ⟨fun a => by cases a <;> decide, fun a => by cases a <;> rfl, fun x a h => by unfold Sc.ofCode at h; split at h <;> cases h <;> rfl⟩
theorem Sz.coded : Coded Sz.ofCode Sz.code 8 :=
  ⟨fun a => by cases a <;> decide, fun a => by cases a <;> rfl, fun x a h => by unfold Sz.ofCode at h; split at h <;> cases h <;> rfl⟩
theorem Sp.coded : Coded Sp.ofCode Sp.code 4 :=
  ⟨fun a => by cases a <;> decide, fun a => by cases a <;> rfl, fun x a h => by unfold Sp.ofCode at h; split at h <;> cases h <;> rfl⟩
theorem MOrd.coded : Coded MOrd.ofCode MOrd.code 4 :=
  ⟨fun a => by cases a <;> decide, fun a => by cases a <;> rfl, fun x a h => by unfold MOrd.ofCode at h; split at h <;> cases h <;> rfl⟩
theorem Atm.coded : Coded Atm.ofCode Atm.code 4 :=
  ⟨fun a => by cases a <;> decide, fun a => by cases a <;> rfl, fun x a h => by unfold Atm.ofCode at h; split at h <;> cases h <;> rfl⟩
theorem Hint.coded : Coded Hint.ofCode Hint.code 8 :=
  ⟨fun a => by cases a <;> decide, fun a => by cases a <;> rfl, fun x a h => by unfold Hint.ofCode at h; split at h <;> cases h <;> rfl⟩

/-- The number in an operand code is its low bits. -/
theorem ofNat_add_toNat {k m : Nat} (n : BitVec k) (h : m % 2 ^ k = 0) : BitVec.ofNat k (m + n.toNat) = n :=
  BitVec.eq_of_toNat_eq (by rw [BitVec.toNat_ofNat, Nat.add_mod, h, Nat.zero_add, Nat.mod_mod, Nat.mod_eq_of_lt n.isLt])

/-- R38: the classes of an operand field have ranges of codes of their own. -/
theorem Opnd.ofCode_code (o : Opnd) : Opnd.ofCode o.code = some o := by
  cases o <;> rename_i n <;> have hn := n.isLt <;> simp only [Opnd.code] <;> unfold Opnd.ofCode
  case v => rw [if_pos (by omega), BitVec.ofNat_toNat, BitVec.setWidth_eq]
  case w => rw [if_neg (by omega), if_pos (by omega), ofNat_add_toNat n rfl]
  all_goals iterate 3 rw [if_neg (by omega)]
  case imm => rw [if_pos (by omega), ofNat_add_toNat n rfl]
  all_goals rw [if_neg (by omega)]
  case p => rw [if_pos (by omega), ofNat_add_toNat n rfl]
  all_goals rw [if_neg (by omega)]
  case k => rw [if_pos (by omega), ofNat_add_toNat n rfl]
  all_goals rw [if_neg (by omega)]
  case t => rw [if_pos (by omega), ofNat_add_toNat n rfl]
  case z => rw [if_neg (by omega), if_pos (by omega), ofNat_add_toNat n rfl]

theorem Opnd.coded : Coded Opnd.ofCode Opnd.code 1024 where
  lt o := by cases o <;> simp only [Opnd.code] <;> omega
  of_code := Opnd.ofCode_code
  code_of x o h := by
    unfold Opnd.ofCode at h
    split_ifs at h <;> cases h <;> simp only [Opnd.code, BitVec.toNat_ofNat] <;> omega

theorem Guard.code_lt (g : Guard) : g.code < 32 := by unfold Guard.code; split <;> omega

theorem Guard.ofCode_code (g : Guard) : Guard.ofCode g.code = g := by
  obtain ⟨neg, num⟩ := g
  cases neg <;> simp [Guard.ofCode, Guard.code, BitVec.toNat_eq] <;> omega

theorem Guard.code_ofCode {x : Nat} (h : x < 32) : (Guard.ofCode x).code = x := by
  simp only [Guard.code, Guard.ofCode, BitVec.toNat_ofNat, decide_eq_true_eq]
  split <;> omega

theorem bit_lt (b : Bool) : bit b < 2 := by cases b <;> decide
theorem bit_beq_one (b : Bool) : (bit b == 1) = b := by cases b <;> rfl
theorem bit_of_beq_one {x : Nat} (h : x < 2) : bit (x == 1) = x := by
  obtain rfl | rfl : x = 0 ∨ x = 1 := by omega
  · rfl
  · rfl

theorem toNat_ofNat_of_lt {n x : Nat} (h : x < 2 ^ n) : (BitVec.ofNat n x).toNat = x := by rw [BitVec.toNat_ofNat, Nat.mod_eq_of_lt h]

end Sys2Proof
end

section
/-! PROOFS. The six layouts of a code word (R33 to R36, R64): the fields that the encoder writes and those that the decoder reads are the same. -/

namespace Sys2Proof

/-- A layout: the value of LEN, the widths of the fields, the switch marker, the fields above the opcode, and how the decoder assembles them. -/
structure Layout (α : Type) where
  len : Nat
  widths : List Nat
  park : α → Bool
  above : α → List Nat
  ofFields : List Nat → Option α

namespace Layout
variable {α : Type} (L : Layout α)

/-- The values of the fields, lowest first, with opcode `o` (R32). -/
def fields (a : α) (o : Nat) : List Nat := L.len :: bit (L.park a) :: o :: L.above a

/-- The word with those fields. -/
def word (a : α) (o : Nat) : Nat := pack (L.widths.zip (L.fields a o))

/-- The decoder reads the fields that the encoder writes, and the encoder writes the fields that the decoder has read. -/
structure Faithful : Prop where
  len_lt : L.len < 4
  head : ∃ ws, L.widths = 2 :: 1 :: 10 :: ws
  fits : ∀ a o, o < 1024 → Fits L.widths (L.fields a o)
  reads : ∀ a o, L.ofFields (L.fields a o) = some a
  writes : ∀ s o fs a, Fits L.widths (L.len :: s :: o :: fs) → L.ofFields (L.len :: s :: o :: fs) = some a → L.fields a o = L.len :: s :: o :: fs

variable {L}

theorem Faithful.ofFields_word (h : L.Faithful) (a : α) {o : Nat} (ho : o < 1024) : L.ofFields (unpack L.widths (L.word a o)) = some a := by
  rw [word, unpack_pack (h.fits a o ho), h.reads]

theorem Faithful.len_word (h : L.Faithful) (a : α) (o : Nat) : L.word a o % 4 = L.len := by
  obtain ⟨ws, hws⟩ := h.head
  have := h.len_lt
  simp only [word, fields, hws, List.zip_cons_cons, pack]
  omega

theorem Faithful.opcodeOf_word (h : L.Faithful) (a : α) {o : Nat} (ho : o < 1024) : opcodeOf (L.word a o) = o := by
  obtain ⟨ws, hws⟩ := h.head
  have := h.len_lt
  have := bit_lt (L.park a)
  simp only [opcodeOf, word, fields, hws, List.zip_cons_cons, pack]
  omega

theorem Faithful.word_lt (h : L.Faithful) (a : α) {o : Nat} (ho : o < 1024) : L.word a o < 2 ^ L.widths.sum := by
  have := pack_lt (L.widths.zip (L.fields a o))
  rwa [List.map_fst_zip (Nat.le_of_eq (h.fits a o ho).length_eq)] at this

theorem Faithful.word_of_ofFields (h : L.Faithful) {w : Nat} {a : α} (hlen : w % 4 = L.len) (ha : L.ofFields (unpack L.widths w) = some a) :
    L.word a (opcodeOf w) = w % 2 ^ L.widths.sum := by
  obtain ⟨ws, hws⟩ := h.head
  have hw : unpack L.widths w = L.len :: w / 4 % 2 :: opcodeOf w :: unpack ws (w / 8 / 1024) := by
    simp only [hws, unpack, opcodeOf, ← hlen, Nat.div_div_eq_div_mul]
    rfl
  have hfit := unpack_fits L.widths w
  rw [hw] at ha hfit
  rw [word, h.writes _ _ _ a hfit ha, ← hw, pack_unpack]

end Layout

def S64A.layout : Layout S64A :=
  ⟨0, wS64, (·.park), fun x => [x.d.code, x.a.code, x.b.code, x.g.code, x.i16.toNat], S64A.ofFields⟩
def SBrA.layout : Layout SBrA := ⟨0, wSBr, (·.park), fun x => [x.off.toNat, 0, x.g.code, 0], SBrA.ofFields⟩
def V96A.layout : Layout V96A :=
  ⟨1, wV96, (·.park), fun x => [x.d.code, x.a.code, x.b.code, x.c.code, x.e.code, x.g0.code, x.g1.code, x.hint.code, x.opx.toNat, x.sc.code,
    x.sat.code, x.rm.code, x.ty2.code, x.ty.code], V96A.ofFields⟩
def M128A.layout : Layout M128A :=
  ⟨2, wM128, (·.park), fun x => [x.d.code, x.a.code, x.b.code, x.c.code, x.g0.code, x.g1.code, x.hint.code, x.opx.toNat, x.sat.code, x.rm.code,
    x.atm.code, x.ord.code, x.sc.code, x.sp.code, x.sz.code, x.ty.code, x.i32.toNat], M128A.ofFields⟩
def NestA.layout : Layout NestA :=
  ⟨3, wNest, (·.park), fun x => [x.ext.toNat, x.str.toNat, x.bas0.toNat, x.bas1.toNat, x.bas2.toNat, x.opn.toNat, x.typ.toNat, x.g.code,
    x.flg.toNat], NestA.ofFields⟩
def LoopA.layout : Layout LoopA :=
  ⟨3, wLoop, (·.park), fun x => [x.nb.toNat, bit x.tm, x.trip.toNat, x.ne.toNat, x.g.code, x.ent.toNat, 0], LoopA.ofFields⟩

theorem S64A.faithful : S64A.layout.Faithful where
  len_lt := by decide
  head := ⟨_, rfl⟩
  fits x o ho := by
    simp only [Fits, layout, wS64, Layout.fields, List.forall₂_cons]
    exact ⟨by decide, bit_lt _, ho, Opnd.coded.lt _, Opnd.coded.lt _, Opnd.coded.lt _, x.g.code_lt, x.i16.isLt, .nil⟩
  reads x o := by simp [layout, Layout.fields, S64A.ofFields, Opnd.ofCode_code, Guard.ofCode_code, bit_beq_one]
  writes s o fs x hfit h := by
    simp only [layout] at h hfit
    unfold S64A.ofFields at h
    split at h
    case h_2 => cases h
    next heq =>
      simp only [List.cons.injEq] at heq
      obtain ⟨rfl, rfl, rfl, rfl⟩ := heq
      simp only [↓Option.bind_eq_bind, ↓Option.bind_eq_some_iff, Option.pure_def, Option.some.injEq] at h
      obtain ⟨d, hd, a, ha, b, hb, rfl⟩ := h
      simp only [Fits, wS64, List.forall₂_cons] at hfit
      obtain ⟨-, hs, ho, -, -, -, hg, hi, -⟩ := hfit
      simp only [layout, Layout.fields, bit_of_beq_one hs, Opnd.coded.code_of _ _ hd, Opnd.coded.code_of _ _ ha, Opnd.coded.code_of _ _ hb,
        Guard.code_ofCode hg, toNat_ofNat_of_lt hi]

theorem SBrA.faithful : SBrA.layout.Faithful where
  len_lt := by decide
  head := ⟨_, rfl⟩
  fits x o ho := by
    simp only [Fits, layout, wSBr, Layout.fields, List.forall₂_cons]
    exact ⟨by decide, bit_lt _, ho, x.off.isLt, by decide, x.g.code_lt, by decide, .nil⟩
  reads x o := by simp [layout, Layout.fields, SBrA.ofFields, Guard.ofCode_code, bit_beq_one]
  writes s o fs x hfit h := by
    simp only [layout] at h hfit
    unfold SBrA.ofFields at h
    split at h
    case h_2 => cases h
    next heq =>
      simp only [List.cons.injEq] at heq
      obtain ⟨rfl, rfl, rfl, rfl⟩ := heq
      simp only [Option.ite_none_right_eq_some, Bool.and_eq_true, beq_iff_eq, Option.some.injEq] at h
      obtain ⟨⟨rfl, rfl⟩, rfl⟩ := h
      simp only [Fits, wSBr, List.forall₂_cons] at hfit
      obtain ⟨-, hs, ho, hoff, -, hg, -⟩ := hfit
      simp only [layout, Layout.fields, bit_of_beq_one hs, Guard.code_ofCode hg, toNat_ofNat_of_lt hoff]

theorem V96A.faithful : V96A.layout.Faithful where
  len_lt := by decide
  head := ⟨_, rfl⟩
  fits x o ho := by
    simp only [Fits, layout, wV96, Layout.fields, List.forall₂_cons]
    exact ⟨by decide, bit_lt _, ho, Opnd.coded.lt _, Opnd.coded.lt _, Opnd.coded.lt _, Opnd.coded.lt _, Opnd.coded.lt _, x.g0.code_lt, x.g1.code_lt,
      Hint.coded.lt _, x.opx.isLt, Sc.coded.lt _, Sat.coded.lt _, Rm.coded.lt _, Ty.coded.lt _, Ty.coded.lt _, .nil⟩
  reads x o := by
    simp [layout, Layout.fields, V96A.ofFields, Opnd.ofCode_code, Guard.ofCode_code, bit_beq_one, Hint.coded.of_code, Sc.coded.of_code,
      Sat.coded.of_code, Rm.coded.of_code, Ty.coded.of_code]
  writes s o fs x hfit h := by
    simp only [layout] at h hfit
    unfold V96A.ofFields at h
    split at h
    case h_2 => cases h
    next heq =>
      simp only [List.cons.injEq] at heq
      obtain ⟨rfl, rfl, rfl, rfl⟩ := heq
      simp only [↓Option.bind_eq_bind, ↓Option.bind_eq_some_iff, Option.pure_def, Option.some.injEq] at h
      obtain ⟨d, hd, a, ha, b, hb, c, hc, e, he, hint, hhint, ty, hty, ty2, hty2, rm, hrm, st, hst, sc, hsc, rfl⟩ := h
      simp only [Fits, wV96, List.forall₂_cons] at hfit
      obtain ⟨-, hs, ho, -, -, -, -, -, hg0, hg1, -, hopx, -⟩ := hfit
      simp only [layout, Layout.fields, bit_of_beq_one hs, Opnd.coded.code_of _ _ hd, Opnd.coded.code_of _ _ ha, Opnd.coded.code_of _ _ hb,
        Opnd.coded.code_of _ _ hc, Opnd.coded.code_of _ _ he, Guard.code_ofCode hg0, Guard.code_ofCode hg1, Hint.coded.code_of _ _ hhint,
        Ty.coded.code_of _ _ hty, Ty.coded.code_of _ _ hty2, Rm.coded.code_of _ _ hrm, Sat.coded.code_of _ _ hst, Sc.coded.code_of _ _ hsc,
        toNat_ofNat_of_lt hopx]

theorem M128A.faithful : M128A.layout.Faithful where
  len_lt := by decide
  head := ⟨_, rfl⟩
  fits x o ho := by
    simp only [Fits, layout, wM128, Layout.fields, List.forall₂_cons]
    exact ⟨by decide, bit_lt _, ho, Opnd.coded.lt _, Opnd.coded.lt _, Opnd.coded.lt _, Opnd.coded.lt _, x.g0.code_lt, x.g1.code_lt, Hint.coded.lt _,
      x.opx.isLt, Sat.coded.lt _, Rm.coded.lt _, Atm.coded.lt _, MOrd.coded.lt _, Sc.coded.lt _, Sp.coded.lt _, Sz.coded.lt _, Ty.coded.lt _,
      x.i32.isLt, .nil⟩
  reads x o := by
    simp [layout, Layout.fields, M128A.ofFields, Opnd.ofCode_code, Guard.ofCode_code, bit_beq_one, Hint.coded.of_code, Sc.coded.of_code,
      Sat.coded.of_code, Rm.coded.of_code, Ty.coded.of_code, Atm.coded.of_code, MOrd.coded.of_code, Sp.coded.of_code, Sz.coded.of_code]
  writes s o fs x hfit h := by
    simp only [layout] at h hfit
    unfold M128A.ofFields at h
    split at h
    case h_2 => cases h
    next heq =>
      simp only [List.cons.injEq] at heq
      obtain ⟨rfl, rfl, rfl, rfl⟩ := heq
      simp only [↓Option.bind_eq_bind, ↓Option.bind_eq_some_iff, Option.pure_def, Option.some.injEq] at h
      obtain ⟨d, hd, a, ha, b, hb, c, hc, hint, hhint, ty, hty, sz, hsz, sp, hsp, sc, hsc, ord, hord, atm, hatm, rm, hrm, st, hst, rfl⟩ := h
      simp only [Fits, wM128, List.forall₂_cons] at hfit
      obtain ⟨-, hs, ho, -, -, -, -, hg0, hg1, -, hopx, -, -, -, -, -, -, -, -, hi, -⟩ := hfit
      simp only [layout, Layout.fields, bit_of_beq_one hs, Opnd.coded.code_of _ _ hd, Opnd.coded.code_of _ _ ha, Opnd.coded.code_of _ _ hb,
        Opnd.coded.code_of _ _ hc, Guard.code_ofCode hg0, Guard.code_ofCode hg1, Hint.coded.code_of _ _ hhint, Ty.coded.code_of _ _ hty,
        Sz.coded.code_of _ _ hsz, Sp.coded.code_of _ _ hsp, Sc.coded.code_of _ _ hsc, MOrd.coded.code_of _ _ hord, Atm.coded.code_of _ _ hatm,
        Rm.coded.code_of _ _ hrm, Sat.coded.code_of _ _ hst, toNat_ofNat_of_lt hopx, toNat_ofNat_of_lt hi]

theorem NestA.faithful : NestA.layout.Faithful where
  len_lt := by decide
  head := ⟨_, rfl⟩
  fits x o ho := by
    simp only [Fits, layout, wNest, Layout.fields, List.forall₂_cons]
    exact ⟨by decide, bit_lt _, ho, x.ext.isLt, x.str.isLt, x.bas0.isLt, x.bas1.isLt, x.bas2.isLt, x.opn.isLt, x.typ.isLt, x.g.code_lt, x.flg.isLt,
      .nil⟩
  reads x o := by simp [layout, Layout.fields, NestA.ofFields, Guard.ofCode_code, bit_beq_one]
  writes s o fs x hfit h := by
    simp only [layout] at h hfit
    unfold NestA.ofFields at h
    split at h
    case h_2 => cases h
    next heq =>
      simp only [List.cons.injEq] at heq
      obtain ⟨rfl, rfl, rfl, rfl⟩ := heq
      simp only [Option.some.injEq] at h
      obtain rfl := h
      simp only [Fits, wNest, List.forall₂_cons] at hfit
      obtain ⟨-, hs, ho, hext, hstr, h0, h1, h2, hopn, htyp, hg, hflg, -⟩ := hfit
      simp only [layout, Layout.fields, bit_of_beq_one hs, Guard.code_ofCode hg, toNat_ofNat_of_lt hext, toNat_ofNat_of_lt hstr, toNat_ofNat_of_lt h0,
        toNat_ofNat_of_lt h1, toNat_ofNat_of_lt h2, toNat_ofNat_of_lt hopn, toNat_ofNat_of_lt htyp, toNat_ofNat_of_lt hflg]

theorem LoopA.faithful : LoopA.layout.Faithful where
  len_lt := by decide
  head := ⟨_, rfl⟩
  fits x o ho := by
    simp only [Fits, layout, wLoop, Layout.fields, List.forall₂_cons]
    exact ⟨by decide, bit_lt _, ho, x.nb.isLt, bit_lt _, x.trip.isLt, x.ne.isLt, x.g.code_lt, x.ent.isLt, by decide, .nil⟩
  reads x o := by simp [layout, Layout.fields, LoopA.ofFields, Guard.ofCode_code, bit_beq_one]
  writes s o fs x hfit h := by
    simp only [layout] at h hfit
    unfold LoopA.ofFields at h
    split at h
    case h_2 => cases h
    next heq =>
      simp only [List.cons.injEq] at heq
      obtain ⟨rfl, rfl, rfl, rfl⟩ := heq
      simp only [Option.ite_none_right_eq_some, beq_iff_eq, Option.some.injEq] at h
      obtain ⟨rfl, rfl⟩ := h
      simp only [Fits, wLoop, List.forall₂_cons] at hfit
      obtain ⟨-, hs, ho, hnb, htm, htrip, hne, hg, hent, -⟩ := hfit
      simp only [layout, Layout.fields, bit_of_beq_one hs, bit_of_beq_one htm, Guard.code_ofCode hg, toNat_ofNat_of_lt hnb, toNat_ofNat_of_lt htrip,
        toNat_ofNat_of_lt hne, toNat_ofNat_of_lt hent]

end Sys2Proof
end

section
/-! PROOFS. The tables of opcodes (R43), and the round trip of the code words (R28, R32 to R44, R64). -/

namespace Sys2Proof

/-! ### The instruction of an opcode -/

/-- The instruction that an opcode stands for in a format, with the format's fields (R43). -/
def instrOf (sh : Shape) (o : Nat) : Option Instr :=
  match sh with
  | .s64 x => if (opSBr.lookup o).isSome then none else (opS64.lookup o).map (· x)
  | .sbr x => (opSBr.lookup o).map (· x)
  | .v96 x => (opV96.lookup o).map (· x)
  | .m128 x => (opM128.lookup o).map (· x)
  | .nest x => if o == 2 then none else (opNest.lookup o).map (· x)
  | .loop x => if o == 2 then some (.loop x) else none
  | .event => none

theorem Instr.isEvent_of_wf {i : Instr} (h : i.wf = true) : i.isEvent = false := by
  simp only [Instr.wf, Bool.and_eq_true, Bool.not_eq_true'] at h
  exact h.1

/-- R43: every instruction stands in the table of its format; the three of one code are told apart by I16 (R327). -/
theorem instrOf_shape (i : Instr) (h : ∀ x, i = .barc x ∨ i = .barcArr x ∨ i = .barcWait x → splitBarc x = i) :
    instrOf i.shape i.opc = if i.isEvent then none else some i := by
  cases i
  case barc x => exact congrArg some (h x (.inl rfl))
  case barcArr x => exact congrArg some (h x (.inr (.inl rfl)))
  case barcWait x => exact congrArg some (h x (.inr (.inr rfl)))
  all_goals rfl

/-- R327: I16 of a `barc`, `barc.arr` or `barc.wait` that is well formed says which one it is. -/
theorem splitBarc_of_wf {i : Instr} (h : i.wf = true) (x : S64A) (hi : i = .barc x ∨ i = .barcArr x ∨ i = .barcWait x) : splitBarc x = i := by
  obtain rfl | rfl | rfl := hi
  · have : x.i16 = 0 := by simp_all [Instr.wf, Instr.wfIn, S64A.neutral]
    simp [splitBarc, this]
  · have : x.i16 = 1 := by simp_all [Instr.wf, Instr.wfIn]
    simp [splitBarc, this]
  · have : x.i16 = 2 := by simp_all [Instr.wf, Instr.wfIn]
    simp [splitBarc, this]

theorem instrOf_of_wf {i : Instr} (h : i.wf = true) : instrOf i.shape i.opc = some i := by
  rw [instrOf_shape i (splitBarc_of_wf h), Instr.isEvent_of_wf h]
  rfl

theorem Instr.opc_lt (i : Instr) : i.opc < 1024 := by cases i <;> exact Nat.le_of_ble_eq_true rfl

/-- Every entry of a table makes instructions of one format, whose opcode is the entry's. -/
def TableOf {α : Type} (sh : α → Shape) (tab : List (Nat × (α → Instr))) : Prop := ∀ p ∈ tab, ∀ a, (p.2 a).shape = sh a ∧ (p.2 a).opc = p.1

theorem TableOf.cons {α : Type} {sh : α → Shape} {o : Nat} {f : α → Instr} {tab : List (Nat × (α → Instr))}
    (h : ∀ a, (f a).shape = sh a ∧ (f a).opc = o) (ht : TableOf sh tab) : TableOf sh ((o, f) :: tab) := List.forall_mem_cons.2 ⟨h, ht⟩

theorem TableOf.lookup {α : Type} {sh : α → Shape} {tab : List (Nat × (α → Instr))} (h : TableOf sh tab) {o : Nat} {a : α} {i : Instr}
    (hi : (tab.lookup o).map (· a) = some i) : i.shape = sh a ∧ i.opc = o := by
  obtain ⟨f, hf, rfl⟩ := Option.map_eq_some_iff.1 hi
  obtain ⟨l₁, l₂, rfl, -⟩ := List.lookup_eq_some_iff.1 hf
  exact h (o, f) (by simp) a

/-- R327: the three instructions of one code have one format and one opcode. -/
theorem splitBarc_shape (x : S64A) : (splitBarc x).shape = .s64 x ∧ (splitBarc x).opc = 0x173 := by
  unfold splitBarc
  split_ifs <;> exact ⟨rfl, rfl⟩

theorem tableOf_opS64 : TableOf .s64 opS64 := by
  iterate 32 refine .cons (fun a => ⟨rfl, rfl⟩) ?_
  refine .cons splitBarc_shape ?_
  iterate 7 refine .cons (fun a => ⟨rfl, rfl⟩) ?_
  exact List.forall_mem_nil _

theorem tableOf_opSBr : TableOf .sbr opSBr := by
  iterate 2 refine .cons (fun a => ⟨rfl, rfl⟩) ?_
  exact List.forall_mem_nil _

theorem tableOf_opV96 : TableOf .v96 opV96 := by
  iterate 74 refine .cons (fun a => ⟨rfl, rfl⟩) ?_
  exact List.forall_mem_nil _

theorem tableOf_opM128 : TableOf .m128 opM128 := by
  iterate 46 refine .cons (fun a => ⟨rfl, rfl⟩) ?_
  exact List.forall_mem_nil _

theorem tableOf_opNest : TableOf .nest opNest := by
  iterate 3 refine .cons (fun a => ⟨rfl, rfl⟩) ?_
  exact List.forall_mem_nil _

/-- What an opcode stands for in a format has that format, its fields and that opcode. -/
theorem of_instrOf {sh : Shape} {o : Nat} {i : Instr} (h : instrOf sh o = some i) : i.shape = sh ∧ i.opc = o := by
  cases sh with
  | s64 x =>
    simp only [instrOf, Option.ite_none_left_eq_some] at h
    exact tableOf_opS64.lookup h.2
  | sbr x => exact tableOf_opSBr.lookup h
  | v96 x => exact tableOf_opV96.lookup h
  | m128 x => exact tableOf_opM128.lookup h
  | nest x =>
    simp only [instrOf, Option.ite_none_left_eq_some] at h
    exact tableOf_opNest.lookup h.2
  | loop x =>
    simp only [instrOf, Option.ite_none_right_eq_some, beq_iff_eq, Option.some.injEq] at h
    obtain ⟨rfl, rfl⟩ := h
    exact ⟨rfl, rfl⟩
  | event => cases h

/-! ### The fields of a word -/

/-- The word has the LEN and the fields of a shape. -/
def HasFields (w : Nat) : Shape → Prop
  | .s64 x => w % 4 = 0 ∧ S64A.ofFields (unpack wS64 w) = some x
  | .sbr x => w % 4 = 0 ∧ SBrA.ofFields (unpack wSBr w) = some x
  | .v96 x => w % 4 = 1 ∧ V96A.ofFields (unpack wV96 w) = some x
  | .m128 x => w % 4 = 2 ∧ M128A.ofFields (unpack wM128 w) = some x
  | .nest x => w % 4 = 3 ∧ NestA.ofFields (unpack wNest w) = some x
  | .loop x => w % 4 = 3 ∧ LoopA.ofFields (unpack wLoop w) = some x
  | .event => False

theorem fromTable_ok {α : Type} {tab : List (Nat × (α → Instr))} {len w : Nat} {x : Option α} {i : Instr} :
    fromTable tab len w x = .ok i ↔ ∃ a, x = some a ∧ (tab.lookup (opcodeOf w)).map (· a) = some i := by
  unfold fromTable
  cases tab.lookup (opcodeOf w) <;> cases x <;> simp

/-- R28, R32, R43: the decoder reads the instruction that the opcode stands for in the format whose fields the word has. -/
theorem decodeFields_ok {w : Nat} {i : Instr} : decodeFields w = .ok i ↔ ∃ sh, HasFields w sh ∧ instrOf sh (opcodeOf w) = some i := by
  constructor
  · intro h
    unfold decodeFields at h
    split at h
    next hlen =>
      split_ifs at h with hbr
      · obtain ⟨a, ha, hi⟩ := fromTable_ok.1 h
        exact ⟨.sbr a, ⟨hlen, ha⟩, hi⟩
      · obtain ⟨a, ha, hi⟩ := fromTable_ok.1 h
        exact ⟨.s64 a, ⟨hlen, ha⟩, (if_neg hbr).trans hi⟩
    next hlen =>
      obtain ⟨a, ha, hi⟩ := fromTable_ok.1 h
      exact ⟨.v96 a, ⟨hlen, ha⟩, hi⟩
    next hlen =>
      obtain ⟨a, ha, hi⟩ := fromTable_ok.1 h
      exact ⟨.m128 a, ⟨hlen, ha⟩, hi⟩
    next h0 h1 h2 =>
      change ¬ _ at h0 h1 h2
      have hlen : w % 4 = 3 := by omega
      split_ifs at h with hloop
      · split at h
        next a ha => exact ⟨.loop a, ⟨hlen, ha⟩, (if_pos hloop).trans (congrArg some (Except.ok.inj h))⟩
        next => cases h
      · obtain ⟨a, ha, hi⟩ := fromTable_ok.1 h
        exact ⟨.nest a, ⟨hlen, ha⟩, (if_neg hloop).trans hi⟩
  · rintro ⟨sh, hf, hi⟩
    unfold decodeFields
    cases sh with
    | s64 a =>
      simp only [instrOf, Option.ite_none_left_eq_some] at hi
      rw [hf.1]
      exact (if_neg hi.1).trans (fromTable_ok.2 ⟨a, hf.2, hi.2⟩)
    | sbr a =>
      obtain ⟨f, hl, -⟩ := Option.map_eq_some_iff.1 hi
      rw [hf.1]
      exact (if_pos (by rw [hl]; rfl)).trans (fromTable_ok.2 ⟨a, hf.2, hi⟩)
    | v96 a =>
      rw [hf.1]
      exact fromTable_ok.2 ⟨a, hf.2, hi⟩
    | m128 a =>
      rw [hf.1]
      exact fromTable_ok.2 ⟨a, hf.2, hi⟩
    | nest a =>
      simp only [instrOf, Option.ite_none_left_eq_some] at hi
      rw [hf.1]
      exact (if_neg hi.1).trans (fromTable_ok.2 ⟨a, hf.2, hi.2⟩)
    | loop a =>
      simp only [instrOf, Option.ite_none_right_eq_some] at hi
      rw [hf.1]
      refine (if_pos hi.1).trans ?_
      rw [hf.2]
      exact congrArg Except.ok (Option.some.inj hi.2)
    | event => exact hf.elim

/-! ### Words and instructions -/

/-- A layout is the encoding of the instructions of a format. -/
structure Layout.Encodes {α : Type} (L : Layout α) (sh : α → Shape) : Prop where
  faithful : L.Faithful
  fields : ∀ w a, HasFields w (sh a) ↔ w % 4 = L.len ∧ L.ofFields (unpack L.widths w) = some a
  word : ∀ (i : Instr) a, i.shape = sh a → encode i = L.word a i.opc
  bits : ∀ (i : Instr) a, i.shape = sh a → i.bits = L.widths.sum
  lenBits_eq : ∀ w, w % 4 = L.len → lenBits w = L.widths.sum

theorem S64A.encodes : S64A.layout.Encodes .s64 where
  faithful := S64A.faithful
  fields w a := Iff.rfl
  word i a h := by rw [encode, h]; rfl
  bits i a h := by rw [Instr.bits, h]; rfl
  lenBits_eq w h := by rw [lenBits, h]; rfl
theorem SBrA.encodes : SBrA.layout.Encodes .sbr where
  faithful := SBrA.faithful
  fields w a := Iff.rfl
  word i a h := by rw [encode, h]; rfl
  bits i a h := by rw [Instr.bits, h]; rfl
  lenBits_eq w h := by rw [lenBits, h]; rfl
theorem V96A.encodes : V96A.layout.Encodes .v96 where
  faithful := V96A.faithful
  fields w a := Iff.rfl
  word i a h := by rw [encode, h]; rfl
  bits i a h := by rw [Instr.bits, h]; rfl
  lenBits_eq w h := by rw [lenBits, h]; rfl
theorem M128A.encodes : M128A.layout.Encodes .m128 where
  faithful := M128A.faithful
  fields w a := Iff.rfl
  word i a h := by rw [encode, h]; rfl
  bits i a h := by rw [Instr.bits, h]; rfl
  lenBits_eq w h := by rw [lenBits, h]; rfl
theorem NestA.encodes : NestA.layout.Encodes .nest where
  faithful := NestA.faithful
  fields w a := Iff.rfl
  word i a h := by rw [encode, h]; rfl
  bits i a h := by rw [Instr.bits, h]; rfl
  lenBits_eq w h := by rw [lenBits, h]; rfl
theorem LoopA.encodes : LoopA.layout.Encodes .loop where
  faithful := LoopA.faithful
  fields w a := Iff.rfl
  word i a h := by rw [encode, h]; rfl
  bits i a h := by rw [Instr.bits, h]; rfl
  lenBits_eq w h := by rw [lenBits, h]; rfl

/-- What the words of an instruction hold. -/
def EncodedIn (i : Instr) (w : Nat) : Prop := w < 2 ^ i.bits ∧ lenBits w = i.bits ∧ opcodeOf w = i.opc ∧ HasFields w i.shape

theorem Layout.Encodes.encodedIn {α : Type} {L : Layout α} {sh : α → Shape} (h : L.Encodes sh) {i : Instr} {a : α} (hi : i.shape = sh a) :
    EncodedIn i (encode i) := by
  have hf := h.faithful
  have hlen := hf.len_word a i.opc
  have hword := h.word i a hi
  have hbits := h.bits i a hi
  unfold EncodedIn
  rw [hword, hbits, hi]
  exact ⟨hf.word_lt a i.opc_lt, h.lenBits_eq _ hlen, hf.opcodeOf_word a i.opc_lt, (h.fields _ _).2 ⟨hlen, hf.ofFields_word a i.opc_lt⟩⟩

theorem Layout.Encodes.encode_eq {α : Type} {L : Layout α} {sh : α → Shape} (h : L.Encodes sh) {i : Instr} {a : α} {w : Nat} (hi : i.shape = sh a)
    (ho : i.opc = opcodeOf w) (hw : HasFields w (sh a)) : lenBits w = i.bits ∧ encode i = w % 2 ^ i.bits := by
  obtain ⟨hlen, ha⟩ := (h.fields w a).1 hw
  rw [h.word i a hi, h.bits i a hi, ho]
  exact ⟨h.lenBits_eq w hlen, h.faithful.word_of_ofFields hlen ha⟩

/-- Each format's instructions stand in their words. -/
theorem encodedIn_encode (i : Instr) (h : i.isEvent = false) : EncodedIn i (encode i) := by
  cases hi : i.shape with
  | s64 x => exact S64A.encodes.encodedIn hi
  | sbr x => exact SBrA.encodes.encodedIn hi
  | v96 x => exact V96A.encodes.encodedIn hi
  | m128 x => exact M128A.encodes.encodedIn hi
  | nest x => exact NestA.encodes.encodedIn hi
  | loop x => exact LoopA.encodes.encodedIn hi
  | event => simp [Instr.isEvent, hi] at h

theorem encode_eq_of_hasFields {i : Instr} {w : Nat} (ho : i.opc = opcodeOf w) (hw : HasFields w i.shape) :
    lenBits w = i.bits ∧ encode i = w % 2 ^ i.bits := by
  cases hi : i.shape with
  | s64 x => exact S64A.encodes.encode_eq hi ho (hi ▸ hw)
  | sbr x => exact SBrA.encodes.encode_eq hi ho (hi ▸ hw)
  | v96 x => exact V96A.encodes.encode_eq hi ho (hi ▸ hw)
  | m128 x => exact M128A.encodes.encode_eq hi ho (hi ▸ hw)
  | nest x => exact NestA.encodes.encode_eq hi ho (hi ▸ hw)
  | loop x => exact LoopA.encodes.encode_eq hi ho (hi ▸ hw)
  | event => exact (hi ▸ hw : HasFields w .event).elim

theorem decode_ok {w : Nat} {i : Instr} : decode w = .ok i ↔ decodeFields w = .ok i ∧ i.wf = true := by
  unfold decode
  split
  next e he => simp [he]
  next j hj =>
    rw [hj]
    by_cases h : j.wf = true
    · simp only [h, if_true, Except.ok.injEq]
      exact ⟨fun hij => ⟨hij, hij ▸ h⟩, And.left⟩
    · simp only [h, Except.ok.injEq]
      exact ⟨nofun, fun hij => absurd (hij.1 ▸ hij.2) h⟩

/-- R32: the opcode of the instruction that a word decodes to is the word's. -/
theorem opc_of_decode {w : Nat} {i : Instr} (h : decode w = .ok i) : i.opc = opcodeOf w := by
  obtain ⟨sh, -, hi⟩ := decodeFields_ok.1 (decode_ok.1 h).1
  exact (of_instrOf hi).2

/-- Settles O54: an instruction stands in its words, and its format and opcode say which one it is. -/
theorem encodingsRoundTrip : Obligations.EncodingsRoundTrip := by
  unfold Obligations.EncodingsRoundTrip
  refine ⟨fun i hwf => ?_, fun w i hw => ?_⟩
  · obtain ⟨hlt, hlen, hopc, hfields⟩ := encodedIn_encode i (Instr.isEvent_of_wf hwf)
    have hdec : decodeFields (encode i) = .ok i := decodeFields_ok.2 ⟨i.shape, hfields, hopc ▸ instrOf_of_wf hwf⟩
    exact ⟨hlt, hlen, decode_ok.2 ⟨hdec, hwf⟩⟩
  · obtain ⟨hdec, hwf⟩ := decode_ok.1 hw
    obtain ⟨sh, hfields, hi⟩ := decodeFields_ok.1 hdec
    obtain ⟨rfl, hopc⟩ := of_instrOf hi
    obtain ⟨hlen, henc⟩ := encode_eq_of_hasFields hopc hfields
    exact ⟨hwf, Instr.isEvent_of_wf hwf, hlen, henc⟩

end Sys2Proof
end

section
/-! PROOFS. Words written out from the spec (R28, R33 to R43), and the words whose opcode no table holds. -/

namespace Sys2Proof

theorem fromTable_unassigned {α : Type} {tab : List (Nat × (α → Instr))} {len w : Nat} {x : Option α} (h : tab.lookup (opcodeOf w) = none) :
    fromTable tab len w x = .error (.opcode len (opcodeOf w)) := by
  unfold fromTable
  rw [h]

/-- R42, R43: an S64 word whose opcode is in neither table of its length is refused by that opcode. -/
theorem decode_unassigned_s64 {w : Nat} (hlen : w % 4 = 0) (hbr : opSBr.lookup (opcodeOf w) = none) (hs : opS64.lookup (opcodeOf w) = none) :
    decode w = .error (.opcode 64 (opcodeOf w)) := by
  unfold decode decodeFields
  rw [hlen]
  simp only [hbr, Option.isSome_none, Bool.false_eq_true, if_false, fromTable_unassigned hs]

/-- R42, R43: an opcode that no table holds is refused in every length. -/
theorem decode_unassigned {w : Nat} (hbr : opSBr.lookup (opcodeOf w) = none) (hs : opS64.lookup (opcodeOf w) = none)
    (hv : opV96.lookup (opcodeOf w) = none) (hm : opM128.lookup (opcodeOf w) = none) (hn : opNest.lookup (opcodeOf w) = none) (hloop : opcodeOf w ≠ 2) :
    decode w = .error (.opcode (lenBits w) (opcodeOf w)) := by
  obtain hlen | hlen | hlen | hlen : w % 4 = 0 ∨ w % 4 = 1 ∨ w % 4 = 2 ∨ w % 4 = 3 := by omega
  · simp only [decode_unassigned_s64 hlen hbr hs, lenBits, hlen]
  · simp only [decode, decodeFields, lenBits, hlen, fromTable_unassigned hv]
  · simp only [decode, decodeFields, lenBits, hlen, fromTable_unassigned hm]
  · simp only [decode, decodeFields, lenBits, hlen, fromTable_unassigned hn, beq_eq_false_iff_ne.2 hloop, Bool.false_eq_true, if_false]

/-- Settles O55: the words written out evaluate; an opcode outside the tables is refused as such. -/
theorem wordsDecode : Obligations.WordsDecode := by
  unfold Obligations.WordsDecode
  refine ⟨rfl, rfl, rfl, rfl, rfl, rfl, rfl, rfl, fun w hw => ?unassigned, fun w i => opc_of_decode, fun w hlen hw => ?short⟩
  case unassigned =>
    rw [← hw]
    exact decode_unassigned (hw ▸ rfl) (hw ▸ rfl) (hw ▸ rfl) (hw ▸ rfl) (hw ▸ rfl) (hw ▸ by decide)
  case short =>
    have h := decode_unassigned_s64 hlen (hw ▸ rfl) (hw ▸ rfl)
    rwa [hw] at h

end Sys2Proof
end

section
/-! PROOFS. What the raise of a fault leaves alone (R60, R307 to R310): a write of the device or of the launch engine touches no core, and no step of the
fault domain puts a thread into a bundle. -/

namespace Sys2Proof.Machine
open Sys2Proof

/-! ### Operations that leave the cores alone -/

@[simp] theorem State.wrNat_c (s : State) (x n v : Nat) : (s.wrNat x n v).c = s.c := by
  obtain ⟨_, _, _, h⟩ := State.wrNat_rest n s x v
  rw [h]

@[simp] theorem State.satInc_c (s : State) (off lo n : Nat) : (s.satInc off lo n).c = s.c := rfl

@[simp] theorem State.msi_c (s : State) (v : Nat) : (s.msi v).c = s.c := by
  unfold State.msi
  split_ifs <;> rfl

@[simp] theorem State.poisonNew_c (s : State) (x : Nat) : (s.poisonNew x).c = s.c := by
  unfold State.poisonNew
  dsimp only
  split
  · rfl
  · rw [State.msi_c]; rfl

@[simp] theorem State.ecc_c (s : State) (x : Nat) (e : Ecc) : (s.ecc x e).c = s.c := by
  unfold State.ecc
  split
  · rfl
  · rfl
  · split_ifs
    · rfl
    · exact s.poisonNew_c x
    · rfl
  · split_ifs
    · exact s.poisonNew_c x
    · rfl

@[simp] theorem State.findError_c (s : State) (x : Nat) : (s.findError x).c = s.c := by
  unfold State.findError
  split
  · rfl
  · split
    · rfl
    · exact State.ecc_c _ _ _

@[simp] theorem State.findErrors_c (s : State) (x n : Nat) : (s.findErrors x n).c = s.c := by
  unfold State.findErrors
  refine List.foldlRecOn (motive := fun (t : State) => t.c = s.c) _ _ rfl fun t ht i _ => ?_
  split
  · rw [State.findError_c, ht]
  · exact ht

@[simp] theorem State.l2Insert_c (s : State) (l : L2Line) (lru : Bool) : (s.l2Insert l lru).c = s.c := by
  have hput : ∀ (u : State) (k : L2Line), (u.l2Put k lru).c = u.c := fun u k => rfl
  have hinc : ∀ o : Option Nat, (match o with | some i => s.satInc (rHomeRet i + 24) 32 1 | none => s).c = s.c := by rintro (_ | _) <;> rfl
  unfold State.l2Insert
  dsimp only
  split
  · rfl
  · split
    · exact (hput _ _).trans (hinc _)
    · split
      · exact (hput _ _).trans (hinc _)
      · exact hinc _

@[simp] theorem State.l2Hit_c (s : State) (l : L2Line) (hint : Hint) : (s.l2Hit l hint).c = s.c := by
  unfold State.l2Hit
  split <;> rfl

@[simp] theorem State.l2Mod_c (s : State) (x : Nat) (f : L2Line → L2Line) : (s.l2Mod x f).c = s.c := rfl

@[simp] theorem State.l2Home_c (s : State) (x : Nat) (hint : Hint) (ef w : Bool) : (s.l2Home x hint ef w).c = s.c := by
  unfold State.l2Home
  split
  · rw [State.l2Mod_c, State.l2Hit_c]
  · split
    · rfl
    · rw [State.l2Insert_c]

@[simp] theorem State.visitorFill_c (s : State) (x data : Nat) (hint : Hint) (ef : Bool) : (s.visitorFill x data hint ef).c = s.c := by
  unfold State.visitorFill
  dsimp only
  split
  · rfl
  · rw [State.l2Mod_c]
    split
    · rw [State.l2Hit_c]
    · rw [State.l2Insert_c]

@[simp] theorem State.visitorReturn_c (s : State) (x data : Nat) (hint : Hint) (ef fill : Bool) : (s.visitorReturn x data hint ef fill).c = s.c := by
  unfold State.visitorReturn
  dsimp only
  split_ifs
  · rfl
  · rfl
  · exact s.visitorFill_c x data hint ef
  · rfl

@[simp] theorem State.engRead_c (s : State) (tenant x n : Nat) (hint : Hint) (ef : Bool) : (s.engRead tenant x n hint ef).1.c = s.c := by
  unfold State.engRead
  split
  · rfl
  · have h0 : (if s.here x && (s.homeGate tenant x true false).isSome then s else s.findErrors x n).c = s.c := by
      split
      · rfl
      · rw [State.findErrors_c]
    dsimp only
    split
    · dsimp only
      split
      · rw [State.l2Hit_c, h0]
      · exact h0
    · split
      · exact h0
      · dsimp only
        split
        · rw [State.l2Home_c]; exact h0
        · rw [State.visitorReturn_c]; exact h0

@[simp] theorem State.engWrite_c (s : State) (tenant x n v : Nat) (rd : Bool) : (s.engWrite tenant x n v rd).1.c = s.c := by
  unfold State.engWrite
  split
  · exact s.wrNat_c x n v
  · have hvis : (if s.here x then s else s.visitorInvalidate x).c = s.c := by split <;> rfl
    generalize (if s.here x then s else s.visitorInvalidate x) = s0 at hvis ⊢
    dsimp only
    split
    · dsimp only
      split
      · rw [State.wrNat_c, hvis]
      · exact hvis
    · have herr : (if s.here x then s0.findErrors x n else s0).c = s.c := by split <;> simp [hvis]
      generalize (if s.here x then s0.findErrors x n else s0) = s1 at herr ⊢
      split
      · exact herr
      · have hpois : (if (n == 32 && x % 32 == 0 && !rd) = true then State.setPoison { s1 with free := s0.free + 1 } x false
            else { s1 with free := s0.free + 1 }).c = s.c := by split <;> exact herr
        rw [State.wrNat_c]
        split
        · rw [State.l2Home_c]
          exact hpois
        · exact hpois

@[simp] theorem State.devWrite_c (s : State) (x n v : Nat) : (s.devWrite x n v).c = s.c := by
  unfold State.devWrite
  exact List.foldlRecOn (motive := fun (t : State) => t.c = s.c) _ _ rfl fun t ht q _ => (t.engWrite_c ..).trans ht

@[simp] theorem State.walkFrom_c (tenant va : Nat) : ∀ (f : Nat) (s : State) (lvl a : Nat), (s.walkFrom tenant va f lvl a).1.c = s.c
  | 0, _, _, _ => rfl
  | f + 1, s, lvl, a => by
    have hread := s.engRead_c tenant (a + 8 * walkIndex lvl va) 8 .dflt false
    unfold State.walkFrom
    dsimp only
    split
    · rfl
    · split
      next u _ h => rwa [h] at hread
      next u e h =>
        rw [h] at hread
        split_ifs
        · exact hread
        · exact (State.walkFrom_c tenant va f u _ _).trans hread
        · exact hread

@[simp] theorem State.tlbFill_c (s : State) (core asid : Nat) (p : Pte) : (s.tlbFill core asid p).c = s.c := rfl

@[simp] theorem State.setDty_c (s : State) (tenant : Nat) (p : Pte) : (s.setDty tenant p).1.c = s.c := by
  have hw := s.engWrite_c tenant p.entry 8 (s.rdNat p.entry 8 ||| 0x200) true
  unfold State.setDty
  split
  · rfl
  · split
    next h => rwa [h] at hw
    next h => rw [h] at hw; exact hw

@[simp] theorem State.faultRecord_c (s : State) (r : Region) (wgi tid : Nat) (nest : Bool) (f : FaultInfo) :
    (s.faultRecord r wgi tid nest f).c = s.c := by
  simp [State.faultRecord]

@[simp] theorem State.freeRet_c (s : State) (n : Nat) : (s.freeRet n).c = s.c := by
  unfold State.freeRet
  refine List.foldlRecOn (motive := fun (t : State) => t.c = s.c) _ _ rfl fun t ht i _ => ?_
  split
  · exact List.foldlRecOn (motive := fun (u : State) => u.c = s.c) _ _ ht fun u hu o _ => hu
  · exact ht

@[simp] theorem State.rcbState_c (s : State) (rcb st lerr : Nat) : (s.rcbState rcb st lerr).c = s.c := by simp [State.rcbState]

@[simp] theorem State.stopAt_c (s : State) (n cause : Nat) : (s.stopAt n cause).c = s.c := by
  unfold State.stopAt
  dsimp only
  split <;> rfl

@[simp] theorem State.bcastAt_c (s : State) (n cause : Nat) : (s.bcastAt n cause).c = s.c := by
  unfold State.bcastAt
  dsimp only
  split
  · split <;> rfl
  · rfl

@[simp] theorem State.trigger_c (s : State) (n cause : Nat) (bcast : Bool) : (s.trigger n cause bcast).c = s.c := by
  unfold State.trigger State.broadcast
  dsimp only
  split
  · refine List.foldlRecOn (motive := fun (t : State) => t.c = s.c) _ _ (s.stopAt_c n cause) fun t ht k _ => ?_
    split
    · rw [State.stopAt_c, ht]
    · rw [State.bcastAt_c, ht]
  · exact s.stopAt_c n cause

/-! ### No thread enters a bundle -/

@[simp] theorem Thread.dropDue_tid (t : Thread) : t.dropDue.tid = t.tid := by
  unfold Thread.dropDue
  split <;> rfl

@[simp] theorem Thread.dropDue_bundle (t : Thread) : t.dropDue.bundle = t.bundle := by
  unfold Thread.dropDue
  split <;> rfl

/-- No record of thread `n` stands in a bundle. -/
def State.Unbundled (s : State) (n : Nat) : Prop := ∀ t ∈ s.c.threads, t.tid = n → t.bundle = none

namespace State.Unbundled
variable {s t : State} {n : Nat}

theorem congr (h : s.Unbundled n) (hc : t.c = s.c) : t.Unbundled n := by
  unfold State.Unbundled
  rwa [hc]

theorem thread (h : s.Unbundled n) : (s.thread n).bundle = none := by
  unfold State.thread
  cases hq : s.thread? n with
  | none => rfl
  | some t => exact h t (List.mem_of_find?_eq_some hq) (by simpa using List.find?_some hq)

theorem filter (h : s.Unbundled n) (p : Thread → Bool) (ht : t.c.threads = s.c.threads.filter p) : t.Unbundled n := by
  unfold State.Unbundled
  rw [ht]
  exact fun u hu => h u (List.mem_filter.1 hu).1

theorem map (h : s.Unbundled n) (f : Thread → Thread) (htid : ∀ u, (f u).tid = u.tid) (hf : ∀ u : Thread, u.bundle = none → (f u).bundle = none)
    (ht : t.c.threads = s.c.threads.map f) : t.Unbundled n := by
  unfold State.Unbundled
  rw [ht]
  intro v hv hn
  obtain ⟨u, hu, rfl⟩ := List.mem_map.1 hv
  exact hf u (h u hu ((htid u).symm.trans hn))

theorem modThread (h : s.Unbundled n) (k : Nat) (f : Thread → Thread) (htid : ∀ u, (f u).tid = u.tid)
    (hf : ∀ u : Thread, u.bundle = none → (f u).bundle = none) : (s.modThread k f).Unbundled n := by
  refine h.map (fun u => if u.tid == k then f u else u) (fun u => ?_) (fun u hu => ?_) rfl
  · split
    · exact htid u
    · rfl
  · split
    · exact hf u hu
    · exact hu

theorem endWalk (h : s.Unbundled n) (w : Walk) : (s.endWalk w).1.Unbundled n := by
  have hwalk := State.walkFrom_c w.tenant w.va 4 s 0 w.ttb
  unfold State.endWalk State.walk
  split
  next u p hu =>
    rw [hu] at hwalk
    refine h.congr ?_
    dsimp only
    exact List.foldlRecOn (motive := fun (v : State) => v.c = s.c) _ _ hwalk fun v hv c _ => hv
  next u e hu =>
    rw [hu] at hwalk
    refine (h.congr hwalk).map (fun t => if w.tids.contains t.tid then { t with walked := t.walked ++ [(w.va / 65536, e.code, e.lvl, e.addr)] } else t)
      (fun u => ?_) (fun u hb => ?_) rfl
    · split <;> rfl
    · split <;> exact hb

theorem pageOf (h : s.Unbundled n) (core : Nat) (r : Region) (va : Nat) : (s.pageOf core r va).1.Unbundled n := by
  unfold State.pageOf
  split
  · exact h
  · dsimp only
    split
    next heq =>
      have := h.endWalk ((s.m.walks.find? fun w => w.die == dieOf core && w.asid == r.asid && w.va / 65536 == va / 65536).getD
        { die := dieOf core, core := core, asid := r.asid, ttb := r.ttb, va := va, tenant := r.tenant, started := true, tids := [] })
      rw [heq] at this
      exact this
    next heq =>
      have := h.endWalk ((s.m.walks.find? fun w => w.die == dieOf core && w.asid == r.asid && w.va / 65536 == va / 65536).getD
        { die := dieOf core, core := core, asid := r.asid, ttb := r.ttb, va := va, tenant := r.tenant, started := true, tids := [] })
      rw [heq] at this
      exact this

theorem xlate (h : s.Unbundled n) (core : Nat) (r : Region) (va : Nat) (d : Need) : (s.xlate core r va d).1.Unbundled n := by
  have hpage : (s.xpage core r va d).1.Unbundled n := by
    unfold State.xpage
    split
    · exact h
    · have := h.pageOf core r va
      split
      next heq => rwa [heq] at this
      next heq => rwa [heq] at this
  unfold State.xlate
  split
  next heq => rwa [heq] at hpage
  next u p heq =>
    rw [heq] at hpage
    split
    · exact hpage
    · have hdty := hpage.congr (State.setDty_c _ r.tenant p)
      split
      next heq => rwa [heq] at hdty
      next heq => rwa [heq] at hdty

theorem finishRegion (h : s.Unbundled n) (r : Region) (st : Nat) : (s.finishRegion r st).Unbundled n := by
  have hmsi : ∀ u : State, u.Unbundled n → (if r.msiv == 0xFFFF then u else u.msi r.msiv).Unbundled n := by
    intro u hu
    split
    · exact hu
    · exact hu.congr (State.msi_c _ _)
  unfold State.finishRegion
  dsimp only
  generalize h1 : ((s.freeRet r.num).modRegion r.num fun r => { r with binds := [], state := st }).rcbState r.rcb st r.lerr = s1
  have hs1 : s1.Unbundled n := h.congr (by rw [← h1]; simp)
  refine hmsi _ ?_
  split
  · exact hs1
  · split
    · exact hs1.congr (State.faultRecord_c ..)
    · have hx := hs1.xlate 0 r r.cca .watom
      split
      next heq =>
        rw [heq] at hx
        exact hx.congr (State.faultRecord_c ..)
      next u p heq =>
        rw [heq] at hx
        have hw := hx.congr (State.engWrite_c u r.tenant (p.addr r.cca) 8 (u.rdNat (p.addr r.cca) 8 + 2 ^ 64 - 1) true)
        split
        next heq =>
          rw [heq] at hw
          exact hw.congr (State.faultRecord_c ..)
        next heq =>
          rw [heq] at hw
          exact hw

theorem writeReg (h : s.Unbundled n) (d : RegRef) (x : Word) : (s.writeReg d x).Unbundled n := by
  cases d with
  | v k m => exact h.modThread k _ (fun u => rfl) fun u hu => hu
  | w k m => exact h
  | p k m => exact h.modThread k _ (fun u => rfl) fun u hu => hu

theorem landAt (h : s.Unbundled n) (k : Nat) : (s.landAt k).Unbundled n := by
  unfold State.landAt
  split
  · dsimp only
    refine List.foldlRecOn (motive := fun (u : State) => u.Unbundled n) _ _ ?_ fun u hu q _ => ?_
    · exact h
    · split
      · exact hu.writeReg _ _
      · exact hu
  · exact h

theorem landKnown (k : Nat) : ∀ (m : Nat) {s : State}, s.Unbundled n → (s.landKnown k m).Unbundled n
  | 0, _, h => h
  | m + 1, s, h => by
    unfold State.landKnown
    dsimp only
    split
    · exact landKnown k m (s := { s.landAt _ with free := s.free + 1 }) (h.landAt _)
    · exact h

theorem endRegion (h : s.Unbundled n) (k st : Nat) : (s.endRegion k st).Unbundled n := by
  unfold State.endRegion
  split
  · exact (h.filter (t := s.purge k) _ rfl).finishRegion _ _
  · exact h

theorem endAll (m : Nat) : ∀ {s : State} (ks : List Nat), s.Unbundled n → (s.endAll m ks).Unbundled n := by
  induction m with
  | zero => exact fun _ h => h
  | succ m ih =>
    intro s ks h
    unfold State.endAll
    split
    · exact ih _ (h.endRegion _ _)
    · exact h

theorem terminate (h : s.Unbundled n) (k : Nat) (sub : Bool) : (s.terminate k sub).Unbundled n := by
  unfold State.terminate
  refine endAll _ _ (List.foldlRecOn (motive := fun (u : State) => u.Unbundled n) _ _ h fun u hu k _ => ?_)
  exact hu.filter (t := u.purge k) _ rfl

theorem parkForHost (h : s.Unbundled n) (r : Region) (k : Nat) : (s.parkForHost r k).Unbundled n := by
  have h1 := h.modThread k (fun t => { t.dropDue with hostPark := true, bundle := none, age := none, faults := t.dueFault.toList ++ t.dropDue.faults })
    Thread.dropDue_tid fun u _ => rfl
  unfold State.parkForHost
  dsimp only
  split
  · exact h1
  · exact h1.congr (by simp)

theorem faultDomain (h : s.Unbundled n) (k : Nat) (f : FaultInfo) : (s.faultDomain k f).Unbundled n := by
  unfold State.faultDomain
  split
  · exact h.modThread k _ Thread.dropDue_tid fun u hu => u.dropDue_bundle.trans hu
  · next r _ =>
    have h1 : (s.faultRecord r (s.wgi k) k f.hm f).Unbundled n := h.congr (by simp)
    dsimp only
    split
    · exact h1.terminate _ _
    · split
      · exact h1.terminate _ _
      · exact h1.terminate _ _
      · exact h1.parkForHost r k
      · exact h1.modThread k _ Thread.dropDue_tid fun u hu => u.dropDue_bundle.trans hu

theorem settle (h : s.Unbundled n) (k : Nat) : (s.settle k).Unbundled n := by
  unfold State.settle
  split
  · exact h
  · dsimp only
    split
    · exact landKnown k _ h
    · exact (landKnown k _ h).faultDomain k _

theorem settleBelow (h : s.Unbundled n) (k : Nat) : (s.settleBelow k).Unbundled n :=
  List.foldlRecOn (motive := fun (u : State) => u.Unbundled n) _ _ h fun _ hu k _ => hu.settle k

/-- A thread that stands in no bundle stands in none after a fault has been raised. -/
theorem raise (h : s.Unbundled n) (k : Nat) (f : FaultInfo) : (s.raise k f).Unbundled n := by
  unfold State.raise
  dsimp only
  split
  · exact h
  · have h0 : (if (s.thread k).wait == .dqFull then s.dropPush k else s).Unbundled n := by
      split
      · unfold State.dropPush
        split
        · exact h
        · exact h
      · exact h
    generalize (if (s.thread k).wait == .dqFull then s.dropPush k else s) = s0 at h0 ⊢
    have h1 := h0.modThread k (fun t =>
      { t with faults := t.faults ++ [{ f with hm := t.hm, exp := s.iteration k, clk := s.clk }], bundle := none, age := none, fetch := .none })
      (fun _ => rfl) fun _ _ => rfl
    generalize s0.modThread k _ = s1 at h1 ⊢
    have h2 : (if s1.fld (rPctl (unitOf k)) 7 7 == 1 && (s1.unit (unitOf k)).step.isNone then s1.trigger (unitOf k) 6 false else s1).Unbundled n := by
      split
      · exact h1.congr (State.trigger_c ..)
      · exact h1
    generalize (if s1.fld (rPctl (unitOf k)) 7 7 == 1 && (s1.unit (unitOf k)).step.isNone then s1.trigger (unitOf k) 6 false else s1) = s2 at h2 ⊢
    split
    · split
      · split <;> exact h2
      · exact h2
    · refine State.Unbundled.settle (State.Unbundled.settleBelow ?_ k) k
      split
      · split <;> exact h2
      · exact h2

end State.Unbundled

end Sys2Proof.Machine
end

section
/-! PROOFS. A thread alone in its issue that leaves the next instruction: by a jump, a wait or a fault (R51, R60, R62). -/

namespace Sys2Proof.Machine
open Sys2Proof

/-! ### Issues that change control alone -/

@[simp] theorem State.addPend_nil (s : State) : s.addPend [] = s := by simp [State.addPend, State.setPend]

theorem Thread.control_self (t : Thread) : t.control t = t := rfl

theorem State.onlyResults_countIssue (s : State) (i : Instr) : s.OnlyResults (s.countIssue i s.cur.tids) := by
  refine ⟨by rw [State.countIssue_eq], s.thread_countIssue i, fun n hn => ?_, fun a => ?_⟩
  · unfold State.thread
    rw [State.thread?_countIssue]
    cases s.thread? n <;> simp [hn]
  · rw [State.byteAt_eq_atPlace, State.byteAt_eq_atPlace, State.countIssue_eq]
    rfl

namespace State.OnlyResults
variable {s u : State}

/-- The bytes of memory depend on no thread, no result on its way and no counter. -/
theorem byteAt_of_eq {t : State}
    (h : t = { s with free := t.free, c := { s.c with threads := t.c.threads, pend := t.c.pend }, b := { s.b with units := t.b.units } }) (a : Nat) :
    t.byteAt a = s.byteAt a := by
  rw [h]
  rfl

/-- A change of the control of the issuing threads after an issue that only sends results is such an issue. -/
theorem setThreads_map (h : s.OnlyResults u) (f : Thread → Thread) (hf : ∀ t, f t = t.control (f t)) (hk : ∀ t, t.tid ∉ s.cur.tids → f t = t) (free : Nat) :
    s.OnlyResults { u.setThreads (u.c.threads.map f) with free := free } := by
  obtain ⟨heq, hctl, hrest, -⟩ := h
  have heq' : ({ u.setThreads (u.c.threads.map f) with free := free } : State) =
      { s with free := free, c := { s.c with threads := u.c.threads.map f, pend := u.c.pend }, b := { s.b with units := u.b.units } } := by
    conv_lhs => rw [heq]
    rfl
  have hth : ∀ n, State.thread? { u.setThreads (u.c.threads.map f) with free := free } n = (u.thread? n).map f :=
    u.thread?_setThreads_map f fun t => by rw [hf]; rfl
  refine ⟨heq', fun n => ?_, fun n hn => ?_, byteAt_of_eq heq'⟩
  · have hn := hctl n
    unfold State.thread at hn ⊢
    rw [hth]
    cases hq : u.thread? n with
    | none => rw [hq] at hn; exact hn
    | some t =>
      rw [hq] at hn
      simp only [Option.map_some, Option.getD_some] at hn ⊢
      rw [hf, hn]
      rfl
  · rw [← hrest n hn]
    unfold State.thread
    rw [hth]
    cases hq : u.thread? n with
    | none => rfl
    | some t => exact hk t (by rwa [show t.tid = n by simpa using List.find?_some hq])

theorem modThread (h : s.OnlyResults u) (n : Nat) (hn : n ∈ s.cur.tids) (f : Thread → Thread) (hf : ∀ t, f t = t.control (f t)) (free : Nat) :
    s.OnlyResults { u.modThread n f with free := free } := by
  refine h.setThreads_map (fun t => if t.tid == n then f t else t) (fun t => ?_) (fun t ht => ?_) free
  · split
    · exact hf t
    · rfl
  · refine if_neg fun he => ht ?_
    rwa [eq_of_beq he]

end State.OnlyResults

/-! ### A thread that leaves its bundle -/

/-- The thread's control when it has left its instruction and its bundle. -/
def Thread.left (i : Instr) (t : Thread) : Thread :=
  { t with park := i.park, replay := false, stage := 0, snap := [], walked := [], age := none, bundle := none }

/-- A thread that faults stands at its instruction, not parked. -/
def Thread.stopped (i : Instr) (t : Thread) : Thread := { t.left i with park := false }

/-- A jump goes to its address; only the block that is fetched next is chosen for it. -/
def Thread.jumped (s : State) (i : Instr) (a : Nat) (t : Thread) : Thread := s.bodyFetch { t.left i with pc := a }

/-- A wait stands at the next instruction. -/
def Thread.waiting (s : State) (i : Instr) (w : Wait) (t : Thread) : Thread := { s.bodyFetch ((t.left i).advance i.bytes) with wait := w }

theorem State.finish_jump (i : Instr) (s s0 : State) (n a : Nat) : s.finish i s0 n (.jump a) = s.modThread n (Thread.jumped s i a) := by
  unfold State.finish Thread.jumped Thread.left
  simp

theorem State.finish_wait (i : Instr) (s s0 : State) (n : Nat) (w : Wait) : s.finish i s0 n (.wait w) = s.modThread n (Thread.waiting s i w) := by
  unfold State.finish Thread.waiting Thread.left
  simp

/-- A precise fault that the instruction meets again when it is executed again (R60): the thread stands at the instruction. -/
theorem State.finish_fault (i : Instr) (s s0 : State) (n : Nat) (f : FaultInfo) (htrap : f.code ≠ .trap) (hbrk : f.code ≠ .brk)
    (hdef : f.deferred = false) :
    s.finish i s0 n (.fault f) = (s.modThread n (Thread.stopped i)).raise n
      { f with pc := (s.thread n).pc, resume := (s.thread n).pc } := by
  unfold State.finish Thread.stopped Thread.left
  simp [htrap, hbrk, hdef]

theorem Thread.jumped_eq (s : State) (i : Instr) (a : Nat) (t : Thread) :
    t.jumped s i a = { t.left i with pc := a, fetch := (t.jumped s i a).fetch } := by
  unfold Thread.jumped
  rw [State.bodyFetch_eq]

theorem Thread.waiting_eq (s : State) (i : Instr) (w : Wait) (t : Thread) :
    t.waiting s i w = { t.left i with pc := (t.waiting s i w).pc, loop := (t.waiting s i w).loop, fetch := (t.waiting s i w).fetch, wait := w } := by
  unfold Thread.waiting
  rw [State.bodyFetch_eq, Thread.advance_eq]

theorem Thread.waiting_pc (s : State) (i : Instr) (w : Wait) (t : Thread) (h : t.loop.act = false) : (t.waiting s i w).pc = t.pc + i.bytes := by
  unfold Thread.waiting
  rw [State.bodyFetch_eq]
  simp [Thread.advance, Thread.bodyPos, Thread.left, h]

theorem State.splitBundle_of_unbundled {s : State} {n : Nat} (h : s.Unbundled n) : s.splitBundle [n] = s := by
  unfold State.splitBundle
  simp [h.thread]

theorem State.unbundled_modThread (s : State) (n : Nat) (f : Thread → Thread) (hf : ∀ t, (f t).bundle = none) :
    (s.modThread n f).Unbundled n := by
  intro t ht hn
  obtain ⟨u, -, rfl⟩ := List.mem_map.1 ht
  by_cases hu : u.tid = n
  · rw [if_pos (beq_iff_eq.2 hu)]
    exact hf u
  · rw [if_neg (by simpa using hu)] at hn
    exact absurd hn hu

/-- A change that keeps the program counter of the records of a thread keeps the thread's. -/
theorem State.thread_modThread_pc (s : State) (n : Nat) (f : Thread → Thread) (htid : ∀ t, (f t).tid = t.tid) (hpc : ∀ t, (f t).pc = t.pc) :
    ((s.modThread n f).thread n).pc = (s.thread n).pc := by
  simp only [State.thread, s.thread?_modThread n f htid, if_true]
  cases s.thread? n with
  | none => rfl
  | some t => exact hpc t

/-! ### The issue of one thread that leaves -/

section
variable {s : State} {i : Instr} {body : Body} {n : Nat} {u : State}

/-- The state in which the control of the thread takes effect. -/
def State.afterBody (u : State) : State := { u with free := u.free + 1 }

/-- The thread leaves: nothing but its control comes after the body. -/
theorem State.run_solo_leaves (h : s.solo i n = true) {c : Ctl} (hb : body (s.countIssue i s.cur.tids) [n] = (u, [(n, c)])) (f : Thread → Thread)
    (hfin : u.afterBody.finish i (s.countIssue i s.cur.tids) n c = u.afterBody.modThread n f)
    (hf : ∀ t, (f t).bundle = none) : s.run i body = .next (u.afterBody.modThread n f) := by
  obtain ⟨-, -, hcur⟩ := s.solo_clean i n h
  rw [hcur] at hb hfin
  rw [State.run_next, s.runBundle_solo i body n h, hb]
  have hfind : ([(n, c)].find? fun (q : Nat × Ctl) => q.1 == n) = some (n, c) := by simp
  rw [hfind]
  change Host.Outcome.next ((u.afterBody.finish i (s.countIssue i [n]) n c).splitBundle [n]) = _
  rw [hfin, State.splitBundle_of_unbundled (State.unbundled_modThread _ n f hf)]

theorem State.solo_live (h : s.solo i n = true) : (s.thread n).gone = false := by
  simp only [State.solo, Bool.and_eq_true, Bool.not_eq_true'] at h
  exact h.2

/-- A live thread stays in the state. -/
theorem State.OnlyResults.thread?_isSome (hu : s.OnlyResults u) (hlive : (s.thread n).gone = false) : (u.thread? n).isSome = true := by
  obtain ⟨-, hctl, -, -⟩ := hu
  have hgone : (u.thread n).gone = (s.thread n).gone := (congrArg Thread.gone (hctl n)).trans rfl
  cases hq : u.thread? n with
  | some t => rfl
  | none =>
    rw [hlive] at hgone
    unfold State.thread at hgone
    rw [hq] at hgone
    cases hgone

/-- What the issue of the one thread that leaves comes to. -/
theorem State.run_solo_left (h : s.solo i n = true) {c : Ctl} (hb : body (s.countIssue i s.cur.tids) [n] = (u, [(n, c)])) (hu : s.OnlyResults u)
    (f : Thread → Thread) (hfin : u.afterBody.finish i (s.countIssue i s.cur.tids) n c = u.afterBody.modThread n f)
    (hctl : ∀ t, f t = t.control (f t)) (hf : ∀ t, (f t).bundle = none) :
    ∃ t, s.run i body = .next t ∧ t.c.pend = u.c.pend ∧ s.OnlyResults t ∧ t.thread n = f (u.thread n) := by
  obtain ⟨-, -, hcur⟩ := s.solo_clean i n h
  have htid : ∀ t, (f t).tid = t.tid := fun t => by rw [hctl]; rfl
  refine ⟨_, State.run_solo_leaves h hb f hfin hf, rfl, hu.modThread n (by simp [hcur]) f hctl _, ?_⟩
  exact State.thread_modThread_same u.afterBody n f htid (hu.thread?_isSome (State.solo_live h))

/-- A jump of the one thread that executes (R74). -/
theorem State.run_solo_jump (h : s.solo i n = true) {a : Nat} (hb : body (s.countIssue i s.cur.tids) [n] = (u, [(n, .jump a)]))
    (hu : s.OnlyResults u) :
    ∃ t, s.run i body = .next t ∧ t.c.pend = u.c.pend ∧ s.OnlyResults t ∧ (t.thread n).pc = a ∧ (t.thread n).bundle = none ∧
      (t.thread n).loop = (u.thread n).loop := by
  have hj := Thread.jumped_eq u.afterBody i a
  obtain ⟨t, hrun, hpend, honly, ht⟩ := State.run_solo_left h hb hu (Thread.jumped u.afterBody i a) (State.finish_jump ..)
    (fun t => by rw [hj]; rfl) fun t => by rw [hj]; rfl
  rw [hj] at ht
  exact ⟨t, hrun, hpend, honly, by rw [ht], by rw [ht]; rfl, by rw [ht]; rfl⟩

/-- A wait of the one thread that executes, at its next instruction (R62). -/
theorem State.run_solo_wait (h : s.solo i n = true) {w : Wait} (hb : body (s.countIssue i s.cur.tids) [n] = (u, [(n, .wait w)]))
    (hu : s.OnlyResults u) :
    ∃ t, s.run i body = .next t ∧ t.c.pend = u.c.pend ∧ s.OnlyResults t ∧ (t.thread n).wait = w ∧
      ((u.thread n).loop.act = false → (t.thread n).pc = (u.thread n).pc + i.bytes) := by
  have hw := Thread.waiting_eq u.afterBody i w
  obtain ⟨t, hrun, hpend, honly, ht⟩ := State.run_solo_left h hb hu (Thread.waiting u.afterBody i w) (State.finish_wait ..)
    (fun t => by rw [hw]; rfl) fun t => by rw [hw]; rfl
  exact ⟨t, hrun, hpend, honly, by rw [ht]; rfl, fun hl => by rw [ht, Thread.waiting_pc _ _ _ _ hl]⟩

end

/-! ### The issue of one thread that faults -/

/-- A precise fault of the bundle's one thread (R60): what its control comes to. -/
theorem State.OnlyResults.raises {s u : State} {i : Instr} {n : Nat} (hu : s.OnlyResults u) (hcur : s.cur.tids = [n]) (hpend : u.c.pend = s.c.pend)
    (hpc : (u.thread n).pc = (s.thread n).pc) (s0 : State) (f : FaultInfo) (htrap : f.code ≠ .trap) (hbrk : f.code ≠ .brk)
    (hdef : f.deferred = false) :
    s.Raises ((u.afterBody.finish i s0 n (.fault f)).splitBundle [n]) n { f with pc := (s.thread n).pc, resume := (s.thread n).pc } := by
  rw [State.finish_fault i _ s0 n f htrap hbrk hdef, State.splitBundle_of_unbundled
    ((State.unbundled_modThread u.afterBody n _ fun t => rfl).raise n _)]
  refine ⟨u.afterBody.modThread n (Thread.stopped i), ?_, hpend, hu.modThread n (by simp [hcur]) (Thread.stopped i) (fun t => rfl) (u.free + 1), ?_⟩
  · rw [← hpc]
    rfl
  · rw [← hpc]
    exact u.afterBody.thread_modThread_pc n (Thread.stopped i) (fun _ => rfl) fun _ => rfl

/-- A precise fault that the body gives the one thread that executes. -/
theorem State.run_solo_fault {s u : State} {i : Instr} {body : Body} {n : Nat} {f : FaultInfo} (h : s.solo i n = true)
    (hb : body (s.countIssue i s.cur.tids) [n] = (u, [(n, .fault f)])) (hu : s.OnlyResults u) (hpend : u.c.pend = s.c.pend)
    (hpc : (u.thread n).pc = (s.thread n).pc) (htrap : f.code ≠ .trap) (hbrk : f.code ≠ .brk) (hdef : f.deferred = false) :
    ∃ t, s.run i body = .next t ∧ s.Raises t n { f with pc := (s.thread n).pc, resume := (s.thread n).pc } := by
  obtain ⟨-, -, hcur⟩ := s.solo_clean i n h
  refine ⟨_, rfl, ?_⟩
  rw [hcur] at hb
  rw [s.runBundle_solo i body n h, hb]
  have hfind : ([(n, Ctl.fault f)].find? fun (q : Nat × Ctl) => q.1 == n) = some (n, .fault f) := by simp
  rw [hfind]
  exact hu.raises hcur hpend hpc _ f htrap hbrk hdef

end Sys2Proof.Machine
end

section
/-! PROOFS. `nop`, `pause`, the branches and `lbrk` (R61 to R63, R74, R75). -/

namespace Sys2Proof.Machine
open Sys2Proof

theorem State.countIssue_thread_pc (s : State) (i : Instr) (n : Nat) : ((s.countIssue i s.cur.tids).thread n).pc = (s.thread n).pc := by
  unfold State.thread
  rw [State.thread?_countIssue]
  cases s.thread? n with
  | none => rfl
  | some t => simp only [Option.map_some, Option.getD_some]; split <;> rfl

theorem State.countIssue_thread_loop (s : State) (i : Instr) (n : Nat) : ((s.countIssue i s.cur.tids).thread n).loop = (s.thread n).loop := by
  unfold State.thread
  rw [State.thread?_countIssue]
  cases s.thread? n with
  | none => rfl
  | some t => simp only [Option.map_some, Option.getD_some]; split <;> rfl

theorem State.countIssue_pend (s : State) (i : Instr) : (s.countIssue i s.cur.tids).c.pend = s.c.pend := by rw [State.countIssue_eq]

theorem State.countIssue_cur (s : State) (i : Instr) : (s.countIssue i s.cur.tids).cur = s.cur := by rw [State.countIssue_eq]

theorem State.countIssue_clk (s : State) (i : Instr) : (s.countIssue i s.cur.tids).clk = s.clk := by rw [State.countIssue_eq]

theorem Instr.bytes_s64 {i : Instr} {x : S64A} (h : i.shape = .s64 x) : i.bytes = 8 := by simp only [Instr.bytes, Instr.bits, h, Nat.reduceDiv]

/-! ### `nop`, `pause`, `bra` -/

theorem exec_nop (x : S64A) (s : State) (h : s.clean (.nop x) = true) :
    ∃ t, exec (.nop x) s = .next t ∧ t.c.pend = s.c.pend ∧ s.OnlyResults t ∧ s.Advances t (.nop x) := by
  obtain ⟨t, hrun, hpend, hrest⟩ := s.run_results (.nop x) (fun s _ => (s, [])) [] h (by rw [State.addPend_nil])
  exact ⟨t, hrun, by rw [hpend, List.append_nil], hrest⟩

theorem exec_pause (x : S64A) (s : State) (n : Nat) (h : s.solo (.pause x) n = true) :
    ∃ t, exec (.pause x) s = .next t ∧ t.c.pend = s.c.pend ∧ s.OnlyResults t ∧ (t.thread n).wait = .pause (s.clk + x.i16.toNat) ∧
      ((s.thread n).loop.act = false → (t.thread n).pc = (s.thread n).pc + 8) := by
  obtain ⟨t, hrun, hpend, honly, hwait, hpc⟩ := State.run_solo_wait h (w := .pause (s.clk + x.i16.toNat))
    (body := fun s ts => (s, ts.map fun t => (t, .wait (.pause (s.clk + x.i16.toNat))))) (u := s.countIssue (.pause x) s.cur.tids)
    (by rw [List.map_singleton, State.countIssue_clk]) (s.onlyResults_countIssue _)
  rw [State.countIssue_thread_loop, State.countIssue_thread_pc, Instr.bytes_s64 (i := .pause x) rfl] at hpc
  exact ⟨t, hrun, hpend.trans (s.countIssue_pend _), honly, hwait, hpc⟩

theorem exec_bra (x : SBrA) (s : State) (n : Nat) (h : s.solo (.bra x) n = true) :
    ∃ t, exec (.bra x) s = .next t ∧ t.c.pend = s.c.pend ∧ s.OnlyResults t ∧ ((t.thread n).pc : Int) = (s.cur.pc + 4 * x.off.toInt) % 2 ^ 64 ∧
      (t.thread n).bundle = none := by
  obtain ⟨t, hrun, hpend, honly, hpc, hbundle, -⟩ := State.run_solo_jump h (a := (BitVec.ofInt 64 (s.cur.pc + 4 * x.off.toInt)).toNat)
    (body := fun s ts => (s, ts.map fun t => (t, .jump (BitVec.ofInt 64 (s.cur.pc + 4 * x.off.toInt)).toNat))) (u := s.countIssue (.bra x) s.cur.tids)
    (by rw [List.map_singleton, State.countIssue_cur]) (s.onlyResults_countIssue _)
  refine ⟨t, hrun, hpend.trans (s.countIssue_pend _), honly, ?_, hbundle⟩
  rw [hpc, BitVec.toNat_ofInt]
  omega

/-! ### `brx` -/

/-- R75: an address that no instruction can have: above 2^57 or not a multiple of 4. -/
theorem unfetchable_iff (a : Word) : (slice a.toNat 63 57 != 0 || a.toNat % 4 != 0) = true ↔ 2 ^ 57 ≤ a.toNat ∨ a.toNat % 4 ≠ 0 := by
  have := a.isLt
  simp only [slice, Bool.or_eq_true, bne_iff_ne]
  omega

/-- What `brx` does to its threads. -/
def brxBody (x : V96A) : Body := fun s ts => (s, ts.map fun t =>
  let a := (s.opnd t x.a).toNat
  (t, if slice a 63 57 != 0 || a % 4 != 0 then .fault (flt .fetch) else .jump a))

theorem exec_brx (x : V96A) (s : State) : exec (.brx x) s = s.run (.brx x) (brxBody x) := rfl

theorem brxBody_single (x : V96A) (s : State) (n : Nat) :
    brxBody x (s.countIssue (.brx x) s.cur.tids) [n] =
      (s.countIssue (.brx x) s.cur.tids, [(n, if 2 ^ 57 ≤ (s.opnd n x.a).toNat ∨ (s.opnd n x.a).toNat % 4 ≠ 0 then Ctl.fault (flt .fetch)
        else .jump (s.opnd n x.a).toNat)]) := by
  simp only [brxBody, List.map_singleton, (State.SameOperands.countIssue s (.brx x)).opnd, unfetchable_iff]

theorem exec_brx_jump (x : V96A) (s : State) (n : Nat) (h : s.solo (.brx x) n = true) (hlt : (s.opnd n x.a).toNat < 2 ^ 57)
    (hal : (s.opnd n x.a).toNat % 4 = 0) :
    ∃ t, exec (.brx x) s = .next t ∧ t.c.pend = s.c.pend ∧ s.OnlyResults t ∧ (t.thread n).pc = (s.opnd n x.a).toNat := by
  have hb := brxBody_single x s n
  rw [if_neg (by omega)] at hb
  obtain ⟨t, hrun, hpend, honly, hpc, -, -⟩ := State.run_solo_jump h hb (s.onlyResults_countIssue _)
  exact ⟨t, hrun, hpend.trans (s.countIssue_pend _), honly, hpc⟩

theorem exec_brx_fault (x : V96A) (s : State) (n : Nat) (h : s.solo (.brx x) n = true)
    (hbad : 2 ^ 57 ≤ (s.opnd n x.a).toNat ∨ (s.opnd n x.a).toNat % 4 ≠ 0) :
    ∃ t, exec (.brx x) s = .next t ∧ s.Raises t n { flt .fetch with pc := (s.thread n).pc, resume := (s.thread n).pc } := by
  have hb := brxBody_single x s n
  rw [if_pos hbad] at hb
  exact State.run_solo_fault h hb (s.onlyResults_countIssue _) (s.countIssue_pend _) (s.countIssue_thread_pc _ n) (by decide) (by decide) rfl

/-! ### `lbrk` -/

/-- The thread of a list leaves its loop. -/
def leaveLoop (ts : List Nat) (t : Thread) : Thread := if ts.contains t.tid then { t with loop := { t.loop with act := false } } else t

/-- The state of a `lbrk` when its threads have left their loops. -/
def State.unlooped (s : State) (ts : List Nat) : State := s.setThreads (s.c.threads.map (leaveLoop ts))

theorem leaveLoop_control (ts : List Nat) (t : Thread) : leaveLoop ts t = t.control (leaveLoop ts t) := by
  unfold leaveLoop
  split <;> rfl

theorem State.onlyResults_unlooped (x : S64A) (s : State) : s.OnlyResults ((s.countIssue (.lbrk x) s.cur.tids).unlooped s.cur.tids) :=
  (s.onlyResults_countIssue (.lbrk x)).setThreads_map (leaveLoop s.cur.tids) (leaveLoop_control _) (fun t ht => by simp [leaveLoop, ht]) _

theorem State.thread_unlooped (x : S64A) (s : State) (n : Nat) :
    ((s.countIssue (.lbrk x) s.cur.tids).unlooped s.cur.tids).thread n = leaveLoop s.cur.tids ((s.countIssue (.lbrk x) s.cur.tids).thread n) := by
  have hth := (s.countIssue (.lbrk x) s.cur.tids).thread?_setThreads_map (leaveLoop s.cur.tids) (fun t => by rw [leaveLoop_control]; rfl) n
  unfold State.unlooped State.thread
  rw [hth]
  cases (s.countIssue (.lbrk x) s.cur.tids).thread? n with
  | some t => rfl
  | none => unfold leaveLoop; split <;> rfl

/-- What `lbrk` does to its threads. -/
def lbrkBody : Body := fun s ts => (s.unlooped ts, ts.map fun t =>
  let l := (s.thread t).loop
  (t, if l.act then .jump l.endAddr else .fault (flt .illegal)))

theorem exec_lbrk (x : S64A) (s : State) : exec (.lbrk x) s = s.run (.lbrk x) lbrkBody := rfl

theorem lbrkBody_single (x : S64A) (s : State) (n : Nat) (h : s.cur.tids = [n]) :
    lbrkBody (s.countIssue (.lbrk x) s.cur.tids) [n] =
      ((s.countIssue (.lbrk x) s.cur.tids).unlooped s.cur.tids,
        [(n, if (s.thread n).loop.act then Ctl.jump (s.thread n).loop.endAddr else .fault (flt .illegal))]) := by
  simp only [lbrkBody, List.map_singleton, State.countIssue_thread_loop]
  rw [h]

theorem exec_lbrk_leaves (x : S64A) (s : State) (n : Nat) (h : s.solo (.lbrk x) n = true) (hact : (s.thread n).loop.act = true) :
    ∃ t, exec (.lbrk x) s = .next t ∧ t.c.pend = s.c.pend ∧ s.OnlyResults t ∧ (t.thread n).loop = { (s.thread n).loop with act := false } ∧
      (t.thread n).pc = (s.thread n).loop.endAddr := by
  obtain ⟨-, -, hcur⟩ := s.solo_clean _ n h
  have hb := lbrkBody_single x s n hcur
  rw [if_pos hact] at hb
  obtain ⟨t, hrun, hpend, honly, hpc, -, hloop⟩ := State.run_solo_jump h hb (s.onlyResults_unlooped x)
  refine ⟨t, hrun, hpend.trans (s.countIssue_pend (.lbrk x)), honly, ?_, hpc⟩
  rw [hloop, State.thread_unlooped]
  unfold leaveLoop
  rw [State.thread_tid, if_pos (by simp [hcur])]
  exact congrArg (fun l : LoopSt => { l with act := false }) (s.countIssue_thread_loop (.lbrk x) n)

theorem exec_lbrk_illegal (x : S64A) (s : State) (n : Nat) (h : s.solo (.lbrk x) n = true) (hact : (s.thread n).loop.act = false) :
    ∃ t, exec (.lbrk x) s = .next t ∧ s.Raises t n { flt .illegal with pc := (s.thread n).pc, resume := (s.thread n).pc } := by
  obtain ⟨-, -, hcur⟩ := s.solo_clean _ n h
  have hb := lbrkBody_single x s n hcur
  rw [if_neg (by simp [hact])] at hb
  refine State.run_solo_fault h hb (s.onlyResults_unlooped x) (s.countIssue_pend (.lbrk x)) ?_ (by decide) (by decide) rfl
  rw [State.thread_unlooped, ← s.countIssue_thread_pc (.lbrk x) n]
  unfold leaveLoop
  split <;> rfl

/-- Settles O15: the next instruction of a thread after `nop`, `pause`, a branch and `lbrk`. -/
theorem branchesAndPauses : Obligations.BranchesAndPauses := by
  unfold Obligations.BranchesAndPauses
  exact ⟨exec_nop, exec_pause, exec_bra, fun x s n h => ⟨exec_brx_jump x s n h, exec_brx_fault x s n h⟩,
    fun x s n h => ⟨exec_lbrk_leaves x s n h, exec_lbrk_illegal x s n h⟩⟩

end Sys2Proof.Machine
end

section
/-! PROOFS. Every instruction and every step answers; what a bundle does that does not execute, or that a register number stops (R37, R39, R42, R95,
R96). -/

namespace Sys2Proof

/-- An operand names at most four registers. -/
theorem Instr.operands_le (i : Instr) : ∀ q ∈ i.operands, q.2 ≤ 4 := by
  unfold Instr.operands
  split
  · split <;> simp
  · simp
  · simp only [List.mem_cons, List.not_mem_nil, or_false, forall_eq_or_imp, forall_eq]
    refine ⟨?_, ?_, ?_, ?_⟩ <;> split <;> omega
  · split <;> simp
  · split <;> simp
  · simp

theorem Instr.regNums_lt (i : Instr) : ∀ q ∈ i.regNums, q.2.2 < 2 ^ 64 := by
  have hrun : ∀ n k m, m ∈ regRun n k → n < 256 → k ≤ 4 → m < 2 ^ 64 := by
    intro n k m hm hn hk
    obtain ⟨j, hj, rfl⟩ := List.mem_map.1 hm
    have := List.mem_range.1 hj
    omega
  intro q hq
  obtain ⟨⟨⟨o, k⟩, j⟩, hmem, hq⟩ := List.mem_flatMap.1 hq
  have hk := i.operands_le (o, k) (List.of_mem_zip hmem).1
  dsimp only at hq hk
  split at hq
  · obtain ⟨m, hm, rfl⟩ := List.mem_map.1 hq
    exact hrun _ _ m hm (BitVec.isLt _) hk
  · obtain ⟨m, hm, rfl⟩ := List.mem_map.1 hq
    exact hrun _ _ m hm (lt_trans (BitVec.isLt _) (by norm_num)) hk
  · cases hq

end Sys2Proof

namespace Sys2Proof.Machine
open Sys2Proof

/-! ### Every move answers -/

theorem exec_next (i : Instr) (s : State) : ∃ t, exec i s = .next t := by
  cases i
  case loop x =>
    change ∃ t, execLoop x s = .next t
    unfold execLoop
    split
    · exact ⟨_, rfl⟩
    · split <;> exact ⟨_, rfl⟩
  all_goals exact ⟨_, rfl⟩

theorem step_next (s : State) : ∃ t, step s = .next t := by
  unfold step
  split
  · exact ⟨_, rfl⟩
  · split
    · exact ⟨_, rfl⟩
    · exact exec_next _ _

/-- An instruction that the pipe does not accept has no meaning but the issue of its bundle: even a `loop` fetches no body. -/
theorem exec_eq_run_of_refused (i : Instr) (s : State) (hi : i.isEvent = false) (h : i.wfIn (s.cur.unit % 5 == 4) = false) :
    ∃ body, exec i s = s.run i body := by
  cases i <;> cases hi
  case loop x =>
    refine ⟨fun s _ => (s, []), ?_⟩
    change execLoop x s = _
    unfold execLoop
    rw [if_pos (by rw [h]; rfl)]
  all_goals exact ⟨_, rfl⟩

/-- R42: what the pipe does not accept is ILLEGAL for every thread of the bundle, and does nothing else. -/
theorem exec_illegal (i : Instr) (s : State) (hi : i.isEvent = false) (h : i.wfIn (s.cur.unit % 5 == 4) = false) :
    exec i s = .next (s.raiseAll s.cur.tids (flt .illegal)) := by
  obtain ⟨body, hbody⟩ := exec_eq_run_of_refused i s hi h
  rw [hbody, s.run_illegal i body h]

/-! ### Bodies with no thread -/

/-- With no thread to execute for, the body does nothing. -/
def Idle (body : Body) : Prop := ∀ s : State, body s [] = (s, [])

@[simp] theorem State.targets_nil (s : State) (d : Opnd) : s.targets [] d = [] := by cases d <;> rfl

@[simp] theorem State.result_nil (s : State) (d : Opnd) (f : Nat → Word) (set : Nat) : s.result [] d f set = s := by
  unfold State.result State.emit
  rw [State.targets_nil, List.map_nil, State.addPend_nil]

theorem idle_resultBody (d : Opnd) (f : State → Nat → Word) : Idle (resultBody d f) := fun s => by unfold resultBody; rw [State.result_nil]

theorem idle_drawBody (rm : Rm) (d : Opnd) (k : Nat) (f : State → Nat → (Nat → Nat) → Word) : Idle (drawBody rm d k f) := by
  intro s
  unfold drawBody
  split
  · rw [State.result_nil]
  · simp

theorem State.setThreads_map_self (s : State) (f : Thread → Thread) (h : ∀ t, f t = t) : s.setThreads (s.c.threads.map f) = s := by
  rw [show f = id from funext h, List.map_id]
  rfl

theorem idle_lbrkBody : Idle lbrkBody := fun s => by
  unfold lbrkBody State.unlooped
  rw [s.setThreads_map_self (leaveLoop []) fun t => rfl]
  rfl

/-- R37: a bundle in which no thread executes only goes on. -/
theorem State.run_idle (s : State) (i : Instr) {body : Body} (hbody : Idle body) (h : s.clean i = true) (he : s.executing i = []) :
    ∃ t, s.run i body = .next t ∧ t.c.pend = s.c.pend ∧ s.OnlyResults t ∧ s.Advances t i := by
  obtain ⟨t, hrun, hpend, hrest⟩ := s.run_results i body [] h (by rw [he, hbody, State.addPend_nil])
  exact ⟨t, hrun, by rw [hpend, List.append_nil], hrest⟩

/-! ### Register numbers out of range -/

/-- The fields whose register number is out of range for a thread, with the number, in the order of the fields (R95, R271). -/
def State.outNums (s : State) (i : Instr) (n : Nat) : List (Nat × Int) := i.regNums.filterMap fun q =>
  if decide ((if q.2.1 then (if isCtx n then 256 else (s.thread n).limit) else (if isCtx n then 64 else s.wCount n)) ≤ q.2.2) then
    some (q.1, (q.2.2 : Int)) else none

/-- The fault of a register number (R95). -/
def regrangeFlt (q : Nat × Int) : FaultInfo := { flt .regrange with aux := (BitVec.ofInt 64 q.2).toNat }

/-- The instruction names a `k` number at or beyond the region's count (R39). -/
def State.kNumsOut (s : State) (i : Instr) (n : Nat) : Bool := i.kNums.any fun m => decide ((s.regionOf n).elim 0 (·.kc) ≤ m)

/-- R39, R95: REJOIN, else REGRANGE for the first field out of range. -/
theorem State.rangeFault_eq (s : State) (i : Instr) (n : Nat) :
    s.rangeFault i n = if s.kNumsOut i n then some (flt .rejoin)
      else (sortBy (fun a b => decide (a.1 ≤ b.1)) (s.outNums i n)).head?.map regrangeFlt := by
  unfold State.rangeFault State.rangeBad State.kNumsOut
  dsimp only
  rw [List.append_nil]
  cases s.regionOf n <;> rfl

/-- A fault of the register numbers is precise and met again when the instruction is executed again (R39, R60, R95). -/
theorem State.rangeFault_code {s : State} {i : Instr} {n : Nat} {f : FaultInfo} (h : s.rangeFault i n = some f) :
    (f.code = .rejoin ∨ f.code = .regrange) ∧ f.deferred = false := by
  rw [State.rangeFault_eq] at h
  split at h
  · cases h
    exact ⟨.inl rfl, rfl⟩
  · obtain ⟨q, -, rfl⟩ := Option.map_eq_some_iff.1 h
    exact ⟨.inr rfl, rfl⟩

/-- R95: a thread whose guard is true, alone in its bundle, raises the fault of its register numbers; the body runs for no thread. -/
theorem State.run_range_fault (s : State) (i : Instr) {body : Body} (hbody : Idle body) (n : Nat) (f : FaultInfo)
    (hwf : i.wfIn (s.cur.unit % 5 == 4) = true) (hcur : s.cur.tids = [n]) (hg : s.guards n i = true) (hf : s.rangeFault i n = some f) :
    ∃ t, s.run i body = .next t ∧ s.Raises t n { f with pc := (s.thread n).pc, resume := (s.thread n).pc } := by
  obtain ⟨hcode, hdef⟩ := s.rangeFault_code hf
  have hrun : s.runBundle i body = (((s.countIssue i s.cur.tids).afterBody.finish i (s.countIssue i s.cur.tids) n (.fault f)).splitBundle [n]) := by
    unfold State.rangeFault at hf
    unfold State.runBundle State.runStepped
    simp [hwf, hcur, hg, hf, hbody _]
    rfl
  refine ⟨_, rfl, ?_⟩
  rw [hrun]
  refine (s.onlyResults_countIssue i).raises hcur (s.countIssue_pend i) (s.countIssue_thread_pc i n) _ f ?_ ?_ hdef
  · obtain h | h := hcode <;> rw [h] <;> decide
  · obtain h | h := hcode <;> rw [h] <;> decide

/-- The head of a sorted list stands at or before every element. -/
theorem sortBy_head {α : Type} (le : α → α → Bool) (htotal : ∀ a b, le a b = false → le b a = true)
    (htrans : ∀ a b c, le a b = true → le b c = true → le a c = true) :
    ∀ l : List α, l ≠ [] → ∃ a ∈ l, (sortBy le l).head? = some a ∧ ∀ b ∈ l, le a b = true
  | [], h => absurd rfl h
  | a :: r, _ => by
    have hrefl : ∀ x, le x x = true := fun x => by
      by_contra hx
      exact hx (htotal x x (Bool.eq_false_iff.2 hx))
    cases r with
    | nil => exact ⟨a, by simp, rfl, by simp [hrefl]⟩
    | cons c r =>
      obtain ⟨b, hb, hhead, hmin⟩ := sortBy_head le htotal htrans (c :: r) (by simp)
      obtain ⟨rest, hrest⟩ := List.head?_eq_some_iff.1 hhead
      rw [sortBy, hrest, insertBy]
      cases hab : le a b
      · exact ⟨b, by simp [hb], rfl, by
          intro x hx
          obtain rfl | hx := List.mem_cons.1 hx
          · exact htotal _ _ hab
          · exact hmin x hx⟩
      · exact ⟨a, by simp, rfl, by
          intro x hx
          obtain rfl | hx := List.mem_cons.1 hx
          · exact hrefl x
          · exact htrans _ _ _ hab (hmin x hx)⟩

/-- Of the numbers that are out of range, the one of the first field is reported (log entry 17). -/
theorem State.rangeFault_first (s : State) (i : Instr) (n : Nat) (hctx : isCtx n = false) (hk : i.kNums = []) :
    let out := fun (q : Nat × Bool × Nat) => (if q.2.1 then (s.thread n).limit else s.wCount n) ≤ q.2.2
    ((∀ q ∈ i.regNums, ¬ out q) → s.rangeFault i n = none) ∧
    ((∃ q ∈ i.regNums, out q) → ∃ f, s.rangeFault i n = some f ∧ f.code = .regrange ∧
      ∃ q ∈ i.regNums, out q ∧ f.aux = q.2.2 ∧ ∀ p ∈ i.regNums, out p → q.1 ≤ p.1) := by
  intro out
  have hkf : ¬ s.kNumsOut i n = true := by simp [State.kNumsOut, hk]
  have hmem : ∀ a, a ∈ s.outNums i n ↔ ∃ q ∈ i.regNums, out q ∧ (q.1, (q.2.2 : Int)) = a := by
    intro a
    simp only [State.outNums, hctx, Bool.false_eq_true, if_false, List.mem_filterMap, decide_eq_true_eq, Option.ite_none_right_eq_some, Option.some.injEq]
    rfl
  rw [s.rangeFault_eq, if_neg hkf]
  constructor
  · intro hnone
    have : s.outNums i n = [] := List.eq_nil_iff_forall_not_mem.2 fun a ha => by
      obtain ⟨q, hq, hout, -⟩ := (hmem a).1 ha
      exact hnone q hq hout
    rw [this]
    rfl
  · rintro ⟨p, hp, hout⟩
    obtain ⟨a, ha, hhead, hmin⟩ := sortBy_head (fun a b : Nat × Int => decide (a.1 ≤ b.1)) (fun a b h => by simp at h ⊢; omega)
      (fun a b c h h' => by simp at h h' ⊢; omega) (s.outNums i n) (List.ne_nil_of_mem ((hmem _).2 ⟨p, hp, hout, rfl⟩))
    obtain ⟨q, hq, hqout, rfl⟩ := (hmem a).1 ha
    refine ⟨regrangeFlt (q.1, q.2.2), by rw [hhead]; rfl, rfl, q, hq, hqout, ?_, fun r hr hrout => ?_⟩
    · have := i.regNums_lt q hq
      simp only [regrangeFlt, BitVec.ofInt_natCast, BitVec.toNat_ofNat]
      omega
    · simpa using hmin _ ((hmem _).2 ⟨r, hr, hrout, rfl⟩)

/-! ### The statement -/

/-- The instruction is the issue of its bundle, and does nothing for no thread. -/
def RunsIdle (i : Instr) : Prop := ∃ body, Idle body ∧ ∀ s, exec i s = s.run i body

theorem RunsIdle.result {i : Instr} {d : Opnd} {f : State → Nat → Word} (h : ∀ s, exec i s = s.run i (resultBody d f)) : RunsIdle i :=
  ⟨_, idle_resultBody d f, h⟩

theorem RunsIdle.draw {i : Instr} {rm : Rm} {d : Opnd} {k : Nat} {f : State → Nat → (Nat → Nat) → Word}
    (h : ∀ s, exec i s = s.run i (drawBody rm d k f)) : RunsIdle i := ⟨_, idle_drawBody rm d k f, h⟩

theorem RunsIdle.answers {i : Instr} (hi : RunsIdle i) (s : State) (h : s.clean i = true) (he : s.executing i = []) :
    ∃ t, exec i s = .next t ∧ t.c.pend = s.c.pend ∧ s.OnlyResults t ∧ s.Advances t i := by
  obtain ⟨body, hbody, hexec⟩ := hi
  rw [hexec]
  exact s.run_idle i hbody h he

theorem RunsIdle.raises {i : Instr} (hi : RunsIdle i) (s : State) (n : Nat) (f : FaultInfo) (hwf : i.wfIn (s.cur.unit % 5 == 4) = true)
    (hcur : s.cur.tids = [n]) (hg : s.guards n i = true) (hf : s.rangeFault i n = some f) :
    ∃ t, exec i s = .next t ∧ s.Raises t n { f with pc := (s.thread n).pc, resume := (s.thread n).pc } := by
  obtain ⟨body, hbody, hexec⟩ := hi
  rw [hexec]
  exact s.run_range_fault i hbody n f hwf hcur hg hf

theorem runsIdle_brx (x : V96A) : RunsIdle (.brx x) := ⟨brxBody x, fun _ => rfl, fun _ => rfl⟩
theorem runsIdle_nop (x : S64A) : RunsIdle (.nop x) := ⟨_, fun _ => rfl, fun _ => rfl⟩
theorem runsIdle_pause (x : S64A) : RunsIdle (.pause x) := ⟨_, fun _ => rfl, fun _ => rfl⟩
theorem runsIdle_lbrk (x : S64A) : RunsIdle (.lbrk x) := ⟨lbrkBody, idle_lbrkBody, fun _ => rfl⟩
theorem runsIdle_trap (x : S64A) : RunsIdle (.trap x) := ⟨_, fun _ => rfl, fun _ => rfl⟩
theorem runsIdle_exit (x : S64A) : RunsIdle (.exit x) := ⟨_, fun _ => rfl, fun _ => rfl⟩

/-- With BRKEN or without, `brk` stops and raises for its threads alone (R88). -/
theorem runsIdle_brk (x : S64A) : RunsIdle (.brk x) := by
  refine ⟨_, fun s => ?_, fun _ => rfl⟩
  dsimp only
  split
  · rfl
  · rfl

theorem runsIdle_rfe (x : S64A) : RunsIdle (.rfe x) := by
  refine ⟨_, fun s => ?_, fun _ => rfl⟩
  exact congrArg (·, []) (s.setThreads_map_self _ fun t => rfl)

theorem runsIdle_v96 (x : V96A) : ∀ i ∈ [Instr.mov x, .iaddV96 x, .isubV96 x, .imulV96 x, .imulh x, .imad x, .iminV96 x, .imaxV96 x, .iabs x, .ineg x,
    .bnot x, .shl x, .sel x, .fadd x, .fmul x, .ffma x, .fcmp x, .brx x], RunsIdle i := by
  simp only [List.forall_mem_cons]
  exact ⟨.result fun _ => rfl, .result fun _ => rfl, .result fun _ => rfl, .result fun _ => rfl, .result fun _ => rfl, .result fun _ => rfl,
    .result fun _ => rfl, .result fun _ => rfl, .result fun _ => rfl, .result fun _ => rfl, .result fun _ => rfl, .result fun _ => rfl,
    .result fun _ => rfl, .draw fun _ => rfl, .draw fun _ => rfl, .draw fun _ => rfl, .result fun _ => rfl, runsIdle_brx x, List.forall_mem_nil _⟩

theorem runsIdle_s64 (x : S64A) : ∀ i ∈ [Instr.nop x, .pause x, .lbrk x, .trap x, .brk x, .rfe x, .exit x], RunsIdle i := by
  simp only [List.forall_mem_cons]
  exact ⟨runsIdle_nop x, runsIdle_pause x, runsIdle_lbrk x, runsIdle_trap x, runsIdle_brk x, runsIdle_rfe x, runsIdle_exit x, List.forall_mem_nil _⟩

/-- Settles O57: an issue answers always; its checks come before its body, which runs for the threads that pass them. -/
theorem issueAnswersAndChecks : Obligations.IssueAnswersAndChecks := by
  unfold Obligations.IssueAnswersAndChecks
  refine ⟨exec_next, step_next, exec_illegal, fun x i s hi => (runsIdle_v96 x i hi).answers s, fun x i s hi => (runsIdle_s64 x i hi).answers s,
    fun x i s n f hi hwf hcur _ => (runsIdle_v96 x i ?_).raises s n f hwf hcur, State.rangeFault_first⟩
  simp only [List.mem_cons, List.not_mem_nil, or_false] at hi ⊢
  tauto

end Sys2Proof.Machine
end

section
/-! PROOFS. What a move of the agenda executes (R37, R42, R51, R270; log entry 5). -/

namespace Sys2Proof.Machine
open Sys2Proof

/-! ### The next instruction of a thread -/

/-- Outside a loop a thread's next instruction is what the decoder reads at its program counter in the block it fetched (R29, R31). -/
theorem Thread.decoded_eq {t : Thread} {a data w : Nat} (hloop : t.loop.act = false) (hfetch : t.fetch = .ok a data)
    (hword : wordIn t.pc data = some w) : t.decoded = decodedOf w [] := by
  have hpos : t.bodyPos = none := by simp [Thread.bodyPos, hloop]
  simp only [Thread.decoded, hfetch, hword, hpos]

theorem decodedOf_ok {w : Nat} {i : Instr} (h : decode w = .ok i) : decodedOf w [] = .instr i := by simp [decodedOf, h]

/-- R42: a word that does not decode is ILLEGAL. -/
theorem decodedOf_error {w : Nat} {e : DecodeErr} (h : decode w = .error e) : decodedOf w [] = .fault (flt .illegal) := by simp [decodedOf, h]

/-! ### The issue of a bundle -/

/-- The state in which a bundle's instruction executes: the bundle is the current one, and a binary64 instruction is noted for its unit (R113). -/
def State.issuing (s : State) (n : Nat) (ts : List Nat) (pc : Nat) (i : Instr) : State :=
  { s with cur := { unit := n, tids := ts, pc := pc },
           c := { s.c with wideAt := if i.wide then (n, s.clk) :: s.c.wideAt.filter (fun q => q.1 != n) else s.c.wideAt } }

section
variable {s : State} {n k : Nat} {ts : List Nat} {m : Move} {i : Instr}

theorem State.issueBundle_instr (hd : (s.thread k).decoded = .instr i) (hlate : s.overTids (.instr i) (k :: ts) = [])
    (hwait : i.opc ≠ 0x15 ∨ ∀ x ∈ s.agenda, x.isIssue = false) :
    s.issueBundle n (k :: ts) m = .exec i (s.issuing n (k :: ts) (s.thread k).pc i) := by
  have hw : Decoded.waitsForOthers (.instr i) s.agenda = false := by
    simp only [Decoded.waitsForOthers, Bool.and_eq_false_iff, beq_eq_false_iff_ne, List.any_eq_false, Bool.not_eq_true]
    exact hwait
  simp only [State.issueBundle, hd, hlate, hw, List.isEmpty_nil, Bool.not_true, Bool.false_eq_true, if_false]
  unfold State.issuing
  split <;> rfl

/-- An `exit` that other issues of its clock follow comes after them (R278, R316, R396). -/
theorem State.issueBundle_exit (hd : (s.thread k).decoded = .instr i) (hlate : s.overTids (.instr i) (k :: ts) = []) (hexit : i.opc = 0x15)
    (hothers : ∃ x ∈ s.agenda, x.isIssue = true) :
    s.issueBundle n (k :: ts) m =
      .done { s with agenda := s.agenda.takeWhile (· != .tick) ++ .last n (k :: ts) :: s.agenda.dropWhile (· != .tick) } := by
  have hw : Decoded.waitsForOthers (.instr i) s.agenda = true := by simpa [Decoded.waitsForOthers, hexit] using hothers
  simp only [State.issueBundle, hd, hlate, hw, List.isEmpty_nil, Bool.not_true, Bool.false_eq_true, if_false, if_true]

theorem State.issueBundle_fault {f : FaultInfo} (hd : (s.thread k).decoded = .fault f) (hlate : s.overTids (.fault f) (k :: ts) = []) :
    s.issueBundle n (k :: ts) m = .done ({ s with cur := { unit := n, tids := k :: ts, pc := (s.thread k).pc } }.raiseAll (k :: ts) f) := by
  simp only [State.issueBundle, hd, hlate, Decoded.waitsForOthers, List.isEmpty_nil, Bool.not_true, Bool.false_eq_true, if_false]

end

/-- A move executes in the state that the rest of the agenda leaves. -/
theorem step_of_exec {s t : State} {m : Move} {rest : List Move} {i : Instr} (h : s.agenda = m :: rest)
    (hb : State.begin_ { s with agenda := rest } m = .exec i t) : step s = exec i t := by
  simp only [step, h, hb]

theorem step_of_done {s t : State} {m : Move} {rest : List Move} (h : s.agenda = m :: rest)
    (hb : State.begin_ { s with agenda := rest } m = .done t) : step s = .next t := by
  simp only [step, h, hb]

/-! ### The choice of a unit (R53) -/

/-- The loss counts of a clock, for one thread. -/
def lossesOf (s : State) (n : Nat) (cs : List (Nat × List Thread)) (loser : List Nat) (t : Thread) : Thread :=
  if unitOf t.tid != n then t
  else if loser.contains t.tid then { t with losses := t.losses + 1, lostAt := some s.clk }
  else if (cs.flatMap fun q => q.2.map (·.tid)).contains t.tid then t
  else { t with losses := 0 }

theorem lossesOf_eq (s : State) (n : Nat) (cs : List (Nat × List Thread)) (loser : List Nat) (t : Thread) :
    lossesOf s n cs loser t = { t with losses := (lossesOf s n cs loser t).losses, lostAt := (lossesOf s n cs loser t).lostAt } := by
  unfold lossesOf
  split_ifs <;> rfl

theorem State.countLosses_eq (s : State) (n : Nat) (cs : List (Nat × List Thread)) (loser : List Nat) :
    s.countLosses n cs loser = s.setThreads (s.c.threads.map (lossesOf s n cs loser)) := rfl

/-- Two states that differ in the agenda and in the loss counts of the threads. -/
structure State.SameButLosses (s t : State) : Prop where
  eq : t = { s with agenda := t.agenda, c := { s.c with threads := t.c.threads } }
  thread : ∀ k, t.thread k = { s.thread k with losses := (t.thread k).losses, lostAt := (t.thread k).lostAt }

theorem State.sameButLosses_countLosses (s : State) (n : Nat) (cs : List (Nat × List Thread)) (loser : List Nat) (agenda : List Move) :
    s.SameButLosses { s.countLosses n cs loser with agenda := agenda } where
  eq := rfl
  thread k := by
    have hth := s.thread?_setThreads_map (lossesOf s n cs loser) (fun t => by rw [lossesOf_eq]) k
    rw [← State.countLosses_eq] at hth
    have hag : State.thread { s.countLosses n cs loser with agenda := agenda } k = (s.countLosses n cs loser).thread k := rfl
    rw [hag]
    unfold State.thread
    rw [hth]
    cases s.thread? k with
    | none => rfl
    | some t => exact lossesOf_eq ..

namespace State.SameButLosses
variable {s t : State}

theorem decoded (h : s.SameButLosses t) (k : Nat) : (t.thread k).decoded = (s.thread k).decoded := by
  rw [h.thread k]
  rfl

theorem guards (h : s.SameButLosses t) (k : Nat) (i : Instr) : t.guards k i = s.guards k i := by
  have hpend : t.c.pend = s.c.pend := (congrArg (fun u : State => u.c.pend) h.eq).trans rfl
  have hfree : t.free = s.free := (congrArg State.free h.eq).trans rfl
  have hreadP : ∀ m, t.readP k m = s.readP k m := by
    intro m
    unfold State.readP State.kept State.pendVals State.pick
    rw [h.thread k, hpend, hfree]
  unfold State.guards State.guard
  simp only [hreadP]

theorem overTids (h : s.SameButLosses t) (d : Decoded) (ts : List Nat) : t.overTids d ts = s.overTids d ts := by
  unfold State.overTids State.overBudget
  refine List.filter_congr fun k _ => ?_
  rw [h.thread k]
  cases d <;> simp only [h.guards]

end State.SameButLosses

/-- Decoder 1 takes another bundle than decoder 0 (R53). -/
theorem secondOf_ne {first : Nat × List Thread} {cs : List (Nat × List Thread)} {q : (Nat × List Thread) × Nat} (h : secondOf first cs = some q) :
    q.1.1 ≠ first.1 := by
  obtain ⟨l, p, r, -, hp, -⟩ := List.findSome?_eq_some_iff.1 h
  rw [Option.ite_none_left_eq_some] at hp
  obtain ⟨hne, hp⟩ := hp
  simp only [Bool.or_eq_true, beq_iff_eq, not_or] at hne
  split at hp
  · obtain ⟨-, hq⟩ := Option.ite_none_right_eq_some.1 hp
    cases hq
    exact hne.1
  · cases hp

/-- The issue of a unit (R53): the first bundle issues after the loss counts, with the second one's issue next or nothing before it. -/
theorem State.issueUnit_eq (s : State) (n b : Nat) (t : Thread) (ts : List Thread) (hstep : (s.unit n).step = none)
    (hfirst : firstOf (s.cands n) = some (b, t :: ts)) (hlate : s.overTids (s.thread t.tid).decoded ((t :: ts).map (·.tid)) = []) :
    ∃ (u : State) (more : List Move), s.issueUnit n = u.issueBundle n ((t :: ts).map (·.tid)) (.issue n) ∧ s.SameButLosses u ∧
      u.agenda = more ++ s.agenda ∧ (more = [] ∨ ∃ k, k ≠ b ∧ more = [.second n k]) ∧
      (secondOf (b, t :: ts) (s.cands n) = none → more = []) := by
  have hmore : ∀ goes : Bool, ∀ two, two = secondOf (b, t :: ts) (s.cands n) →
      (match two with | some q => if goes then [Move.second n q.1.1] else [] | none => []) = [] ∨
      ∃ k, k ≠ b ∧ (match two with | some q => if goes then [Move.second n q.1.1] else [] | none => []) = [Move.second n k] := by
    intro goes two htwo
    cases htwo' : two with
    | none => exact .inl rfl
    | some q =>
      cases goes
      · exact .inl rfl
      · exact .inr ⟨q.1.1, secondOf_ne (htwo.symm.trans htwo'), rfl⟩
  unfold State.issueUnit
  simp only [hstep, hfirst]
  rw [if_neg (by simpa using hlate)]
  refine ⟨_, _, rfl, s.sameButLosses_countLosses n _ _ _, rfl, hmore _ _ rfl, fun h => ?_⟩
  rw [h]

/-! ### The obligation -/

theorem StepRunsTheDecodedInstruction.first (s : State) (rest : List Move) (n b : Nat) (t : Thread) (ts : List Thread) (a data w : Nat)
    (h : s.agenda = .issue n :: rest) (hstep : (s.unit n).step = none)
    (hfirst : firstOf (State.cands { s with agenda := rest } n) = some (b, t :: ts))
    (hthread : State.thread { s with agenda := rest } t.tid = t) (hloop : t.loop.act = false) (hfetch : t.fetch = .ok a data)
    (hword : wordIn t.pc data = some w) :
    (∀ i, decode w = .ok i → State.overTids { s with agenda := rest } (.instr i) ((t :: ts).map (·.tid)) = [] →
      (i.opc = 0x15 → (∀ x ∈ rest, x.isIssue = false) ∧ secondOf (b, t :: ts) (State.cands { s with agenda := rest } n) = none) →
      ∃ (u : State) (more : List Move), step s = exec i u ∧ u.cur = { unit := n, tids := (t :: ts).map (·.tid), pc := t.pc } ∧
        u = { s with agenda := more ++ rest, cur := u.cur, c := { s.c with threads := u.c.threads, wideAt := u.c.wideAt } } ∧
        (more = [] ∨ ∃ k, k ≠ b ∧ more = [.second n k]) ∧
        u.c.wideAt = (if i.wide then (n, s.clk) :: s.c.wideAt.filter (fun q => q.1 != n) else s.c.wideAt) ∧
        ∀ k, u.thread k = { s.thread k with losses := (u.thread k).losses, lostAt := (u.thread k).lostAt }) ∧
    (∀ e, decode w = .error e → State.overTids { s with agenda := rest } (.fault (flt .illegal)) ((t :: ts).map (·.tid)) = [] →
      ∃ u : State, step s = .next (u.raiseAll ((t :: ts).map (·.tid)) (flt .illegal)) ∧
        ∀ k, u.thread k = { s.thread k with losses := (u.thread k).losses, lostAt := (u.thread k).lostAt }) := by
  have hdec : (State.thread { s with agenda := rest } t.tid).decoded = decodedOf w [] := by
    rw [hthread]
    exact t.decoded_eq hloop hfetch hword
  constructor
  · intro i hi hlate hexit
    rw [decodedOf_ok hi] at hdec
    obtain ⟨v, more, hissue, hsame, hagenda, hmore, hnone⟩ :=
      State.issueUnit_eq { s with agenda := rest } n b t ts hstep hfirst (hdec ▸ hlate)
    have hpc : (v.thread t.tid).pc = t.pc := by rw [hsame.thread, hthread]
    have hwait : i.opc ≠ 0x15 ∨ ∀ x ∈ v.agenda, x.isIssue = false := by
      by_cases hopc : i.opc = 0x15
      · obtain ⟨hrest, hsecond⟩ := hexit hopc
        rw [hagenda, hnone hsecond]
        exact .inr hrest
      · exact .inl hopc
    have hexec := State.issueBundle_instr (n := n) (m := .issue n) ((hsame.decoded _).trans hdec) ((hsame.overTids _ _).trans hlate) hwait
    refine ⟨v.issuing n ((t :: ts).map (·.tid)) t.pc i, more, ?_, rfl, ?_, hmore, ?_, hsame.thread⟩
    · rw [step_of_exec h (hissue.trans hexec), hpc]
      rfl
    · have heq := hsame.eq
      rw [hagenda] at heq
      unfold State.issuing
      rw [heq]
    · have heq := hsame.eq
      unfold State.issuing
      rw [heq]
  · intro e he hlate
    rw [decodedOf_error he] at hdec
    obtain ⟨v, more, hissue, hsame, -, -, -⟩ :=
      State.issueUnit_eq { s with agenda := rest } n b t ts hstep hfirst (hdec ▸ hlate)
    exact ⟨_, step_of_done h (hissue.trans (State.issueBundle_fault ((hsame.decoded _).trans hdec) ((hsame.overTids _ _).trans hlate))), hsame.thread⟩

/-- Every other move that issues is the issue of its bundle's threads. -/
theorem State.begin_eq_issueBundle {s : State} {m : Move} {n k : Nat} {ts : List Nat}
    (h : (∃ all, (m = .pipe n all ∧ all.filter (fun x => s.ready (s.thread x)) = k :: ts) ∨
        ((m = .last n all ∨ (m = .issue n ∧ (s.unit n).step = some all)) ∧ all.filter (fun x => s.stoppable (s.thread x)) = k :: ts)) ∨
      ∃ b, m = .second n b ∧ (s.bundleThreads n b).map (·.tid) = k :: ts) :
    s.begin_ m = s.issueBundle n (k :: ts) m := by
  obtain ⟨all, ⟨rfl, hts⟩ | ⟨rfl | ⟨rfl, hstep⟩, hts⟩⟩ | ⟨b, rfl, hts⟩ := h
  · simp only [State.begin_, hts]
  · simp only [State.begin_, hts]
  · simp only [State.begin_, State.issueUnit, hstep, hts]
  · simp only [State.begin_, hts]

theorem StepRunsTheDecodedInstruction.other (s : State) (rest : List Move) (m : Move) (n k : Nat) (ts : List Nat) (a data w : Nat)
    (h : s.agenda = m :: rest) (hb : State.begin_ { s with agenda := rest } m = State.issueBundle { s with agenda := rest } n (k :: ts) m)
    (hloop : (s.thread k).loop.act = false) (hfetch : (s.thread k).fetch = .ok a data) (hword : wordIn (s.thread k).pc data = some w) :
    (∀ i, decode w = .ok i → State.overTids { s with agenda := rest } (.instr i) (k :: ts) = [] →
      (i.opc ≠ 0x15 ∨ (∀ x ∈ rest, x.isIssue = false) → step s = exec i (State.issuing { s with agenda := rest } n (k :: ts) (s.thread k).pc i)) ∧
      (i.opc = 0x15 → (∃ x ∈ rest, x.isIssue = true) → step s = .next { s with
        agenda := rest.takeWhile (· != .tick) ++ .last n (k :: ts) :: rest.dropWhile (· != .tick) })) ∧
    (∀ e, decode w = .error e → State.overTids { s with agenda := rest } (.fault (flt .illegal)) (k :: ts) = [] →
      step s = .next (State.raiseAll { s with agenda := rest, cur := { unit := n, tids := k :: ts, pc := (s.thread k).pc } } (k :: ts) (flt .illegal))) := by
  have hdec : (State.thread { s with agenda := rest } k).decoded = decodedOf w [] := Thread.decoded_eq hloop hfetch hword
  constructor
  · intro i hi hlate
    rw [decodedOf_ok hi] at hdec
    exact ⟨fun hwait => step_of_exec h (hb.trans (State.issueBundle_instr hdec hlate hwait)),
      fun hexit hothers => step_of_done h (hb.trans (State.issueBundle_exit hdec hlate hexit hothers))⟩
  · intro e he hlate
    rw [decodedOf_error he] at hdec
    exact step_of_done h (hb.trans (State.issueBundle_fault hdec hlate))

/-- Settles O56: a bundle's threads execute what `Thread.decoded_eq` says the decoder reads, by the rules of `State.issueBundle` for an instruction, an
`exit` that waits and a word that does not decode; the first issue of a unit only counts losses before. -/
theorem stepRunsTheDecodedInstruction : Obligations.StepRunsTheDecodedInstruction := by
  refine ⟨fun s rest n b t ts a data w => StepRunsTheDecodedInstruction.first s rest n b t ts a data w, ?_, ?_, ?_⟩
  · intro s rest m n k ts a data w h hmove
    exact StepRunsTheDecodedInstruction.other s rest m n k ts a data w h (State.begin_eq_issueBundle hmove)
  · intro s rest i h hevent
    exact step_of_exec h (by simp only [State.begin_, hevent, if_true])
  · intro s h
    have hplan : step s = .next s.planClock := by simp only [step, h]
    rw [hplan]
    exact ⟨_, _, _, _, rfl⟩

end Sys2Proof.Machine
end

section
/-! PROOFS. O16 is open: what its last part asks of the free choices (R57, R66; log entry 2). -/

namespace Sys2Proof.Machine
open Sys2Proof

/-- A page for the code. -/
def codePage : Pte :=
  { page := 0, size := 16, pa := 0x10000, fmt := 0, geo := 0, ef := false, plc := 0, own := 0, dty := true, perm := 15, lvl := 3, entry := 0 }

/-- A loop of one body instruction whose trip count is `w0`. -/
def registerLoop : LoopA := ⟨false, 0, true, 0, Guard.always, 0, 0⟩

/-- One thread before `registerLoop`, while the result 2 is on its way to `w0`, which holds 1. -/
def racingTrip : State :=
  let s := State.reset.placed 0 0
  { s with
    agenda := [], cur := { unit := 0, tids := [0], pc := placedPc }
    m := { s.m with tlb := [{ level := 0, inst := 0, asid := 0, pte := codePage }] }
    c := { s.c with
      warps := s.c.warps.map fun w => { w with w := w.w.set 0 1 }
      pend := [{ dst := .w 0 0, val := some 2, owners := [0], pc := 0, opd := 0 }] } }

/-- The state in which the loop's body has been fetched. -/
def racingTripFetched : State := (racingTrip.loopBody 0 (placedPc + 32) registerLoop 1 0 (placedPc + 32)).1

theorem racingTrip_loopBody :
    racingTrip.loopBody 0 (placedPc + 32) registerLoop 1 0 (placedPc + 32) = (racingTripFetched, .ok ([0, 8], [(0x1020, 0)])) :=
  Prod.ext rfl (by rfl)

theorem racingTrip_solo : racingTrip.solo (.loop registerLoop) 0 = true := by decide +kernel
theorem racingTripFetched_solo : racingTripFetched.solo (.loop registerLoop) 0 = true := by decide +kernel
theorem racingTripFetched_cur : racingTripFetched.cur = racingTrip.cur := by decide +kernel

/-- The two values that R57 lists for `w0`, as trip counts. -/
theorem racingReads_toNat (c : Nat) : (([1, 2] : List Word).getD (c % 2) 0).toNat % 2 ^ 32 = c % 2 + 1 := by
  rcases Nat.mod_two_eq_zero_or_one c with hc | hc <;> rw [hc] <;> rfl

theorem racingTrip_readW : racingTrip.readW 0 0 = [1, 2].getD (Config.freeChoice 0 0 1000 % 2) 0 := by rfl
theorem racingTripFetched_readW : racingTripFetched.readW 0 0 = [1, 2].getD (Config.freeChoice 1 0 1000 % 2) 0 := by rfl

/-- The conditions of the last part on the loop's one body instruction. -/
theorem racingTrip_bodyStands :
    let a := racingTrip.cur.pc + 32 + [0, 8].getD 0 0
    let b := codePage.addr a / 32 * 32
    a < 2 ^ 57 ∧ (racingTrip.tlbHit (coreOf 0) placedRegion.asid a).map (·.pte) = some codePage ∧ hostSpace b = false ∧ racingTrip.here b = true ∧
      racingTrip.tenantOk placedRegion.tenant b true false = true ∧ racingTrip.poisonedIn b 32 = false ∧
      ∃ w, wordIn a (racingTrip.rdNat b 32) = some w ∧ bodyOk registerLoop 0 w = true ∧ [0, 8].getD 1 0 = [0, 8].getD 0 0 + lenBits w / 8 := by
  refine ⟨?_, ?_, ?_, ?_, ?_, ?_, 0, ?_, ?_, ?_⟩ <;> decide +kernel

/-- The trip count is read after the body's fetches, each of which advances the free-choice counter: with a result on its way to the register of the
trip, the last part needs two values of `Config.freeChoice` to agree, which nothing in Lean proves or refutes (log entry 2). -/
theorem LoopsStartOrSkip.freeChoice_agrees (h : Obligations.LoopsStartOrSkip) : Config.freeChoice 0 0 1000 % 2 = Config.freeChoice 1 0 1000 % 2 := by
  obtain ⟨hrun, -, -, hstate⟩ := h
  obtain ⟨t, ht, -, -, hstarted, -⟩ :=
    hrun registerLoop racingTrip racingTripFetched 0 _ _ racingTrip_solo racingTrip_loopBody racingTripFetched_solo racingTripFetched_cur
  obtain ⟨t', ht', -, -, hstarted', -⟩ := hstate registerLoop racingTrip 0 placedRegion codePage [0, 8] racingTrip_solo (by rfl) (by decide +kernel)
    (by decide +kernel) rfl rfl (by decide) (by
      intro k hk
      obtain rfl : k = 0 := Nat.lt_one_iff.1 hk
      exact racingTrip_bodyStands)
  obtain rfl : t = t' := Host.Outcome.next.inj (ht.symm.trans ht')
  have htm : registerLoop.tm = true := rfl
  have hreg : (registerLoop.trip.extractLsb' 0 6).toNat = 0 := rfl
  simp only [htm, hreg, if_true, racingTripFetched_readW, racingReads_toNat, Nat.add_one_ne_zero, if_false] at hstarted
  simp only [htm, hreg, if_true, racingTrip_readW, racingReads_toNat, Nat.add_one_ne_zero, if_false] at hstarted'
  obtain ⟨-, -, -, htrip, -⟩ := hstarted
  obtain ⟨-, -, -, htrip', -⟩ := hstarted'
  exact Nat.succ.inj (htrip'.symm.trans htrip)

end Sys2Proof.Machine
end

section
/-! PROOFS. Changes of the thread records alone (R37, R51): a map over the records, and the issue of one thread that leaves its bundle after one. -/

namespace Sys2Proof.Machine
open Sys2Proof

/-! ### A map over the thread records -/

/-- A change of the records of one thread. -/
def Thread.onlyAt (n : Nat) (f : Thread → Thread) (t : Thread) : Thread := if t.tid = n then f t else t

theorem Thread.onlyAt_same {n : Nat} {t : Thread} (h : t.tid = n) (f : Thread → Thread) : t.onlyAt n f = f t := if_pos h
theorem Thread.onlyAt_ne {n : Nat} {t : Thread} (h : t.tid ≠ n) (f : Thread → Thread) : t.onlyAt n f = t := if_neg h

theorem Thread.onlyAt_tid {n : Nat} {f : Thread → Thread} (hf : ∀ t, (f t).tid = t.tid) (t : Thread) : (t.onlyAt n f).tid = t.tid := by
  unfold Thread.onlyAt
  split
  · exact hf t
  · rfl

/-- From `s` to `t` the thread records change as `F` says; besides them only the free counter and the units' debug state may. -/
structure State.Remaps (s t : State) (F : Thread → Thread) : Prop where
  rest : t = { s with free := t.free, c := { s.c with threads := s.c.threads.map F }, b := { s.b with units := t.b.units } }
  tid : ∀ u, (F u).tid = u.tid

namespace State.Remaps
variable {s t u : State} {F G : Thread → Thread}

theorem trans (h : s.Remaps t F) (k : t.Remaps u G) : s.Remaps u (G ∘ F) where
  rest := by
    obtain ⟨hk, -⟩ := k
    rw [h.rest] at hk
    simpa only [List.map_map] using hk
  tid x := (k.tid _).trans (h.tid x)

theorem setThreads (s : State) (hF : ∀ x, (F x).tid = x.tid) : s.Remaps (s.setThreads (s.c.threads.map F)) F := ⟨rfl, hF⟩

theorem modThread (s : State) (n : Nat) {f : Thread → Thread} (hf : ∀ x, (f x).tid = x.tid) : s.Remaps (s.modThread n f) (Thread.onlyAt n f) where
  rest := by
    unfold State.modThread Thread.onlyAt
    simp only [beq_iff_eq]
    rfl
  tid := Thread.onlyAt_tid hf

/-- Two changes of the records of one thread, one after the other. -/
theorem trans_at {n : Nat} {f g : Thread → Thread} (h : s.Remaps t (Thread.onlyAt n f)) (k : t.Remaps u (Thread.onlyAt n g)) :
    s.Remaps u (Thread.onlyAt n (g ∘ f)) := by
  have hcomp : Thread.onlyAt n g ∘ Thread.onlyAt n f = Thread.onlyAt n (g ∘ f) := by
    funext x
    have htid := h.tid x
    by_cases hx : x.tid = n
    · rw [Thread.onlyAt_same hx] at htid
      rw [Function.comp_apply, Thread.onlyAt_same hx, Thread.onlyAt_same hx, Thread.onlyAt_same (htid.trans hx), Function.comp_apply]
    · rw [Function.comp_apply, Thread.onlyAt_ne hx, Thread.onlyAt_ne hx, Thread.onlyAt_ne hx]
  rw [← hcomp]
  exact h.trans k

theorem afterBody (h : s.Remaps t F) : s.Remaps t.afterBody F := ⟨by unfold State.afterBody; conv_lhs => rw [h.rest], h.tid⟩

theorem countIssue (s : State) (i : Instr) (n : Nat) (hcur : s.cur.tids = [n]) :
    s.Remaps (s.countIssue i s.cur.tids) (Thread.onlyAt n (s.counted i)) where
  rest := by
    unfold Thread.onlyAt
    rw [State.countIssue_eq, hcur]
    simp only [List.contains_cons, List.contains_nil, Bool.or_false, beq_iff_eq]
  tid := Thread.onlyAt_tid fun _ => rfl

theorem thread? (h : s.Remaps t F) (k : Nat) : t.thread? k = (s.thread? k).map F := by
  rw [h.rest]
  exact find_map_tid _ _ h.tid k

theorem thread (h : s.Remaps t F) {k : Nat} (hk : (s.thread? k).isSome) : t.thread k = F (s.thread k) := by
  unfold State.thread
  rw [h.thread?]
  cases hq : s.thread? k with
  | none => rw [hq] at hk; cases hk
  | some x => rfl

/-- What holds between every record and its image, and between a record and itself, holds of the threads before and after. -/
theorem thread_rel (h : s.Remaps t F) (k : Nat) (P : Thread → Thread → Prop) (hrefl : ∀ x, P x x) (hF : ∀ x, x.tid = k → P x (F x)) :
    P (s.thread k) (t.thread k) := by
  unfold State.thread
  rw [h.thread?]
  cases hq : s.thread? k with
  | none => exact hrefl _
  | some x => exact hF x (by simpa using List.find?_some hq)

theorem thread_same (h : s.Remaps t F) (k : Nat) (hF : ∀ x, x.tid = k → F x = x) : t.thread k = s.thread k :=
  h.thread_rel k (fun x y => y = x) (fun _ => rfl) hF

theorem pend (h : s.Remaps t F) : t.c.pend = s.c.pend := by rw [h.rest]

theorem rest_pend (h : s.Remaps t F) :
    t = { s with free := t.free, c := { s.c with threads := t.c.threads, pend := t.c.pend }, b := { s.b with units := t.b.units } } := by
  conv_lhs => rw [h.rest]
  rw [h.rest]

/-- A map that touches the control of the bundle's threads alone only sends results, of which there are none. -/
theorem onlyResults (h : s.Remaps t F) (hne : ∀ x, x.tid ∉ s.cur.tids → F x = x)
    (hctl : ∀ k ∈ s.cur.tids, F (s.thread k) = (s.thread k).control (F (s.thread k))) : s.OnlyResults t := by
  have hsame : ∀ k, k ∉ s.cur.tids → t.thread k = s.thread k := fun k hk => h.thread_same k fun x hx => hne x (hx ▸ hk)
  refine ⟨h.rest_pend, fun k => ?_, hsame, State.OnlyResults.byteAt_of_eq h.rest_pend⟩
  by_cases hk : k ∈ s.cur.tids
  · by_cases hs : (s.thread? k).isSome = true
    · rw [h.thread hs]
      exact hctl k hk
    · have hnone : s.thread? k = none := by simpa using hs
      have hnone' : t.thread? k = none := by rw [h.thread?, hnone]; rfl
      unfold State.thread
      rw [hnone, hnone']
      rfl
  · rw [hsame k hk]
    rfl

/-- A map that changes one thread's records alone. -/
theorem onlyThread (h : s.Remaps t F) {n : Nat} (hn : (s.thread? n).isSome) {w : Thread} (hne : ∀ x, x.tid ≠ n → F x = x)
    (hw : F (s.thread n) = w.control (F (s.thread n))) : s.OnlyThread t n w :=
  ⟨h.rest_pend, by rw [h.thread hn]; exact hw, fun k hk => h.thread_same k fun x hx => hne x (hx ▸ hk), State.OnlyResults.byteAt_of_eq h.rest_pend⟩

/-- A change of one thread's records alone, as that thread sees it. -/
theorem thread_at {n : Nat} {f : Thread → Thread} (h : s.Remaps t (Thread.onlyAt n f)) (hn : (s.thread? n).isSome) : t.thread n = f (s.thread n) := by
  rw [h.thread hn, Thread.onlyAt_same (s.thread_tid n)]

theorem onlyThread_at {n : Nat} {f : Thread → Thread} (h : s.Remaps t (Thread.onlyAt n f)) (hn : (s.thread? n).isSome) {w : Thread}
    (hw : f (s.thread n) = w.control (f (s.thread n))) : s.OnlyThread t n w :=
  h.onlyThread hn (fun _ hx => Thread.onlyAt_ne hx f) (by rwa [Thread.onlyAt_same (s.thread_tid n)])

theorem onlyResults_at {n : Nat} {f : Thread → Thread} (h : s.Remaps t (Thread.onlyAt n f)) (hcur : s.cur.tids = [n])
    (hf : f (s.thread n) = (s.thread n).control (f (s.thread n))) : s.OnlyResults t :=
  h.onlyResults (fun _ hx => Thread.onlyAt_ne (by simpa [hcur] using hx) f) fun k hk => by
    obtain rfl : k = n := by simpa [hcur] using hk
    rwa [Thread.onlyAt_same (s.thread_tid k)]

end State.Remaps

/-! ### The issue of one thread of the flow group -/

section
variable {s : State} {i : Instr} {body : Body} {n : Nat} {u : State} {F : Thread → Thread}

theorem State.solo_isSome (h : s.solo i n = true) : (s.thread? n).isSome = true := by
  simp only [State.solo, Bool.and_eq_true] at h
  exact h.1.2

theorem State.solo_tids (h : s.solo i n = true) : s.cur.tids = [n] := (s.solo_clean i n h).2.2

theorem Thread.onward_ycnt (s : State) (i : Instr) (t : Thread) : (t.onward s i).ycnt = t.ycnt := by
  unfold Thread.onward Thread.stepped
  rw [State.bodyFetch_eq, Thread.advance_eq]

theorem Thread.waiting_control (s : State) (i : Instr) (w : Wait) (t : Thread) : t.waiting s i w = t.control (t.waiting s i w) := by
  rw [Thread.waiting_eq]
  rfl

theorem Thread.jumped_control (s : State) (i : Instr) (a : Nat) (t : Thread) : t.jumped s i a = t.control (t.jumped s i a) := by
  rw [Thread.jumped_eq]
  rfl

theorem Thread.onward_bundle (s : State) (i : Instr) (t : Thread) (h : i.endsBundle = true) : (t.onward s i).bundle = none := by
  unfold Thread.onward Thread.stepped
  rw [State.bodyFetch_eq, Thread.advance_eq]
  simp [h]

/-- An instruction after which every thread leaves its bundle, and whose body names no control: the thread goes on. -/
theorem State.run_solo_onward (h : s.solo i n = true) (hends : i.endsBundle = true) (hb : body (s.countIssue i s.cur.tids) [n] = (u, [])) :
    s.run i body = .next (u.afterBody.modThread n (Thread.onward u.afterBody i)) := by
  obtain ⟨-, -, hcur⟩ := s.solo_clean i n h
  rw [hcur] at hb
  rw [State.run_next, s.runBundle_solo i body n h, hb]
  change Host.Outcome.next ((u.afterBody.finish i (s.countIssue i [n]) n .next).splitBundle [n]) = _
  rw [State.finish_next, State.splitBundle_of_unbundled (State.unbundled_modThread _ n _ fun t => Thread.onward_bundle _ i t hends)]

/-- The control of the thread as the last change of its records. -/
theorem State.Remaps.control {f g : Thread → Thread} (h : s.Remaps u (Thread.onlyAt n g)) (hf : ∀ t, f t = t.control (f t)) :
    s.Remaps (u.afterBody.modThread n f) (Thread.onlyAt n (f ∘ g)) :=
  h.afterBody.trans_at (.modThread _ n fun t => by rw [hf]; rfl)

/-- The thread goes on after a body that has changed its records as `F` says. -/
theorem State.Remaps.advances (h : s.Remaps u F) (hsolo : s.solo i n = true)
    (hwait : (F (s.thread n)).wait = .none) (hpc : (F (s.thread n)).pc = (s.thread n).pc) (hloop : (F (s.thread n)).loop = (s.thread n).loop) :
    s.Advances (u.afterBody.modThread n (Thread.onward u.afterBody i)) i := by
  intro j hj hs
  obtain rfl : j = n := by simpa [State.solo_tids hsolo] using hj
  have hthread := (h.afterBody.trans (.modThread u.afterBody j (Thread.onward_tid u.afterBody i))).thread hs
  rw [Function.comp_apply, Thread.onlyAt_same ((h.tid _).trans (s.thread_tid j))] at hthread
  rw [hthread]
  exact ⟨Thread.onward_park .., (Thread.onward_wait ..).trans hwait, fun hl => by rw [Thread.onward_pc _ _ _ (hloop ▸ hl), hpc]⟩

end

end Sys2Proof.Machine
end

section
/-! PROOFS. `yield` and the yield budget (R82, R83). -/

namespace Sys2Proof.Machine
open Sys2Proof

/-- The yield maximum in force in a thread's region (R290). -/
def State.yieldMaxOf (s : State) (t : Thread) : Nat := match s.region? t.region with | some r => r.y | none => 0

theorem State.yieldMaxOf_thread {s : State} {n : Nat} {r : Region} (hr : s.regionOf n = some r) : s.yieldMaxOf (s.thread n) = r.y := by
  unfold State.regionOf at hr
  unfold State.yieldMaxOf
  rw [hr]

/-- A thread after its `yield` has cleared the count and set the budget (R82). -/
def Thread.yielded (s : State) (d : Nat) (t : Thread) : Thread :=
  { t with ycnt := 0, ybud := if d == 0 then s.yieldMaxOf t else min d (s.yieldMaxOf t) }

/-- What `yield` does to its threads. -/
def yieldBody (x : S64A) : Body := fun s ts =>
  (s.setThreads (s.c.threads.map fun t => if ts.contains t.tid then t.yielded s x.i16.toNat else t),
    ts.filterMap fun t => if s.preempting t then some (t, .wait (.yieldHold ((liveCount x.b).getD 0))) else none)

theorem exec_yield (x : S64A) (s : State) : exec (.yield x) s = s.run (.yield x) (yieldBody x) := rfl

/-- The state of a `yield` when the count and the budget are set. -/
def State.yieldedBy (s : State) (x : S64A) (n : Nat) : State :=
  (s.countIssue (.yield x) s.cur.tids).modThread n (Thread.yielded (s.countIssue (.yield x) s.cur.tids) x.i16.toNat)

theorem State.remaps_yieldedBy (s : State) (x : S64A) (n : Nat) (hcur : s.cur.tids = [n]) :
    s.Remaps (s.yieldedBy x n) (Thread.onlyAt n (Thread.yielded (s.countIssue (.yield x) s.cur.tids) x.i16.toNat ∘ s.counted (.yield x))) :=
  (State.Remaps.countIssue s (.yield x) n hcur).trans_at (.modThread _ n fun _ => rfl)

theorem State.countIssue_preempting (s : State) (i : Instr) (n : Nat) : (s.countIssue i s.cur.tids).preempting n = s.preempting n := by
  rw [State.countIssue_eq]
  rfl

theorem yieldBody_single (x : S64A) (s : State) (n : Nat) :
    yieldBody x (s.countIssue (.yield x) s.cur.tids) [n] =
      (s.yieldedBy x n, if s.preempting n then [(n, .wait (.yieldHold ((liveCount x.b).getD 0)))] else []) := by
  unfold yieldBody State.yieldedBy State.modThread
  simp only [List.contains_cons, List.contains_nil, Bool.or_false, List.filterMap_cons, List.filterMap_nil, State.countIssue_preempting]
  cases s.preempting n <;> rfl

section
variable {s : State} {x : S64A} {n : Nat} {r : Region}

/-- What a `yield` leaves, whatever control its thread takes. -/
theorem State.yield_outcome (h : s.solo (.yield x) n = true) (hr : s.regionOf n = some r) {f : Thread → Thread}
    (hctl : ∀ t, f t = t.control (f t)) (hycnt : ∀ t, (f t).ycnt = t.ycnt) :
    ∃ w t, t = (s.yieldedBy x n).afterBody.modThread n f ∧ t.thread n = f w ∧ w.pc = (s.thread n).pc ∧ w.loop = (s.thread n).loop ∧
      t.c.pend = s.c.pend ∧ (t.thread n).ycnt = 0 ∧
      s.OnlyThread t n { s.thread n with ybud := if x.i16 = 0 then r.y else min x.i16.toNat r.y } := by
  have hn := State.solo_isSome h
  have hmap := (s.remaps_yieldedBy x n (State.solo_tids h)).control hctl
  have hbud : ((s.counted (.yield x) (s.thread n)).yielded (s.countIssue (.yield x) s.cur.tids) x.i16.toNat).ybud =
      if x.i16 = 0 then r.y else min x.i16.toNat r.y := by
    have hmax : (s.countIssue (.yield x) s.cur.tids).yieldMaxOf (s.counted (.yield x) (s.thread n)) = r.y := by
      rw [State.countIssue_eq]
      exact State.yieldMaxOf_thread hr
    simp only [Thread.yielded, hmax, beq_iff_eq, ← BitVec.toNat_inj]
    rfl
  refine ⟨(s.counted (.yield x) (s.thread n)).yielded (s.countIssue (.yield x) s.cur.tids) x.i16.toNat, _, rfl, hmap.thread_at hn, rfl, rfl,
    hmap.pend, ?_, hmap.onlyThread_at hn ?_⟩
  · rw [hmap.thread_at hn]
    exact hycnt _
  · rw [← hbud]
    exact hctl _

/-- R83: no request is pending; the thread goes on. -/
theorem exec_yield_goes_on (h : s.solo (.yield x) n = true) (hr : s.regionOf n = some r) (hp : s.preempting n = false) :
    ∃ t, exec (.yield x) s = .next t ∧ t.c.pend = s.c.pend ∧ (t.thread n).ycnt = 0 ∧
      s.OnlyThread t n { s.thread n with ybud := if x.i16 = 0 then r.y else min x.i16.toNat r.y } ∧ s.Advances t (.yield x) := by
  have hb := yieldBody_single x s n
  rw [hp, if_neg Bool.false_ne_true] at hb
  obtain ⟨-, t, rfl, -, -, -, hpend, hycnt, honly⟩ := State.yield_outcome h hr (Thread.onward_control (s.yieldedBy x n).afterBody (.yield x))
    (Thread.onward_ycnt _ _)
  have hself := Thread.onlyAt_same (s.thread_tid n) (Thread.yielded (s.countIssue (.yield x) s.cur.tids) x.i16.toNat ∘ s.counted (.yield x))
  exact ⟨_, (exec_yield x s).trans (State.run_solo_onward h rfl hb), hpend, hycnt, honly,
    (s.remaps_yieldedBy x n (State.solo_tids h)).advances h (by rw [hself]; rfl) (by rw [hself]; rfl) (by rw [hself]; rfl)⟩

/-- R83: a request is pending; the thread is held at its next instruction with the live count. -/
theorem exec_yield_holds (h : s.solo (.yield x) n = true) (hr : s.regionOf n = some r) (hp : s.preempting n = true) :
    ∃ t, exec (.yield x) s = .next t ∧ t.c.pend = s.c.pend ∧ (t.thread n).ycnt = 0 ∧
      s.OnlyThread t n { s.thread n with ybud := if x.i16 = 0 then r.y else min x.i16.toNat r.y } ∧
      (t.thread n).wait = .yieldHold ((liveCount x.b).getD 0) ∧ ((s.thread n).loop.act = false → (t.thread n).pc = (s.thread n).pc + 8) := by
  have hb := yieldBody_single x s n
  rw [hp, if_pos rfl] at hb
  have hw := Thread.waiting_eq (s.yieldedBy x n).afterBody (.yield x) (.yieldHold ((liveCount x.b).getD 0))
  obtain ⟨w, t, rfl, ht, hpc, hloop, hpend, hycnt, honly⟩ := State.yield_outcome h hr
    (Thread.waiting_control (s.yieldedBy x n).afterBody (.yield x) (.yieldHold ((liveCount x.b).getD 0))) (fun t => by rw [hw]; rfl)
  refine ⟨_, (exec_yield x s).trans (State.run_solo_leaves h hb _ (State.finish_wait ..) fun t => by rw [hw]; rfl), hpend, hycnt, honly, ?_, fun hl => ?_⟩
  · rw [ht, hw]
  · rw [ht, Thread.waiting_pc _ _ _ _ (hloop ▸ hl), hpc, Instr.bytes_s64 (i := .yield x) rfl]

end

/-! ### The budget (R82) -/

theorem State.overBudget_eq_true_iff (s : State) (n : Nat) :
    s.overBudget n false = true ↔ (s.thread n).replay = false ∧ (s.thread n).ybud < (s.thread n).ycnt + 1 := by
  simp [State.overBudget]

theorem exec_yieldovr_raises (s : State) (n : Nat) (hgone : (s.thread n).gone = false) (hreplay : (s.thread n).replay = false)
    (hover : (s.thread n).ybud < (s.thread n).ycnt + 1) :
    exec (.yieldovr n) s = .next (s.raise n { flt .yieldovr with pc := (s.thread n).pc, resume := (s.thread n).pc }) := by
  have hbudget := (s.overBudget_eq_true_iff n).2 ⟨hreplay, hover⟩
  change execYieldovr n s = _
  simp [execYieldovr, hgone, hbudget]

theorem exec_yieldovr_stays (s : State) (n : Nat) (h : (s.thread n).gone = true ∨ (s.thread n).replay = true ∨ (s.thread n).ycnt + 1 ≤ (s.thread n).ybud) :
    exec (.yieldovr n) s = .next s := by
  change execYieldovr n s = _
  unfold execYieldovr
  rw [if_pos]
  rw [Bool.or_eq_true, Bool.not_eq_true', ← Bool.not_eq_true, State.overBudget_eq_true_iff]
  obtain h | h | h := h
  · exact .inl h
  · exact .inr (by simp [h])
  · exact .inr (by omega)

/-- Settles O17: by whether a pre-emption request is pending, and by the thread's count. -/
theorem yieldBudget : Obligations.YieldBudget := by
  unfold Obligations.YieldBudget
  refine ⟨fun x s n r h hr => ?_, exec_yieldovr_raises, exec_yieldovr_stays⟩
  cases hp : s.preempting n with
  | false =>
    obtain ⟨t, hrun, hpend, hycnt, honly, hadv⟩ := exec_yield_goes_on h hr hp
    obtain ⟨-, -, hpc⟩ := hadv n (by simp [State.solo_tids h]) (State.solo_isSome h)
    rw [Instr.bytes_s64 (i := .yield x) rfl] at hpc
    exact ⟨t, hrun, hpend, hycnt, honly, hpc, fun _ => hadv, fun _ hk => Bool.noConfusion hk⟩
  | true =>
    obtain ⟨t, hrun, hpend, hycnt, honly, hwait, hpc⟩ := exec_yield_holds h hr hp
    exact ⟨t, hrun, hpend, hycnt, honly, hpc, fun hk => Bool.noConfusion hk, fun k _ hk => by rw [hwait, hk]; rfl⟩

end Sys2Proof.Machine
end

section
/-! PROOFS. The rejoin masks (R76 to R80): what an instruction of one thread does to the records of its warp, and when an episode ends. -/

namespace Sys2Proof.Machine
open Sys2Proof

/-! ### One bit of a rejoin register -/

theorem bitMask_getLsbD (n j : Nat) : (BitVec.ofNat 16 (2 ^ n)).getLsbD j = decide (j < 16 ∧ n = j) := by
  rw [BitVec.getLsbD_ofNat, Nat.testBit_two_pow, Bool.decide_and]

theorem setBit16_getLsbD (x : BitVec 16) (n : Nat) (b : Bool) (j : Nat) :
    (setBit16 x n b).getLsbD j = if j = n ∧ n < 16 then b else x.getLsbD j := by
  have hx : 16 ≤ j → x.getLsbD j = false := BitVec.getLsbD_of_ge x j
  unfold setBit16
  cases b
  · rw [if_neg Bool.false_ne_true, BitVec.getLsbD_and, BitVec.getLsbD_not, bitMask_getLsbD]
    grind
  · rw [if_pos rfl, BitVec.getLsbD_or, bitMask_getLsbD]
    grind

theorem setBit16_same {x : BitVec 16} {n : Nat} (h : n < 16) (b : Bool) : (setBit16 x n b).getLsbD n = b := by
  rw [setBit16_getLsbD, if_pos ⟨rfl, h⟩]

theorem setBit16_ne {j n : Nat} (h : j ≠ n) (x : BitVec 16) (b : Bool) : (setBit16 x n b).getLsbD j = x.getLsbD j := by
  rw [setBit16_getLsbD, if_neg fun hj => h hj.1]

theorem setBit16_false (x : BitVec 16) (n : Nat) : (setBit16 x n false).getLsbD n = false := by
  rw [setBit16_getLsbD]
  split
  · rfl
  · exact BitVec.getLsbD_of_ge _ _ (by omega)

/-- A mask that has bit n has a number below 16. -/
theorem lt_of_mask {x : BitVec 16} {n : Nat} (h : x.getLsbD n = true) : n < 16 := BitVec.lt_of_getLsbD h

/-! ### Changes of the episode of one mask -/

/-- A thread keeps all but its control and the three fields of mask k; only threads of warp w change. -/
structure Thread.KeepsMasks (w k : Nat) (a b : Thread) : Prop where
  fields : b = { a.control b with msk := b.msk, arr := b.arr, lft := b.lft }
  warp : widOf a.tid ≠ w → b = a
  masks : ∀ j, j ≠ k → b.msk.getLsbD j = a.msk.getLsbD j ∧ b.arr.getLsbD j = a.arr.getLsbD j ∧ b.lft.getLsbD j = a.lft.getLsbD j

namespace Thread.KeepsMasks
variable {w k n : Nat} {a b c : Thread}

theorem refl (a : Thread) : a.KeepsMasks w k a := ⟨rfl, fun _ => rfl, fun _ _ => ⟨rfl, rfl, rfl⟩⟩

theorem tid (h : a.KeepsMasks w k b) : b.tid = a.tid := by
  rw [h.fields]
  rfl

theorem trans (h : a.KeepsMasks w k b) (g : b.KeepsMasks w k c) : a.KeepsMasks w k c where
  fields := by
    calc c = { b.control c with msk := c.msk, arr := c.arr, lft := c.lft } := g.fields
      _ = { a.control c with msk := c.msk, arr := c.arr, lft := c.lft } := by
        rw [h.fields]
        rfl
  warp hw := (g.warp (by rwa [h.tid])).trans (h.warp hw)
  masks j hj := by
    obtain ⟨h1, h2, h3⟩ := h.masks j hj
    obtain ⟨g1, g2, g3⟩ := g.masks j hj
    exact ⟨g1.trans h1, g2.trans h2, g3.trans h3⟩

/-- A change of one thread of the warp. -/
theorem onlyAt {f : Thread → Thread} (hf : ∀ t : Thread, t.tid = n → t.KeepsMasks (widOf n) k (f t)) (t : Thread) :
    t.KeepsMasks (widOf n) k (t.onlyAt n f) := by
  unfold Thread.onlyAt
  split
  · next h => exact hf t h
  · exact refl t

/-- Control touches no mask. -/
theorem ofControl (ha : a.tid = n) (h : b = a.control b) : a.KeepsMasks (widOf n) k b where
  fields := by
    rw [h]
    rfl
  warp hw := absurd (congrArg widOf ha) hw
  masks j _ := by
    rw [h]
    exact ⟨rfl, rfl, rfl⟩

end Thread.KeepsMasks

/-- A step of an instruction on mask k of warp w: the thread records change as `F` says, and within the frame of R76 to R80. -/
structure State.MaskStep (s t : State) (w k : Nat) (F : Thread → Thread) : Prop extends s.Remaps t F where
  keeps : ∀ x : Thread, x.KeepsMasks w k (F x)

namespace State.MaskStep
variable {s t u : State} {w k n : Nat} {F G f : Thread → Thread}

theorem trans (h : s.MaskStep t w k F) (g : t.MaskStep u w k G) : s.MaskStep u w k (G ∘ F) :=
  ⟨h.toRemaps.trans g.toRemaps, fun x => (h.keeps x).trans (g.keeps (F x))⟩

theorem countIssue (s : State) (i : Instr) (n k : Nat) (hcur : s.cur.tids = [n]) :
    s.MaskStep (s.countIssue i s.cur.tids) (widOf n) k (Thread.onlyAt n (s.counted i)) :=
  ⟨.countIssue s i n hcur, Thread.KeepsMasks.onlyAt fun _ ht => .ofControl ht rfl⟩

/-- The control of the thread, after the body. -/
theorem control (h : s.MaskStep u (widOf n) k F) (hf : ∀ t, f t = t.control (f t)) :
    s.MaskStep (u.afterBody.modThread n f) (widOf n) k (Thread.onlyAt n f ∘ F) :=
  ⟨h.toRemaps.afterBody.trans (.modThread _ n fun t => by rw [hf]; rfl),
    fun x => (h.keeps x).trans (Thread.KeepsMasks.onlyAt (fun t ht => .ofControl ht (hf t)) (F x))⟩

/-- Nothing but the fields of the mask and the threads' control has changed. -/
theorem frame (h : s.MaskStep t w k F) :
    t = { s with free := t.free, c := { s.c with threads := t.c.threads }, b := { s.b with units := t.b.units } } ∧
      ∀ u, t.thread u = { (s.thread u).control (t.thread u) with msk := (t.thread u).msk, arr := (t.thread u).arr, lft := (t.thread u).lft } ∧
        (widOf u ≠ w → t.thread u = s.thread u) ∧
        ∀ j, j ≠ k → (t.thread u).msk.getLsbD j = (s.thread u).msk.getLsbD j ∧ (t.thread u).arr.getLsbD j = (s.thread u).arr.getLsbD j ∧
          (t.thread u).lft.getLsbD j = (s.thread u).lft.getLsbD j := by
  refine ⟨?_, fun u => ?_⟩
  · conv_lhs => rw [h.rest]
    rw [h.rest]
  · obtain ⟨hfields, hwarp, hmasks⟩ := h.thread_rel u (Thread.KeepsMasks w k) .refl fun x _ => h.keeps x
    exact ⟨hfields, fun hu => hwarp (by rwa [s.thread_tid]), hmasks⟩

end State.MaskStep

/-! ### The end of an episode (R77) -/

/-- An episode of mask k of warp w is complete. -/
def State.rejoinDone (s : State) (w k : Nat) : Bool :=
  let mine := s.c.threads.filter fun t => widOf t.tid == w
  mine.any (fun t => t.arr.getLsbD k) && mine.all fun t => t.gone || !t.msk.getLsbD k || t.arr.getLsbD k || t.lft.getLsbD k

/-- A thread when the episode of mask k of warp w has ended. -/
def Thread.rejoined (w k : Nat) (t : Thread) : Thread :=
  if widOf t.tid == w then { t with arr := setBit16 t.arr k false, lft := setBit16 t.lft k false, wait := if t.wait == .rjoin k then .none else t.wait }
  else t

theorem Thread.rejoined_of_warp {w k : Nat} {t : Thread} (h : widOf t.tid = w) :
    t.rejoined w k = { t with arr := setBit16 t.arr k false, lft := setBit16 t.lft k false, wait := if t.wait == .rjoin k then .none else t.wait } :=
  if_pos (beq_iff_eq.2 h)

theorem State.rejoinTest_eq (s : State) (w k : Nat) :
    s.rejoinTest w k = if s.rejoinDone w k then s.setThreads (s.c.threads.map (Thread.rejoined w k)) else s := rfl

theorem State.rejoinTests_single (s : State) (k n : Nat) : s.rejoinTests k [n] = s.rejoinTest (widOf n) k := by
  simp [State.rejoinTests]

theorem State.rejoinDone_iff (s : State) (w k : Nat) :
    s.rejoinDone w k = true ↔ (∃ t ∈ s.c.threads, widOf t.tid = w ∧ t.arr.getLsbD k = true) ∧
      ∀ t ∈ s.c.threads, widOf t.tid = w → t.gone = true ∨ t.msk.getLsbD k = false ∨ t.arr.getLsbD k = true ∨ t.lft.getLsbD k = true := by
  simp only [State.rejoinDone, Bool.and_eq_true, List.any_eq_true, List.all_eq_true, List.mem_filter, beq_iff_eq, Bool.or_eq_true, Bool.not_eq_true',
    and_imp, or_assoc, and_assoc]

theorem Thread.keepsMasks_rejoined (w k : Nat) (t : Thread) : t.KeepsMasks w k (t.rejoined w k) := by
  unfold Thread.rejoined
  split
  · next h => exact ⟨rfl, fun hw => absurd (eq_of_beq h) hw, fun j hj => ⟨rfl, setBit16_ne hj _ _, setBit16_ne hj _ _⟩⟩
  · exact .refl t

theorem State.MaskStep.rejoinTest (s : State) (w k : Nat) :
    s.MaskStep (s.rejoinTest w k) w k (if s.rejoinDone w k then Thread.rejoined w k else id) := by
  rw [State.rejoinTest_eq]
  split
  · exact ⟨.setThreads s fun x => (x.keepsMasks_rejoined w k).tid, Thread.keepsMasks_rejoined w k⟩
  · exact ⟨⟨by simp, fun _ => rfl⟩, .refl⟩

/-- Another live thread of the mask has neither arrived nor left. -/
def State.Awaited (s : State) (n k : Nat) : Prop := ∃ u ∈ s.c.threads, widOf u.tid = widOf n ∧ u.gone = false ∧ u.tid ≠ n ∧
  u.msk.getLsbD k = true ∧ u.arr.getLsbD k = false ∧ u.lft.getLsbD k = false

/-- Some thread of the warp has arrived. -/
def State.SomeArrived (s : State) (n k : Nat) : Prop := ∃ u ∈ s.c.threads, widOf u.tid = widOf n ∧ u.arr.getLsbD k = true

section
variable {s v : State} {n k : Nat} {g : Thread → Thread}

/-- While another thread is awaited the episode stays open. -/
theorem State.Remaps.rejoinDone_of_awaited (h : s.Remaps v (Thread.onlyAt n g)) (ho : s.Awaited n k) : v.rejoinDone (widOf n) k = false := by
  rw [← Bool.not_eq_true, State.rejoinDone_iff]
  rintro ⟨-, hall⟩
  obtain ⟨u, hu, hwarp, hgone, hne, hmsk, harr, hlft⟩ := ho
  have hmem : u ∈ v.c.threads := by
    rw [h.rest]
    exact List.mem_map.2 ⟨u, hu, Thread.onlyAt_ne hne g⟩
  obtain hx | hx | hx | hx := hall u hmem hwarp
  · exact Bool.false_ne_true (hgone.symm.trans hx)
  · exact Bool.false_ne_true (hx.symm.trans hmsk)
  · exact Bool.false_ne_true (harr.symm.trans hx)
  · exact Bool.false_ne_true (hlft.symm.trans hx)

/-- With no arrival there is no episode to end. -/
theorem State.rejoinDone_of_no_arrival (h : ¬ s.SomeArrived n k) : s.rejoinDone (widOf n) k = false := by
  rw [← Bool.not_eq_true, State.rejoinDone_iff]
  exact fun hd => h hd.1

/-- No other thread is awaited, this one has arrived or left, and there is an arrival: the episode ends. -/
theorem State.Remaps.rejoinDone_of_not_awaited (h : s.Remaps v (Thread.onlyAt n g)) (ho : ¬ s.Awaited n k)
    (hmine : ∀ x : Thread, x.tid = n → (g x).msk.getLsbD k = false ∨ (g x).arr.getLsbD k = true ∨ (g x).lft.getLsbD k = true)
    (hwaits : v.SomeArrived n k) : v.rejoinDone (widOf n) k = true := by
  rw [State.rejoinDone_iff]
  refine ⟨hwaits, fun t ht hwarp => ?_⟩
  rw [h.rest] at ht
  obtain ⟨x, hx, rfl⟩ := List.mem_map.1 ht
  by_cases hn : x.tid = n
  · rw [Thread.onlyAt_same hn]
    exact .inr (hmine x hn)
  · rw [Thread.onlyAt_ne hn] at hwarp ⊢
    by_contra hnot
    simp only [not_or, Bool.not_eq_true, Bool.not_eq_false] at hnot
    obtain ⟨hgone, hmsk, harr, hlft⟩ := hnot
    exact ho ⟨x, hx, hwarp, hgone, hn, hmsk, harr, hlft⟩

theorem State.thread_mem (h : (s.thread? n).isSome = true) : s.thread n ∈ s.c.threads := by
  unfold State.thread
  cases hq : s.thread? n with
  | none => rw [hq] at h; cases h
  | some x => exact List.mem_of_find?_eq_some hq

/-- Arrivals are those of before when no arrival bit has changed. -/
theorem State.Remaps.someArrived_iff {F : Thread → Thread} (h : s.Remaps v F) (harr : ∀ x, (F x).arr = x.arr) : v.SomeArrived n k ↔ s.SomeArrived n k := by
  unfold State.SomeArrived
  rw [h.rest]
  simp only [List.mem_map, exists_exists_and_eq_and, h.tid, harr]

theorem State.rejoinTest_open (h : s.rejoinDone (widOf n) k = false) : s.rejoinTest (widOf n) k = s := by
  rw [State.rejoinTest_eq, h, if_neg Bool.false_ne_true]

end

/-- What the end of an episode leaves: no arrival or departure at the mask in the warp, and no thread that waits for it. -/
def State.EpisodeEnded (s t : State) (n k : Nat) : Prop := ∀ u, widOf u = widOf n → (s.thread? u).isSome →
  (t.thread u).arr.getLsbD k = false ∧ (t.thread u).lft.getLsbD k = false ∧ (u ≠ n → (s.thread u).wait = .rjoin k → (t.thread u).wait = .none)

/-- The episode has ended by the rejoin test, before the control of the thread that made it. -/
theorem State.Remaps.episodeEnded {s t : State} {n k : Nat} {f g : Thread → Thread}
    (h : s.Remaps t (Thread.onlyAt n f ∘ Thread.rejoined (widOf n) k ∘ Thread.onlyAt n g))
    (hf : ∀ x, f x = x.control (f x)) (hg : ∀ x : Thread, (g x).tid = x.tid) : s.EpisodeEnded t n k := by
  intro u hu hs
  rw [h.thread hs]
  obtain ⟨x, hx⟩ : ∃ x, x = Thread.onlyAt n g (s.thread u) := ⟨_, rfl⟩
  have htid : x.tid = u := by rw [hx, Thread.onlyAt_tid hg, s.thread_tid]
  have hrej := Thread.rejoined_of_warp (k := k) ((congrArg widOf htid).trans hu)
  have hrtid : (x.rejoined (widOf n) k).tid = u := by rw [hrej]; exact htid
  rw [Function.comp_apply, Function.comp_apply, ← hx]
  by_cases hn : u = n
  · rw [Thread.onlyAt_same (hrtid.trans hn), hf, hrej]
    exact ⟨setBit16_false _ _, setBit16_false _ _, fun hne => absurd hn hne⟩
  · have hxs : x = s.thread u := by rw [hx, Thread.onlyAt_ne (by rwa [s.thread_tid])]
    rw [Thread.onlyAt_ne (hrtid ▸ hn), hrej]
    refine ⟨setBit16_false _ _, setBit16_false _ _, fun _ hw => ?_⟩
    rw [hxs]
    simp only [hw, beq_self_eq_true, if_true]

end Sys2Proof.Machine
end

section
/-! PROOFS. `jmark`, `rjoin` and `jleave` of one thread (R76 to R80). -/

namespace Sys2Proof.Machine
open Sys2Proof

/-! ### `jmark` (R78) -/

theorem warpsOf_single (n : Nat) : warpsOf [n] = [(widOf n, [n])] := by simp [warpsOf]

/-- The bit that a `jmark` of thread n puts into a thread of its warp, whose mask is `old`. -/
def markBit (x : S64A) (n : Nat) (v : Word) (old : BitVec 16) (u : Nat) : Bool :=
  if x.i16.toNat = 0 then decide (u = n) else if x.i16.toNat = 1 then decide (u = n) || old.getLsbD x.d.num else v.getLsbD (laneOf u)

/-- A thread of the warp after the `jmark` of thread n. -/
def Thread.marked (x : S64A) (n : Nat) (v : Word) (t : Thread) : Thread :=
  if widOf t.tid != widOf n then t
  else match x.i16.toNat with
    | 0 => { t with msk := setBit16 t.msk x.d.num ([n].contains t.tid) }
    | 1 => if [n].contains t.tid then { t with msk := setBit16 t.msk x.d.num true } else t
    | _ => { t with msk := setBit16 t.msk x.d.num (v.getLsbD (laneOf t.tid)) }

theorem exec_jmark_body (x : S64A) (n : Nat) : ∃ body : Body, (∀ s, exec (.jmark x) s = s.run (.jmark x) body) ∧
    ∀ s, body s [n] = ((s.setThreads (s.c.threads.map (Thread.marked x n (s.opnd n x.a)))).rejoinTest (widOf n) x.d.num, []) := by
  refine ⟨_, fun _ => rfl, fun s => ?_⟩
  simp only [warpsOf_single, List.foldl_cons, List.foldl_nil, State.rejoinTests_single]
  rfl

theorem Thread.keepsMasks_marked (x : S64A) (n : Nat) (v : Word) (t : Thread) : t.KeepsMasks (widOf n) x.d.num (t.marked x n v) := by
  have hset : ∀ b, t.KeepsMasks (widOf t.tid) x.d.num { t with msk := setBit16 t.msk x.d.num b } := fun b =>
    ⟨rfl, fun hw => absurd rfl hw, fun j hj => ⟨setBit16_ne hj _ _, rfl, rfl⟩⟩
  unfold Thread.marked
  split
  · exact .refl t
  · next hw =>
    rw [← show widOf t.tid = widOf n by simpa using hw]
    split
    · exact hset _
    · split
      · exact hset _
      · exact .refl t
    · exact hset _

theorem Thread.marked_msk (x : S64A) (n : Nat) (v : Word) (t : Thread) (hw : widOf t.tid = widOf n) (hk : x.d.num < 16) :
    (t.marked x n v).msk.getLsbD x.d.num = markBit x n v t.msk t.tid := by
  unfold Thread.marked markBit
  rw [if_neg (by simp [hw])]
  simp only [List.contains_cons, List.contains_nil, Bool.or_false, beq_iff_eq]
  split
  · next h => simp [h, setBit16_same hk, Bool.beq_eq_decide_eq]
  · next h =>
    by_cases ht : t.tid = n <;> simp [h, ht, setBit16_same hk]
  · next h0 h1 => rw [setBit16_same hk, if_neg h0, if_neg h1]

theorem Thread.marked_eq (x : S64A) (n : Nat) (v : Word) (t : Thread) : t.marked x n v = { t with msk := (t.marked x n v).msk } := by
  unfold Thread.marked
  split
  · rfl
  · split
    · rfl
    · split <;> rfl
    · rfl

/-- A change of one thread's control touches no mask. -/
theorem Thread.onlyAt_masks {n : Nat} {f : Thread → Thread} (hf : ∀ t, f t = t.control (f t)) (t : Thread) :
    (t.onlyAt n f).msk = t.msk ∧ (t.onlyAt n f).arr = t.arr ∧ (t.onlyAt n f).lft = t.lft := by
  unfold Thread.onlyAt
  split
  · rw [hf]
    exact ⟨rfl, rfl, rfl⟩
  · exact ⟨rfl, rfl, rfl⟩

theorem State.counted_control (s : State) (i : Instr) (t : Thread) : s.counted i t = t.control (s.counted i t) := rfl

theorem exec_jmark (x : S64A) (s : State) (n : Nat) (h : s.solo (.jmark x) n = true) (ha : ¬ s.SomeArrived n x.d.num) :
    ∃ t F, exec (.jmark x) s = .next t ∧ s.MaskStep t (widOf n) x.d.num F ∧ s.Advances t (.jmark x) ∧
      ∀ u, widOf u = widOf n → (s.thread? u).isSome → (t.thread u).arr = (s.thread u).arr ∧ (t.thread u).lft = (s.thread u).lft ∧
        (x.d.num < 16 → (t.thread u).msk.getLsbD x.d.num = markBit x n (s.opnd n x.a) (s.thread u).msk u) := by
  obtain ⟨body, hexec, hbody⟩ := exec_jmark_body x n
  obtain ⟨v, hv⟩ : ∃ v, v = (s.countIssue (.jmark x) s.cur.tids).setThreads
    ((s.countIssue (.jmark x) s.cur.tids).c.threads.map (Thread.marked x n (s.opnd n x.a))) := ⟨_, rfl⟩
  have hmarks : (s.countIssue (.jmark x) s.cur.tids).MaskStep v (widOf n) x.d.num (Thread.marked x n (s.opnd n x.a)) := by
    rw [hv]
    exact ⟨.setThreads _ fun t => (t.keepsMasks_marked x n _).tid, Thread.keepsMasks_marked x n _⟩
  have hstep := (State.MaskStep.countIssue s (.jmark x) n x.d.num (State.solo_tids h)).trans hmarks
  have hcount := Thread.onlyAt_masks (n := n) (s.counted_control (.jmark x))
  have hmark := Thread.marked_eq x n (s.opnd n x.a)
  have harr : ∀ t, ((Thread.marked x n (s.opnd n x.a) ∘ Thread.onlyAt n (s.counted (.jmark x))) t).arr = t.arr := fun t => by
    rw [Function.comp_apply, hmark]
    exact (hcount t).2.1
  have hlft : ∀ t, ((Thread.marked x n (s.opnd n x.a) ∘ Thread.onlyAt n (s.counted (.jmark x))) t).lft = t.lft := fun t => by
    rw [Function.comp_apply, hmark]
    exact (hcount t).2.2
  have hopen : v.rejoinDone (widOf n) x.d.num = false := State.rejoinDone_of_no_arrival (mt (hstep.toRemaps.someArrived_iff harr).1 ha)
  have hb := hbody (s.countIssue (.jmark x) s.cur.tids)
  rw [(State.SameOperands.countIssue s (.jmark x)).opnd, ← hv, State.rejoinTest_open hopen] at hb
  have hfinal := hstep.control (Thread.onward_control v.afterBody (.jmark x))
  have hself : (Thread.marked x n (s.opnd n x.a) ∘ Thread.onlyAt n (s.counted (.jmark x))) (s.thread n) =
      { s.counted (.jmark x) (s.thread n) with msk := ((s.counted (.jmark x) (s.thread n)).marked x n (s.opnd n x.a)).msk } := by
    rw [Function.comp_apply, Thread.onlyAt_same (s.thread_tid n)]
    exact hmark _
  refine ⟨_, _, (hexec s).trans (State.run_solo_onward h rfl hb), hfinal, hstep.toRemaps.advances h (by rw [hself]; rfl) (by rw [hself]; rfl) (by rw [hself]; rfl),
    fun u hu hs => ?_⟩
  obtain ⟨fmsk, farr, flft⟩ := Thread.onlyAt_masks (n := n) (Thread.onward_control v.afterBody (.jmark x))
    ((Thread.marked x n (s.opnd n x.a) ∘ Thread.onlyAt n (s.counted (.jmark x))) (s.thread u))
  rw [hfinal.thread hs, Function.comp_apply, fmsk, farr, flft]
  refine ⟨harr _, hlft _, fun hk => ?_⟩
  have htid : (Thread.onlyAt n (s.counted (.jmark x)) (s.thread u)).tid = u :=
    (Thread.onlyAt_tid (f := s.counted (.jmark x)) (fun _ => rfl) _).trans (s.thread_tid u)
  rw [Function.comp_apply, Thread.marked_msk _ _ _ _ (by rw [htid, hu]) hk, htid, (hcount _).1]

/-! ### Arrivals and departures (R79, R80) -/

/-- A thread that arrives at mask k. -/
def Thread.arrives (k : Nat) (t : Thread) : Thread := { t with arr := setBit16 t.arr k true }

/-- A thread of mask k that leaves it. -/
def Thread.leaves (k : Nat) (t : Thread) : Thread := if t.msk.getLsbD k then { t with lft := setBit16 t.lft k true } else t

theorem Thread.leaves_eq (k : Nat) (t : Thread) : t.leaves k = { t with lft := (t.leaves k).lft } := by
  unfold Thread.leaves
  split <;> rfl

theorem Thread.leaves_lft {k : Nat} {t : Thread} (h : t.msk.getLsbD k = true) : (t.leaves k).lft.getLsbD k = true := by
  rw [Thread.leaves, if_pos h]
  exact setBit16_same (lt_of_mask h) true

theorem Thread.keepsMasks_arrives {n k : Nat} {t : Thread} (ht : t.tid = n) : t.KeepsMasks (widOf n) k (t.arrives k) :=
  ⟨rfl, fun hw => absurd (congrArg widOf ht) hw, fun _ hj => ⟨rfl, setBit16_ne hj _ _, rfl⟩⟩

theorem Thread.keepsMasks_leaves {n k : Nat} {t : Thread} (ht : t.tid = n) : t.KeepsMasks (widOf n) k (t.leaves k) := by
  unfold Thread.leaves
  split
  · exact ⟨rfl, fun hw => absurd (congrArg widOf ht) hw, fun _ hj => ⟨rfl, rfl, setBit16_ne hj _ _⟩⟩
  · exact .refl t

theorem exec_rjoin_body (x : S64A) (n : Nat) : ∃ body : Body, (∀ s, exec (.rjoin x) s = s.run (.rjoin x) body) ∧
    ∀ s, body s [n] =
      let u := (if (s.thread n).msk.getLsbD x.d.num then s.modThread n (Thread.arrives x.d.num) else s).rejoinTest (widOf n) x.d.num
      (u, if (s.thread n).msk.getLsbD x.d.num && (u.thread n).arr.getLsbD x.d.num then [(n, .wait (.rjoin x.d.num))] else []) := by
  refine ⟨_, fun _ => rfl, fun s => ?_⟩
  simp only [State.rejoinTests_single]
  cases hm : (s.thread n).msk.getLsbD x.d.num
  · have harrive : [n].filter (fun t => (s.thread t).msk.getLsbD x.d.num) = [] := by simp [hm]
    have hstay : s.setThreads (s.c.threads.map fun t => if ([] : List Nat).contains t.tid then { t with arr := setBit16 t.arr x.d.num true } else t) = s :=
      s.setThreads_map_self _ fun t => rfl
    rw [harrive, hstay]
    rfl
  · have harrive : [n].filter (fun t => (s.thread t).msk.getLsbD x.d.num) = [n] := by simp [hm]
    have hmod : s.setThreads (s.c.threads.map fun t => if [n].contains t.tid then { t with arr := setBit16 t.arr x.d.num true } else t) =
        s.modThread n (Thread.arrives x.d.num) := by
      simp only [List.contains_cons, List.contains_nil, Bool.or_false]
      rfl
    rw [harrive, hmod, if_pos rfl, Bool.true_and]
    generalize (s.modThread n (Thread.arrives x.d.num)).rejoinTest (widOf n) x.d.num = u
    simp only [List.filterMap_cons, List.filterMap_nil]
    cases (u.thread n).arr.getLsbD x.d.num <;> rfl

theorem exec_jleave_body (x : S64A) (n : Nat) : ∃ body : Body, (∀ s, exec (.jleave x) s = s.run (.jleave x) body) ∧
    ∀ s, body s [n] = ((s.modThread n (Thread.leaves x.d.num)).rejoinTest (widOf n) x.d.num, []) := by
  refine ⟨_, fun _ => rfl, fun s => ?_⟩
  simp only [State.rejoinTests_single]
  have hmod : s.setThreads (s.c.threads.map fun t => if [n].contains t.tid && t.msk.getLsbD x.d.num then { t with lft := setBit16 t.lft x.d.num true } else t) =
      s.modThread n (Thread.leaves x.d.num) := by
    simp only [List.contains_cons, List.contains_nil, Bool.or_false]
    unfold State.modThread Thread.leaves
    simp only [Bool.and_eq_true, ite_and]
  rw [hmod]

section
variable {s v : State} {i : Instr} {n k : Nat} {f g : Thread → Thread}

/-- The count of an issue and then an arrival or departure of its thread. -/
theorem State.MaskStep.touch (s : State) (i : Instr) (hcur : s.cur.tids = [n]) (hg : ∀ t : Thread, t.tid = n → t.KeepsMasks (widOf n) k (g t))
    (htid : ∀ t, (g t).tid = t.tid) :
    s.MaskStep ((s.countIssue i s.cur.tids).modThread n g) (widOf n) k (Thread.onlyAt n (g ∘ s.counted i)) :=
  ⟨(State.Remaps.countIssue s i n hcur).trans_at (.modThread _ n htid),
    Thread.KeepsMasks.onlyAt fun t ht => (Thread.KeepsMasks.ofControl ht rfl).trans (hg (s.counted i t) ht)⟩

theorem Thread.rejoined_goes_on (w k : Nat) (t : Thread) (h : t.wait = .none) :
    (t.rejoined w k).wait = .none ∧ (t.rejoined w k).pc = t.pc ∧ (t.rejoined w k).loop = t.loop := by
  unfold Thread.rejoined
  split
  · exact ⟨by simp [h], rfl, rfl⟩
  · exact ⟨h, rfl, rfl⟩

/-- The rejoin test holds no thread that goes on. -/
theorem State.MaskStep.rejoinTest_advances (h : s.MaskStep v (widOf n) k (Thread.onlyAt n g)) (hsolo : s.solo i n = true)
    (hwait : (g (s.thread n)).wait = .none) (hpc : (g (s.thread n)).pc = (s.thread n).pc) (hloop : (g (s.thread n)).loop = (s.thread n).loop) :
    s.Advances ((v.rejoinTest (widOf n) k).afterBody.modThread n (Thread.onward (v.rejoinTest (widOf n) k).afterBody i)) i := by
  obtain ⟨hw, hp, hl⟩ := (g (s.thread n)).rejoined_goes_on (widOf n) k hwait
  refine (h.trans (.rejoinTest v (widOf n) k)).toRemaps.advances hsolo ?_ ?_ ?_ <;>
    rw [Function.comp_apply, Thread.onlyAt_same (s.thread_tid n)] <;> split
  · exact hw
  · exact hwait
  · exact hp.trans hpc
  · exact hpc
  · exact hl.trans hloop
  · exact hloop

/-- The episode ends when all have arrived or left: what its end leaves, whatever control the thread takes. -/
theorem State.MaskStep.ends (h : s.MaskStep v (widOf n) k (Thread.onlyAt n g)) (hg : ∀ t, (g t).tid = t.tid) (hf : ∀ t, f t = t.control (f t))
    (hdone : v.rejoinDone (widOf n) k = true) : s.EpisodeEnded ((v.rejoinTest (widOf n) k).afterBody.modThread n f) n k := by
  have hstep := (h.trans (.rejoinTest v (widOf n) k)).control hf
  rw [hdone, if_pos rfl] at hstep
  exact hstep.toRemaps.episodeEnded hf hg

end

/-! ### `jleave` -/

theorem exec_jleave (x : S64A) (s : State) (n : Nat) (h : s.solo (.jleave x) n = true) :
    ∃ t F, exec (.jleave x) s = .next t ∧ s.MaskStep t (widOf n) x.d.num F ∧ s.Advances t (.jleave x) ∧
      ((s.thread n).msk.getLsbD x.d.num = true → s.Awaited n x.d.num ∨ ¬ s.SomeArrived n x.d.num → (t.thread n).lft.getLsbD x.d.num = true ∧
        ∀ u, (t.thread u).arr = (s.thread u).arr ∧ (u ≠ n → (t.thread u).lft = (s.thread u).lft)) ∧
      ((s.thread n).msk.getLsbD x.d.num = true → ¬ s.Awaited n x.d.num → s.SomeArrived n x.d.num → s.EpisodeEnded t n x.d.num) := by
  obtain ⟨body, hexec, hbody⟩ := exec_jleave_body x n
  have hleave := Thread.leaves_eq x.d.num
  have htid : ∀ t, (Thread.leaves x.d.num t).tid = t.tid := fun t => by rw [hleave]
  have htouch := State.MaskStep.touch s (.jleave x) (State.solo_tids h) (g := Thread.leaves x.d.num) (fun _ => Thread.keepsMasks_leaves) htid
  have hb := hbody (s.countIssue (.jleave x) s.cur.tids)
  generalize (s.countIssue (.jleave x) s.cur.tids).modThread n (Thread.leaves x.d.num) = v at htouch hb
  have hctl := Thread.onward_control (v.rejoinTest (widOf n) x.d.num).afterBody (.jleave x)
  have harr : ∀ t, (Thread.onlyAt n (Thread.leaves x.d.num ∘ s.counted (.jleave x)) t).arr = t.arr := fun t => by
    unfold Thread.onlyAt
    split
    · rw [Function.comp_apply, hleave]
      rfl
    · rfl
  have hself : (Thread.leaves x.d.num ∘ s.counted (.jleave x)) (s.thread n) =
      { s.counted (.jleave x) (s.thread n) with lft := ((s.counted (.jleave x) (s.thread n)).leaves x.d.num).lft } := hleave _
  refine ⟨_, _, (hexec s).trans (State.run_solo_onward h rfl hb), (htouch.trans (.rejoinTest v _ _)).control hctl,
    htouch.rejoinTest_advances h (by rw [hself]; rfl) (by rw [hself]; rfl) (by rw [hself]; rfl), fun hm ho => ?_, fun hm ho ha => ?_⟩
  · have hopen : v.rejoinDone (widOf n) x.d.num = false := ho.elim htouch.toRemaps.rejoinDone_of_awaited fun ha =>
      State.rejoinDone_of_no_arrival (mt (htouch.toRemaps.someArrived_iff harr).1 ha)
    rw [State.rejoinTest_open hopen] at hctl ⊢
    have hfinal := htouch.control hctl
    refine ⟨?_, fun u => ?_⟩
    · rw [hfinal.thread (State.solo_isSome h), Function.comp_apply, (Thread.onlyAt_masks hctl _).2.2, Thread.onlyAt_same (s.thread_tid n)]
      exact Thread.leaves_lft (t := s.counted (.jleave x) (s.thread n)) hm
    · obtain ⟨harr', hlft'⟩ := hfinal.thread_rel u (fun a b => b.arr = a.arr ∧ (a.tid ≠ n → b.lft = a.lft))
        (fun _ => ⟨rfl, fun _ => rfl⟩) fun t _ => by
        rw [Function.comp_apply, (Thread.onlyAt_masks hctl _).2.1, (Thread.onlyAt_masks hctl _).2.2]
        exact ⟨harr t, fun hne => by rw [Thread.onlyAt_ne hne]⟩
      exact ⟨harr', fun hne => hlft' (by rwa [s.thread_tid])⟩
  · refine htouch.ends (fun t => htid _) hctl (htouch.toRemaps.rejoinDone_of_not_awaited ho (fun t ht => ?_) ((htouch.toRemaps.someArrived_iff harr).2 ha))
    by_cases hk : t.msk.getLsbD x.d.num = true
    · exact .inr (.inr (Thread.leaves_lft (t := s.counted (.jleave x) t) hk))
    · refine .inl ?_
      rw [Function.comp_apply, hleave]
      exact Bool.eq_false_iff.2 hk

/-! ### `rjoin` -/

section
variable {x : S64A} {s : State} {n : Nat}

/-- A thread outside the mask goes on. -/
theorem exec_rjoin_outside (h : s.solo (.rjoin x) n = true) (hm : (s.thread n).msk.getLsbD x.d.num = false) :
    ∃ t F, exec (.rjoin x) s = .next t ∧ s.MaskStep t (widOf n) x.d.num F ∧ s.Advances t (.rjoin x) := by
  obtain ⟨body, hexec, hbody⟩ := exec_rjoin_body x n
  have hcount := State.MaskStep.countIssue s (.rjoin x) n x.d.num (State.solo_tids h)
  have hb := hbody (s.countIssue (.rjoin x) s.cur.tids)
  have hm' : ((s.countIssue (.rjoin x) s.cur.tids).thread n).msk = (s.thread n).msk := by
    rw [s.thread_countIssue]
    rfl
  simp only [hm', hm, Bool.false_and, Bool.false_eq_true, if_false] at hb
  have hctl := Thread.onward_control ((s.countIssue (.rjoin x) s.cur.tids).rejoinTest (widOf n) x.d.num).afterBody (.rjoin x)
  exact ⟨_, _, (hexec s).trans (State.run_solo_onward h rfl hb), (hcount.trans (.rejoinTest _ _ _)).control hctl,
    hcount.rejoinTest_advances h rfl rfl rfl⟩

/-- The state of an `rjoin` of a thread of the mask when it has arrived. -/
def State.arrivedAt (s : State) (x : S64A) (n : Nat) : State := (s.countIssue (.rjoin x) s.cur.tids).modThread n (Thread.arrives x.d.num)

theorem State.MaskStep.arrivedAt (h : s.solo (.rjoin x) n = true) :
    s.MaskStep (s.arrivedAt x n) (widOf n) x.d.num (Thread.onlyAt n (Thread.arrives x.d.num ∘ s.counted (.rjoin x))) :=
  .touch s (.rjoin x) (State.solo_tids h) (fun _ => Thread.keepsMasks_arrives) fun _ => rfl

/-- The body of the `rjoin` of a thread of the mask. -/
theorem exec_rjoin_inside (h : s.solo (.rjoin x) n = true) (hm : (s.thread n).msk.getLsbD x.d.num = true) :
    ∃ body : Body, exec (.rjoin x) s = s.run (.rjoin x) body ∧
      body (s.countIssue (.rjoin x) s.cur.tids) [n] = ((s.arrivedAt x n).rejoinTest (widOf n) x.d.num,
        if (s.arrivedAt x n).rejoinDone (widOf n) x.d.num then [] else [(n, .wait (.rjoin x.d.num))]) := by
  obtain ⟨body, hexec, hbody⟩ := exec_rjoin_body x n
  refine ⟨body, hexec s, ?_⟩
  have hm' : ((s.countIssue (.rjoin x) s.cur.tids).thread n).msk = (s.thread n).msk := by
    rw [s.thread_countIssue]
    rfl
  have harr : (((s.arrivedAt x n).rejoinTest (widOf n) x.d.num).thread n).arr.getLsbD x.d.num = !(s.arrivedAt x n).rejoinDone (widOf n) x.d.num := by
    have hstep := (State.MaskStep.arrivedAt h).trans (.rejoinTest (s.arrivedAt x n) (widOf n) x.d.num)
    rw [hstep.thread (State.solo_isSome h), Function.comp_apply, Thread.onlyAt_same (s.thread_tid n)]
    cases (s.arrivedAt x n).rejoinDone (widOf n) x.d.num with
    | true =>
      rw [if_pos rfl, Thread.rejoined_of_warp (t := (Thread.arrives x.d.num ∘ s.counted (.rjoin x)) (s.thread n)) (congrArg widOf (s.thread_tid n))]
      exact setBit16_false _ _
    | false => exact setBit16_same (lt_of_mask hm) true
  rw [hbody]
  simp only [hm', hm, Bool.true_and, if_true]
  change ((s.arrivedAt x n).rejoinTest (widOf n) x.d.num, if (((s.arrivedAt x n).rejoinTest (widOf n) x.d.num).thread n).arr.getLsbD x.d.num then _ else _) = _
  rw [harr]
  cases (s.arrivedAt x n).rejoinDone (widOf n) x.d.num <;> rfl

/-- While another thread is awaited the thread arrives, and waits at its next instruction. -/
theorem exec_rjoin_waits (h : s.solo (.rjoin x) n = true) (hm : (s.thread n).msk.getLsbD x.d.num = true) (ho : s.Awaited n x.d.num) :
    ∃ t F, exec (.rjoin x) s = .next t ∧ s.MaskStep t (widOf n) x.d.num F ∧ (t.thread n).arr.getLsbD x.d.num = true ∧
      (t.thread n).wait = .rjoin x.d.num ∧ ((s.thread n).loop.act = false → (t.thread n).pc = (s.thread n).pc + 8) := by
  obtain ⟨body, hexec, hb⟩ := exec_rjoin_inside h hm
  have harrive := State.MaskStep.arrivedAt h
  have hopen := harrive.toRemaps.rejoinDone_of_awaited ho
  rw [State.rejoinTest_open hopen, hopen, if_neg Bool.false_ne_true] at hb
  have hw := Thread.waiting_eq (s.arrivedAt x n).afterBody (.rjoin x) (.rjoin x.d.num)
  have hctl := Thread.waiting_control (s.arrivedAt x n).afterBody (.rjoin x) (.rjoin x.d.num)
  have hfinal := harrive.control hctl
  have hthread := hfinal.thread (State.solo_isSome h)
  rw [Function.comp_apply, Thread.onlyAt_same (s.thread_tid n),
    Thread.onlyAt_same (t := (Thread.arrives x.d.num ∘ s.counted (.rjoin x)) (s.thread n)) (s.thread_tid n)] at hthread
  refine ⟨_, _, hexec.trans (State.run_solo_leaves h hb _ (State.finish_wait ..) fun t => by rw [hw]; rfl), hfinal, ?_, ?_, fun hl => ?_⟩
  · rw [hthread, hctl]
    exact setBit16_same (lt_of_mask hm) true
  · rw [hthread, hw]
  · have hpc := Thread.waiting_pc (s.arrivedAt x n).afterBody (.rjoin x) (.rjoin x.d.num) ((Thread.arrives x.d.num ∘ s.counted (.rjoin x)) (s.thread n)) hl
    rw [hthread, hpc, Instr.bytes_s64 (i := .rjoin x) rfl]
    rfl

/-- The last thread of the mask ends the episode, and goes on. -/
theorem exec_rjoin_ends (h : s.solo (.rjoin x) n = true) (hm : (s.thread n).msk.getLsbD x.d.num = true) (ho : ¬ s.Awaited n x.d.num) :
    ∃ t F, exec (.rjoin x) s = .next t ∧ s.MaskStep t (widOf n) x.d.num F ∧ s.EpisodeEnded t n x.d.num ∧ s.Advances t (.rjoin x) := by
  obtain ⟨body, hexec, hb⟩ := exec_rjoin_inside h hm
  have harrive := State.MaskStep.arrivedAt h
  have hbit : ∀ t, ((Thread.arrives x.d.num ∘ s.counted (.rjoin x)) t).arr.getLsbD x.d.num = true := fun t => setBit16_same (lt_of_mask hm) true
  have hmem : (Thread.arrives x.d.num ∘ s.counted (.rjoin x)) (s.thread n) ∈ (s.arrivedAt x n).c.threads := by
    rw [harrive.rest]
    exact List.mem_map.2 ⟨_, State.thread_mem (State.solo_isSome h), Thread.onlyAt_same (s.thread_tid n) _⟩
  have hdone := harrive.toRemaps.rejoinDone_of_not_awaited ho (fun t _ => .inr (.inl (hbit t))) ⟨_, hmem, congrArg widOf (s.thread_tid n), hbit _⟩
  rw [hdone, if_pos rfl] at hb
  have hctl := Thread.onward_control ((s.arrivedAt x n).rejoinTest (widOf n) x.d.num).afterBody (.rjoin x)
  exact ⟨_, _, hexec.trans (State.run_solo_onward h rfl hb), (harrive.trans (.rejoinTest _ _ _)).control hctl,
    harrive.ends (fun _ => rfl) hctl hdone, harrive.rejoinTest_advances h rfl rfl rfl⟩

end

/-- Settles O18: each instruction is a step on one mask of the warp, which ends its episode when no thread is awaited. -/
theorem rejoinEpisodes : Obligations.RejoinEpisodes := by
  unfold Obligations.RejoinEpisodes
  refine ⟨fun x s n h ha => ?_, fun x s n h => ?_, fun x s n h => ?_⟩
  · obtain ⟨t, F, hrun, hstep, hadv, hmarks⟩ := exec_jmark x s n h ha
    exact ⟨t, hrun, hstep.pend, hstep.frame, hadv, hmarks⟩
  · have hpc : ∀ t, s.Advances t (.rjoin x) → (t.thread n).wait = .none ∧ ((s.thread n).loop.act = false → (t.thread n).pc = (s.thread n).pc + 8) :=
      fun t hadv => by
        obtain ⟨-, hwait, hpc⟩ := hadv n (by simp [State.solo_tids h]) (State.solo_isSome h)
        rw [Instr.bytes_s64 (i := .rjoin x) rfl] at hpc
        exact ⟨hwait, hpc⟩
    cases hm : (s.thread n).msk.getLsbD x.d.num with
    | false =>
      obtain ⟨t, F, hrun, hstep, hadv⟩ := exec_rjoin_outside h hm
      exact ⟨t, hrun, hstep.pend, hstep.frame, (hpc t hadv).2, fun hk => Bool.noConfusion hk, fun hk => Bool.noConfusion hk, fun _ => (hpc t hadv).1⟩
    | true =>
      by_cases ho : s.Awaited n x.d.num
      · obtain ⟨t, F, hrun, hstep, harr, hwait, hpc⟩ := exec_rjoin_waits h hm ho
        exact ⟨t, hrun, hstep.pend, hstep.frame, hpc, fun _ _ => ⟨harr, hwait⟩, fun _ hno => absurd ho hno, fun hk => Bool.noConfusion hk⟩
      · obtain ⟨t, F, hrun, hstep, hended, hadv⟩ := exec_rjoin_ends h hm ho
        exact ⟨t, hrun, hstep.pend, hstep.frame, (hpc t hadv).2, fun _ hno => absurd hno ho, fun _ _ => ⟨hended, (hpc t hadv).1⟩,
          fun hk => Bool.noConfusion hk⟩
  · obtain ⟨t, F, hrun, hstep, hadv, hleft, hended⟩ := exec_jleave x s n h
    exact ⟨t, hrun, hstep.pend, hstep.frame, hadv, hleft, hended⟩

end Sys2Proof.Machine
end

section
/-! PROOFS. `brk` and `rfe` (R88, R89), and a precise fault that goes on past its instruction (R87, R88). -/

namespace Sys2Proof.Machine
open Sys2Proof

/-! ### The debug state of a unit -/

theorem find?_insertBy_same {α : Type} (le : α → α → Bool) (a : α) (p : α → Bool) (ha : p a = true) :
    ∀ l : List α, (∀ b ∈ l, p b = false) → (insertBy le a l).find? p = some a
  | [], _ => by simp [insertBy, ha]
  | b :: r, h => by
    obtain ⟨hb, hr⟩ := List.forall_mem_cons.1 h
    unfold insertBy
    split
    · rw [List.find?_cons, ha]
    · rw [List.find?_cons, hb]
      exact find?_insertBy_same le a p ha r hr

theorem find?_insertBy_other {α : Type} (le : α → α → Bool) (a : α) (p : α → Bool) (ha : p a = false) :
    ∀ l : List α, (insertBy le a l).find? p = l.find? p
  | [] => by simp [insertBy, ha]
  | b :: r => by
    unfold insertBy
    split
    · rw [List.find?_cons, ha]
    · rw [List.find?_cons, List.find?_cons, find?_insertBy_other le a p ha r]

theorem State.unit_setUnit_other (s : State) (u : UnitSt) {k : Nat} (hk : k ≠ u.n) : (s.setUnit u).unit k = s.unit k := by
  have hkept : ∀ v : UnitSt, (v.n != u.n && v.n == k) = (v.n == k) := fun v => by
    by_cases hv : v.n = k
    · simp [hv, hk]
    · simp [hv]
  unfold State.unit
  rw [State.setUnit_b, find?_insertBy_other _ u _ (by simpa using Ne.symm hk), List.find?_filter]
  simp only [← Bool.and_eq_true, Bool.decide_eq_true, hkept]

theorem State.unit_setUnit (s : State) (u : UnitSt) : (s.setUnit u).unit u.n = u := by
  unfold State.unit
  rw [State.setUnit_b, find?_insertBy_same _ u _ (beq_self_eq_true u.n) _ fun v hv => by simpa using (List.mem_filter.1 hv).2]
  rfl

theorem State.unit_n (s : State) (k : Nat) : (s.unit k).n = k := by
  unfold State.unit
  cases h : s.b.units.find? fun u => u.n == k with
  | none => rfl
  | some u => simpa using List.find?_some h

theorem State.skidCount_unit (s : State) (k : Nat) (ts : List Nat) : (s.skidCount k ts).unit k = { s.unit k with skid := ((s.skidCount k ts).unit k).skid } := by
  have hset : ∀ l : List Nat, (s.setUnit { s.unit k with skid := l }).unit k = { s.unit k with skid := l } := fun l => by
    have h := s.unit_setUnit { s.unit k with skid := l }
    rwa [show ({ s.unit k with skid := l } : UnitSt).n = k from s.unit_n k] at h
  unfold State.skidCount
  dsimp only
  split
  · split
    · rw [hset]
    · rfl
  · rfl

/-- The skid counts leave a step of their unit, and every other unit. -/
theorem State.skidCount_unit_step (s : State) (n : Nat) (ts : List Nat) (k : Nat) : ((s.skidCount n ts).unit k).step = (s.unit k).step := by
  by_cases hk : k = n
  · rw [hk, s.skidCount_unit]
  · have hset : ∀ l : List Nat, (s.setUnit { s.unit n with skid := l }).unit k = s.unit k := fun l =>
      s.unit_setUnit_other { s.unit n with skid := l } (by rwa [s.unit_n])
    unfold State.skidCount
    dsimp only
    split
    · split
      · rw [hset]
      · rfl
    · rfl

theorem State.countIssue_unit (s : State) (i : Instr) (k : Nat) (hk : k = s.cur.unit) :
    (s.countIssue i s.cur.tids).unit k = { s.unit k with skid := ((s.countIssue i s.cur.tids).unit k).skid } := by
  have hunit : (s.countIssue i s.cur.tids).unit k = (s.skidCount s.cur.unit s.cur.tids).unit k := by
    unfold State.unit
    rw [State.countIssue_eq]
  rw [hunit, hk, s.skidCount_unit]

/-- A trigger at a unit that runs and has no stop of its own pending, without broadcast (R435). -/
theorem State.trigger_fresh (s : State) (k cause : Nat) (hfrozen : s.frozen k = false) (hdue : (s.unit k).due = none) (hbcast : s.fld (rPctl k) 5 5 = 0) :
    s.trigger k cause false = s.setUnit { s.unit k with due := some s.clk, cause := cause, tclk := s.clk } := by
  simp [State.trigger, State.stopAt, hfrozen, hdue, hbcast]

theorem State.countIssue_fld (s : State) (i : Instr) (o hi lo : Nat) : (s.countIssue i s.cur.tids).fld o hi lo = s.fld o hi lo := by
  rw [State.countIssue_eq]
  rfl

theorem State.Remaps.setUnit {s t : State} {F : Thread → Thread} (h : s.Remaps t F) (x : UnitSt) : s.Remaps (t.setUnit x) F where
  rest := by
    unfold State.setUnit
    conv_lhs => rw [h.rest]
  tid := h.tid

/-! ### `brk` (R88) -/

theorem exec_brk_body (x : S64A) (n : Nat) : ∃ body : Body, (∀ s, exec (.brk x) s = s.run (.brk x) body) ∧
    (∀ s : State, s.fld (rPctl s.cur.unit) 6 6 = 1 → body s [n] = (s.trigger s.cur.unit 2 false, [])) ∧
    ∀ s : State, s.fld (rPctl s.cur.unit) 6 6 = 0 → body s [n] = (s, [(n, .fault { flt .brk with aux := x.i16.toNat })]) := by
  refine ⟨_, fun _ => rfl, fun s h => ?_, fun s h => ?_⟩
  · simp [h]
  · simp [h]

theorem exec_brk_stops (x : S64A) (s : State) (n : Nat) (h : s.solo (.brk x) n = true) (hen : s.fld (rPctl s.cur.unit) 6 6 = 1)
    (hbcast : s.fld (rPctl s.cur.unit) 5 5 = 0) (hfrozen : s.frozen s.cur.unit = false) (hdue : (s.unit s.cur.unit).due = none) :
    ∃ t, exec (.brk x) s = .next t ∧ t.c.pend = s.c.pend ∧ s.OnlyResults t ∧ s.Advances t (.brk x) ∧
      (t.unit s.cur.unit).due = some s.clk ∧ (t.unit s.cur.unit).cause = 2 ∧ (t.unit s.cur.unit).tclk = s.clk := by
  obtain ⟨body, hexec, hstop, -⟩ := exec_brk_body x n
  obtain ⟨v, hv⟩ : ∃ v, v = s.countIssue (.brk x) s.cur.tids := ⟨_, rfl⟩
  have hcur : v.cur = s.cur := by rw [hv, State.countIssue_cur]
  have hclk : v.clk = s.clk := by rw [hv, State.countIssue_clk]
  have hfld : ∀ o hi lo, v.fld o hi lo = s.fld o hi lo := by rw [hv]; exact s.countIssue_fld _
  have htrigger : v.trigger s.cur.unit 2 false = v.setUnit { v.unit s.cur.unit with due := some s.clk, cause := 2, tclk := s.clk } := by
    rw [← hclk]
    refine v.trigger_fresh _ 2 ?_ ?_ ((hfld ..).trans hbcast)
    · unfold State.frozen at hfrozen ⊢
      rwa [hfld]
    · rw [hv, s.countIssue_unit _ _ rfl]
      exact hdue
  have hb := hstop v (by rw [hcur, hfld]; exact hen)
  rw [hcur, htrigger, hv] at hb
  have hmap := (State.Remaps.countIssue s (.brk x) n (State.solo_tids h)).setUnit { v.unit s.cur.unit with due := some s.clk, cause := 2, tclk := s.clk }
  rw [← hv] at hmap hb
  generalize hu : v.setUnit _ = u at hmap hb
  have hunit : u.unit s.cur.unit = { v.unit s.cur.unit with due := some s.clk, cause := 2, tclk := s.clk } := by
    have hset := v.unit_setUnit { v.unit s.cur.unit with due := some s.clk, cause := 2, tclk := s.clk }
    rwa [hu, show ({ v.unit s.cur.unit with due := some s.clk, cause := 2, tclk := s.clk } : UnitSt).n = s.cur.unit from v.unit_n _] at hset
  have hself := Thread.onlyAt_same (s.thread_tid n) (s.counted (.brk x))
  have hfinal := hmap.control (Thread.onward_control u.afterBody (.brk x))
  refine ⟨_, (hexec s).trans (State.run_solo_onward h rfl (hv ▸ hb)), hfinal.pend, hfinal.onlyResults_at (State.solo_tids h) ?_,
    hmap.advances h (by rw [hself]; rfl) (by rw [hself]; rfl) (by rw [hself]; rfl), ?_⟩
  · rw [Function.comp_apply, Thread.onward_control]
    rfl
  · change (u.unit s.cur.unit).due = _ ∧ (u.unit s.cur.unit).cause = _ ∧ (u.unit s.cur.unit).tclk = _
    rw [hunit]
    exact ⟨rfl, rfl, rfl⟩

/-! ### A fault that goes on past its instruction -/

theorem State.finish_past_fault (i : Instr) (s s0 : State) (n : Nat) (f : FaultInfo) (hcode : f.code = .trap ∨ f.code = .brk) :
    s.finish i s0 n (.fault f) = ((s.modThread n (Thread.stopped i)).modThread n fun t => t.advance i.bytes).raise n
      { f with pc := (s.thread n).pc, resume := ((s.thread n).advance i.bytes).pc } := by
  have hagain : (f.code != .trap && f.code != .brk && !f.deferred) = false := by
    obtain h | h := hcode <;> simp [h]
  unfold State.finish
  simp only [hagain, Bool.false_eq_true, if_false]
  rfl

/-- A `trap` or a `brk` that its one thread raises (R87, R88): the fault resumes at the next instruction. -/
theorem State.run_solo_past_fault {s : State} {i : Instr} {body : Body} {n : Nat} {f : FaultInfo} (h : s.solo i n = true)
    (hcode : f.code = .trap ∨ f.code = .brk)
    (hb : body (s.countIssue i s.cur.tids) [n] = (s.countIssue i s.cur.tids, [(n, .fault f)])) (hl : (s.thread n).loop.act = false) :
    ∃ u, s.run i body = .next (u.raise n { f with pc := (s.thread n).pc, resume := (s.thread n).pc + i.bytes }) ∧
      s.Remaps u (Thread.onlyAt n ((fun t => t.advance i.bytes) ∘ Thread.stopped i ∘ s.counted i)) ∧
      u.free = s.free + 1 ∧ u.b.units = (s.skidCount s.cur.unit s.cur.tids).b.units := by
  have hcur := State.solo_tids h
  obtain ⟨v, hv⟩ : ∃ v, v = (s.countIssue i s.cur.tids).afterBody := ⟨_, rfl⟩
  have hcount : s.Remaps v (Thread.onlyAt n (s.counted i)) := hv ▸ (State.Remaps.countIssue s i n hcur).afterBody
  have hadv : ∀ t : Thread, (t.advance i.bytes).tid = t.tid ∧ (t.advance i.bytes).bundle = t.bundle := fun t => by
    rw [Thread.advance_eq]
    exact ⟨rfl, rfl⟩
  have hmap := (hcount.trans_at (.modThread _ n (f := Thread.stopped i) fun _ => rfl)).trans_at (.modThread _ n fun t => (hadv t).1)
  have hpc : (v.thread n).pc = (s.thread n).pc := by
    rw [hcount.thread_at (State.solo_isSome h)]
    rfl
  have hnext : ((v.thread n).advance i.bytes).pc = (s.thread n).pc + i.bytes := by
    rw [hcount.thread_at (State.solo_isSome h)]
    simp [Thread.advance, Thread.bodyPos, State.counted, hl]
  have hfree : ((v.modThread n (Thread.stopped i)).modThread n fun t => t.advance i.bytes).Unbundled n :=
    (State.unbundled_modThread v n (Thread.stopped i) fun _ => rfl).modThread n _ (fun t => (hadv t).1) fun t ht => (hadv t).2.trans ht
  have hunits : v.b.units = (s.skidCount s.cur.unit s.cur.tids).b.units := by
    rw [hv, State.countIssue_eq]
    rfl
  have hfresh : v.free = s.free + 1 := by
    rw [hv, State.countIssue_eq]
    rfl
  refine ⟨_, ?_, hmap, hfresh, hunits⟩
  rw [hcur] at hb hv
  rw [State.run_next, s.runBundle_solo i body n h, hb]
  have hfind : ([(n, Ctl.fault f)].find? fun (q : Nat × Ctl) => q.1 == n) = some (n, .fault f) := by simp
  rw [hfind]
  change Host.Outcome.next (((s.countIssue i [n]).afterBody.finish i (s.countIssue i [n]) n (.fault f)).splitBundle [n]) = _
  rw [← hv, State.finish_past_fault _ _ _ _ _ hcode, hpc, hnext, State.splitBundle_of_unbundled (hfree.raise n _)]

theorem exec_brk_raises (x : S64A) (s : State) (n : Nat) (h : s.solo (.brk x) n = true) (hen : s.fld (rPctl s.cur.unit) 6 6 = 0)
    (hl : (s.thread n).loop.act = false) :
    ∃ (t u : State), exec (.brk x) s = .next t ∧ t = u.raise n { flt .brk with pc := (s.thread n).pc, resume := (s.thread n).pc + 8, aux := x.i16.toNat } ∧
      u.c.pend = s.c.pend ∧ s.OnlyResults u := by
  obtain ⟨body, hexec, -, hraise⟩ := exec_brk_body x n
  have hb := hraise (s.countIssue (.brk x) s.cur.tids) (by rw [State.countIssue_cur, State.countIssue_fld]; exact hen)
  obtain ⟨u, hrun, hmap, -⟩ := State.run_solo_past_fault h (.inr rfl) hb hl
  rw [Instr.bytes_s64 (i := .brk x) rfl] at hrun
  refine ⟨_, u, (hexec s).trans hrun, rfl, hmap.pend, hmap.onlyResults_at (State.solo_tids h) ?_⟩
  rw [Function.comp_apply, Thread.advance_eq]
  rfl

/-! ### `rfe` (R89) -/

/-- A thread of an `rfe` that returns; one that faults stays as it is. -/
def Thread.returned (t : Thread) : Thread :=
  match leaveHandler t with
  | .ok _ => { t with hm := false, spills := t.spills.map Spill.retry }
  | .error _ => t

/-- What an `rfe` does to the control of its thread. -/
def Thread.returnCtl (t : Thread) : Ctl := match leaveHandler t with | .ok u => .jump u.pc | .error c => .fault (flt c)

theorem exec_rfe_body (x : S64A) (n : Nat) : ∃ body : Body, (∀ s, exec (.rfe x) s = s.run (.rfe x) body) ∧
    ∀ s, body s [n] = (s.modThread n Thread.returned, [(n, (s.thread n).returnCtl)]) := by
  refine ⟨_, fun _ => rfl, fun s => ?_⟩
  have hmod : s.setThreads (s.c.threads.map fun t => if [n].contains t.tid then t.returned else t) = s.modThread n Thread.returned := by
    simp only [List.contains_cons, List.contains_nil, Bool.or_false]
    rfl
  rw [← hmod]
  rfl

theorem Thread.returned_tid (t : Thread) : t.returned.tid = t.tid := by
  unfold Thread.returned
  split <;> rfl

theorem leaveHandler_outside {t : Thread} (h : t.hm = false) : leaveHandler t = .error .illegal := by
  simp [leaveHandler, h]

theorem leaveHandler_unfetchable {t : Thread} (h : t.hm = true) (ha : 2 ^ 57 ≤ t.tpc.toNat ∨ t.tpc.toNat % 4 ≠ 0) : leaveHandler t = .error .fetch := by
  unfold leaveHandler
  rw [if_neg (by simp [h]), if_pos ((unfetchable_iff t.tpc).2 ha)]

theorem leaveHandler_fetchable {t : Thread} (h : t.hm = true) (hlt : t.tpc.toNat < 2 ^ 57) (hal : t.tpc.toNat % 4 = 0) :
    leaveHandler t = .ok { t with hm := false, pc := t.tpc.toNat } := by
  unfold leaveHandler
  rw [if_neg (by simp [h]), if_neg (mt (unfetchable_iff t.tpc).1 (by omega)), slice, Nat.pow_zero, Nat.div_one, Nat.mod_eq_of_lt hlt]

section
variable {x : S64A} {s : State} {n : Nat}

/-- The state of an `rfe` before the control of its thread. -/
theorem State.remaps_returned (h : s.solo (.rfe x) n = true) :
    s.Remaps ((s.countIssue (.rfe x) s.cur.tids).modThread n Thread.returned) (Thread.onlyAt n (Thread.returned ∘ s.counted (.rfe x))) :=
  (State.Remaps.countIssue s (.rfe x) n (State.solo_tids h)).trans_at (.modThread _ n Thread.returned_tid)

theorem State.countIssue_thread_at {i : Instr} (h : s.solo i n = true) : (s.countIssue i s.cur.tids).thread n = s.counted i (s.thread n) :=
  (State.Remaps.countIssue s i n (State.solo_tids h)).thread_at (State.solo_isSome h)

theorem exec_rfe_returns (h : s.solo (.rfe x) n = true) (hm : (s.thread n).hm = true) (hlt : (s.thread n).tpc.toNat < 2 ^ 57)
    (hal : (s.thread n).tpc.toNat % 4 = 0) :
    ∃ t, exec (.rfe x) s = .next t ∧ t.c.pend = s.c.pend ∧
      s.OnlyThread t n { s.thread n with hm := false, spills := (s.thread n).spills.map Spill.retry } ∧ (t.thread n).pc = (s.thread n).tpc.toNat := by
  obtain ⟨body, hexec, hbody⟩ := exec_rfe_body x n
  have hleave : leaveHandler (s.counted (.rfe x) (s.thread n)) = .ok { s.counted (.rfe x) (s.thread n) with hm := false, pc := (s.thread n).tpc.toNat } :=
    leaveHandler_fetchable hm hlt hal
  have hb := hbody (s.countIssue (.rfe x) s.cur.tids)
  rw [State.countIssue_thread_at h, Thread.returnCtl, hleave] at hb
  have hmap := State.remaps_returned h
  generalize (s.countIssue (.rfe x) s.cur.tids).modThread n Thread.returned = u at hb hmap
  have hj := Thread.jumped_eq u.afterBody (.rfe x) (s.thread n).tpc.toNat
  have hret : (Thread.returned ∘ s.counted (.rfe x)) (s.thread n) =
      { s.counted (.rfe x) (s.thread n) with hm := false, spills := (s.thread n).spills.map Spill.retry } := by
    rw [Function.comp_apply, Thread.returned, hleave]
    rfl
  have hfinal := hmap.control (Thread.jumped_control u.afterBody (.rfe x) (s.thread n).tpc.toNat)
  have hthread := hfinal.thread_at (State.solo_isSome h)
  rw [Function.comp_apply, hret] at hthread
  refine ⟨_, (hexec s).trans (State.run_solo_leaves h hb _ (State.finish_jump ..) fun t => by rw [hj]; rfl), hfinal.pend,
    hfinal.onlyThread_at (State.solo_isSome h) ?_, ?_⟩
  · rw [Function.comp_apply, hret, Thread.jumped_control]
    rfl
  · rw [hthread, hj]

/-- An `rfe` that faults leaves its thread as it is, in its handler or outside. -/
theorem exec_rfe_faults (h : s.solo (.rfe x) n = true) {c : Code} (hleave : leaveHandler (s.counted (.rfe x) (s.thread n)) = .error c)
    (hcode : c ≠ .trap ∧ c ≠ .brk) :
    ∃ t, exec (.rfe x) s = .next t ∧ s.Raises t n { flt c with pc := (s.thread n).pc, resume := (s.thread n).pc } := by
  obtain ⟨body, hexec, hbody⟩ := exec_rfe_body x n
  have hb := hbody (s.countIssue (.rfe x) s.cur.tids)
  rw [State.countIssue_thread_at h, Thread.returnCtl, hleave] at hb
  have hmap := State.remaps_returned h
  have hret : (Thread.returned ∘ s.counted (.rfe x)) (s.thread n) = s.counted (.rfe x) (s.thread n) := by
    rw [Function.comp_apply, Thread.returned, hleave]
  obtain ⟨t, hrun, hraise⟩ := State.run_solo_fault h hb (hmap.onlyResults_at (State.solo_tids h) (by rw [hret]; rfl)) hmap.pend
    (by rw [hmap.thread_at (State.solo_isSome h), hret]; rfl) hcode.1 hcode.2 rfl
  exact ⟨t, (hexec s).trans hrun, hraise⟩

end

/-- Settles O20: by BRKEN, and by HM and the address in `%tpc`. -/
theorem breakpointAndReturn : Obligations.BreakpointAndReturn := by
  unfold Obligations.BreakpointAndReturn
  exact ⟨exec_brk_stops, exec_brk_raises, fun x s n h => ⟨exec_rfe_returns h,
    fun hm ha => exec_rfe_faults h (leaveHandler_unfetchable hm ha) ⟨by decide, by decide⟩,
    fun hm => exec_rfe_faults h (leaveHandler_outside hm) ⟨by decide, by decide⟩⟩⟩

end Sys2Proof.Machine
end

section
/-! PROOFS. A write of the device (R235, R475) touches the memory side and the control registers, and depends on nothing else: cores, launch engine and the
units' debug state may be exchanged before it or after it. -/

namespace Sys2Proof.Machine
open Sys2Proof

/-- The state with other cores, another launch engine and another debug state of its units. -/
def State.withCores (s : State) (c : Cores) (l : Launch) (us : List UnitSt) : State := { s with c := c, l := l, b := { s.b with units := us } }

section
variable (s : State) (c : Cores) (l : Launch) (us : List UnitSt)

/-! ### What reads the same -/

@[simp] theorem State.withCores_fld (o hi lo : Nat) : (s.withCores c l us).fld o hi lo = s.fld o hi lo := rfl
@[simp] theorem State.withCores_populated (x : Nat) : (s.withCores c l us).populated x = s.populated x := rfl
@[simp] theorem State.withCores_here (x : Nat) : (s.withCores c l us).here x = s.here x := rfl
@[simp] theorem State.withCores_storeAddr (x : Nat) : (s.withCores c l us).storeAddr x = s.storeAddr x := rfl
@[simp] theorem State.withCores_l2Find (x : Nat) : (s.withCores c l us).l2Find x = s.l2Find x := rfl
@[simp] theorem State.withCores_visitorRead (x : Nat) : (s.withCores c l us).visitorRead x = s.visitorRead x := rfl
@[simp] theorem State.withCores_retCovers (i x : Nat) : (s.withCores c l us).retCovers i x = s.retCovers i x := rfl
@[simp] theorem State.withCores_poisonedIn (x n : Nat) : (s.withCores c l us).poisonedIn x n = s.poisonedIn x n := rfl
@[simp] theorem State.withCores_reachable (x : Nat) : (s.withCores c l us).reachable x = s.reachable x := rfl
@[simp] theorem State.withCores_peerFault (t x : Nat) : (s.withCores c l us).peerFault t x = s.peerFault t x := rfl

theorem State.withCores_rdNat (n : Nat) : ∀ x : Nat, (s.withCores c l us).rdNat x n = s.rdNat x n := by
  induction n with
  | zero => exact fun _ => rfl
  | succ n ih =>
    intro x
    rw [State.rdNat, State.rdNat, ih]
    rfl

theorem State.withCores_window? (frame k : Nat) : ∀ n : Nat, (s.withCores c l us).window? frame k n = s.window? frame k n := by
  induction k with
  | zero => exact fun _ => rfl
  | succ k ih =>
    intro n
    rw [State.window?, State.window?, ih]
    rfl

theorem State.withCores_pdtWord (agent addr : Nat) : (s.withCores c l us).pdtWord agent addr = s.pdtWord agent addr := by
  have hpdt : (s.withCores c l us).m.pdt = s.m.pdt := rfl
  rw [State.pdtWord, State.pdtWord, hpdt, State.withCores_rdNat]

theorem State.withCores_tenantOk (t x : Nat) (rd w : Bool) : (s.withCores c l us).tenantOk t x rd w = s.tenantOk t x rd w := by
  have hn : (s.withCores c l us).nmod = s.nmod := rfl
  have ha : (s.withCores c l us).pdtAddr t x = s.pdtAddr t x := rfl
  rw [State.tenantOk, State.tenantOk, State.withCores_window?, State.withCores_pdtWord, State.withCores_fld, hn, ha]

theorem State.withCores_homeGate (t x : Nat) (rd w : Bool) : (s.withCores c l us).homeGate t x rd w = s.homeGate t x rd w := by
  rw [State.homeGate, State.homeGate, State.withCores_reachable, State.withCores_here, State.withCores_tenantOk, State.withCores_peerFault]

/-! ### What writes the same -/

theorem State.setByte_withCores (x : Nat) (v : Byte) : (s.withCores c l us).setByte x v = (s.setByte x v).withCores c l us := by
  unfold State.setByte
  rw [State.withCores_populated, State.withCores_here]
  split_ifs <;> rfl

theorem State.wrNat_withCores (n : Nat) : ∀ (s : State) (x v : Nat), (s.withCores c l us).wrNat x n v = (s.wrNat x n v).withCores c l us := by
  induction n with
  | zero => exact fun _ _ _ => rfl
  | succ n ih =>
    intro s x v
    rw [State.wrNat, State.setByte_withCores, ih]
    rfl

theorem State.setPoison_withCores (x : Nat) (on : Bool) : (s.withCores c l us).setPoison x on = (s.setPoison x on).withCores c l us := rfl
theorem State.setReg_withCores (o : Nat) (x : Word) : (s.withCores c l us).setReg o x = (s.setReg o x).withCores c l us := rfl
theorem State.satInc_withCores (o lo n : Nat) : (s.withCores c l us).satInc o lo n = (s.satInc o lo n).withCores c l us := rfl
theorem State.setL2_withCores (x : List L2Line) : (s.withCores c l us).setL2 x = (s.setL2 x).withCores c l us := rfl
theorem State.l2Mod_withCores (x : Nat) (f : L2Line → L2Line) : (s.withCores c l us).l2Mod x f = (s.l2Mod x f).withCores c l us := rfl
theorem State.visitorInvalidate_withCores (x : Nat) : (s.withCores c l us).visitorInvalidate x = (s.visitorInvalidate x).withCores c l us := rfl

theorem State.msi_withCores (v : Nat) : (s.withCores c l us).msi v = (s.msi v).withCores c l us := by
  have hmask : (s.withCores c l us).msiMasked v = s.msiMasked v := rfl
  have hmsi : (s.withCores c l us).b.msi = s.b.msi := rfl
  unfold State.msi
  rw [hmask, hmsi]
  split_ifs <;> rfl

theorem State.poisonNew_withCores (x : Nat) : (s.withCores c l us).poisonNew x = (s.poisonNew x).withCores c l us := by
  unfold State.poisonNew
  rw [State.setPoison_withCores, State.satInc_withCores]
  dsimp only
  rw [State.withCores_fld, State.setReg_withCores, State.msi_withCores]
  exact (apply_ite (fun t : State => t.withCores c l us) _ _ _).symm

theorem State.ecc_withCores (x : Nat) (e : Ecc) : (s.withCores c l us).ecc x e = (s.ecc x e).withCores c l us := by
  have hl2 : (s.withCores c l us).m.l2 = s.m.l2 := rfl
  unfold State.ecc
  rw [State.withCores_l2Find, State.withCores_here, State.poisonNew_withCores, State.satInc_withCores, hl2]
  cases e with
  | clean => rfl
  | correctable => rfl
  | uncorrectable =>
    cases s.l2Find x with
    | none => exact (apply_ite (fun t : State => t.withCores c l us) _ _ _).symm
    | some k =>
      dsimp only
      rw [State.setL2_withCores, State.satInc_withCores, apply_ite (fun t : State => t.withCores c l us), apply_ite (fun t : State => t.withCores c l us)]

theorem State.findError_withCores (x : Nat) : (s.withCores c l us).findError x = (s.findError x).withCores c l us := by
  have herrs : (s.withCores c l us).m.errs = s.m.errs := rfl
  unfold State.findError
  rw [herrs, State.withCores_here, State.withCores_visitorRead]
  cases s.m.errs.find? fun e => e.1 == x / 32 with
  | none => rfl
  | some e =>
    have hecc := State.ecc_withCores { s with m := { s.m with errs := s.m.errs.filter fun q => q.1 != x / 32 } } c l us (sectorOf x)
      (if e.2 then .correctable else .uncorrectable)
    dsimp only at hecc ⊢
    rw [apply_ite (fun t : State => t.withCores c l us), ← hecc]
    rfl

theorem State.findErrors_withCores (x n : Nat) : (s.withCores c l us).findErrors x n = (s.findErrors x n).withCores c l us := by
  unfold State.findErrors
  refine List.foldl_hom (fun t : State => t.withCores c l us) fun t i => ?_
  split
  · exact t.findError_withCores c l us _
  · rfl

theorem State.l2Hit_withCores (k : L2Line) (hint : Hint) : (s.withCores c l us).l2Hit k hint = (s.l2Hit k hint).withCores c l us := by
  unfold State.l2Hit
  split
  · rfl
  · rfl

theorem State.l2Insert_withCores (k : L2Line) (lru : Bool) : (s.withCores c l us).l2Insert k lru = (s.l2Insert k lru).withCores c l us := by
  have hl2 : (s.withCores c l us).m.l2 = s.m.l2 := rfl
  have hcov : (s.withCores c l us).retCovers = s.retCovers := rfl
  have hways : (s.withCores c l us).retWays = s.retWays := rfl
  have hres : ∀ t : State, (t.withCores c l us).reservedWays = t.reservedWays := fun _ => rfl
  have hcls : ∀ t : State, (t.withCores c l us).classWays = t.classWays := fun _ => rfl
  unfold State.l2Insert
  rw [hl2, hcov, hways]
  dsimp only
  cases (List.range 8).find? fun i => s.retCovers i k.xpa with
  | none =>
    dsimp only
    rw [hres, hcls]
    split
    · rfl
    · split
      · rfl
      · rfl
  | some i =>
    dsimp only
    rw [State.satInc_withCores, hres, hcls]
    split
    · rfl
    · split
      · rfl
      · split
        · rfl
        · rfl

theorem State.l2Home_withCores (x : Nat) (hint : Hint) (ef w : Bool) : (s.withCores c l us).l2Home x hint ef w = (s.l2Home x hint ef w).withCores c l us := by
  have hway : (s.withCores c l us).hway = s.hway := rfl
  unfold State.l2Home
  rw [State.withCores_l2Find, hway]
  cases s.l2Find x with
  | some k => simp only [State.l2Hit_withCores, State.l2Mod_withCores]
  | none =>
    dsimp only
    split
    · rfl
    · exact s.l2Insert_withCores c l us _ _

theorem State.engWrite_withCores (t x n v : Nat) (rd : Bool) :
    (s.withCores c l us).engWrite t x n v rd = ((s.engWrite t x n v rd).1.withCores c l us, (s.engWrite t x n v rd).2) := by
  have hvisit : (if s.here x then s.withCores c l us else (s.withCores c l us).visitorInvalidate x) =
      (if s.here x then s else s.visitorInvalidate x).withCores c l us := by
    rw [State.visitorInvalidate_withCores, apply_ite (fun t : State => t.withCores c l us)]
  have hfree : ∀ t : State, (t.withCores c l us).free = t.free := fun _ => rfl
  have hnext : ∀ (t : State) (k : Nat), { t.withCores c l us with free := k } = { t with free := k }.withCores c l us := fun _ _ => rfl
  dsimp only at hnext
  unfold State.engWrite
  rw [State.wrNat_withCores, State.withCores_here, State.withCores_reachable, hvisit, hfree]
  generalize (if s.here x then s else s.visitorInvalidate x) = s0
  dsimp only
  rw [State.withCores_homeGate]
  rw [hfree s0]
  split
  · rfl
  · split
    · rw [hnext, State.wrNat_withCores, ← apply_ite (fun t : State => t.withCores c l us)]
    · rw [State.findErrors_withCores, ← apply_ite (fun t : State => t.withCores c l us)]
      generalize (if s.here x then s0.findErrors x n else s0) = s1
      rw [hnext]
      generalize ({ s1 with free := s0.free + 1 } : State) = s2
      rw [State.withCores_poisonedIn, State.setPoison_withCores, ← apply_ite (fun t : State => t.withCores c l us), State.l2Home_withCores,
        ← apply_ite (fun t : State => t.withCores c l us), State.wrNat_withCores]
      split
      · rfl
      · rfl

theorem State.devWrite_withCores (x n v : Nat) : (s.withCores c l us).devWrite x n v = (s.devWrite x n v).withCores c l us := by
  unfold State.devWrite
  refine List.foldl_hom (fun t : State => t.withCores c l us) fun t q => ?_
  rw [State.engWrite_withCores]

end

end Sys2Proof.Machine
end

section
/-! PROOFS. `trap` under the handler policy (R85, R87, R307). -/

namespace Sys2Proof.Machine
open Sys2Proof

/-! ### A fault that is taken at once -/

/-- A thread that has raised a fault, before the fault domain takes it. -/
def Thread.faulting (f : FaultInfo) (t : Thread) : Thread :=
  { t with faults := t.faults ++ [{ f with hm := t.hm }], bundle := none, age := none, fetch := .none }

theorem State.landKnown_of_not_owes (s : State) (n k : Nat) (h : s.owes n = false) : s.landKnown n k = s := by
  cases k with
  | zero => rfl
  | succ k =>
    unfold State.landKnown
    dsimp only
    split
    next j hj =>
      obtain ⟨-, hknown⟩ := List.mem_filter.1 (List.mem_of_getElem? hj)
      split at hknown
      next p hp =>
        have howner := List.any_eq_false.1 h p (List.mem_of_getElem? hp)
        simp only [Bool.and_eq_true] at hknown
        exact absurd hknown.1 howner
      next => cases hknown
    next => rfl

theorem State.settleBelow_of_none (s : State) (n : Nat) (h : ∀ k ∈ s.c.threads, k.tid < n → k.dueFault = none) : s.settleBelow n = s := by
  have hnone : (s.c.threads.filter fun t => decide (t.tid < n) && t.dueFault.isSome) = [] := by
    refine List.filter_eq_nil_iff.2 fun t ht => ?_
    by_cases hlt : t.tid < n
    · simp [h t ht hlt]
    · simp [hlt]
  unfold State.settleBelow
  rw [hnone]
  rfl

/-- The only fault of a thread outside its handler is the one that is due. -/
theorem Thread.faulting_dueIdx (f : FaultInfo) (t : Thread) (hnone : t.faults = []) (hm : t.hm = false) (hpark : t.hostPark = false) :
    (t.faulting f).dueIdx = some 0 := by
  simp [Thread.faulting, Thread.dueIdx, hnone, hm, hpark]

theorem Thread.faulting_dueFault (f : FaultInfo) (t : Thread) (hnone : t.faults = []) (hm : t.hm = false) (hpark : t.hostPark = false) :
    (t.faulting f).dueFault = some { f with hm := false } := by
  rw [Thread.dueFault, t.faulting_dueIdx f hnone hm hpark]
  simp [Thread.faulting, hnone, hm]

theorem Thread.faulting_dropDue (f : FaultInfo) (t : Thread) (hnone : t.faults = []) (hm : t.hm = false) (hpark : t.hostPark = false) :
    (t.faulting f).dropDue = { t with bundle := none, age := none, fetch := .none } := by
  rw [Thread.dropDue, t.faulting_dueIdx f hnone hm hpark]
  simp [Thread.faulting, hnone]

section
variable {u : State} {n : Nat} {r : Region} {f : FaultInfo}

theorem State.modThread_thread {g : Thread → Thread} (hg : ∀ t, (g t).tid = t.tid) (hn : (u.thread? n).isSome) :
    (u.modThread n g).thread n = g (u.thread n) :=
  (State.Remaps.modThread u n hg).thread_at hn

/-- A raise of a precise fault by a live thread that has no other, in a unit without SOF and without a step: the thread keeps the fault, and the faults of
the threads below it and then its own go to the fault domain (R60, R309). -/
theorem State.raise_settles (hlive : (u.thread n).gone = false) (hnone : (u.thread n).faults = []) (hwait : (u.thread n).wait = .none)
    (hdef : f.deferred = false) (hsof : u.fld (rPctl (unitOf n)) 7 7 = 0) (hstep : (u.unit (unitOf n)).step = none) :
    u.raise n f = ((u.modThread n (Thread.faulting { f with exp := u.iteration n, clk := u.clk })).settleBelow n).settle n := by
  have hfirst : ((u.thread n).gone || (u.thread n).faults.any fun g => g.clk == u.clk) = false := by rw [hlive, hnone]; rfl
  have hqueue : ((u.thread n).wait == .dqFull) = false := by rw [hwait]; rfl
  unfold State.raise
  dsimp only
  rw [hfirst, hqueue, if_neg Bool.false_ne_true, if_neg Bool.false_ne_true]
  generalize hv : u.modThread n _ = v
  have hsof' : (v.fld (rPctl (unitOf n)) 7 7 == 1) = false := by
    rw [← hv]
    exact beq_eq_false_iff_ne.2 (ne_of_eq_of_ne hsof Nat.zero_ne_one)
  have hstep' : (v.unit (unitOf n)).step = none := by
    rw [← hv]
    exact hstep
  rw [hsof', Bool.false_and, if_neg Bool.false_ne_true, hstep', if_neg (Bool.eq_false_iff.1 hdef), ← hv]
  rfl

/-- The fault of a thread that awaits no result, in a unit without SOF, goes to the fault domain. -/
theorem State.settle_due (hdue : (u.thread n).dueFault = some f) (howes : u.owes n = false) (hsof : u.fld (rPctl (unitOf n)) 7 7 = 0) :
    u.settle n = u.faultDomain n f := by
  have hheld : u.faultHeld n = false := by simp [State.faultHeld, hsof]
  simp [State.settle, hdue, u.landKnown_of_not_owes n _ howes, howes, hheld]

/-- Under the handler policy a fault outside the handler enters it (R85, R307). -/
theorem State.faultDomain_handler (hreg : u.regionOf n = some r) (hpol : r.pol = 3) (hm : f.hm = false) :
    u.faultDomain n f = (u.faultRecord r (u.wgi n) n false f).modThread n (enterHandler r f) := by
  simp [State.faultDomain, hreg, hpol, hm]

theorem Thread.faulting_tid (f : FaultInfo) (t : Thread) : (t.faulting f).tid = t.tid := rfl

theorem enterHandler_tid (r : Region) (f : FaultInfo) (t : Thread) : (enterHandler r f t).tid = t.tid := Thread.dropDue_tid t

/-- A precise fault of a live thread outside its handler, under the handler policy, when nothing is in its way. -/
theorem State.raise_enters (hsome : (u.thread? n).isSome) (hlive : (u.thread n).gone = false) (hnone : (u.thread n).faults = [])
    (hwait : (u.thread n).wait = .none) (hm : (u.thread n).hm = false) (hpark : (u.thread n).hostPark = false) (hdef : f.deferred = false)
    (hsof : u.fld (rPctl (unitOf n)) 7 7 = 0) (hstep : (u.unit (unitOf n)).step = none) (howes : u.owes n = false)
    (hbelow : ∀ k ∈ u.c.threads, k.tid < n → k.dueFault = none) (hreg : u.regionOf n = some r) (hpol : r.pol = 3) :
    u.raise n f = ((u.modThread n (Thread.faulting { f with exp := u.iteration n, clk := u.clk })).faultRecord r (u.wgi n) n false
      { f with exp := u.iteration n, clk := u.clk, hm := false }).modThread n (enterHandler r { f with exp := u.iteration n, clk := u.clk, hm := false }) := by
  have hthread := u.modThread_thread (Thread.faulting_tid { f with exp := u.iteration n, clk := u.clk }) hsome
  rw [State.raise_settles hlive hnone hwait hdef hsof hstep]
  generalize hv : u.modThread n _ = v at hthread
  have hkept : ∀ k ∈ v.c.threads, k.tid < n → k.dueFault = none := by
    rw [← hv]
    intro k hk hlt
    obtain ⟨t, ht, rfl⟩ := List.mem_map.1 hk
    by_cases htn : t.tid = n
    · simp [htn, Thread.faulting] at hlt
    · rw [if_neg (by simpa using htn)] at hlt ⊢
      exact hbelow t ht hlt
  have hregion : v.regionOf n = some r := by
    unfold State.regionOf at hreg ⊢
    rw [hthread, ← hv]
    exact hreg
  rw [v.settleBelow_of_none n hkept, State.settle_due (by rw [hthread]; exact Thread.faulting_dueFault _ _ hnone hm hpark) (by rw [← hv]; exact howes)
    (by rw [← hv]; exact hsof), State.faultDomain_handler hregion hpol rfl, ← hv]
  rfl

end

/-! ### `trap` (R87) -/

/-- A fault record written after a change of thread records alone: the device writes to the memory and registers of before. -/
theorem State.Remaps.faultRecord {s v : State} {F : Thread → Thread} (h : s.Remaps v F) (r : Region) (wgi n : Nat) (nest : Bool) (f : FaultInfo) :
    v.faultRecord r wgi n nest f =
      ((({ s with free := v.free }).devWrite (r.flta + 4096 + 64 * (r.fwr % r.fltn)) 64 (recordBits r.num wgi n nest f)).devWrite
        (r.rcb + 108) 4 ((r.fwr + 1) % 2 ^ 32)).withCores v.c
        { s.l with regions := s.l.regions.map fun (q : Region) => if q.num = r.num then { q with fwr := (r.fwr + 1) % 2 ^ 32 } else q } v.b.units := by
  have hv : v = ({ s with free := v.free } : State).withCores v.c s.l v.b.units := by
    conv_lhs => rw [h.rest]
    rw [h.rest]
    rfl
  unfold State.faultRecord
  dsimp only
  conv_lhs => rw [hv]
  rw [State.devWrite_withCores, State.devWrite_withCores]
  unfold State.modRegion
  simp only [beq_iff_eq]
  rfl

theorem Thread.advance_of_idle {t : Thread} (hl : t.loop.act = false) (n : Nat) : t.advance n = { t with pc := t.pc + n } := by
  simp [Thread.advance, Thread.bodyPos, hl]

theorem exec_trap_body (x : S64A) (n : Nat) : ∃ body : Body, (∀ s, exec (.trap x) s = s.run (.trap x) body) ∧
    ∀ s, body s [n] = (s, [(n, .fault { flt .trap with aux := x.i16.toNat })]) :=
  ⟨_, fun _ => rfl, fun _ => rfl⟩

/-- A thread in its handler with the fault `f`, which was its only one. -/
def Thread.handling (r : Region) (f : FaultInfo) (t : Thread) : Thread :=
  { t with
    tpc := BitVec.ofNat 64 (f.resume % 2 ^ 57)
    tcause := BitVec.ofNat 64 (f.code.num + (if f.code == .trap || f.code == .brk then f.aux % 2 ^ 16 else 0) * 256)
    hm := true, ycnt := 0, ybud := r.y, pc := r.hnd, wait := .none, park := false, replay := false, stage := 0, snap := [], walked := []
    bundle := none, age := none, fetch := .none }

theorem enterHandler_faulting (r : Region) (f g : FaultInfo) (t : Thread) (hnone : t.faults = []) (hm : t.hm = false) (hpark : t.hostPark = false) :
    enterHandler r f (t.faulting g) = t.handling r f := by
  unfold enterHandler
  rw [Thread.faulting_dropDue g t hnone hm hpark]
  rfl

section
variable {s u : State} {F : Thread → Thread}

/-! What a change of thread records leaves. -/

theorem State.Remaps.fld (h : s.Remaps u F) (o hi lo : Nat) : u.fld o hi lo = s.fld o hi lo := by rw [h.rest]; rfl
theorem State.Remaps.owes (h : s.Remaps u F) (n : Nat) : u.owes n = s.owes n := by rw [h.rest]; rfl
theorem State.Remaps.iteration (h : s.Remaps u F) (n : Nat) : u.iteration n = s.iteration n := by rw [h.rest]; rfl
theorem State.Remaps.wgi (h : s.Remaps u F) (n : Nat) : u.wgi n = s.wgi n := by rw [h.rest]; rfl
theorem State.Remaps.clk (h : s.Remaps u F) : u.clk = s.clk := by rw [h.rest]
theorem State.Remaps.launch (h : s.Remaps u F) : u.l = s.l := by rw [h.rest]

theorem State.Remaps.dueFault_below {n : Nat} {f : Thread → Thread} (h : s.Remaps u (Thread.onlyAt n f))
    (hbelow : ∀ k ∈ s.c.threads, k.tid < n → k.dueFault = none) : ∀ k ∈ u.c.threads, k.tid < n → k.dueFault = none := by
  rw [h.rest]
  intro k hk hlt
  obtain ⟨t, ht, rfl⟩ := List.mem_map.1 hk
  rw [h.tid t] at hlt
  rw [Thread.onlyAt_ne (Nat.ne_of_lt hlt)]
  exact hbelow t ht hlt

end

/-- What an instruction outside loops that stops at a fault beyond it leaves of its thread. -/
theorem Thread.past_kept (s : State) (i : Instr) (k : Nat) (t : Thread) (hl : t.loop.act = false) {y : Thread}
    (hy : y = ((fun t => t.advance k) ∘ Thread.stopped i ∘ s.counted i) t) :
    y = { Thread.stopped i (s.counted i t) with pc := t.pc + k } ∧ y.gone = t.gone ∧ y.faults = t.faults ∧ y.wait = .none ∧ y.hm = t.hm ∧
      y.hostPark = t.hostPark ∧ y.region = t.region := by
  rw [Function.comp_apply, Thread.advance_of_idle (t := (Thread.stopped i ∘ s.counted i) t) hl] at hy
  rw [hy]
  exact ⟨rfl, rfl, rfl, rfl, rfl, rfl, rfl⟩

/-- A `trap` under the handler policy: the state that its thread leaves, its record, and its entry into the handler. -/
theorem exec_trap_enters {x : S64A} {s : State} {n : Nat} {r : Region} (h : s.solo (.trap x) n = true) (hreg : s.regionOf n = some r) (hpol : r.pol = 3)
    (hm : (s.thread n).hm = false) (hnone : (s.thread n).faults = []) (hpark : (s.thread n).hostPark = false) (hl : (s.thread n).loop.act = false)
    (howes : s.owes n = false) (hbelow : ∀ k ∈ s.c.threads, k.tid < n → k.dueFault = none) (hsof : s.fld (rPctl (unitOf n)) 7 7 = 0)
    (hstep : (s.unit (unitOf n)).step = none) {f : FaultInfo}
    (hf : f = { code := .trap, pc := (s.thread n).pc, resume := (s.thread n).pc + 8, aux := x.i16.toNat, exp := s.iteration n, clk := s.clk }) :
    ∃ v, s.Remaps v (Thread.onlyAt n (Thread.faulting f ∘ (fun t => t.advance 8) ∘ Thread.stopped (.trap x) ∘ s.counted (.trap x))) ∧
      v.free = s.free + 1 ∧ exec (.trap x) s = .next ((v.faultRecord r (s.wgi n) n false f).modThread n (enterHandler r f)) := by
  obtain ⟨body, hexec, hbody⟩ := exec_trap_body x n
  have hb := hbody (s.countIssue (.trap x) s.cur.tids)
  obtain ⟨u, hrun, hmap, hfree, hunits⟩ := State.run_solo_past_fault h (.inl rfl) hb hl
  rw [Instr.bytes_s64 (i := .trap x) rfl] at hrun hmap
  obtain ⟨-, hgone, hfaults, hwait, hmode, hheld, hregion⟩ := Thread.past_kept s (.trap x) 8 _ hl (hmap.thread_at (State.solo_isSome h))
  have hsome : (u.thread? n).isSome := by
    rw [hmap.thread?, Option.isSome_map]
    exact State.solo_isSome h
  have hstep' : (u.unit (unitOf n)).step = none := by
    unfold State.unit
    rw [hunits]
    exact (s.skidCount_unit_step ..).trans hstep
  have hreg' : u.regionOf n = some r := by
    unfold State.regionOf State.region? at hreg ⊢
    rw [hregion, hmap.launch]
    exact hreg
  have henter := State.raise_enters (f := { flt .trap with pc := (s.thread n).pc, resume := (s.thread n).pc + 8, aux := x.i16.toNat })
    hsome (hgone.trans (State.solo_live h)) (hfaults.trans hnone) hwait (hmode.trans hm) (hheld.trans hpark) rfl
    ((hmap.fld ..).trans hsof) hstep' ((hmap.owes n).trans howes) (hmap.dueFault_below hbelow) hreg' hpol
  rw [hmap.iteration, hmap.wgi, hmap.clk] at henter
  refine ⟨_, hmap.trans_at (.modThread u n (Thread.faulting_tid f)), hfree, (hexec s).trans (hrun.trans ?_)⟩
  rw [hf]
  exact congrArg _ henter

/-- The thread of a `trap` in its handler: its registers, and the control of the handler. -/
theorem Thread.handling_kept {s : State} {i : Instr} {r : Region} {f : FaultInfo} {k : Nat} {t y : Thread}
    (hy : y = { Thread.stopped i (s.counted i t) with pc := t.pc + k }) :
    y.handling r f = { t.control (y.handling r f) with
      tpc := (y.handling r f).tpc, tcause := (y.handling r f).tcause, hm := true, ybud := r.y, fetch := .none } ∧ (y.handling r f).loop = t.loop := by
  rw [hy]
  exact ⟨rfl, rfl⟩

/-- Settles O19: the fault is the only one that is due, so the record is written and the handler entered at once. -/
theorem trapEntersTheHandler : Obligations.TrapEntersTheHandler := by
  unfold Obligations.TrapEntersTheHandler
  intro x s n r h hreg hpol hm hnone hpark hl howes hbelow hsof hstep f w
  obtain ⟨f', hf⟩ : ∃ f', f' = f := ⟨f, rfl⟩
  obtain ⟨v, hmap, hfree, hexec⟩ := exec_trap_enters h hreg hpol hm hnone hpark hl howes hbelow hsof hstep hf
  have hfinal := hmap.trans_at (.modThread v n (enterHandler_tid r f'))
  have hrecord := hmap.faultRecord r (s.wgi n) n false f'
  rw [hfree, hf] at hrecord
  change _ = w.withCores _ _ _ at hrecord
  rw [← hf] at hrecord
  clear_value w
  have hthreads : ∀ k, ((v.faultRecord r (s.wgi n) n false f').modThread n (enterHandler r f')).thread k =
      (v.modThread n (enterHandler r f')).thread k := by
    rw [hrecord]
    exact fun _ => rfl
  obtain ⟨y, hy⟩ : ∃ y, y = ((fun t => t.advance 8) ∘ Thread.stopped (.trap x) ∘ s.counted (.trap x)) (s.thread n) := ⟨_, rfl⟩
  obtain ⟨hyeq, hgone, hfaults, hwait, hmode, hheld, -⟩ := Thread.past_kept s (.trap x) 8 _ hl hy
  have hthread := (hthreads n).trans (hfinal.thread_at (State.solo_isSome h))
  have hhandler : (enterHandler r f' ∘ Thread.faulting f' ∘ (fun t => t.advance 8) ∘ Thread.stopped (.trap x) ∘ s.counted (.trap x)) (s.thread n) =
      y.handling r f' := by
    rw [hy]
    exact enterHandler_faulting r f' f' _ (hy ▸ hfaults.trans hnone) (hy ▸ hmode.trans hm) (hy ▸ hheld.trans hpark)
  rw [hhandler] at hthread
  obtain ⟨hkept, hloop⟩ := Thread.handling_kept (r := r) (f := f') hyeq
  refine ⟨_, hexec, ?_⟩
  rw [hthread]
  have htpc : (y.handling r f').tpc = BitVec.ofNat 64 (((s.thread n).pc + 8) % 2 ^ 57) := by
    rw [hf]
    rfl
  have hcause : (y.handling r f').tcause = BitVec.ofNat 64 (0x10 + x.i16.toNat * 256) := by
    rw [hf]
    exact congrArg (fun a => BitVec.ofNat 64 (0x10 + a * 256)) (Nat.mod_eq_of_lt x.i16.isLt)
  refine ⟨htpc, hcause, rfl, rfl, rfl, rfl, rfl, rfl, hloop, hkept,
    fun k hk => (hthreads k).trans (hfinal.thread_same k fun z hz => Thread.onlyAt_ne (hz ▸ hk) _), ?_⟩
  rw [hrecord]
  refine ⟨rfl, rfl, rfl, ?_⟩
  change (v.modThread n (enterHandler r f')).c = { s.c with threads := (v.modThread n (enterHandler r f')).c.threads }
  rw [hfinal.rest]

end Sys2Proof.Machine
end

section
/-! PROOFS. The `exit` of a thread that owes nothing (R81), in a workgroup where nothing waits for it. -/

namespace Sys2Proof.Machine
open Sys2Proof

/-! ### What waits for the end of a thread, when nothing does -/

theorem State.setThreads_map_same (s : State) (f : Thread → Thread) (h : ∀ t ∈ s.c.threads, f t = t) : s.setThreads (s.c.threads.map f) = s := by
  rw [List.map_congr_left h, List.map_id']
  rfl

theorem State.wgOf_key {s : State} {n : Nat} {g : Wg} (h : s.wgOf n = some g) : s.wg? g.key = some g := by
  unfold State.wgOf at h
  split at h
  next w hw =>
    obtain ⟨key, -, hkey⟩ := Option.bind_eq_some_iff.1 h
    have hg : g.key = key := by simpa using List.find?_some hkey
    rw [hg]
    exact hkey
  next => cases h

theorem State.barExit_of_no_episode {s : State} {key : Nat} (h : ∀ k, s.episode key k = none) (n : Nat) : s.barExit key n = s :=
  List.foldl_fixed' (fun k => by dsimp only; rw [h k]) _

theorem State.episode_none {s : State} {g : Wg} (hg : s.wg? g.key = some g) (heps : g.eps = []) (hclus : ∀ c ∈ s.c.clusters, c.ep = none) (k : Nat) :
    s.episode g.key k = none := by
  unfold State.episode
  rw [hg]
  split
  · cases hc : s.clusOfWg g.key with
    | none => rfl
    | some c => exact hclus c (List.mem_of_find?_eq_some hc)
  · simp [heps]

theorem State.expandExit_of_none {s : State} {n : Nat} {g : Wg} (hg : s.wgOf n = some g) (hxp : g.xp = []) : s.expandExit n = s := by
  have hnone : s.expandOf n = none := by simp [State.expandOf, hg, hxp]
  unfold State.expandExit
  rw [hg, hnone]

theorem State.retires_of_empty {s : State} {g : Wg} (h : g.dq.ents = []) : s.retires g = 0 := by
  unfold State.retires DQueue.cnt
  rw [h]
  exact List.foldl_fixed' (fun t : Thread => Nat.zero_min t.cur) _

theorem State.retire_of_empty {s : State} {g : Wg} (hg : s.wg? g.key = some g) (hq : g.dq.ents = []) (hsync : ∀ q ∈ s.c.threads, q.wait ≠ .dqSync) :
    s.retire g.key = s := by
  have hcnt : (0 == g.dq.cnt) = true := by simp [DQueue.cnt, hq]
  unfold State.retire
  rw [hg]
  dsimp only
  rw [State.retires_of_empty hq, hcnt, if_pos rfl]
  exact s.setThreads_map_same _ fun t ht => if_neg (by simp [hsync t ht])

theorem State.wgTest_of_live {s : State} {g : Wg} {u : Thread} (hg : s.wg? g.key = some g) (hu : u ∈ s.c.threads) (hlive : u.gone = false)
    (hwg : (s.warp? (widOf u.tid)).bind (·.wg) = some g.key) : s.wgTest g.key = s := by
  have hdone : s.wgDone g = false := by
    obtain ⟨w, hw, hkey⟩ := Option.bind_eq_some_iff.1 hwg
    unfold State.wgDone
    rw [Bool.not_eq_false', List.any_eq_true]
    exact ⟨u, hu, by simp [hlive, hw, hkey]⟩
  unfold State.wgTest
  rw [hg]
  dsimp only
  rw [hdone, if_neg Bool.false_ne_true]

/-! ### The thread's own end -/

/-- A thread that has ended. -/
def Thread.ended (clk : Nat) (t : Thread) : Thread :=
  { t with gone := true, lastPc := t.pc, lastClk := clk, bundle := none, age := none, wait := .none, park := false, stage := 0, snap := [] }

section
variable {s : State} {n : Nat} {g : Wg}

theorem State.endThread_alone {u : Nat} (hctx : isCtx n = false) (hmsk : (s.thread n).msk = 0) (hg : s.wgOf n = some g) (heps : g.eps = []) (hxp : g.xp = [])
    (hq : g.dq.ents = []) (hclus : ∀ c ∈ s.c.clusters, c.ep = none) (hsync : ∀ q ∈ s.c.threads, q.wait ≠ .dqSync) (hne : u ≠ n)
    (hu : (s.thread? u).isSome) (hlive : (s.thread u).gone = false) (hwg : (s.warp? (widOf u)).bind (·.wg) = some g.key) :
    s.endThread n = s.modThread n (Thread.ended s.clk) := by
  have hmap := State.Remaps.modThread s n (f := Thread.ended s.clk) fun _ => rfl
  have hkey := State.wgOf_key hg
  have hother := hmap.thread_same u fun t ht => Thread.onlyAt_ne (ht ▸ hne) _
  have hmasks : ∀ k, (0 : BitVec 16).getLsbD k = false := fun k => BitVec.getLsbD_zero
  have hsync' : ∀ q ∈ (s.modThread n (Thread.ended s.clk)).c.threads, q.wait ≠ .dqSync := fun q hq => by
    obtain ⟨t, ht, rfl⟩ := List.mem_map.1 hq
    split
    · exact Wait.noConfusion
    · exact hsync t ht
  unfold State.endThread
  rw [hmsk]
  dsimp only
  rw [List.foldl_fixed' (fun k => by rw [hmasks k, if_neg Bool.false_ne_true])]
  generalize hw : s.modThread n _ = w
  have hended : s.modThread n (Thread.ended s.clk) = w := hw
  rw [hended] at hmap hsync' hother
  have hwg' : w.wgOf n = some g := by
    rw [← hw]
    exact hg
  have hkey' : w.wg? g.key = some g := by
    rw [← hw]
    exact hkey
  have hno : ∀ k, w.episode g.key k = none := State.episode_none hkey' heps (by rw [← hw]; exact hclus)
  have hmem : w.thread u ∈ w.c.threads := State.thread_mem (by rw [hmap.thread?, Option.isSome_map]; exact hu)
  have hwarp : (w.warp? (widOf (w.thread u).tid)).bind (·.wg) = some g.key := by
    rw [w.thread_tid, ← hw]
    exact hwg
  rw [hwg', hctx]
  dsimp only
  rw [if_neg Bool.false_ne_true, State.barExit_of_no_episode hno, State.expandExit_of_none hwg' hxp, State.retire_of_empty hkey' hq hsync',
    State.wgTest_of_live hkey' hmem (by rw [hother]; exact hlive) hwarp, hended]

/-- A thread whose open batch, of number `k`, its `exit` has sealed (R253, R257). -/
def Thread.sealed (k : Nat) (t : Thread) : Thread :=
  { t with stage := 1, batches := { bs := (t.batches.bs.filter fun b => b.num != k) ++ [{ num := k, f := t.batches.opn }], opn := none, next := (k + 1) % 8 } }

/-- Sealing a batch that has no transfer changes its thread's record alone. -/
theorem State.remaps_sealBatch (hx : (s.c.xfers.any fun y => y.tids.any fun q => q.1 == n) = false) :
    s.Remaps (s.sealBatch n) (Thread.onlyAt n fun t => { t with batches :=
      { bs := t.batches.bs ++ [{ num := (s.thread n).batches.next, f := t.batches.opn }], opn := none, next := ((s.thread n).batches.next + 1) % 8 } }) := by
  have hxfer : ∀ x ∈ s.c.xfers, { x with tids := x.tids.map fun q => if q == (n, none) then (n, some (s.thread n).batches.next) else q } = x := fun x hmem => by
    have hother : ∀ q ∈ x.tids, (if q == (n, none) then (n, some (s.thread n).batches.next) else q) = q := fun q hq => by
      have hq1 := List.any_eq_false.1 (Bool.not_eq_true _ ▸ List.any_eq_false.1 hx x hmem) q hq
      exact if_neg fun h => hq1 (by rw [beq_iff_eq.1 h]; exact beq_self_eq_true n)
    rw [List.map_congr_left hother, List.map_id']
  have hseal : s.sealBatch n = s.modThread n fun t => { t with batches :=
      { bs := t.batches.bs ++ [{ num := (s.thread n).batches.next, f := t.batches.opn }], opn := none, next := ((s.thread n).batches.next + 1) % 8 } } := by
    unfold State.sealBatch
    dsimp only
    rw [List.map_congr_left hxfer, List.map_id']
    rfl
  rw [hseal]
  exact .modThread s n fun _ => rfl

theorem State.Remaps.refl (s : State) (n : Nat) : s.Remaps s (Thread.onlyAt n id) where
  rest := by
    have hid : Thread.onlyAt n id = fun t => t := funext fun t => ite_self t
    rw [hid, List.map_id']
  tid := Thread.onlyAt_tid fun _ => rfl

/-- An `exit` has nothing to wait for in the copies of a thread that has none: at most it seals the open batch. -/
theorem State.exitBatches_of_none (hn : (s.thread? n).isSome) (hx : (s.c.xfers.any fun y => y.tids.any fun q => q.1 == n) = false)
    (hb : (s.thread n).batches = Batches.none) :
    ∃ f, s.Remaps (s.exitBatches n).1 (Thread.onlyAt n f) ∧ (s.exitBatches n).2 = none ∧ (f = id ∨ f = Thread.sealed 0) := by
  have hnone : s.faultedBatch n = none := by simp [State.faultedBatch, hb, Batches.none]
  have hnext : (s.thread n).batches.next = 0 := by rw [hb]; rfl
  unfold State.exitBatches
  rw [hx, hnone, if_neg Bool.false_ne_true, hnext]
  dsimp only
  split
  · exact ⟨id, .refl s n, rfl, .inl rfl⟩
  · have hfree : s.Remaps (s.freeBatch n 0) (Thread.onlyAt n fun t => { t with batches := { t.batches with bs := t.batches.bs.filter fun b => b.num != 0 } }) :=
      .modThread s n fun _ => rfl
    have hseal := State.remaps_sealBatch (s := s.freeBatch n 0) (n := n) hx
    rw [hfree.thread_at hn] at hseal
    dsimp only at hseal
    rw [hnext] at hseal
    have hmap := (hfree.trans_at hseal).trans_at (.modThread _ n (f := fun t => { t with stage := 1 }) fun _ => rfl)
    generalize hv : ((s.freeBatch n 0).sealBatch n).modThread n _ = v at hmap ⊢
    have hclean : v.faultedBatch n = none := by
      simp [State.faultedBatch, hmap.thread_at hn, hb, Batches.none]
    rw [hclean]
    exact ⟨Thread.sealed 0, hmap, rfl, .inr rfl⟩

/-- The `exit` of a lane that owes nothing, before its end: its records but for its copies and its stage stay. -/
theorem exitLane_alone (hn : (s.thread? n).isSome) (hctx : isCtx n = false) (howes : s.owes n = false) (hbusy : s.busy n = false)
    (hx : (s.c.xfers.any fun y => y.tids.any fun q => q.1 == n) = false) (hb : (s.thread n).batches = Batches.none)
    (hjca : ∀ w, s.warp? (widOf n) = some w → w.jca = none) :
    ∃ v f, s.Remaps v (Thread.onlyAt n f) ∧ (f = id ∨ f = Thread.sealed 0) ∧ exitLane s n = (v.endThread n, some .stay) := by
  obtain ⟨f, hmap, hctl, hf⟩ := State.exitBatches_of_none hn hx hb
  obtain ⟨v, hv⟩ : ∃ v, v = (s.exitBatches n).1 := ⟨_, rfl⟩
  have hbatches : s.exitBatches n = (v, none) := Prod.ext hv.symm hctl
  have hstream : v.exitStream n = (v, none) := by simp [State.exitStream, hctx]
  have hadd : v.exitAdd n = (v, none) := by
    have hwarp : (v.warp? (widOf n)).bind (·.jca) = none := by
      rw [← hv] at hmap
      rw [hmap.rest]
      exact Option.bind_eq_none_iff.2 hjca
    unfold State.exitAdd
    rw [hwarp]
  refine ⟨v, f, hv ▸ hmap, hf, ?_⟩
  unfold exitLane
  rw [howes, hbusy, hbatches]
  dsimp only
  rw [hstream]
  dsimp only
  rw [hadd]
  rfl

end

/-- A body that sets the control of its one thread itself, and leaves it outside its bundle. -/
theorem State.run_solo_stays {s u : State} {i : Instr} {body : Body} {n : Nat} (h : s.solo i n = true)
    (hb : body (s.countIssue i s.cur.tids) [n] = (u, [(n, .stay)])) (hu : u.Unbundled n) : s.run i body = .next u.afterBody := by
  rw [State.solo_tids h] at hb
  rw [State.run_next, s.runBundle_solo i body n h, hb]
  have hfind : ([(n, Ctl.stay)].find? fun (q : Nat × Ctl) => q.1 == n) = some (n, .stay) := by simp
  rw [hfind]
  change Host.Outcome.next ((u.afterBody.finish i (s.countIssue i [n]) n .stay).splitBundle [n]) = _
  exact congrArg _ (State.splitBundle_of_unbundled (s := u.afterBody) hu)

/-- Settles O23: with nothing to wait for and nothing that waits for the thread, its end is a change of its own record. -/
theorem exitEndsTheThread : Obligations.ExitEndsTheThread := by
  unfold Obligations.ExitEndsTheThread
  intro x s n u g h hctx howes hbusy hx hb hjca hg heps hxp hq hclus hmsk hsync hne hu hlive hwg
  have hcount := State.Remaps.countIssue s (.exit x) n (State.solo_tids h)
  obtain ⟨c, hc⟩ : ∃ c, c = s.countIssue (.exit x) s.cur.tids := ⟨_, rfl⟩
  rw [← hc] at hcount
  have hn : (c.thread? n).isSome := by
    rw [hcount.thread?, Option.isSome_map]
    exact State.solo_isSome h
  have hcn := hcount.thread_at (State.solo_isSome h)
  obtain ⟨v, f, hmap, hf, hlane⟩ := exitLane_alone hn hctx ((hcount.owes n).trans howes)
    (by unfold State.busy at hbusy ⊢; rw [hcn, hcount.rest]; exact hbusy)
    (by rw [hcount.rest]; exact hx) (by rw [hcn]; exact hb) (by rw [hcount.rest]; exact hjca)
  have hv := hcount.trans_at hmap
  have hkept : (v.thread n).msk = (s.thread n).msk ∧ ∀ t, ((f ∘ s.counted (.exit x)) t).wait = .none := by
    rw [hv.thread_at (State.solo_isSome h)]
    obtain rfl | rfl := hf
    · exact ⟨rfl, fun _ => rfl⟩
    · exact ⟨rfl, fun _ => rfl⟩
  have hsync' : ∀ q ∈ v.c.threads, q.wait ≠ .dqSync := by
    rw [hv.rest]
    intro q hq
    obtain ⟨t, ht, rfl⟩ := List.mem_map.1 hq
    by_cases htn : t.tid = n
    · rw [Thread.onlyAt_same htn, hkept.2]
      exact Wait.noConfusion
    · rw [Thread.onlyAt_ne htn]
      exact hsync t ht
  have hother := hv.thread_same u fun t ht => Thread.onlyAt_ne (ht ▸ hne) _
  have hend : v.endThread n = v.modThread n (Thread.ended v.clk) :=
    State.endThread_alone hctx (hkept.1.trans hmsk) (by rw [hv.rest]; exact hg) heps hxp hq (by rw [hv.rest]; exact hclus) hsync' hne
      (by rw [hv.thread?, Option.isSome_map]; exact hu) (by rw [hother]; exact hlive) (by rw [hv.rest]; exact hwg)
  have hfinal := (hv.trans_at (.modThread v n (f := Thread.ended v.clk) fun _ => rfl)).afterBody
  have hthread := hfinal.thread_at (State.solo_isSome h)
  have hbody : eachThread exitLane (s.countIssue (.exit x) s.cur.tids) [n] = (v.modThread n (Thread.ended v.clk), [(n, .stay)]) := by
    rw [← hc, ← hend]
    simp [eachThread, hlane]
  have hregs : (Thread.ended v.clk ∘ f ∘ s.counted (.exit x)) (s.thread n) =
      { (Thread.ended v.clk ∘ f ∘ s.counted (.exit x)) (s.thread n) with gone := true, v := (s.thread n).v, p := (s.thread n).p } := by
    obtain rfl | rfl := hf
    · rfl
    · rfl
  refine ⟨_, State.run_solo_stays h hbody (State.unbundled_modThread v n _ fun _ => rfl), ?_⟩
  rw [hthread, hregs]
  refine ⟨rfl, rfl, rfl, ?_, ?_, hfinal.pend, ?_, hfinal.launch, ?_,
    fun k hk => hfinal.thread_same k fun t ht => Thread.onlyAt_ne (ht ▸ hk) _⟩
  all_goals rw [hfinal.rest]

end Sys2Proof.Machine
end

section
/-! PROOFS. The placement of a waiting cluster that fits (R296, R297). -/

namespace Sys2Proof.Machine
open Sys2Proof

theorem mem_insertBy {α : Type} (le : α → α → Bool) (a b : α) : ∀ l : List α, b ∈ insertBy le a l ↔ b = a ∨ b ∈ l
  | [] => by simp [insertBy]
  | c :: r => by
    unfold insertBy
    split
    · exact List.mem_cons
    · rw [List.mem_cons, List.mem_cons, mem_insertBy le a b r]
      exact or_left_comm

theorem mem_sortBy {α : Type} (le : α → α → Bool) (b : α) : ∀ l : List α, b ∈ sortBy le l ↔ b ∈ l
  | [] => Iff.rfl
  | a :: r => by
    rw [sortBy, mem_insertBy, mem_sortBy le b r, List.mem_cons]

/-! ### The cores of a choice -/

theorem pickCores_length {one : Nat → Nat → Bool} {all : List Nat → Bool} : ∀ (cs : List Nat) (n : Nat) (acc l : List Nat),
    pickCores one all cs n acc = some l → l.length = acc.length + n
  | _, 0, acc, l, h => by
    unfold pickCores at h
    split at h
    · cases h; rfl
    · cases h
  | [], _ + 1, _, _, h => by cases h
  | c :: rest, n + 1, acc, l, h => by
    unfold pickCores at h
    split at h
    · cases h
    · split at h
      next heq =>
        cases h
        split at heq
        · rw [pickCores_length rest n _ _ heq, List.length_append, List.length_singleton, Nat.add_assoc, Nat.add_comm 1]
        · cases heq
      next => exact pickCores_length rest (n + 1) acc l h

theorem State.fit_length {s : State} {w : Waiting} {r : Region} {k : Nat} {cores : List Nat} (h : s.fit w r = some (k, cores)) :
    cores.length = (s.seats r w).length := by
  obtain ⟨j, -, hj⟩ := List.exists_of_findSome?_eq_some h
  obtain ⟨l, hl, heq⟩ := Option.map_eq_some_iff.1 hj
  cases heq
  simpa using pickCores_length _ _ _ _ hl

/-- The members of a cluster that none of has ended before, and that was not saved. -/
theorem State.seats_fresh (s : State) (r : Region) (w : Waiting) (habs : w.absent = []) (hsaved : w.saved = none) :
    s.seats r w = (List.range r.size).map fun i => (i, none) := by
  have hranks : (List.range r.size).filter (fun i => !w.absent.contains i) = List.range r.size := by
    rw [habs]
    exact List.filter_eq_self.2 fun _ _ => rfl
  unfold State.seats
  dsimp only
  rw [hranks, hsaved, List.length_range]
  calc ((List.range r.size).zip (List.range r.size)).map (fun q => (q.1, none))
      = (((List.range r.size).zip (List.range r.size)).map Prod.fst).map fun i => (i, none) := by rw [List.map_map]; rfl
    _ = (List.range r.size).map fun i => (i, none) := by rw [List.map_fst_zip (by rfl)]

/-! ### The start of workgroups -/

/-- A workgroup of a region at its launch values, with its warps and threads (R297). -/
def State.Hosts (t : State) (r : Region) (key idx core rank clid : Nat) : Prop :=
  ∃ g ∈ t.c.wgs, g.key = key ∧ g.core = core ∧ g.idx = idx ∧ g.rank = rank ∧ g.clus = clid ∧
    g.region = r.num ∧ g.win = winBytes r.scr ∧ g.scr = [] ∧ g.segs = List.replicate 16 0 ∧ g.eps = [] ∧ g.warps.length = r.wgw + 1 ∧
    ∀ wid ∈ g.warps,
      (∃ x ∈ t.c.warps, x.wid = wid ∧ x.wg = some g.key ∧ x.w = launchW r.wa (BitVec.ofNat 64 r.arg) (BitVec.ofNat 64 g.idx)) ∧
      ∀ j < 32, ∃ th ∈ t.c.threads, th.tid = 32 * wid + j ∧ th.pc = (r.kha + 64) % 2 ^ 57 ∧ th.region = r.num ∧ th.ycnt = 0 ∧
        th.ybud = r.y ∧ th.hm = false

/-- From `s` to `t` workgroups, warps and threads come in, with keys from the launch engine, and nothing else changes. -/
structure State.Fills (s t : State) (n : Nat) : Prop where
  rest : t = { s with l := { s.l with nextKey := s.l.nextKey + n }, c := { s.c with wgs := t.c.wgs, warps := t.c.warps, threads := t.c.threads } }
  keys : t.c.wgs.map (·.key) = s.c.wgs.map (·.key) ++ (List.range n).map fun i => s.l.nextKey + i
  wgs : ∀ g ∈ s.c.wgs, g ∈ t.c.wgs
  warps : ∀ x ∈ s.c.warps, x ∈ t.c.warps
  threads : ∀ th ∈ s.c.threads, th ∈ t.c.threads
  fresh : ∀ g ∈ t.c.wgs, g ∈ s.c.wgs ∨ g.preempt = false

theorem State.Fills.refl (s : State) : s.Fills s 0 :=
  ⟨rfl, (List.append_nil _).symm, fun _ h => h, fun _ h => h, fun _ h => h, fun _ h => .inl h⟩

theorem State.Fills.trans {s t u : State} {n m : Nat} (h : s.Fills t n) (k : t.Fills u m) : s.Fills u (n + m) where
  rest := by
    obtain ⟨hk, -⟩ := k
    rw [h.rest] at hk
    rw [← Nat.add_assoc]
    exact hk
  keys := by
    have hnext : t.l.nextKey = s.l.nextKey + n := by rw [h.rest]
    rw [k.keys, h.keys, hnext, List.range_add, List.map_append, List.map_map, List.append_assoc]
    simp only [Function.comp_def, Nat.add_assoc]
  wgs g hg := k.wgs g (h.wgs g hg)
  warps x hx := k.warps x (h.warps x hx)
  threads th hth := k.threads th (h.threads th hth)
  fresh g hg := (k.fresh g hg).elim (h.fresh g) .inr

theorem State.Hosts.mono {s t : State} {r : Region} {n key idx core rank clid : Nat} (h : s.Fills t n) (k : s.Hosts r key idx core rank clid) :
    t.Hosts r key idx core rank clid := by
  obtain ⟨g, hg, hkey, hcore, hidx, hrank, hclus, hreg, hwin, hscr, hsegs, heps, hlen, hwarps⟩ := k
  refine ⟨g, h.wgs g hg, hkey, hcore, hidx, hrank, hclus, hreg, hwin, hscr, hsegs, heps, hlen, fun wid hwid => ?_⟩
  obtain ⟨⟨x, hx, hxs⟩, hths⟩ := hwarps wid hwid
  refine ⟨⟨x, h.warps x hx, hxs⟩, fun j hj => ?_⟩
  obtain ⟨th, hth, hthr⟩ := hths j hj
  exact ⟨th, h.threads th hth, hthr⟩

section
variable (s : State) (r : Region) (idx core rank clid relaunch : Nat)

theorem State.startWg_fills (saved : Option (List Nat)) : s.Fills (s.startWg r idx core rank clid relaunch saved) 1 := by
  unfold State.startWg
  dsimp only
  refine ⟨rfl, ?_, fun g hg => List.mem_append_left _ hg, fun x hx => List.mem_append_left _ (List.mem_append_left _ hx), fun th hth => ?_, fun g hg => ?_⟩
  · rw [List.map_append]
    rfl
  · exact (mem_sortBy ..).2 (List.mem_append_left _ (List.mem_append_left _ hth))
  · obtain hg | hg := List.mem_append.1 hg
    · exact .inl hg
    · rw [List.mem_singleton.1 hg]
      exact .inr rfl

theorem State.startWg_hosts : (s.startWg r idx core rank clid relaunch none).Hosts r s.l.nextKey idx core rank clid := by
  unfold State.startWg
  dsimp only
  refine ⟨_, List.mem_append_right _ (List.mem_singleton_self _), rfl, rfl, rfl, rfl, rfl, rfl, rfl, rfl, rfl, rfl, by simp [State.warpPlaces],
    fun wid hwid => ⟨?_, fun j hj => ?_⟩⟩
  · obtain ⟨i, hi, hget⟩ := List.mem_iff_getElem.1 hwid
    have hzip : (wid, i) ∈ (s.warpPlaces r core none).zip (List.range (s.warpPlaces r core none).length) :=
      List.mem_iff_getElem.2 ⟨i, by simpa using hi, by simp [hget]⟩
    refine ⟨_, List.mem_append_left _ (List.mem_append_right _ (List.mem_map.2 ⟨_, hzip, rfl⟩)), rfl, rfl, rfl⟩
  · refine ⟨launchThread r (32 * wid + j) (2049 * idx + 512 * (wid / 16 % 5) + 32 * (wid % 16) + j) (r.kha + 64) r.spl, ?_, rfl, rfl, rfl, rfl, rfl, rfl⟩
    exact (mem_sortBy ..).2 (List.mem_append_left _ (List.mem_append_right _
      (List.mem_flatMap.2 ⟨wid, hwid, List.mem_map.2 ⟨j, List.mem_range.2 hj, rfl⟩⟩)))

end

/-- The workgroups of a cluster start one after the other: core, rank, and the places of a saved one. -/
def State.startMembers (s : State) (r : Region) (clid relaunch : Nat) (qs : List (Nat × Nat × Option (List Nat))) : State :=
  qs.foldl (fun s q => s.startWg r (clid * r.size + q.2.1) q.1 q.2.1 clid relaunch q.2.2) s

section
variable (r : Region) (clid relaunch : Nat)

theorem State.startMembers_fills : ∀ (qs : List (Nat × Nat × Option (List Nat))) (s : State), s.Fills (s.startMembers r clid relaunch qs) qs.length
  | [], s => .refl s
  | q :: qs, s => by
    have h := (s.startWg_fills r (clid * r.size + q.2.1) q.1 q.2.1 clid relaunch q.2.2).trans (State.startMembers_fills qs _)
    rw [Nat.add_comm 1] at h
    exact h

theorem State.startMembers_hosts : ∀ (qs : List (Nat × Nat × Option (List Nat))) (s : State), (∀ q ∈ qs, q.2.2 = none) →
    ∀ (i : Nat) (hi : i < qs.length),
    (s.startMembers r clid relaunch qs).Hosts r (s.l.nextKey + i) (clid * r.size + qs[i].2.1) qs[i].1 qs[i].2.1 clid
  | q :: qs, s, hsaved, 0, _ => by
    have hstart := s.startWg_hosts r (clid * r.size + q.2.1) q.1 q.2.1 clid relaunch
    rw [← hsaved q List.mem_cons_self] at hstart
    exact hstart.mono (State.startMembers_fills r clid relaunch qs _)
  | q :: qs, s, hsaved, i + 1, hi => by
    have hnext : (s.startWg r (clid * r.size + q.2.1) q.1 q.2.1 clid relaunch q.2.2).l.nextKey = s.l.nextKey + 1 := rfl
    have h := State.startMembers_hosts qs (s.startWg r (clid * r.size + q.2.1) q.1 q.2.1 clid relaunch q.2.2)
      (fun x hx => hsaved x (List.mem_cons_of_mem q hx)) i (Nat.lt_of_succ_lt_succ hi)
    rw [hnext, Nat.add_assoc, Nat.add_comm 1] at h
    exact h

end

/-! ### The start of a cluster -/

/-- The start of a fresh cluster of a region that has clusters running (R296): its members by rank, on the cores of the choice. -/
theorem State.startCluster_fresh {s : State} {r : Region} {w : Waiting} {k : Nat} {cores : List Nat} (habs : w.absent = []) (hsaved : w.saved = none)
    (hstate : r.state = 2) (hlen : cores.length = r.size) :
    ∃ t, State.Fills { s with l := { s.l with nextKey := s.l.nextKey + 1 } } t r.size ∧
      s.startCluster r w k cores = { t with c := { t.c with clusters := s.c.clusters ++
        [{ id := s.l.nextKey, region := r.num, clid := w.clid, phys := k, members := (List.range r.size).map fun i => s.l.nextKey + 1 + i, ep := none,
           ended := w.ended }] } } ∧
      ∀ i (hi : i < r.size), t.Hosts r (s.l.nextKey + 1 + i) (w.clid * r.size + i) (cores[i]'(hlen ▸ hi)) i w.clid := by
  have hseats := s.seats_fresh r w habs hsaved
  obtain ⟨qs, hqs⟩ : ∃ qs, qs = cores.zip (s.seats r w) := ⟨_, rfl⟩
  have hcount : qs.length = r.size := by rw [hqs, List.length_zip, hseats, List.length_map, List.length_range, hlen, Nat.min_self]
  have hmember : ∀ i (hi : i < qs.length), qs[i] = (cores[i]'(by rw [hlen, ← hcount]; exact hi), i, none) := by
    subst hqs
    intro i hi
    simp [hseats]
  have hnone : ∀ q ∈ qs, q.2.2 = none := fun q hq => by
    obtain ⟨i, hi, rfl⟩ := List.mem_iff_getElem.1 hq
    rw [hmember i hi]
  have hfind : ∀ i ∈ List.range r.size, ((s.seats r w).findIdx? fun q => q.1 == i) = some i := fun i hi => by
    have hi' := List.mem_range.1 hi
    rw [hseats, List.findIdx?_eq_some_iff_getElem]
    refine ⟨by simpa using hi', by simp, fun j hj => ?_⟩
    simpa using Nat.ne_of_lt hj
  have hfills := State.startMembers_fills r w.clid w.relaunch qs { s with l := { s.l with nextKey := s.l.nextKey + 1 } }
  rw [hcount] at hfills
  refine ⟨_, hfills, ?_, fun i hi => ?_⟩
  · have hclusters : (State.startMembers { s with l := { s.l with nextKey := s.l.nextKey + 1 } } r w.clid w.relaunch qs).c.clusters = s.c.clusters := by
      rw [hfills.rest]
    unfold State.startCluster
    dsimp only
    rw [hstate, List.map_congr_left (l := List.range r.size) (g := fun i => s.l.nextKey + 1 + i) ?_, ← hclusters, hqs]
    · rfl
    · intro i hi
      rw [hfind i hi]
  · have h := State.startMembers_hosts r w.clid w.relaunch qs { s with l := { s.l with nextKey := s.l.nextKey + 1 } } hnone i (by rw [hcount]; exact hi)
    rw [hmember] at h
    exact h

/-! ### Placement -/

theorem State.syncRequests_idle {t : State} (hwait : t.l.waiting = []) (hckpt : t.b.ckpt = none) (hpre : ∀ g ∈ t.c.wgs, g.preempt = false) :
    t.syncRequests = t := by
  have hbusy : ∀ a, t.ckptBusy a = false := fun a => by rw [State.ckptBusy, hckpt]
  have hfree : ∀ p : Wg → Bool, (t.c.wgs.filter fun g => g.preempt && p g) = [] := fun p =>
    List.filter_eq_nil_iff.2 fun g hg => by simp [hpre g hg]
  have hkept : ∀ g ∈ t.c.wgs, ∀ b : Bool, b = false → { g with preempt := b } = g := fun g hg b hb => by rw [hb, ← hpre g hg]
  unfold State.syncRequests
  simp only [hfree, hwait, List.flatMap_nil, List.contains_nil, Bool.false_and, Bool.and_false, hbusy, Bool.false_eq_true, if_false, List.map_id']
  rw [List.map_congr_left (l := t.c.wgs) (g := fun g => g) fun g hg => hkept g hg _ ?_, List.map_id']
  · rfl
  · cases t.region? g.region with
    | none => simp
    | some r => simp

theorem State.withdrawLost_idle {s : State} (h : ∀ w ∈ s.l.waiting, w.victims = []) : s.withdrawLost = s := by
  unfold State.withdrawLost
  rw [List.map_congr_left (g := fun w => w) fun w hw => by rw [h w hw]; rfl, List.map_id']

section
variable {s : State} {w : Waiting} {r : Region} {k : Nat} {cores : List Nat}

theorem State.waitingOrder_single (hwait : s.l.waiting = [w]) (hparked : w.parked = false) : s.waitingOrder = [w] := by
  unfold State.waitingOrder
  simp [hwait, hparked, sortBy, insertBy]

theorem State.placeCluster_last (hwait : s.l.waiting = [w]) (hsaved : w.saved = none) (hlast : r.nwg ≤ (w.clid + 1) * r.size) :
    s.placeCluster w r k cores = (State.startCluster { s with l := { s.l with waiting := [] } } r w k cores, []) := by
  have hmore : decide ((w.clid + 1) * r.size < r.nwg) = false := decide_eq_false (Nat.not_lt.2 hlast)
  have hsame : w.same w = true := by simp [Waiting.same]
  unfold State.placeCluster
  rw [hwait, hmore, hsaved]
  simp [hsame]

theorem State.placeAll_single (n : Nat) (hregion : s.region? w.region = some r) (hbusy : s.ckptBusy r.asid = false) (hfit : s.fit w r = some (k, cores))
    {t : State} (hplace : s.placeCluster w r k cores = (t, [])) : s.placeAll (n + 2) [w] [] [] false = (t, [], []) := by
  unfold State.placeAll
  rw [hregion]
  dsimp only
  rw [hbusy, Bool.or_false, if_neg Bool.false_ne_true, hfit]
  dsimp only
  rw [hplace]
  rfl

/-- The only waiting cluster, fresh and the last of its region, fits: it starts and nothing waits any more. -/
theorem exec_clusterPlacement_fits (hen : s.fld rHostCtl 0 0 = 1) (hwait : s.l.waiting = [w]) (hparked : w.parked = false) (hvict : w.victims = [])
    (hsaved : w.saved = none) (habs : w.absent = []) (hregion : s.region? w.region = some r)
    (hlast : r.nwg ≤ (w.clid + 1) * r.size) (hckpt : s.b.ckpt = none) (hstate : r.state = 2) (hpre : ∀ g ∈ s.c.wgs, g.preempt = false)
    (hfit : s.fit w r = some (k, cores)) :
    exec .clusterPlacement s = .next (State.startCluster { s with l := { s.l with waiting := [] } } r w k cores) := by
  have hbusy : s.ckptBusy r.asid = false := by rw [State.ckptBusy, hckpt]
  have hlost : s.withdrawLost = s := State.withdrawLost_idle fun x hx => by
    rw [hwait, List.mem_singleton] at hx
    rw [hx, hvict]
  have hlen : cores.length = r.size := by rw [State.fit_length hfit, s.seats_fresh r w habs hsaved, List.length_map, List.length_range]
  obtain ⟨t, hfills, hstart, -⟩ := State.startCluster_fresh (s := { s with l := { s.l with waiting := [] } }) (k := k) habs hsaved hstate hlen
  have hall := State.placeAll_single 1023 hregion hbusy hfit (State.placeCluster_last hwait hsaved hlast)
  have hsync : (State.startCluster { s with l := { s.l with waiting := [] } } r w k cores).syncRequests =
      State.startCluster { s with l := { s.l with waiting := [] } } r w k cores := by
    rw [hstart]
    exact State.syncRequests_idle (by rw [hfills.rest]) (by rw [hfills.rest]; exact hckpt) fun g hg => (hfills.fresh g hg).elim (hpre g) id
  change Host.Outcome.next (if s.fld rHostCtl 0 0 == 0 then s else _) = _
  rw [hen, if_neg (by decide)]
  dsimp only
  rw [hlost, hwait, State.waitingOrder_single hwait hparked]
  change Host.Outcome.next (State.syncRequests (List.foldl _ (List.foldl _ (s.placeAll (1023 + 2) [w] [] [] false).1 (s.placeAll (1023 + 2) [w] [] [] false).2.2)
    (s.placeAll (1023 + 2) [w] [] [] false).2.1)) = _
  rw [hall]
  exact congrArg _ hsync

/-- Its members, their warps and threads stand at their launch values, and what ran before stays. -/
theorem State.startCluster_members (habs : w.absent = []) (hsaved : w.saved = none) (hstate : r.state = 2) (hlen : cores.length = r.size) :
    let keys := (List.range r.size).map fun i => s.l.nextKey + 1 + i
    let t := s.startCluster r w k cores
    t.c.wgs.map (·.key) = s.c.wgs.map (·.key) ++ keys ∧ t.l.waiting = s.l.waiting ∧
      t.c.clusters = s.c.clusters ++ [{ id := s.l.nextKey, region := r.num, clid := w.clid, phys := k, members := keys, ep := none, ended := w.ended }] ∧
      (∀ i (hi : i < r.size), t.Hosts r (s.l.nextKey + 1 + i) (w.clid * r.size + i) (cores[i]'(hlen ▸ hi)) i w.clid) ∧
      (∀ g ∈ s.c.wgs, g ∈ t.c.wgs) ∧ (∀ th ∈ s.c.threads, th ∈ t.c.threads) ∧ t.m = s.m ∧ t.b = s.b := by
  obtain ⟨u, hfills, hstart, hhosts⟩ := State.startCluster_fresh (s := s) (k := k) habs hsaved hstate hlen
  dsimp only
  rw [hstart]
  exact ⟨hfills.keys, by rw [hfills.rest], rfl, hhosts, hfills.wgs, hfills.threads, by rw [hfills.rest], by rw [hfills.rest]⟩

end

end Sys2Proof.Machine
end

section
/-! PROOFS. The taking of a pre-emption (R84, R305). -/

namespace Sys2Proof.Machine
open Sys2Proof

/-! ### Workgroups that leave their cores -/

section
variable (s : State) (keys : List Nat)

theorem State.purgeWgs_wgs {g : Wg} (h : g ∈ (s.purgeWgs keys).c.wgs) : g.key ∉ keys := by
  have hg := (List.mem_filter.1 h).2
  simpa using hg

theorem State.purgeWgs_warps {x : Warp} (h : x ∈ (s.purgeWgs keys).c.warps) {k : Nat} (hk : x.wg = some k) : k ∉ keys := by
  obtain ⟨hx, hkept⟩ := List.mem_filter.1 h
  intro hmem
  rw [Bool.not_eq_true', Bool.eq_false_iff] at hkept
  have hnot := mt List.contains_iff_mem.2 hkept
  refine hnot (List.mem_map.2 ⟨x, List.mem_filter.2 ⟨hx, ?_⟩, rfl⟩)
  rw [hk]
  exact List.contains_iff_mem.2 hmem

end

theorem State.syncRequests_wgs {s : State} {g : Wg} (h : g ∈ s.syncRequests.c.wgs) : ∃ g' ∈ s.c.wgs, g.key = g'.key := by
  obtain ⟨g', hg', rfl⟩ := List.mem_map.1 h
  exact ⟨g', hg', rfl⟩

section
variable {s : State} {c : Clus} {r : Region}

/-- A saved cluster leaves its cores and waits with its save slots. -/
theorem State.saveCluster_leaves (ks : List Nat) :
    (∀ g ∈ (s.saveCluster c r ks).c.wgs, g.key ∉ c.members) ∧ (∀ x ∈ (s.saveCluster c r ks).c.warps, ∀ k, x.wg = some k → k ∉ c.members) ∧
    ∃ w ∈ (s.saveCluster c r ks).l.waiting, w.region = r.num ∧ w.clid = c.clid ∧ w.saved = some (ks.take (s.liveMembers c).length) := by
  unfold State.saveCluster
  dsimp only
  refine ⟨fun g hg => ?_, fun x hx k hk => State.purgeWgs_warps _ _ hx hk, ?_⟩
  · obtain ⟨g', hg', hkey⟩ := State.syncRequests_wgs hg
    rw [hkey]
    exact State.purgeWgs_wgs _ _ hg'
  · exact ⟨_, List.mem_append_right _ (List.mem_singleton_self _), rfl, rfl, rfl⟩

/-! ### PREEMPTION_TAKEN -/

variable {id : Nat} (hfind : (s.c.clusters.find? fun c => c.id == id) = some c) (hregion : s.region? c.region = some r)
include hfind hregion

theorem exec_preemptionTaken_waits (h : ∃ g ∈ s.liveMembers c, g.preempt = false ∨ s.preemptible g = false) : exec (.preemptionTaken id) s = .next s := by
  have hnot : ((s.liveMembers c).all fun g => g.preempt && s.preemptible g) = false := by
    obtain ⟨g, hg, hpre⟩ := h
    refine List.all_eq_false.2 ⟨g, hg, ?_⟩
    obtain hpre | hpre := hpre
    · simp [hpre]
    · simp [hpre]
  change execPreemptionTaken id s = _
  unfold execPreemptionTaken
  rw [hfind]
  dsimp only
  rw [hregion]
  dsimp only
  rw [hnot, Bool.not_false, Bool.or_true, if_pos rfl]

theorem exec_preemptionTaken_saves {ks : List Nat} {u : State} (hlive : s.liveMembers c ≠ [])
    (hasked : ∀ g ∈ s.liveMembers c, g.preempt = true ∧ s.preemptible g = true) (hslots : s.saveSlots c r = some ks)
    (hu : u = ({ s with free := s.free + 1 } : State).finishWork c.members) (hcount : (u.liveMembers c).length = (s.liveMembers c).length)
    (hsettled : ∀ g ∈ u.liveMembers c, u.settled g = true) (hregion' : u.region? c.region = some r) :
    exec (.preemptionTaken id) s = .next (u.saveCluster c r ks) := by
  have hall : ((s.liveMembers c).all fun g => g.preempt && s.preemptible g) = true :=
    List.all_eq_true.2 fun g hg => by rw [(hasked g hg).1, (hasked g hg).2]; rfl
  have hempty : (s.liveMembers c).isEmpty = false := by simpa using hlive
  have hdone : (u.liveMembers c).all u.settled = true := List.all_eq_true.2 hsettled
  change execPreemptionTaken id s = _
  unfold execPreemptionTaken
  rw [hfind]
  dsimp only
  rw [hregion]
  dsimp only
  rw [hall, hempty, Bool.not_true, Bool.or_false, if_neg Bool.false_ne_true, hslots]
  dsimp only
  rw [← hu, hcount, bne_self_eq_false, hdone, Bool.not_true, Bool.or_false, if_neg Bool.false_ne_true, hregion']

end

end Sys2Proof.Machine
end

section
/-! PROOFS. What the reads and writes that an engine makes leave alone (R229 to R236): the launch engine, the cores but for the L1, and every control register
below those of the homes. -/

namespace Sys2Proof.Machine
open Sys2Proof

/-- From `s` to `t` an engine has been served: the launch engine, the cores but for the L1, and the registers below the homes' stay. -/
structure State.Served (s t : State) : Prop where
  launch : t.l = s.l
  cores : t.c = { s.c with l1 := t.c.l1 }
  low : ∀ o < 0x10000, t.reg o = s.reg o

namespace State.Served
variable {s t u : State}

theorem refl (s : State) : s.Served s := ⟨rfl, rfl, fun _ _ => rfl⟩

theorem trans (h : s.Served t) (k : t.Served u) : s.Served u where
  launch := k.launch.trans h.launch
  cores := by
    rw [k.cores, h.cores]
  low o ho := (k.low o ho).trans (h.low o ho)

/-- A change of the memory side alone. -/
theorem of_mem (hl : t.l = s.l) (hc : t.c = s.c) (hb : t.b = s.b) : s.Served t :=
  ⟨hl, by rw [hc], fun o _ => by unfold State.reg; rw [hb]⟩

theorem ite {p : Prop} [Decidable p] (ht : s.Served t) (hu : s.Served u) : s.Served (if p then t else u) := by
  split
  · exact ht
  · exact hu

/-! ### Registers of the homes -/

theorem setReg (s : State) {o : Nat} (ho : 0x10000 ≤ o) (x : Word) : s.Served (s.setReg o x) :=
  ⟨rfl, rfl, fun _ hk => s.reg_setReg_ne _ _ _ (Nat.ne_of_lt (Nat.lt_of_lt_of_le hk ho))⟩

theorem satInc (s : State) {o : Nat} (ho : 0x10000 ≤ o) (lo n : Nat) : s.Served (s.satInc o lo n) := setReg s ho _

theorem msi (s : State) (v : Nat) : s.Served (s.msi v) := by
  unfold State.msi
  exact .ite (refl s) (.ite ⟨rfl, rfl, fun _ _ => rfl⟩ (.ite (refl s) ⟨rfl, rfl, fun _ _ => rfl⟩))

/-! ### The L2 -/

theorem wrNat (s : State) (x n v : Nat) : s.Served (s.wrNat x n v) := by
  obtain ⟨_, _, _, h⟩ := State.wrNat_rest n s x v
  rw [h]
  exact .of_mem rfl rfl rfl

theorem setPoison (s : State) (x : Nat) (on : Bool) : s.Served (s.setPoison x on) := .of_mem rfl rfl rfl

theorem setL2 (s : State) (l : List L2Line) : s.Served (s.setL2 l) := .of_mem rfl rfl rfl

theorem poisonNew (s : State) (x : Nat) : s.Served (s.poisonNew x) := by
  have hcount : s.Served ((s.setPoison x true).satInc rHomeErr 0 1) := 
    (setPoison s x true).trans (satInc _ (o := rHomeErr) (by decide) 0 1)
  unfold State.poisonNew
  exact .ite hcount (hcount.trans ((setReg _ (by decide) _).trans (msi _ 0)))

theorem ecc (s : State) (x : Nat) (e : Ecc) : s.Served (s.ecc x e) := by
  unfold State.ecc
  split
  · exact refl s
  · exact satInc s (by decide) 32 1
  · exact .ite ((setL2 s _).trans (satInc _ (o := rHomeErr) (by decide) 32 1)) (.ite (poisonNew s x) (satInc s (by decide) 32 1))
  · exact .ite (poisonNew s x) (refl s)

theorem findError (s : State) (x : Nat) : s.Served (s.findError x) := by
  unfold State.findError
  split
  · exact refl s
  next e _ => exact .ite (refl s) (trans (t := { s with m := { s.m with errs := s.m.errs.filter fun q => q.1 != x / 32 } }) (of_mem rfl rfl rfl) (ecc _ _ _))

theorem findErrors (s : State) (x n : Nat) : s.Served (s.findErrors x n) :=
  List.foldlRecOn (motive := fun (t : State) => s.Served t) _ _ (refl s) fun t ht _ _ => .ite (ht.trans (findError t _)) ht

theorem l2Insert (s : State) (k : L2Line) (lru : Bool) : s.Served (s.l2Insert k lru) := by
  have hput : ∀ (u : State) (j : L2Line), u.Served (u.l2Put j lru) := fun _ _ => .of_mem rfl rfl rfl
  have hinc : ∀ i, s.Served (s.satInc (rHomeRet i + 24) 32 1) := fun i => satInc s (by unfold rHomeRet; omega) 32 1
  unfold State.l2Insert
  dsimp only
  cases (List.range 8).find? fun i => s.retCovers i k.xpa with
  | none =>
    dsimp only
    split
    · exact hput s _
    · split
      · exact hput s _
      · exact refl s
  | some i =>
    dsimp only
    split
    · exact hput s _
    · split
      · exact (hinc i).trans (hput _ _)
      · split
        · exact (hinc i).trans (hput _ _)
        · exact hinc i

theorem l2Hit (s : State) (k : L2Line) (hint : Hint) : s.Served (s.l2Hit k hint) := by
  unfold State.l2Hit
  exact .ite (refl s) (.of_mem rfl rfl rfl)

theorem l2Mod (s : State) (x : Nat) (f : L2Line → L2Line) : s.Served (s.l2Mod x f) := .of_mem rfl rfl rfl

theorem l2Home (s : State) (x : Nat) (hint : Hint) (ef w : Bool) : s.Served (s.l2Home x hint ef w) := by
  unfold State.l2Home
  split
  · exact (l2Hit s _ hint).trans (l2Mod _ x _)
  · exact .ite (refl s) (l2Insert s _ _)

theorem visitorFill (s : State) (x data : Nat) (hint : Hint) (ef : Bool) : s.Served (s.visitorFill x data hint ef) := by
  unfold State.visitorFill
  dsimp only
  split
  · exact refl s
  · split
    · exact (l2Hit s _ hint).trans (l2Mod _ x _)
    · exact (l2Insert s _ _).trans (l2Mod _ x _)

theorem visitorReturn (s : State) (x data : Nat) (hint : Hint) (ef fill : Bool) : s.Served (s.visitorReturn x data hint ef fill) := by
  unfold State.visitorReturn
  exact .ite (refl s) (.ite (.of_mem rfl rfl rfl) (.ite ((visitorFill s x data hint ef).trans (.of_mem rfl rfl rfl)) (refl s)))

/-! ### The engine's reads and writes -/

theorem engRead (s : State) (tenant x n : Nat) (hint : Hint) (ef : Bool) : s.Served (s.engRead tenant x n hint ef).1 := by
  unfold State.engRead
  split
  · exact refl s
  · have h0 : s.Served (if s.here x && (s.homeGate tenant x true false).isSome then s else s.findErrors x n) := .ite (refl s) (findErrors s x n)
    generalize (if s.here x && (s.homeGate tenant x true false).isSome then s else s.findErrors x n) = s0 at h0 ⊢
    have h1 : s.Served { s0 with free := s0.free + 1 } := h0.trans (.of_mem rfl rfl rfl)
    dsimp only
    split
    · dsimp only
      split
      · exact h0.trans (l2Hit s0 _ hint)
      · exact h0
    · split
      · exact h1
      · exact .ite (h1.trans (l2Home _ x hint ef false)) (h1.trans (visitorReturn _ x _ hint ef true))

theorem engWrite (s : State) (tenant x n v : Nat) (rd : Bool) : s.Served (s.engWrite tenant x n v rd).1 := by
  unfold State.engWrite
  split
  · exact wrNat s x n v
  · have h0 : s.Served (if s.here x then s else s.visitorInvalidate x) := .ite (refl s) (.of_mem rfl rfl rfl)
    generalize (if s.here x then s else s.visitorInvalidate x) = s0 at h0 ⊢
    dsimp only
    split
    · have h1 : s.Served { s0 with free := s0.free + 1 } := h0.trans (.of_mem rfl rfl rfl)
      exact .ite (h1.trans (wrNat _ x n v)) h1
    · have h1 : s.Served (if s.here x then s0.findErrors x n else s0) := .ite (h0.trans (findErrors s0 x n)) h0
      generalize (if s.here x then s0.findErrors x n else s0) = s1 at h1 ⊢
      have h2 : s.Served { s1 with free := s0.free + 1 } := h1.trans (.of_mem rfl rfl rfl)
      generalize ({ s1 with free := s0.free + 1 } : State) = s2 at h2 ⊢
      split
      · exact h2
      · have h3 : s.Served (if (n == 32 && x % 32 == 0 && !rd) = true then s2.setPoison x false else s2) := .ite (h2.trans (.of_mem rfl rfl rfl)) h2
        exact State.Served.trans (.ite (h3.trans (l2Home _ x .dflt false true)) h3) (wrNat _ x n v)

theorem devWrite (s : State) (x n v : Nat) : s.Served (s.devWrite x n v) :=
  List.foldlRecOn (motive := fun (t : State) => s.Served t) _ _ (refl s) fun t ht _ _ => ht.trans (engWrite t ..)

theorem rcbState (s : State) (rcb st lerr : Nat) : s.Served (s.rcbState rcb st lerr) := (devWrite s ..).trans (devWrite _ ..)

/-! ### Translation, and a read at a virtual address -/

theorem walkFrom (tenant va : Nat) : ∀ (f : Nat) (s : State) (lvl a : Nat), s.Served (s.walkFrom tenant va f lvl a).1
  | 0, s, _, _ => refl s
  | f + 1, s, lvl, a => by
    have hread := engRead s tenant (a + 8 * walkIndex lvl va) 8 .dflt false
    unfold State.walkFrom
    dsimp only
    split
    · exact refl s
    · split
      next u _ h => rwa [h] at hread
      next u e h =>
        rw [h] at hread
        split
        · exact hread
        · split
          · exact hread.trans (walkFrom tenant va f u _ _)
          · exact hread

theorem tlbFill (s : State) (core asid : Nat) (p : Pte) : s.Served (s.tlbFill core asid p) := .of_mem rfl rfl rfl

/-- A walk that finds its page. -/
theorem endWalk {w : Walk} {p : Pte} (h : s.endWalk w = (t, .ok p)) : s.Served t := by
  have hwalk := walkFrom w.tenant w.va 4 s 0 w.ttb
  unfold State.endWalk State.walk at h
  split at h
  next u q heq =>
    rw [heq] at hwalk
    cases h
    have hdone : s.Served { u with m := { u.m with walks := u.m.walks.filter fun v => !(v.die == w.die && v.asid == w.asid && p.covers v.va) } } :=
      hwalk.trans (.of_mem rfl rfl rfl)
    exact List.foldlRecOn (motive := fun (x : State) => s.Served x) _ _ hdone fun x hx c _ => hx.trans (tlbFill x c w.asid p)
  next => cases h

theorem pageOf {core va : Nat} {r : Region} {p : Pte} (h : s.pageOf core r va = (t, .ok p)) : s.Served t := by
  unfold State.pageOf at h
  split at h
  · cases h
    exact tlbFill s core r.asid _
  · dsimp only at h
    split at h
    next u q heq =>
      cases h
      exact (endWalk heq).trans (tlbFill u core r.asid p)
    next => cases h

/-- A translation for a read (R216, R219). -/
theorem xlate_rd {core va : Nat} {r : Region} {p : Pte} (h : s.xlate core r va .rd = (t, .ok p)) : s.Served t := by
  unfold State.xlate at h
  split at h
  · cases h
  next u q heq =>
    have hu : s.Served u := by
      unfold State.xpage at heq
      split at heq
      · cases heq
      · split at heq
        · cases heq
        next v e hpage =>
          cases (Prod.mk.inj heq).1
          exact pageOf hpage
    cases h
    exact hu

theorem vread {core va n x : Nat} {r : Region} (h : s.vread core r va n = (t, .ok x)) : s.Served t := by
  unfold State.vread at h
  split at h
  · cases h
  next u p heq =>
    have hread := engRead u r.tenant (p.addr va) n .dflt p.ef
    split at h
    · cases h
    next v y hr =>
      rw [hr] at hread
      cases h
      exact (xlate_rd heq).trans (hread.trans ⟨rfl, rfl, fun _ _ => rfl⟩)

theorem vreadAll {r : Region} : ∀ (qs : List (Nat × Nat × Nat)) (s : State) (acc : Nat) {x : Nat}, s.vreadAll r qs acc = (t, some x) → s.Served t
  | [], s, acc, x, h => by
    cases h
    exact refl _
  | q :: qs, s, acc, x, h => by
    unfold State.vreadAll at h
    split at h
    next u y heq => exact (vread heq).trans (vreadAll qs u _ h)
    next => cases h

/-- A header that can be read and is valid. -/
theorem header {r : Region} {hd : Header} (h : s.header r = (t, some hd)) : s.Served t := by
  unfold State.header at h
  split at h
  next u x heq =>
    cases x with
    | none => cases h
    | some x =>
      obtain ⟨rfl, -⟩ := Prod.mk.inj h
      exact vreadAll _ s 0 heq

end State.Served

end Sys2Proof.Machine
end

section
/-! PROOFS. The intake of a region from a ring of the host (R291, R466, R467). -/

namespace Sys2Proof.Machine
open Sys2Proof

theorem findSome?_reverse_range {α : Type} {f : Nat → Option α} {p : Nat} {x : α} (hp : f p = some x) :
    ∀ n, p < n → (∀ q < n, p < q → f q = none) → (List.range n).reverse.findSome? f = some x
  | 0, h, _ => absurd h (Nat.not_lt_zero p)
  | n + 1, h, hnone => by
    rw [List.range_succ, List.reverse_append, List.reverse_singleton, List.singleton_append, List.findSome?_cons]
    obtain hlt | rfl := Nat.lt_succ_iff_lt_or_eq.1 h
    · rw [hnone n (Nat.lt_succ_self n) hlt]
      exact findSome?_reverse_range hp n hlt fun q hq => hnone q (Nat.lt_succ_of_lt hq)
    · rw [hp]

/-! ### Fields of a register -/

theorem State.fld_of_reg {s t : State} {o : Nat} (h : t.reg o = s.reg o) (hi lo : Nat) : t.fld o hi lo = s.fld o hi lo := by
  unfold State.fld
  rw [h]

section
variable {s : State} (hwf : regsWf s.b.regs = true)
include hwf

theorem State.fld_setFld_low32 (o x : Nat) : (s.setFld o 31 0 x).fld o 31 0 = x % 2 ^ 32 := by
  have hv := (s.reg o).isLt
  unfold State.fld State.setFld
  dsimp only
  rw [State.reg_setReg_same _ _ _ hwf, BitVec.toNat_ofNat]
  unfold slice
  omega

theorem State.fld_setFld_bit1 (o : Nat) : (s.setFld o 1 1 1).fld o 1 1 = 1 := by
  have hv := (s.reg o).isLt
  unfold State.fld State.setFld
  dsimp only
  rw [State.reg_setReg_same _ _ _ hwf, BitVec.toNat_ofNat]
  unfold slice
  omega

end

theorem State.rdNat_lt (s : State) (n : Nat) : ∀ x, s.rdNat x n < 256 ^ n := by
  induction n with
  | zero => exact fun _ => Nat.one_pos
  | succ n ih =>
    intro x
    have hbyte := (s.byteAt x).isLt
    have hrest := ih (x + 1)
    rw [State.rdNat, Nat.pow_succ]
    omega

/-! ### Which entry is taken -/

theorem exec_regionIntake_idle {s : State} (hlen : s.fld rHostCtl 0 0 = 0) (hspawn : s.l.spawned = []) : exec .regionIntake s = .next s := by
  have hnone : ((List.range 8).reverse.findSome? fun p =>
      if s.fld rHostCtl 0 0 == 1 && s.ringHead p != s.ringTail p then some (s.takeRing p)
      else match s.l.spawned.findIdx? fun c => c.pri == p with
        | some i => (s.l.spawned[i]?).map fun c => { s with l := { s.l with spawned := s.l.spawned.eraseIdx i } }.takeSpawn c
        | none => none) = none := by
    rw [hlen, hspawn]
    rfl
  change execRegionIntake s = _
  unfold execRegionIntake
  split
  · rfl
  · exact congrArg (fun o => Host.Outcome.next (Option.getD o s)) hnone

theorem exec_regionIntake_ring {s : State} {p : Nat} (hp : p < 8) (hen : s.fld rHostCtl 0 0 = 1) (hroom : s.l.regions.length < 4096)
    (hentry : s.ringHead p ≠ s.ringTail p) (habove : ∀ q < 8, p < q → s.ringHead q = s.ringTail q ∧ ∀ c ∈ s.l.spawned, c.pri ≠ q) :
    exec .regionIntake s = .next (s.takeRing p) := by
  have hpick : ((List.range 8).reverse.findSome? fun p =>
      if s.fld rHostCtl 0 0 == 1 && s.ringHead p != s.ringTail p then some (s.takeRing p)
      else match s.l.spawned.findIdx? fun c => c.pri == p with
        | some i => (s.l.spawned[i]?).map fun c => { s with l := { s.l with spawned := s.l.spawned.eraseIdx i } }.takeSpawn c
        | none => none) = some (s.takeRing p) := by
    refine findSome?_reverse_range ?_ 8 hp fun q hq hlt => ?_
    · rw [if_pos (by simpa [hen] using hentry)]
    · obtain ⟨hempty, hspawn⟩ := habove q hq hlt
      have hidx : (s.l.spawned.findIdx? fun c => c.pri == q) = none := List.findIdx?_eq_none_iff.2 fun c hc => by simpa using hspawn c hc
      rw [if_neg (by simp [hempty]), hidx]
  change execRegionIntake s = _
  unfold execRegionIntake
  rw [if_neg (Nat.not_le.2 hroom)]
  exact congrArg (fun o => Host.Outcome.next (Option.getD o s)) hpick

/-! ### A bad entry (R467) -/

theorem State.sqErr_stat {s : State} (hwf : regsWf s.b.regs = true) : s.sqErr.fld rHostStat 1 1 = 1 := by
  unfold State.sqErr
  split
  next h => exact beq_iff_eq.1 h
  next =>
    rw [State.fld_of_reg ((State.Served.msi _ 5).low rHostStat (by decide))]
    exact State.fld_setFld_bit1 hwf rHostStat

theorem State.msi_m (s : State) (v : Nat) : (s.msi v).m = s.m := by
  unfold State.msi
  split_ifs
  · rfl
  · rfl
  · rfl
  · rfl

theorem State.sqErr_kept (s : State) :
    s.sqErr.l = s.l ∧ s.sqErr.m = s.m ∧ s.sqErr.c = s.c ∧ ∀ o, o ≠ rHostStat → o < 0x10000 → s.sqErr.reg o = s.reg o := by
  unfold State.sqErr
  split
  · exact ⟨rfl, rfl, rfl, fun _ _ _ => rfl⟩
  · have hmsi := State.Served.msi (s.setFld rHostStat 1 1 1) 5
    exact ⟨hmsi.launch, State.msi_m _ 5, State.msi_c _ 5, fun o hne hlow => (hmsi.low o hlow).trans (s.reg_setReg_ne _ _ _ hne)⟩

/-! ### A region that enters (R287 to R291) -/

theorem ite_ne_zero {q : Prop} [Decidable q] {a b : Nat} (ha : a ≠ 0) (hb : b ≠ 0) : (if q then a else b) ≠ 0 := by
  split
  · exact ha
  · exact hb

/-- A region without a launch error: its control block and its header could be read. -/
theorem State.resolve_entered {s t : State} {rcb num p : Nat} {r : Region} (h : s.resolve rcb num none (some p) = (t, r)) (hok : r.lerr = 0) :
    s.Served t ∧ r.num = num ∧ r.pri = p ∧ r.parent = none := by
  unfold State.resolve at h
  generalize s.rdNat rcb 256 = x at h
  generalize s.rcbReadable rcb = readable at h
  dsimp only at h
  cases readable with
  | false =>
    rw [if_neg Bool.false_ne_true] at h
    obtain ⟨-, rfl⟩ := Prod.mk.inj h
    cases hok
  | true =>
    rw [if_pos rfl] at h
    generalize hq : s.header _ = q at h
    obtain ⟨u, hd⟩ := q
    cases hd with
    | none =>
      obtain ⟨-, rfl⟩ := Prod.mk.inj h
      dsimp only at hok
      rw [Option.isNone_none (α := Header), if_pos (c := true = true) rfl] at hok
      exact absurd hok <| ite_ne_zero (a := 7) (by decide) (ite_ne_zero (a := 2) (by decide) (ite_ne_zero (a := 5) (by decide) (ite_ne_zero (a := 8) (by decide)
        (ite_ne_zero (a := 8) (by decide) Nat.one_ne_zero))))
    | some hd =>
      obtain ⟨rfl, rfl⟩ := Prod.mk.inj h
      exact ⟨.header hq, rfl, rfl, rfl⟩

theorem State.rcbState_withCores (s : State) (c : Cores) (l : Launch) (us : List UnitSt) (rcb st lerr : Nat) :
    (s.withCores c l us).rcbState rcb st lerr = (s.rcbState rcb st lerr).withCores c l us := by
  rw [State.rcbState, State.devWrite_withCores, State.devWrite_withCores, State.rcbState]

/-- The launch engine with one more region, whose first cluster waits. -/
def Launch.entered (l : Launch) (r : Region) : Launch :=
  { l with nextRegion := l.nextRegion + 1, regions := l.regions ++ [r], waiting := l.waiting ++ [Waiting.first l.nextRegion] }

/-- A root region without a launch error enters: its control block says so, and the launch engine has it. -/
theorem State.intake_entered {s u : State} {rcb p : Nat} {r : Region} (h : s.resolve rcb s.l.nextRegion none (some p) = (u, r)) (hok : r.lerr = 0) :
    (s.intake rcb none (some p)).l = s.l.entered r ∧ (s.intake rcb none (some p)).c = { s.c with l1 := (s.intake rcb none (some p)).c.l1 } ∧
    (∀ o < 0x10000, (s.intake rcb none (some p)).reg o = s.reg o) ∧
    (s.intake rcb none (some p)).m = (((u.devWrite (rcb + 136) 8 0).devWrite (rcb + 144) 4 s.l.nextRegion).rcbState rcb 1 0).m := by
  obtain ⟨hserved, -, -, -⟩ := State.resolve_entered h hok
  obtain ⟨w, hw⟩ : ∃ w, w = (((u.devWrite (rcb + 136) 8 0).devWrite (rcb + 144) 4 s.l.nextRegion).rcbState rcb 1 0) := ⟨_, rfl⟩
  have hwrites : s.Served w := by
    rw [hw]
    exact hserved.trans ((State.Served.devWrite u ..).trans ((State.Served.devWrite _ ..).trans (State.Served.rcbState _ ..)))
  have hstate : s.intake rcb none (some p) = w.withCores u.c (s.l.entered r) u.b.units := by
    have hcontrol : ((((State.withCores u u.c { u.l with nextRegion := s.l.nextRegion + 1, regions := u.l.regions ++ [r] } u.b.units).devWrite
        (rcb + 136) 8 0).devWrite (rcb + 144) 4 s.l.nextRegion).rcbState rcb 1 0) =
        w.withCores u.c { u.l with nextRegion := s.l.nextRegion + 1, regions := u.l.regions ++ [r] } u.b.units := by
      rw [State.devWrite_withCores, State.devWrite_withCores, State.rcbState_withCores, hw]
    have hgood : (r.lerr != 0) = false := by rw [hok]; rfl
    unfold State.intake
    dsimp only
    rw [h]
    dsimp only
    rw [hgood, if_neg Bool.false_ne_true, Option.isSome_some, if_pos rfl]
    unfold State.withCores at hcontrol
    dsimp only at hcontrol
    rw [hcontrol, hserved.launch]
    rfl
  rw [hstate]
  exact ⟨rfl, hserved.cores, hwrites.low, by rw [hw]; rfl⟩

/-- The host's ring without its oldest entry. -/
theorem State.ringHead_advance {s : State} {p : Nat} (hwf : regsWf s.b.regs = true) (x : Nat) : (s.setFld (rSubqPtr p) 31 0 x).ringHead p = x % 2 ^ 32 :=
  State.fld_setFld_low32 hwf (rSubqPtr p) x

section
variable {s : State} {p : Nat} (hp : p < 8) (hwf : regsWf s.b.regs = true)
include hp hwf

theorem State.takeRing_bad
    (hbad : let e := s.rdNat (s.fld (rSubqBase p) 51 12 * 4096 + 8 * (s.ringHead p % 2 ^ s.fld (rSubqBase p) 4 0)) 8; 2 ^ 51 ≤ e ∨ e % 256 ≠ 0) :
    (s.takeRing p).fld rHostStat 1 1 = 1 ∧ (s.takeRing p).ringHead p = (s.ringHead p + 1) % 2 ^ 32 ∧ (s.takeRing p).l = s.l ∧
      (s.takeRing p).m = s.m ∧ (s.takeRing p).c = s.c := by
  have hlt := s.rdNat_lt 8 (s.fld (rSubqBase p) 51 12 * 4096 + 8 * (s.ringHead p % 2 ^ s.fld (rSubqBase p) 4 0))
  unfold State.takeRing
  dsimp only at hbad ⊢
  generalize s.rdNat _ 8 = e at hbad hlt ⊢
  have hentry : (slice e 63 51 != 0 || e % 256 != 0) = true := by
    unfold slice
    simp only [Bool.or_eq_true, bne_iff_ne]
    omega
  rw [if_pos hentry]
  generalize hu : s.setFld (rSubqPtr p) 31 0 ((s.ringHead p + 1) % 2 ^ 32) = u
  have hregs : regsWf u.b.regs = true := by
    rw [← hu]
    exact regSet_wf _ _ _ hwf
  obtain ⟨hl, hm, hc, hlow⟩ := u.sqErr_kept
  have hhead : u.sqErr.ringHead p = u.ringHead p := State.fld_of_reg (hlow _ (by unfold rSubqPtr rHostStat; omega) (by unfold rSubqPtr; omega)) 31 0
  refine ⟨State.sqErr_stat hregs, ?_, ?_, ?_, ?_⟩
  · rw [hhead, ← hu, State.ringHead_advance hwf, Nat.mod_mod]
  · rw [hl, ← hu]; rfl
  · rw [hm, ← hu]; rfl
  · rw [hc, ← hu]; rfl

theorem State.takeRing_good {e : Nat} {h : State × Region}
    (he : e = s.rdNat (s.fld (rSubqBase p) 51 12 * 4096 + 8 * (s.ringHead p % 2 ^ s.fld (rSubqBase p) 4 0)) 8)
    (hh : h = (s.setFld (rSubqPtr p) 31 0 ((s.ringHead p + 1) % 2 ^ 32)).resolve e s.l.nextRegion none (some p))
    (hrange : e < 2 ^ 51) (halign : e % 256 = 0) (hok : h.2.lerr = 0) :
    (s.takeRing p).ringHead p = (s.ringHead p + 1) % 2 ^ 32 ∧ (s.takeRing p).l = s.l.entered h.2 ∧ h.2.num = s.l.nextRegion ∧ h.2.pri = p ∧
      h.2.parent = none ∧ (s.takeRing p).c = { s.c with l1 := (s.takeRing p).c.l1 } ∧
      (s.takeRing p).m = (((h.1.devWrite (e + 136) 8 0).devWrite (e + 144) 4 h.2.num).rcbState e 1 0).m := by
  have hentry : ¬ (slice e 63 51 != 0 || e % 256 != 0) = true := by
    unfold slice
    simp only [Bool.or_eq_true, bne_iff_ne]
    omega
  have htake : s.takeRing p = (s.setFld (rSubqPtr p) 31 0 ((s.ringHead p + 1) % 2 ^ 32)).intake e none (some p) := by
    unfold State.takeRing
    dsimp only
    rw [← he, if_neg hentry]
  generalize hu : s.setFld (rSubqPtr p) 31 0 ((s.ringHead p + 1) % 2 ^ 32) = u at hh htake
  have hbefore : u.l = s.l ∧ u.c = s.c := by
    rw [← hu]
    exact ⟨rfl, rfl⟩
  obtain ⟨v, r⟩ := h
  rw [← hbefore.1] at hh
  obtain ⟨-, hnum, hpri, hparent⟩ := State.resolve_entered hh.symm hok
  obtain ⟨hl, hc, hlow, hm⟩ := State.intake_entered hh.symm hok
  rw [← htake] at hl hc hlow hm
  rw [hbefore.1] at hl hnum hm
  rw [hbefore.2] at hc
  refine ⟨?_, hl, hnum, hpri, hparent, hc, ?_⟩
  · rw [show (s.takeRing p).ringHead p = u.ringHead p from State.fld_of_reg (hlow _ (by unfold rSubqPtr; omega)) 31 0, ← hu,
      State.ringHead_advance hwf, Nat.mod_mod]
  · rw [hm, hnum]

end

end Sys2Proof.Machine
end

section
/-! PROOFS. O53, from the parts of the launch engine. -/

namespace Sys2Proof.Machine
open Sys2Proof

theorem exec_clusterPlacement_idle {s : State} (hlen : s.fld rHostCtl 0 0 = 0) : exec .clusterPlacement s = .next s := by
  change Host.Outcome.next (if s.fld rHostCtl 0 0 == 0 then s else _) = _
  rw [hlen]
  rfl

/-- Settles O53: the intake, the placement and the pre-emption each by the branch of the launch engine that the state takes. -/
theorem regionsLaunchAndResume : Obligations.RegionsLaunchAndResume := by
  unfold Obligations.RegionsLaunchAndResume
  refine ⟨fun s hlen => ⟨exec_regionIntake_idle hlen, exec_clusterPlacement_idle hlen⟩, ?intake, ?placement, fun _ _ => rfl, ?preemption⟩
  case intake =>
    intro s p hp hwf hen hroom hentry habove e u h r
    have hexec := exec_regionIntake_ring hp hen hroom hentry habove
    refine ⟨fun hbad => ⟨_, hexec, State.takeRing_bad hp hwf hbad⟩, fun hrange halign hok => ?_⟩
    obtain ⟨hhead, hl, hnum, hpri, hparent, hc, hm⟩ := State.takeRing_good (h := h) hp hwf rfl rfl hrange halign hok
    refine ⟨_, hexec, hhead, ?_, hnum, hpri, hparent, ?_, ?_, hc, hm⟩
    · rw [hl]; rfl
    · rw [hl]; rfl
    · rw [hl, hnum]; rfl
  case placement =>
    intro s w r k cores hen hwait hparked hvict hsaved _ habs hregion hlast hckpt hstate hpre hfit keys
    have hlen : cores.length = r.size := by rw [State.fit_length hfit, s.seats_fresh r w habs hsaved, List.length_map, List.length_range]
    obtain ⟨hkeys, hwaiting, hclusters, hhosts, hrest⟩ :=
      State.startCluster_members (s := { s with l := { s.l with waiting := [] } }) (k := k) habs hsaved hstate hlen
    refine ⟨_, exec_clusterPlacement_fits hen hwait hparked hvict hsaved habs hregion hlast hckpt hstate hpre hfit, hkeys, hwaiting, hclusters,
      fun i hi => ?_, hrest⟩
    obtain ⟨g, hg, hkey, hcore, hmember⟩ := hhosts i hi
    exact ⟨g, hg, hkey, by rw [hcore]; exact List.getElem?_eq_getElem _, hmember⟩
  case preemption =>
    intro s id c r hfind hregion
    refine ⟨exec_preemptionTaken_waits hfind hregion, fun ks u hlive hasked hslots hu hcount hsettled hregion' => ?_⟩
    exact ⟨_, exec_preemptionTaken_saves hfind hregion hlive hasked hslots hu hcount hsettled hregion', State.saveCluster_leaves ks⟩

end Sys2Proof.Machine
end

section
/-! PROOFS. The issue of one thread whose body names no control: what it sends, and what it changes of the thread's own record (R51, R55 to R57). -/

namespace Sys2Proof.Machine
open Sys2Proof

/-- The value of one thread's result is the function's value for that thread. -/
theorem State.valuesAt_single_congr (s : State) (n : Nat) (d : Opnd) {f g : Nat → Word} (h : f n = g n) :
    s.valuesAt [n] d f = s.valuesAt [n] d g := by
  cases d with
  | v m => simp [State.valuesAt, State.targets, State.dest, h]
  | w m => simp [State.valuesAt, State.targets, h]
  | imm x => rfl
  | p m =>
    simp only [State.valuesAt, State.targets, State.dest]
    split <;> simp_all
  | k m => rfl
  | t m => rfl
  | z m => rfl

section
variable {s : State} {i : Instr} {body : Body} {n : Nat}

/-- One thread's instruction that sends one result at its issue (R55). -/
theorem State.run_solo_sends (h : s.solo i n = true) {d : Opnd} {f : Nat → Word}
    (hb : body (s.countIssue i s.cur.tids) [n] = ((s.countIssue i s.cur.tids).result [n] d f, [])) {l : List (RegRef × Option Word)}
    (hl : s.valuesAt [n] d f = l) : ∃ t, s.run i body = .next t ∧ s.Sends t l ∧ s.OnlyResults t ∧ s.Advances t i := by
  obtain ⟨hclean, hon, -⟩ := s.solo_clean i n h
  obtain ⟨ps, hps, hvals⟩ := (s.countIssue i s.cur.tids).result_sends [n] d f
  obtain ⟨t, hrun, hpend, honly, hadv⟩ := s.run_results i body ps hclean (by rw [hon, hb, hps])
  refine ⟨t, hrun, ⟨ps, hpend, ?_⟩, honly, hadv⟩
  rw [hvals, (State.SameOperands.countIssue s i).valuesAt, hl]

/-- One thread that goes on: after the body nothing but its control changes. -/
theorem State.run_solo_goes_on (h : s.solo i n = true) {u : State} (hb : body (s.countIssue i s.cur.tids) [n] = (u, [])) :
    ∃ g : Thread → Thread, s.run i body = .next (u.afterBody.modThread n g) ∧
      ∀ t, g t = { t.onward u.afterBody i with bundle := (g t).bundle } := by
  obtain ⟨-, -, hcur⟩ := s.solo_clean i n h
  rw [hcur] at hb
  obtain ⟨f, hf, hbundle, hother⟩ := State.splitBundle_eq (u.afterBody.modThread n (Thread.onward u.afterBody i)) [n]
  refine ⟨f ∘ Thread.onward u.afterBody i, ?_, fun t => hbundle _⟩
  rw [State.run_next, s.runBundle_solo i body n h, hb]
  change Host.Outcome.next ((u.afterBody.finish i (s.countIssue i [n]) n .next).splitBundle [n]) = _
  rw [State.finish_next, hf]
  unfold State.modThread
  simp only [State.setThreads, List.map_map]
  refine congrArg (fun ts => Host.Outcome.next (State.setThreads u.afterBody ts)) (List.map_congr_left fun t _ => ?_)
  by_cases ht : t.tid = n
  · simp [ht]
  · simpa [ht] using hother t (by simpa using ht)

/-- One thread that goes on after a body that has changed its records as `f` says. -/
theorem State.run_solo_onlyThread (h : s.solo i n = true) {u : State} {f : Thread → Thread}
    (hb : body (s.countIssue i s.cur.tids) [n] = (u, [])) (hu : s.Remaps u (Thread.onlyAt n f)) {w : Thread}
    (hw : ∀ c, (f (s.thread n)).control c = w.control c) (hwait : (f (s.thread n)).wait = .none) (hpc : (f (s.thread n)).pc = (s.thread n).pc)
    (hloop : (f (s.thread n)).loop = (s.thread n).loop) :
    ∃ t, s.run i body = .next t ∧ t.c.pend = s.c.pend ∧ s.Advances t i ∧ s.OnlyThread t n w := by
  obtain ⟨g, hrun, hg⟩ := State.run_solo_goes_on h hb
  have hctl : ∀ t, g t = t.control (g t) := fun t => by
    rw [hg, Thread.onward_control]
    rfl
  have hmap := hu.control hctl
  refine ⟨_, hrun, hmap.pend, fun k hk hs => ?_, hmap.onlyThread_at (State.solo_isSome h) (by rw [Function.comp_apply, ← hw]; exact hctl _)⟩
  obtain rfl : k = n := by simpa [State.solo_tids h] using hk
  rw [hmap.thread_at hs, Function.comp_apply, hg]
  exact ⟨Thread.onward_park .., (Thread.onward_wait ..).trans hwait, fun hl => (Thread.onward_pc _ _ _ (hloop ▸ hl)).trans (by rw [hpc])⟩

end

/-! ### Faults of the lanes -/

theorem faultsOf_single_none {n : Nat} {f : Nat → Option FaultInfo} (h : f n = none) : faultsOf [n] f = [] := by simp [faultsOf, h]

theorem faultsOf_single_some {n : Nat} {f : Nat → Option FaultInfo} {e : FaultInfo} (h : f n = some e) : faultsOf [n] f = [(n, .fault e)] := by
  simp [faultsOf, h]

theorem filter_single_none {n : Nat} {f : Nat → Option FaultInfo} (h : f n = none) : ([n].filter fun t => (f t).isNone) = [n] := by simp [h]

theorem filter_single_some {n : Nat} {f : Nat → Option FaultInfo} {e : FaultInfo} (h : f n = some e) : ([n].filter fun t => (f t).isNone) = [] := by
  simp [h]

end Sys2Proof.Machine
end

section
/-! PROOFS. O11: the indexed moves (R99). -/

namespace Sys2Proof.Machine
open Sys2Proof

theorem State.indexFault_of_inside {s : State} {n : Nat} {k : Int} (h0 : 0 ≤ k) (hlt : k < (s.thread n).limit) : s.indexFault n k = none :=
  if_neg (by omega)

theorem State.indexFault_of_outside {s : State} {n : Nat} {k : Int} (h : k < 0 ∨ (s.thread n).limit ≤ k) :
    s.indexFault n k = some { flt .regrange with aux := (BitVec.ofInt 64 k).toNat } := if_pos h

theorem State.countIssue_movIndex (s : State) (i : Instr) (n : Nat) (a b : Opnd) :
    (s.countIssue i s.cur.tids).movIndex n a b = (s.opnd n a).toNat + (s.opnd n b).toInt := by
  simp only [State.movIndex, (State.SameOperands.countIssue s i).opnd]

theorem State.countIssue_indexFault (s : State) (i : Instr) (n : Nat) (k : Int) :
    (s.countIssue i s.cur.tids).indexFault n k = s.indexFault n k := by
  simp only [State.indexFault, (State.SameOperands.countIssue s i).limit]

/-- What `movxr` does to its threads. -/
def movxrBody (x : V96A) : Body := fun s ts =>
  (s.result (ts.filter fun t => (s.indexFault t (s.movIndex t x.a x.b)).isNone) x.d fun t => s.readV t (s.movIndex t x.a x.b).toNat,
    faultsOf ts fun t => s.indexFault t (s.movIndex t x.a x.b))

/-- What `movxw` does to its threads. -/
def movxwBody (x : V96A) : Body := fun s ts =>
  ((ts.filter fun t => (s.indexFault t (s.movIndex t x.d x.b)).isNone).foldl
      (fun s1 t => s1.result [t] (.v (BitVec.ofNat 8 (s.movIndex t x.d x.b).toNat)) fun _ => s.opnd t x.a) s,
    faultsOf ts fun t => s.indexFault t (s.movIndex t x.d x.b))

theorem exec_movxr (x : V96A) (s : State) : exec (.movxr x) s = s.run (.movxr x) (movxrBody x) := rfl
theorem exec_movxw (x : V96A) (s : State) : exec (.movxw x) s = s.run (.movxw x) (movxwBody x) := rfl

theorem movxrBody_inside (x : V96A) {s : State} {n : Nat} (h : s.indexFault n (s.movIndex n x.a x.b) = none) :
    movxrBody x s [n] = (s.result [n] x.d fun t => s.readV t (s.movIndex t x.a x.b).toNat, []) := by
  rw [movxrBody, filter_single_none (f := fun t => s.indexFault t (s.movIndex t x.a x.b)) h, faultsOf_single_none h]

theorem movxrBody_outside (x : V96A) {s : State} {n : Nat} {e : FaultInfo} (h : s.indexFault n (s.movIndex n x.a x.b) = some e) :
    movxrBody x s [n] = (s, [(n, .fault e)]) := by
  rw [movxrBody, filter_single_some (f := fun t => s.indexFault t (s.movIndex t x.a x.b)) h, faultsOf_single_some h, State.result_nil]

theorem movxwBody_inside (x : V96A) {s : State} {n : Nat} (h : s.indexFault n (s.movIndex n x.d x.b) = none) :
    movxwBody x s [n] = (s.result [n] (.v (BitVec.ofNat 8 (s.movIndex n x.d x.b).toNat)) fun _ => s.opnd n x.a, []) := by
  rw [movxwBody, filter_single_none (f := fun t => s.indexFault t (s.movIndex t x.d x.b)) h, faultsOf_single_none h]
  rfl

theorem movxwBody_outside (x : V96A) {s : State} {n : Nat} {e : FaultInfo} (h : s.indexFault n (s.movIndex n x.d x.b) = some e) :
    movxwBody x s [n] = (s, [(n, .fault e)]) := by
  rw [movxwBody, filter_single_some (f := fun t => s.indexFault t (s.movIndex t x.d x.b)) h, faultsOf_single_some h]
  rfl

section
variable {x : V96A} {s : State} {n : Nat} {k : Int}

theorem exec_movxr_inside (h : s.solo (.movxr x) n = true) (hk : (s.opnd n x.a).toNat + (s.opnd n x.b).toInt = k) (h0 : 0 ≤ k)
    (hlt : k < (s.thread n).limit) :
    ∃ t, exec (.movxr x) s = .next t ∧ s.Sends t (s.valuesAt [n] x.d fun _ => s.readV n k.toNat) ∧ s.OnlyResults t ∧ s.Advances t (.movxr x) := by
  have hidx := s.countIssue_movIndex (.movxr x) n x.a x.b
  refine State.run_solo_sends h (movxrBody_inside x ?_) (s.valuesAt_single_congr n x.d ?_)
  · rw [hidx, hk, s.countIssue_indexFault, State.indexFault_of_inside h0 hlt]
  · rw [hidx, hk, (State.SameOperands.countIssue s _).readV]

theorem exec_movxw_inside (h : s.solo (.movxw x) n = true) (hk : (s.opnd n x.d).toNat + (s.opnd n x.b).toInt = k) (h0 : 0 ≤ k)
    (hlt : k < (s.thread n).limit) (hlim : (s.thread n).limit ≤ 256) :
    ∃ t, exec (.movxw x) s = .next t ∧ s.Sends t [(.v n ((s.thread n).phys k.toNat), some (s.opnd n x.a))] ∧ s.OnlyResults t ∧
      s.Advances t (.movxw x) := by
  have hidx := s.countIssue_movIndex (.movxw x) n x.d x.b
  have hnum : (BitVec.ofNat 8 k.toNat).toNat = k.toNat := by
    rw [BitVec.toNat_ofNat]
    omega
  refine State.run_solo_sends h (movxwBody_inside x ?_) ?_
  · rw [hidx, hk, s.countIssue_indexFault, State.indexFault_of_inside h0 hlt]
  · rw [hidx, hk, (State.SameOperands.countIssue s _).opnd]
    simp [State.valuesAt, State.targets, State.dest, hnum]

/-- R99: an index outside the thread's registers is a precise fault, and nothing is sent. -/
theorem State.run_solo_index_outside {i : Instr} {body : Body} (h : s.solo i n = true) (hout : k < 0 ∨ (s.thread n).limit ≤ k)
    (hb : ∀ e, (s.countIssue i s.cur.tids).indexFault n k = some e →
      body (s.countIssue i s.cur.tids) [n] = (s.countIssue i s.cur.tids, [(n, .fault e)])) :
    ∃ t, s.run i body = .next t ∧
      s.Raises t n { flt .regrange with aux := (BitVec.ofInt 64 k).toNat, pc := (s.thread n).pc, resume := (s.thread n).pc } :=
  State.run_solo_fault h (hb _ ((s.countIssue_indexFault i n k).trans (State.indexFault_of_outside hout))) (s.onlyResults_countIssue i)
    (s.countIssue_pend i) (s.countIssue_thread_pc i n) (by simp [flt]) (by simp [flt]) rfl

theorem exec_movxr_outside (h : s.solo (.movxr x) n = true) (hk : (s.opnd n x.a).toNat + (s.opnd n x.b).toInt = k)
    (hout : k < 0 ∨ (s.thread n).limit ≤ k) :
    ∃ t, exec (.movxr x) s = .next t ∧
      s.Raises t n { flt .regrange with aux := (BitVec.ofInt 64 k).toNat, pc := (s.thread n).pc, resume := (s.thread n).pc } :=
  State.run_solo_index_outside h hout fun e he => movxrBody_outside x (by rw [s.countIssue_movIndex, hk, he])

theorem exec_movxw_outside (h : s.solo (.movxw x) n = true) (hk : (s.opnd n x.d).toNat + (s.opnd n x.b).toInt = k)
    (hout : k < 0 ∨ (s.thread n).limit ≤ k) :
    ∃ t, exec (.movxw x) s = .next t ∧
      s.Raises t n { flt .regrange with aux := (BitVec.ofInt 64 k).toNat, pc := (s.thread n).pc, resume := (s.thread n).pc } :=
  State.run_solo_index_outside h hout fun e he => movxwBody_outside x (by rw [s.countIssue_movIndex, hk, he])

end

/-- Settles O11: by whether the index, which is exact, lies below the thread's limit. -/
theorem indexedMovesCheckTheIndex : Obligations.IndexedMovesCheckTheIndex := by
  unfold Obligations.IndexedMovesCheckTheIndex
  exact ⟨fun x s n h => ⟨exec_movxr_inside h rfl, exec_movxr_outside h rfl⟩, fun x s n h => ⟨exec_movxw_inside h rfl, exec_movxw_outside h rfl⟩⟩

end Sys2Proof.Machine
end

section
/-! PROOFS. O12: `srd` (R96, R100). -/

namespace Sys2Proof.Machine
open Sys2Proof

/-! ### Neither recording nor replay -/

section
variable {s : State}

/-- With RPL and EN zero, nothing is replayed and nothing is recorded (R459, R461). -/
theorem State.fld_rpctl_off (h : s.fld rRpctl 1 0 = 0) : s.fld rRpctl 1 1 = 0 ∧ s.fld rRpctl 0 0 = 0 := by
  unfold State.fld slice at *
  omega

theorem State.replaying_of_off (h : s.fld rRpctl 1 0 = 0) (a : Nat) : s.replaying a = false := by
  simp [State.replaying, (State.fld_rpctl_off h).1]

theorem State.logged_of_off (h : s.fld rRpctl 1 0 = 0) (n kind : Nat) (v : Word) : s.logged n kind v = v := by
  unfold State.logged
  cases s.regionOf n with
  | none => rfl
  | some r => exact if_neg (by simp [State.replaying_of_off h])

theorem State.logOf_of_off (h : s.fld rRpctl 1 0 = 0) (n kind : Nat) (v : Word) : s.logOf n kind v = s := by
  unfold State.logOf State.orderLog
  cases s.regionOf n with
  | none => rfl
  | some r => simp [State.replaying_of_off h, (State.fld_rpctl_off h).2]

end

/-! ### The values -/

theorem State.countIssue_wgOf (s : State) (i : Instr) (n : Nat) : (s.countIssue i s.cur.tids).wgOf n = s.wgOf n := by
  rw [State.countIssue_eq]
  rfl

/-- The count of an issue leaves every special register (R82). -/
theorem State.countIssue_sreg (s : State) (i : Instr) (n k : Nat) : (s.countIssue i s.cur.tids).sreg n k = s.sreg n k := by
  have hpkg : (s.countIssue i s.cur.tids).b.pkg = s.b.pkg := by rw [State.countIssue_eq]
  unfold State.sreg State.seg
  rw [s.countIssue_wgOf, s.countIssue_clk, hpkg, s.thread_countIssue]
  rfl

/-- R96: the segment registers. -/
theorem State.sreg_seg {s : State} {n k : Nat} {g : Wg} (hg : s.wgOf n = some g) (hlo : 0x10 ≤ k) (hhi : k < 0x20) :
    s.sreg n k = g.segs.getD (k - 0x10) 0 := by
  unfold State.sreg
  split
  case h_16 => rw [if_pos ⟨hlo, hhi⟩, State.seg, hg]
  all_goals omega

/-! ### The instruction -/

/-- What `srd` does to its threads. -/
def srdBody (x : S64A) : Body := fun s ts =>
  let val := fun t => if x.a.num == 0x09 then s.logged t 5 (s.sreg t x.a.num) else s.sreg t x.a.num
  (if x.a.num == 0x09 then (s.targets ts x.d).foldl (fun s1 q => s1.logOf q.1 5 (val q.1)) (s.result ts x.d val) else s.result ts x.d val, [])

theorem exec_srd (x : S64A) (s : State) : exec (.srd x) s = s.run (.srd x) (srdBody x) := rfl

/-- While nothing is recorded or replayed, `srd` only sends the register's value. -/
theorem srdBody_of_off (x : S64A) {s : State} (hoff : s.fld rRpctl 1 0 = 0) (ts : List Nat) :
    srdBody x s ts = (s.result ts x.d fun n => s.sreg n x.a.num, []) := by
  unfold srdBody
  simp only [State.logged_of_off hoff, ite_self]
  rw [foldl_stays _ _ _ fun q _ => State.logOf_of_off (s := s.result ts x.d fun n => s.sreg n x.a.num) hoff q.1 5 _, ite_self]

/-- Two bodies that do the same for the bundle give the same issue. -/
theorem State.run_congr {s : State} {i : Instr} (h : s.clean i = true) {body body' : Body}
    (hb : body (s.countIssue i s.cur.tids) (s.executing i) = body' (s.countIssue i s.cur.tids) (s.executing i)) : s.run i body = s.run i body' := by
  rw [State.run_next, State.run_next, s.runBundle_clean _ _ h, s.runBundle_clean _ _ h, hb]

theorem exec_srd_sends {x : S64A} {s : State} (h : s.clean (.srd x) = true) (hoff : s.fld rRpctl 1 0 = 0) :
    ∃ t, exec (.srd x) s = .next t ∧ s.Computes t (.srd x) x.d fun n w => w = s.sreg n x.a.num := by
  have hoff' : (s.countIssue (.srd x) s.cur.tids).fld rRpctl 1 0 = 0 := (s.countIssue_fld _ _ _ _).trans hoff
  rw [exec_srd, State.run_congr h (body' := resultBody x.d fun s n => s.sreg n x.a.num) (srdBody_of_off x hoff' _)]
  exact s.run_resultBody _ _ _ _ h fun n => s.countIssue_sreg _ n _

theorem State.Computes.mono {s t : State} {i : Instr} {d : Opnd} {P Q : Nat → Word → Prop} (h : s.Computes t i d P) (hPQ : ∀ n w, P n w → Q n w) :
    s.Computes t i d Q := by
  obtain ⟨⟨f, hpend, hf⟩, hrest⟩ := h
  exact ⟨⟨f, hpend, fun q hq => hPQ _ _ (hf q hq)⟩, hrest⟩

/-- Settles O12: with nothing recorded or replayed the result is the special register, and each number of R96 names its value. -/
theorem specialRegisterReads : Obligations.SpecialRegisterReads := by
  unfold Obligations.SpecialRegisterReads
  intro x s h hoff
  obtain ⟨t, hrun, hcomp⟩ := exec_srd_sends h hoff
  refine ⟨t, hrun, hcomp.mono ?_⟩
  rintro n w rfl
  generalize x.a.num = k
  refine ⟨?_, ?slot, ?_, ?_, ?_, ?_, ?_, ?_, ?_, ?_, ?_, ?_, fun g hg => ⟨?wg, ?rank, ?clus, State.sreg_seg hg⟩⟩
  case slot =>
    rintro rfl
    simp [State.sreg, isCtx, partOf, slotOf]
  case wg | rank | clus =>
    rintro rfl
    simp only [State.sreg, hg]
  all_goals
    rintro rfl
    rfl

end Sys2Proof.Machine
end

section
/-! PROOFS. O13: `swr` (R96, R100, R155, R159). -/

namespace Sys2Proof.Machine
open Sys2Proof

/-! ### Special registers of the thread -/

theorem Thread.setSreg_eq (t : Thread) (k : Nat) (v : Word) :
    t.setSreg k v =
      { t with
        tpc := if k = 0x0A then v else t.tpc
        tcause := if k = 0x0B then v else t.tcause
        rseed := if k = 0x0C then v else t.rseed
        olthr := if k = 0x0D then (v.extractLsb' 0 32).zeroExtend 64 else t.olthr } := by
  unfold Thread.setSreg
  split
  case h_5 hA hB hC hD => rw [if_neg hA, if_neg hB, if_neg hC, if_neg hD]
  all_goals rfl

/-- What `swr` does to its threads. -/
def swrBody (x : S64A) : Body := fun s ts =>
  if x.d.num < 0x10 then
    (s.setThreads (s.c.threads.map fun t => if ts.contains t.tid then t.setSreg x.d.num (s.opnd t.tid x.a) else t), [])
  else
    ((ts.filter fun t => (if segValueOk (s.opnd t x.a) then none else some (flt .illegal)).isNone).foldl (fun s1 t =>
        match s.wgOf t with
        | some g => s1.setSeg g.key (x.d.num - 0x10) (s.opnd t x.a)
        | none => s1) s,
      faultsOf ts fun t => if segValueOk (s.opnd t x.a) then none else some (flt .illegal))

theorem exec_swr (x : S64A) (s : State) : exec (.swr x) s = s.run (.swr x) (swrBody x) := rfl

theorem swrBody_thread (x : S64A) (s : State) (n : Nat) (hk : x.d.num < 0x10) :
    swrBody x s [n] = (s.modThread n fun t => t.setSreg x.d.num (s.opnd n x.a), []) := by
  have hmap : (s.c.threads.map fun t => if [n].contains t.tid then t.setSreg x.d.num (s.opnd t.tid x.a) else t) =
      s.c.threads.map fun t => if t.tid == n then t.setSreg x.d.num (s.opnd n x.a) else t := List.map_congr_left fun t _ => by
    by_cases ht : t.tid = n <;> simp [ht]
  rw [swrBody, if_pos hk, hmap]
  rfl

theorem specialRegisterWrites : SpecialRegisterWrites := by
  unfold SpecialRegisterWrites
  intro x s n h hk
  have hb := swrBody_thread x (s.countIssue (.swr x) s.cur.tids) n hk
  rw [(State.SameOperands.countIssue s _).opnd] at hb
  have hset := fun t : Thread => t.setSreg_eq x.d.num (s.opnd n x.a)
  refine State.run_solo_onlyThread h hb ((State.Remaps.countIssue s (.swr x) n (State.solo_tids h)).trans_at (.modThread _ n fun t => by rw [hset]))
    (fun c => ?_) ?_ ?_ ?_ <;> rw [Function.comp_apply, hset] <;> rfl

/-! ### Segment registers of the workgroup -/

theorem swrBody_accepted {x : S64A} {s : State} {n : Nat} {g : Wg} (hk : 0x10 ≤ x.d.num) (hg : s.wgOf n = some g)
    (hok : segValueOk (s.opnd n x.a) = true) : swrBody x s [n] = (s.setSeg g.key (x.d.num - 0x10) (s.opnd n x.a), []) := by
  rw [swrBody, if_neg (by omega), filter_single_none (f := fun t => if segValueOk (s.opnd t x.a) then none else some (flt .illegal)) (if_pos hok),
    faultsOf_single_none (if_pos hok), List.foldl_cons, hg]
  rfl

theorem swrBody_refused {x : S64A} {s : State} {n : Nat} (hk : 0x10 ≤ x.d.num) (hbad : segValueOk (s.opnd n x.a) = false) :
    swrBody x s [n] = (s, [(n, .fault (flt .illegal))]) := by
  have hnot : ¬ segValueOk (s.opnd n x.a) = true := by simp [hbad]
  rw [swrBody, if_neg (by omega), filter_single_some (f := fun t => if segValueOk (s.opnd t x.a) then none else some (flt .illegal)) (if_neg hnot),
    faultsOf_single_some (if_neg hnot)]
  rfl

theorem segmentRegisterWrites : SegmentRegisterWrites := by
  unfold SegmentRegisterWrites
  intro x s n g h hk hg
  have hs := State.SameOperands.countIssue s (.swr x)
  refine ⟨fun hok => ?_, fun hbad => ?_⟩
  · have hb := swrBody_accepted (s := s.countIssue (.swr x) s.cur.tids) hk ((s.countIssue_wgOf _ n).trans hg) (by rw [hs.opnd, hok])
    rw [hs.opnd] at hb
    obtain ⟨t, hrun, heq, -, hadv⟩ := s.run_solo_next _ _ n _ h hb fun k => rfl
    refine ⟨t, hrun, ?_, ?_, ?_, ?_, ?_, ?_, hadv⟩ <;> rw [heq, State.countIssue_eq]
    · simp [State.setSeg]
    all_goals rfl
  · exact State.run_solo_fault h (swrBody_refused hk (by rw [hs.opnd, hbad])) (s.onlyResults_countIssue _) (s.countIssue_pend _)
      (s.countIssue_thread_pc _ n) (by decide) (by decide) rfl

/-- Settles O13: by the register's scope, and by whether R159 accepts the value. -/
theorem specialAndSegmentRegisterWrites : Obligations.SpecialAndSegmentRegisterWrites := by
  unfold Obligations.SpecialAndSegmentRegisterWrites
  exact ⟨specialRegisterWrites, segmentRegisterWrites⟩

end Sys2Proof.Machine
end

section
/-! PROOFS. Calls and returns with resident windows (R101 to R103): the parts of O21 on `call` and `ret`. -/

namespace Sys2Proof.Machine
open Sys2Proof

/-! ### The issue of one thread that leaves with changed records -/

section
variable {s : State} {i : Instr} {body : Body} {n : Nat} {u : State} {f : Thread → Thread}

/-- The thread leaves its bundle after a body that has changed its records as `f` says. -/
theorem State.run_solo_left_onlyThread (h : s.solo i n = true) {c : Ctl} (hb : body (s.countIssue i s.cur.tids) [n] = (u, [(n, c)]))
    (hu : s.Remaps u (Thread.onlyAt n f)) {g : Thread → Thread}
    (hfin : u.afterBody.finish i (s.countIssue i s.cur.tids) n c = u.afterBody.modThread n g) (hctl : ∀ t, g t = t.control (g t))
    (hbundle : ∀ t, (g t).bundle = none) {w : Thread} (hw : ∀ b, (f (s.thread n)).control b = w.control b) :
    ∃ t, s.run i body = .next t ∧ t.c.pend = s.c.pend ∧ s.OnlyThread t n w ∧ t.thread n = g (f (s.thread n)) := by
  have hmap := hu.control hctl
  exact ⟨_, State.run_solo_leaves h hb g hfin hbundle, hmap.pend,
    hmap.onlyThread_at (State.solo_isSome h) (by rw [Function.comp_apply, ← hw]; exact hctl _), hmap.thread_at (State.solo_isSome h)⟩

/-- A jump after a change of the thread's records. -/
theorem State.run_solo_jump_onlyThread (h : s.solo i n = true) {a : Nat} (hb : body (s.countIssue i s.cur.tids) [n] = (u, [(n, .jump a)]))
    (hu : s.Remaps u (Thread.onlyAt n f)) {w : Thread} (hw : ∀ b, (f (s.thread n)).control b = w.control b) :
    ∃ t, s.run i body = .next t ∧ t.c.pend = s.c.pend ∧ s.OnlyThread t n w ∧ (t.thread n).pc = a := by
  have hj := Thread.jumped_eq u.afterBody i a
  obtain ⟨t, hrun, hpend, honly, ht⟩ := State.run_solo_left_onlyThread h hb hu (State.finish_jump ..) (Thread.jumped_control u.afterBody i a)
    (fun t => by rw [hj]; rfl) hw
  exact ⟨t, hrun, hpend, honly, by rw [ht, hj]⟩

/-- A wait at the next instruction after a change of the thread's records. -/
theorem State.run_solo_wait_onlyThread (h : s.solo i n = true) {v : Wait} (hb : body (s.countIssue i s.cur.tids) [n] = (u, [(n, .wait v)]))
    (hu : s.Remaps u (Thread.onlyAt n f)) {w : Thread} (hw : ∀ b, (f (s.thread n)).control b = w.control b) :
    ∃ t, s.run i body = .next t ∧ t.c.pend = s.c.pend ∧ s.OnlyThread t n w ∧ (t.thread n).wait = v := by
  have hv := Thread.waiting_eq u.afterBody i v
  obtain ⟨t, hrun, hpend, honly, ht⟩ := State.run_solo_left_onlyThread h hb hu (State.finish_wait ..) (Thread.waiting_control u.afterBody i v)
    (fun t => by rw [hv]; rfl) hw
  exact ⟨t, hrun, hpend, honly, by rw [ht, hv]⟩

/-- A thread that waits to execute its instruction again, with what it has read (R56). -/
def Thread.held (i : Instr) (snap : List (RegRef × Word)) (w : Wait) (t : Thread) : Thread :=
  { t with wait := w, replay := true, park := i.park && w.completes, snap := snap, bundle := none, age := none }

theorem State.finish_hold (i : Instr) (s s0 : State) (n : Nat) (w : Wait) :
    s.finish i s0 n (.hold w) = s.modThread n (Thread.held i (s0.snapOf i n) w) := rfl

/-- A thread that waits at its instruction: besides its control nothing changes. -/
theorem State.run_solo_hold (h : s.solo i n = true) {w : Wait} (hb : body (s.countIssue i s.cur.tids) [n] = (u, [(n, .hold w)]))
    (hu : s.OnlyResults u) (hpc : (u.thread n).pc = (s.thread n).pc) :
    ∃ t, s.run i body = .next t ∧ t.c.pend = u.c.pend ∧ s.OnlyResults t ∧ (t.thread n).wait = w ∧ (t.thread n).pc = (s.thread n).pc := by
  obtain ⟨t, hrun, hpend, honly, ht⟩ := State.run_solo_left h hb hu _ (State.finish_hold ..) (fun _ => rfl) fun _ => rfl
  exact ⟨t, hrun, hpend, honly, by rw [ht]; rfl, by rw [ht]; exact hpc⟩

end

/-! ### Spills that an instruction starts -/

/-- What `call` and `wflush` share: a thread faults, or waits for its results before `k` windows are spilled, or goes ahead (R102, R105). -/
def spillBody (bad : State → Nat → Option FaultInfo) (k : State → Nat → Nat) (act : State → State → Nat → State) (ctl : State → Nat → Ctl) : Body :=
  fun s ts =>
    let late := ts.filter fun t => (bad s t).isNone && s.spillWaits t (k s t)
    let ok := ts.filter fun t => (bad s t).isNone && !s.spillWaits t (k s t)
    (ok.foldl (act s) s.afterBody, faultsOf ts (bad s) ++ late.map (fun t => (t, .hold .results)) ++ ok.map fun t => (t, ctl s t))

section
variable {bad : State → Nat → Option FaultInfo} {k : State → Nat → Nat} {act : State → State → Nat → State} {ctl : State → Nat → Ctl}
  {s : State} {n : Nat}

theorem spillBody_fault {e : FaultInfo} (h : bad s n = some e) : spillBody bad k act ctl s [n] = (s.afterBody, [(n, .fault e)]) := by
  simp [spillBody, faultsOf, h]

theorem spillBody_waits (h : bad s n = none) (hw : s.spillWaits n (k s n) = true) :
    spillBody bad k act ctl s [n] = (s.afterBody, [(n, .hold .results)]) := by
  simp [spillBody, faultsOf, h, hw]

theorem spillBody_goes_ahead (h : bad s n = none) (hw : s.spillWaits n (k s n) = false) :
    spillBody bad k act ctl s [n] = (act s s.afterBody n, [(n, ctl s n)]) := by
  simp [spillBody, faultsOf, h, hw]

end

/-- The spills of a thread's `k` oldest windows. -/
def State.newSpills (s : State) (n k pc : Nat) : List Spill := (List.range k).map fun j =>
  { off := (s.thread n).win.spo + (((s.thread n).win.res.take j).map Win.bytes).sum, words := s.winWords (s.thread n) j, pc := pc }

/-- A thread whose `k` oldest windows are on their way to the spill area. -/
def Thread.spilling (new : List Spill) (k : Nat) (t : Thread) : Thread :=
  { t with
    spills := t.spills ++ new
    win := { t.win with spo := t.win.spo + ((t.win.res.take k).map Win.bytes).sum, res := t.win.res.drop k } }

theorem State.startSpill_eq (s : State) (n k pc : Nat) : s.startSpill n k pc = s.modThread n (Thread.spilling (s.newSpills n k pc) k) := rfl

/-- A spill of no window changes nothing. -/
theorem State.startSpill_zero (s : State) (n pc : Nat) : s.startSpill n 0 pc = s := by
  rw [State.startSpill_eq]
  refine s.setThreads_map_self _ fun t => ?_
  simp [Thread.spilling, State.newSpills]

theorem State.onlyResults_counted {s : State} {i : Instr} {n : Nat} (h : s.solo i n = true) :
    s.OnlyResults (s.countIssue i s.cur.tids).afterBody :=
  (State.Remaps.countIssue s i n (State.solo_tids h)).afterBody.onlyResults_at (State.solo_tids h) rfl

/-! ### `call` -/

/-- What `call` does to the state for a thread that goes ahead. -/
def callAct (x : M128A) (s s1 : State) (n : Nat) : State :=
  (s1.startSpill n (s.callSpills n x) s.cur.pc).modThread n fun t => s.openRegs (t.push (callFrame n x) (s.cur.pc + 16))

/-- What `call` does to its threads. -/
def callBody (x : M128A) : Body :=
  spillBody (fun s t => s.callFault t x) (fun s t => s.callSpills t x) (callAct x) fun s t => .jump ((s.callTarget t x).getD 0)

theorem exec_call (x : M128A) (s : State) : exec (.call x) s = s.run (.call x) (callBody x) := rfl

theorem callFrame_lane {n : Nat} (h : isCtx n = false) (x : M128A) : callFrame n x = 8 * (x.opx.extractLsb' 0 5).toNat := by simp [callFrame, h]

/-- A frame that fits beside the resident windows spills none (R102). -/
theorem spillCount_of_fits {h free : Nat} {l : List Win} (hfit : (l.map (·.size)).sum + free ≤ h) : spillCount h free l = 0 := by
  cases l with
  | nil => rfl
  | cons w r => exact if_pos hfit

section
variable {s : State} {x : M128A} {n a : Nat}

theorem State.callSpills_of_fits (hctx : isCtx n = false) (hfit : ((s.thread n).win.res.map (·.size)).sum + callFrame n x ≤ (s.thread n).ring) :
    s.callSpills n x = 0 := by
  rw [State.callSpills, hctx]
  exact spillCount_of_fits hfit

theorem State.callTarget_register (hb : x.opx.getLsbD 5 = true) (hlt : (s.opnd n x.a).toNat < 2 ^ 57) (hal : (s.opnd n x.a).toNat % 4 = 0) :
    s.callTarget n x = some (s.opnd n x.a).toNat := by
  rw [State.callTarget, if_pos hb]
  exact if_neg (mt (unfetchable_iff _).1 (by omega))

theorem State.callTarget_relative (hb : x.opx.getLsbD 5 = false) :
    s.callTarget n x = some (BitVec.ofInt 64 (s.cur.pc + 4 * x.i32.toInt)).toNat :=
  if_neg (Bool.eq_false_iff.1 hb)

theorem State.callTarget_eq
    (ha : if x.opx.getLsbD 5 = true then a = (s.opnd n x.a).toNat ∧ a < 2 ^ 57 ∧ a % 4 = 0 else (a : Int) = (s.cur.pc + 4 * x.i32.toInt) % 2 ^ 64) :
    s.callTarget n x = some a := by
  cases hb : x.opx.getLsbD 5 with
  | true =>
    rw [if_pos hb] at ha
    obtain ⟨rfl, hlt, hal⟩ := ha
    exact State.callTarget_register hb hlt hal
  | false =>
    rw [if_neg (Bool.eq_false_iff.1 hb)] at ha
    rw [State.callTarget_relative hb, BitVec.toNat_ofInt]
    congr 1
    omega

theorem State.countIssue_callTarget (i : Instr) : (s.countIssue i s.cur.tids).callTarget n x = s.callTarget n x := by
  unfold State.callTarget
  rw [(State.SameOperands.countIssue s i).opnd, s.countIssue_cur]

theorem State.callFault_of_fits (htarget : s.callTarget n x = some a) (hring : callFrame n x ≤ (s.thread n).ring) (hspills : s.callSpills n x = 0)
    (hspo : (s.thread n).win.spo ≤ (s.thread n).spl) : s.callFault n x = none := by
  simp [State.callFault, htarget, hring, hspills, Thread.spillFits, hspo]

theorem State.callFault_regrange (htarget : s.callTarget n x = some a) (hring : (s.thread n).ring < callFrame n x) :
    s.callFault n x = some (flt .regrange) := by
  simp [State.callFault, htarget, hring]

end

/-! ### The registers of a window that opens (R102) -/

theorem State.openRegs_length (s : State) (t : Thread) : (s.openRegs t).v.length = t.v.length := by simp [State.openRegs]

theorem State.openRegs_getD (s : State) (t : Thread) (k : Nat) :
    (s.openRegs t).v.getD k 0 = t.v.getD k 0 ∨ ((s.openRegs t).v.getD k 0 = 0 ∧ t.inWindow k = true) := by
  by_cases hk : k < t.v.length
  · have hopen : k < (s.openRegs t).v.length := by rwa [s.openRegs_length]
    rw [List.getD_eq_getElem _ _ hopen, List.getD_eq_getElem _ _ hk]
    simp only [State.openRegs, List.getElem_map, List.getElem_zip, List.getElem_range]
    split
    next hz => exact .inr ⟨rfl, (Bool.and_eq_true_iff.1 hz).1⟩
    next => exact .inl rfl
  · left
    rw [List.getD_eq_default _ _ (by rw [s.openRegs_length]; omega), List.getD_eq_default _ _ (by omega)]

/-- The registers of a window that has just been pushed stand in the ring above the window before it (R94). -/
theorem Thread.inWindow_push {t : Thread} {fn radr k : Nat} (h : (t.push fn radr).inWindow k = true) :
    16 ≤ k ∧ (k - 16 + max 1 t.ring - (t.win.b + t.win.f) % max 1 t.ring) % max 1 t.ring < fn := by
  have hring : (t.push fn radr).ring = t.ring := rfl
  simp only [Thread.inWindow, hring, Bool.and_eq_true, decide_eq_true_eq] at h
  rw [show (t.push fn radr).win.b = (t.win.b + t.win.f) % max 1 t.ring from rfl, Nat.mod_mod] at h
  exact h

/-! ### The statement's parts -/

theorem callBody_fault {x : M128A} {s : State} {n : Nat} {e : FaultInfo} (h : s.callFault n x = some e) :
    callBody x s [n] = (s.afterBody, [(n, .fault e)]) := spillBody_fault (bad := fun s t => s.callFault t x) h

theorem callBody_opens {x : M128A} {s : State} {n a : Nat} (hfault : s.callFault n x = none) (hspills : s.callSpills n x = 0)
    (htarget : s.callTarget n x = some a) :
    callBody x s [n] = (s.afterBody.modThread n fun t => s.openRegs (t.push (callFrame n x) (s.cur.pc + 16)), [(n, .jump a)]) := by
  have hw : s.spillWaits n (s.callSpills n x) = false := by simp [State.spillWaits, hspills]
  rw [callBody, spillBody_goes_ahead (bad := fun s t => s.callFault t x) (k := fun s t => s.callSpills t x) hfault hw, callAct, hspills,
    State.startSpill_zero, htarget]
  rfl

section
variable {x : M128A} {s : State} {n a : Nat}

theorem exec_call_opens (h : s.solo (.call x) n = true) (hctx : isCtx n = false) (htarget : s.callTarget n x = some a)
    (hfit : ((s.thread n).win.res.map (·.size)).sum + callFrame n x ≤ (s.thread n).ring) (hspo : (s.thread n).win.spo ≤ (s.thread n).spl) :
    ∃ t v, exec (.call x) s = .next t ∧ t.c.pend = s.c.pend ∧ v.length = (s.thread n).v.length ∧
      (∀ k, v.getD k 0 = (s.thread n).v.getD k 0 ∨ (v.getD k 0 = 0 ∧ 16 ≤ k ∧
        (k - 16 + max 1 (s.thread n).ring - ((s.thread n).win.b + (s.thread n).win.f) % max 1 (s.thread n).ring) % max 1 (s.thread n).ring <
          callFrame n x)) ∧
      s.OnlyThread t n { (s.thread n).push (callFrame n x) (s.cur.pc + 16) with v := v } ∧ (t.thread n).pc = a := by
  have hthread := State.countIssue_thread_at h
  have hspills : (s.countIssue (.call x) s.cur.tids).callSpills n x = 0 := State.callSpills_of_fits hctx (by rw [hthread]; exact hfit)
  have htarget' : (s.countIssue (.call x) s.cur.tids).callTarget n x = some a := (State.countIssue_callTarget _).trans htarget
  have hfault := State.callFault_of_fits htarget' (by rw [hthread]; exact (Nat.le_add_left ..).trans hfit) hspills (by rw [hthread]; exact hspo)
  have hb := callBody_opens hfault hspills htarget'
  rw [s.countIssue_cur] at hb
  obtain ⟨t, hrun, hpend, honly, hpc⟩ := State.run_solo_jump_onlyThread h hb
    (w := (s.countIssue (.call x) s.cur.tids).openRegs ((s.thread n).push (callFrame n x) (s.cur.pc + 16)))
    ((State.Remaps.countIssue s (.call x) n (State.solo_tids h)).afterBody.trans_at (.modThread _ n fun _ => rfl)) fun _ => rfl
  exact ⟨t, ((s.countIssue (.call x) s.cur.tids).openRegs ((s.thread n).push (callFrame n x) (s.cur.pc + 16))).v, (exec_call x s).trans hrun, hpend,
    State.openRegs_length _ _, fun k => (State.openRegs_getD _ _ k).imp_right fun hz => ⟨hz.1, Thread.inWindow_push hz.2⟩, honly, hpc⟩

theorem exec_call_regrange (h : s.solo (.call x) n = true) (htarget : s.callTarget n x = some a) (hring : (s.thread n).ring < callFrame n x) :
    ∃ t, exec (.call x) s = .next t ∧ s.Raises t n { flt .regrange with pc := (s.thread n).pc, resume := (s.thread n).pc } := by
  have hb := callBody_fault (State.callFault_regrange ((State.countIssue_callTarget _).trans htarget)
    (by rw [State.countIssue_thread_at h]; exact hring))
  exact State.run_solo_fault h hb (State.onlyResults_counted h) (s.countIssue_pend _) (s.countIssue_thread_pc _ n) (by decide) (by decide) rfl

end

/-! ### `ret` -/

/-- The address that the tag of the current window holds. -/
def Thread.retAddr (t : Thread) : Nat := match t.win.res.getLast? with | some w => w.radr | none => 0

/-- What `ret` does to its threads. -/
def retBody : Body := fun s ts =>
  let res := ts.filter fun t => decide (2 ≤ (s.thread t).win.res.length) && (s.thread t).win.dep != 0
  (s.setThreads (s.c.threads.map fun t => if res.contains t.tid then t.pop else t),
    ts.map fun t => (t, if (s.thread t).win.dep == 0 then .fault (flt .illegal) else if res.contains t then .jump (s.thread t).retAddr
      else if (s.thread t).spilled then .hold .refill else .hold .spill))

theorem exec_ret (x : S64A) (s : State) : exec (.ret x) s = s.run (.ret x) retBody := rfl

section
variable {x : S64A} {s : State} {n : Nat}

/-- Without a resident caller's window, `ret` changes no record. -/
theorem retBody_stays (h : ¬ (2 ≤ (s.thread n).win.res.length ∧ (s.thread n).win.dep ≠ 0)) :
    retBody s [n] = (s, [(n, if (s.thread n).win.dep == 0 then .fault (flt .illegal)
      else if (s.thread n).spilled then .hold .refill else .hold .spill)]) := by
  have hres : ([n].filter fun t => decide (2 ≤ (s.thread t).win.res.length) && (s.thread t).win.dep != 0) = [] := by simpa using h
  unfold retBody
  rw [hres]
  exact Prod.ext (s.setThreads_map_self _ fun t => rfl) rfl

theorem retBody_pops (hlen : 2 ≤ (s.thread n).win.res.length) (hdep : (s.thread n).win.dep ≠ 0) :
    retBody s [n] = (s.modThread n Thread.pop, [(n, .jump (s.thread n).retAddr)]) := by
  have hres : ([n].filter fun t => decide (2 ≤ (s.thread t).win.res.length) && (s.thread t).win.dep != 0) = [n] := by simp [hlen, hdep]
  unfold retBody State.modThread
  rw [hres]
  simp [hdep]

theorem exec_ret_illegal (h : s.solo (.ret x) n = true) (hdep : (s.thread n).win.dep = 0) :
    ∃ t, exec (.ret x) s = .next t ∧ s.Raises t n { flt .illegal with pc := (s.thread n).pc, resume := (s.thread n).pc } := by
  have hdep' : ((s.countIssue (.ret x) s.cur.tids).thread n).win.dep = 0 := by rw [State.countIssue_thread_at h]; exact hdep
  have hb := retBody_stays (s := s.countIssue (.ret x) s.cur.tids) (n := n) fun hr => hr.2 hdep'
  rw [if_pos (by simpa using hdep')] at hb
  exact State.run_solo_fault h hb (s.onlyResults_countIssue _) (s.countIssue_pend _) (s.countIssue_thread_pc _ n) (by decide) (by decide) rfl

theorem exec_ret_resident (h : s.solo (.ret x) n = true) (pre : List Win) (a b : Win) (hdep : (s.thread n).win.dep ≠ 0)
    (hres : (s.thread n).win.res = pre ++ [a, b]) :
    ∃ t, exec (.ret x) s = .next t ∧ t.c.pend = s.c.pend ∧
      s.OnlyThread t n { s.thread n with
        win := { b := ((s.thread n).win.b + max 1 (s.thread n).ring - a.size % max 1 (s.thread n).ring) % max 1 (s.thread n).ring, f := a.size,
                 dep := (s.thread n).win.dep - 1, spo := (s.thread n).win.spo, res := pre ++ [a] } } ∧ (t.thread n).pc = b.radr := by
  have hthread := State.countIssue_thread_at h
  have hres' : (s.counted (.ret x) (s.thread n)).win.res = (pre ++ [a]) ++ [b] := hres.trans (by simp)
  have hb := retBody_pops (s := s.countIssue (.ret x) s.cur.tids) (n := n) (by rw [hthread, hres']; simp) (by rw [hthread]; exact hdep)
  have hradr : ((s.countIssue (.ret x) s.cur.tids).thread n).retAddr = b.radr := by
    rw [hthread, Thread.retAddr, hres', List.getLast?_concat]
  rw [hradr] at hb
  refine State.run_solo_jump_onlyThread h hb
    ((State.Remaps.countIssue s (.ret x) n (State.solo_tids h)).trans_at (.modThread _ n fun _ => rfl)) fun c => ?_
  rw [Function.comp_apply, Thread.pop, hres', List.dropLast_concat, List.getLast?_concat]
  rfl

theorem exec_ret_refills (h : s.solo (.ret x) n = true) (hdep : (s.thread n).win.dep ≠ 0) (hlen : (s.thread n).win.res.length < 2)
    (hspills : (s.thread n).spills = []) :
    ∃ t, exec (.ret x) s = .next t ∧ t.c.pend = s.c.pend ∧ s.OnlyResults t ∧ (t.thread n).wait = .refill ∧ (t.thread n).pc = (s.thread n).pc := by
  have hthread := State.countIssue_thread_at h
  have hb := retBody_stays (s := s.countIssue (.ret x) s.cur.tids) (n := n) fun hr => by
    rw [hthread] at hr
    exact absurd hlen (not_lt.2 hr.1)
  have hspilled : ((s.countIssue (.ret x) s.cur.tids).thread n).spilled = true := by
    rw [hthread, Thread.spilled, show (s.counted (.ret x) (s.thread n)).spills = [] from hspills]
    rfl
  rw [if_neg (by rw [hthread, beq_iff_eq]; exact hdep), if_pos hspilled] at hb
  obtain ⟨t, hrun, hpend, hrest⟩ := State.run_solo_hold h hb (s.onlyResults_countIssue _) (s.countIssue_thread_pc _ n)
  exact ⟨t, (exec_ret x s).trans hrun, hpend.trans (s.countIssue_pend _), hrest⟩

end

end Sys2Proof.Machine
end

section
/-! PROOFS. O21 is open: `wflush` (R105), and what its part asks of the free choices (R57; log entries 2 and 22). -/

namespace Sys2Proof.Machine
open Sys2Proof

/-! ### The words of a spill -/

theorem State.SameOperands.readPhys {s t : State} (h : s.SameOperands t) (n ph : Nat) : t.readPhys n ph = s.readPhys n ph := by
  unfold State.readPhys
  rw [h.kept, h.pendVals, h.v, h.pick]

theorem State.SameOperands.afterBody {s t : State} (h : s.SameOperands t) : s.afterBody.SameOperands t.afterBody where
  pend := h.pend
  free := congrArg (· + 1) h.free
  warps := h.warps
  regs := h.regs
  snaps := h.snaps

/-- A window's words depend on what its registers read, and on where the windows stand. -/
theorem State.winWords_congr {s t : State} {n : Nat} (hread : ∀ ph, t.readPhys n ph = s.readPhys n ph) (hv : (t.thread n).v = (s.thread n).v)
    (hwin : (t.thread n).win = (s.thread n).win) (j : Nat) : t.winWords (t.thread n) j = s.winWords (s.thread n) j := by
  simp only [State.winWords, Thread.winBase, Thread.ring, hv, hwin, State.thread_tid, hread]

theorem State.afterBody_thread (s : State) (n : Nat) : s.afterBody.thread n = s.thread n := rfl

/-- A register to which no result is on its way reads the same whatever the free choice (R57). -/
theorem State.readPhys_afterBody_of_landed {s : State} {n ph : Nat} (h : s.pendVals (.v n ph) = []) : s.afterBody.readPhys n ph = s.readPhys n ph := by
  have h' : s.afterBody.pendVals (.v n ph) = [] := h
  unfold State.readPhys
  rw [h, h']
  rfl

/-! ### The instruction -/

/-- The windows that `wflush` spills: all but the current one. -/
def Thread.flushes (t : Thread) : Nat := t.win.res.length - 1

/-- What `wflush` does to its threads. -/
def wflushBody : Body :=
  spillBody (fun s t => if (s.thread t).spillFits (s.thread t).flushes then none else some (flt .stackovf)) (fun s t => (s.thread t).flushes)
    (fun s s1 t => s1.startSpill t (s.thread t).flushes s.cur.pc) fun _ _ => .wait .spill

theorem exec_wflush (x : S64A) (s : State) : exec (.wflush x) s = s.run (.wflush x) wflushBody := rfl

theorem wflushBody_waits {s : State} {n : Nat} (hfits : (s.thread n).spillFits (s.thread n).flushes = true)
    (hw : s.spillWaits n (s.thread n).flushes = true) : wflushBody s [n] = (s.afterBody, [(n, .hold .results)]) :=
  spillBody_waits (if_pos hfits) hw

theorem wflushBody_spills {s : State} {n : Nat} (hfits : (s.thread n).spillFits (s.thread n).flushes = true)
    (hw : s.spillWaits n (s.thread n).flushes = false) :
    wflushBody s [n] = (s.afterBody.startSpill n (s.thread n).flushes s.cur.pc, [(n, .wait .spill)]) :=
  spillBody_goes_ahead (if_pos hfits) hw

section
variable {x : S64A} {s : State} {n : Nat}

/-- R105: the windows but the current one are spilled with the words that they read when the free counter has moved on by one, or `wflush` waits for
results first. -/
theorem exec_wflush_spills_or_waits (h : s.solo (.wflush x) n = true) (hfits : (s.thread n).spillFits (s.thread n).flushes = true) :
    ∃ t, exec (.wflush x) s = .next t ∧ t.c.pend = s.c.pend ∧
      ((s.OnlyThread t n ((s.thread n).spilling (s.afterBody.newSpills n (s.thread n).flushes s.cur.pc) (s.thread n).flushes) ∧
          (t.thread n).wait = .spill) ∨
        ((s.thread n).flushes ≠ 0 ∧ s.owes n = true ∧ s.OnlyResults t ∧ (t.thread n).wait = .results ∧ (t.thread n).pc = (s.thread n).pc)) := by
  obtain ⟨c, hc⟩ : ∃ c, c = s.countIssue (.wflush x) s.cur.tids := ⟨_, rfl⟩
  have hcount : s.Remaps c (Thread.onlyAt n (s.counted (.wflush x))) := hc ▸ State.Remaps.countIssue s _ n (State.solo_tids h)
  have hthread : c.thread n = s.counted (.wflush x) (s.thread n) := hcount.thread_at (State.solo_isSome h)
  have hk : (c.thread n).flushes = (s.thread n).flushes := by rw [hthread]; rfl
  have hfits' : (c.thread n).spillFits (c.thread n).flushes = true := by rw [hk, hthread]; exact hfits
  cases hw : c.spillWaits n (c.thread n).flushes with
  | true =>
    have hb := wflushBody_waits hfits' hw
    rw [hc] at hb
    obtain ⟨t, hrun, hpend, hrest⟩ := State.run_solo_hold h hb (State.onlyResults_counted h) (s.countIssue_thread_pc _ n)
    simp only [State.spillWaits, Bool.and_eq_true, bne_iff_ne, hcount.owes, hk] at hw
    obtain ⟨⟨hsome, howes⟩, -⟩ := hw
    exact ⟨t, (exec_wflush x s).trans hrun, hpend.trans (s.countIssue_pend _), .inr ⟨hsome, howes, hrest⟩⟩
  | false =>
    have hb := wflushBody_spills hfits' hw
    have hsame : s.afterBody.SameOperands c.afterBody := hc ▸ (State.SameOperands.countIssue s (.wflush x)).afterBody
    have hnew : c.afterBody.newSpills n (s.thread n).flushes s.cur.pc = s.afterBody.newSpills n (s.thread n).flushes s.cur.pc := by
      unfold State.newSpills
      rw [hsame.win]
      simp only [State.winWords_congr (hsame.readPhys n) (hsame.v n) (hsame.win n)]
    rw [hk, State.startSpill_eq, show c.cur = s.cur by rw [hc, State.countIssue_cur], hnew, hc] at hb
    rw [hc] at hcount
    obtain ⟨t, hrun, hpend, honly, hwait⟩ := State.run_solo_wait_onlyThread h hb (hcount.afterBody.trans_at (.modThread _ n fun _ => rfl)) fun _ => rfl
    exact ⟨t, (exec_wflush x s).trans hrun, hpend, .inl ⟨honly, hwait⟩⟩

/-- R105: where the registers read the same after the free counter has moved on, the words are those at issue. -/
theorem exec_wflush_spills_of_reads (h : s.solo (.wflush x) n = true) (hfits : (s.thread n).spillFits (s.thread n).flushes = true)
    (hread : ∀ ph, s.afterBody.readPhys n ph = s.readPhys n ph) :
    ∃ t, exec (.wflush x) s = .next t ∧ t.c.pend = s.c.pend ∧
      ((s.OnlyThread t n ((s.thread n).spilling (s.newSpills n (s.thread n).flushes s.cur.pc) (s.thread n).flushes) ∧ (t.thread n).wait = .spill) ∨
        ((s.thread n).flushes ≠ 0 ∧ s.owes n = true ∧ s.OnlyResults t ∧ (t.thread n).wait = .results ∧ (t.thread n).pc = (s.thread n).pc)) := by
  have hnew : s.afterBody.newSpills n (s.thread n).flushes s.cur.pc = s.newSpills n (s.thread n).flushes s.cur.pc := by
    unfold State.newSpills
    simp only [State.winWords_congr (s := s) hread rfl rfl]
    rfl
  rw [← hnew]
  exact exec_wflush_spills_or_waits h hfits

/-- R105: with no result on its way to a `v` register of the thread, `wflush` starts the spills. -/
theorem exec_wflush_spills_of_landed (h : s.solo (.wflush x) n = true) (hfits : (s.thread n).spillFits (s.thread n).flushes = true)
    (hlanded : ∀ ph, s.pendVals (.v n ph) = []) (howes : s.owes n = false) :
    ∃ t, exec (.wflush x) s = .next t ∧ t.c.pend = s.c.pend ∧
      s.OnlyThread t n ((s.thread n).spilling (s.newSpills n (s.thread n).flushes s.cur.pc) (s.thread n).flushes) ∧ (t.thread n).wait = .spill := by
  obtain ⟨t, hrun, hpend, hspills | ⟨-, howes', -⟩⟩ :=
    exec_wflush_spills_of_reads h hfits fun ph => State.readPhys_afterBody_of_landed (hlanded ph)
  · exact ⟨t, hrun, hpend, hspills⟩
  · rw [howes] at howes'
    cases howes'

end

/-! ### What the statement asks of the free choices -/

/-- The statement holds if the free-choice counter's step changes no choice, which nothing in Lean proves or refutes (log entry 2): every other clause of
it stands without that. -/
theorem callsAndReturns_of_choice_kept (hkept : ∀ f a k, Config.freeChoice (f + 1) a k = Config.freeChoice f a k) : Obligations.CallsAndReturns := by
  have hread : ∀ (s : State) (n ph : Nat), s.afterBody.readPhys n ph = s.readPhys n ph := fun s n ph => by
    have hpick : ∀ a k l, s.afterBody.pick a k l = s.pick a k l := fun a k l => by
      unfold State.pick State.afterBody
      simp only [hkept]
    unfold State.readPhys
    rw [hpick]
    rfl
  unfold Obligations.CallsAndReturns
  refine ⟨?opens, ?regrange, fun x s n h => ⟨exec_ret_illegal h, exec_ret_resident h, exec_ret_refills h⟩,
    fun x s n h hfits => exec_wflush_spills_of_reads h (decide_eq_true hfits) (hread s n)⟩
  case opens =>
    intro x s n a h hctx ha th fn b hfit hspo
    have hframe := callFrame_lane hctx x
    have hopens := exec_call_opens h hctx (State.callTarget_eq ha) (by rw [hframe]; exact hfit) hspo
    rw [hframe] at hopens
    exact hopens
  case regrange =>
    intro x s n h hctx hrel th fn hring
    exact exec_call_regrange h (State.callTarget_relative hrel) (by rw [callFrame_lane hctx]; exact hring)

/-- A `wflush` without a guard. -/
def plainFlush : S64A := { park := false, d := .v 0, a := .v 0, b := .v 0, g := Guard.always, i16 := 0 }

/-- One thread with two resident windows before a `wflush`, while the result 2 is on its way to the first register of the older one. -/
def racingFlush : State :=
  let s := State.reset.placed 0 0
  { s with
    agenda := [], cur := { unit := 0, tids := [0], pc := placedPc }
    c := { s.c with
      threads := s.c.threads.map fun t =>
        { t with spl := 0x10000, win := { b := 8, f := 8, dep := 1, spo := 0, res := [{ size := 8, radr := 0 }, { size := 8, radr := 0 }] } }
      pend := [{ dst := .v 0 16, val := some 2, owners := [], pc := 0, opd := 0 }] } }

theorem racingFlush_solo : racingFlush.solo (.wflush plainFlush) 0 = true := by decide +kernel
theorem racingFlush_fits : (racingFlush.thread 0).spillFits (racingFlush.thread 0).flushes = true := by decide +kernel
theorem racingFlush_owes : racingFlush.owes 0 = false := by decide +kernel

/-- The first word of a spill is the first register of the oldest window (R101). -/
theorem State.newSpills_first_word {s : State} {n k pc size radr : Nat} {rest : List Win}
    (hres : (s.thread n).win.res = { size := size + 1, radr := radr } :: rest) :
    ((s.newSpills n (k + 1) pc).flatMap (·.words)).headD 0 = s.readPhys n (16 + (s.thread n).winBase 0 % max 1 (s.thread n).ring) := by
  simp [State.newSpills, State.winWords, hres, List.range_succ_eq_map, s.thread_tid]

theorem racingFlush_res : (racingFlush.thread 0).win.res = [{ size := 8, radr := 0 }, { size := 8, radr := 0 }] := by decide +kernel
theorem racingFlush_base : 16 + (racingFlush.thread 0).winBase 0 % max 1 (racingFlush.thread 0).ring = 16 := by decide +kernel

/-- The two values that R57 lists for the register. -/
theorem racingFlush_read : racingFlush.readPhys 0 16 = [0, 2].getD (Config.freeChoice 0 0 16 % 2) 0 := by rfl
theorem racingFlush_read_after : racingFlush.afterBody.readPhys 0 16 = [0, 2].getD (Config.freeChoice 1 0 16 % 2) 0 := by rfl

theorem racingFlush_words_toNat (c : Nat) : (([0, 2] : List Word).getD (c % 2) 0).toNat = 2 * (c % 2) := by
  rcases Nat.mod_two_eq_zero_or_one c with hc | hc <;> rw [hc] <;> rfl

/-- `wflush` reads the windows after it has advanced the free-choice counter, and the statement names the words at issue: with a result on its way to a
register of a window, it needs two values of `Config.freeChoice` to agree, which nothing in Lean proves or refutes (log entry 2). -/
theorem CallsAndReturns.freeChoice_agrees (h : Obligations.CallsAndReturns) : Config.freeChoice 0 0 16 % 2 = Config.freeChoice 1 0 16 % 2 := by
  obtain ⟨-, -, -, hflush⟩ := h
  obtain ⟨t, ht, -, ⟨⟨-, hstated, -⟩, -⟩ | ⟨-, howes, -⟩⟩ :=
    hflush plainFlush racingFlush 0 racingFlush_solo (of_decide_eq_true racingFlush_fits)
  case inr => rw [racingFlush_owes] at howes; cases howes
  obtain ⟨t', ht', -, ⟨⟨-, hmodel, -⟩, -⟩ | ⟨-, howes, -⟩⟩ := exec_wflush_spills_or_waits racingFlush_solo racingFlush_fits
  case inr => rw [racingFlush_owes] at howes; cases howes
  obtain rfl : t = t' := Host.Outcome.next.inj (ht.symm.trans ht')
  have hspills : racingFlush.newSpills 0 1 placedPc = racingFlush.afterBody.newSpills 0 1 placedPc :=
    List.append_cancel_left ((congrArg Thread.spills hstated).symm.trans (congrArg Thread.spills hmodel))
  have hwords := congrArg (fun l : List Spill => (l.flatMap (·.words)).headD 0) hspills
  rw [State.newSpills_first_word racingFlush_res, State.newSpills_first_word ((racingFlush.afterBody_thread 0).symm ▸ racingFlush_res),
    State.afterBody_thread, racingFlush_base, racingFlush_read, racingFlush_read_after] at hwords
  have hchoices := congrArg BitVec.toNat hwords
  rw [racingFlush_words_toNat, racingFlush_words_toNat] at hchoices
  omega

end Sys2Proof.Machine
end

section
/-! PROOFS. Results of the lane instructions, sub-element by sub-element (R111): what the body reads is what the state at issue holds, and a source of an
integer type is below 2^w. -/

namespace Sys2Proof.Machine
open Sys2Proof

/-! ### What the body of an issue reads -/

@[simp] theorem State.countIssue_opnd (s : State) (i : Instr) (n : Nat) (o : Opnd) : (s.countIssue i s.cur.tids).opnd n o = s.opnd n o :=
  (State.SameOperands.countIssue s i).opnd n o
@[simp] theorem State.countIssue_readP (s : State) (i : Instr) (n k : Nat) : (s.countIssue i s.cur.tids).readP n k = s.readP n k :=
  (State.SameOperands.countIssue s i).readP n k
@[simp] theorem State.countIssue_el (s : State) (i : Instr) (n : Nat) (ty : Ty) (o : Opnd) (e : Nat) :
    (s.countIssue i s.cur.tids).el n ty o e = s.el n ty o e :=
  (State.SameOperands.countIssue s i).el n ty o e

theorem State.clean_wf {s : State} {i : Instr} (h : s.clean i = true) : i.wfIn (s.cur.unit % 5 == 4) = true := by
  unfold State.clean at h
  simp only [Bool.and_eq_true] at h
  exact h.1.1

/-- A source of an integer type, or of none, is below 2^w. -/
theorem State.el_lt {ty : Ty} (h : ty.isFloat = false) (s : State) (n : Nat) (o : Opnd) (e : Nat) : s.el n ty o e < 2 ^ ty.width := by
  unfold State.el srcEl
  split
  · rw [h, if_neg Bool.false_ne_true]
    exact BitVec.isLt _
  · exact subEl_lt _ _ _

theorem Ty.isFloat_of_isInt {ty : Ty} (h : ty.isInt = true) : ty.isFloat = false := by
  revert h
  cases ty <;> decide

theorem subEl_mod (ty : Ty) (w : Word) (e : Nat) : subEl ty w e % 2 ^ ty.width = subEl ty w e := Nat.mod_eq_of_lt (subEl_lt ty w e)

/-! ### One result from the sub-elements of the sources -/

theorem PerElement.of_sources {mk : V96A → Instr} {P : V96A → Nat → Nat → Nat → Nat → Nat → Prop} {f : V96A → Nat → Nat → Nat → Nat → Nat}
    (hexec : ∀ x s, exec (mk x) s = s.run (mk x) (body4 x (f x)))
    (hP : ∀ (x : V96A) (s : State), s.clean (mk x) = true → ∀ n e,
      P x (s.el n x.ty x.a e) (s.el n x.ty x.b e) (s.el n x.ty x.c e) (s.el n x.ty x.e e)
        (f x (s.el n x.ty x.a e) (s.el n x.ty x.b e) (s.el n x.ty x.c e) (s.el n x.ty x.e e) % 2 ^ x.ty.width)) :
    PerElement mk P := by
  intro x s h
  rw [hexec]
  refine s.run_resultBody _ _ _ _ h fun n e he => ?_
  simp only [State.countIssue_el]
  rw [subEl_mapEl _ _ _ he]
  exact hP x s h n e

/-- A result that is right for all sources. -/
theorem PerElement.of_all {mk : V96A → Instr} {P : V96A → Nat → Nat → Nat → Nat → Nat → Prop} {f : V96A → Nat → Nat → Nat → Nat → Nat}
    (hexec : ∀ x s, exec (mk x) s = s.run (mk x) (body4 x (f x))) (hP : ∀ x a b c d, P x a b c d (f x a b c d % 2 ^ x.ty.width)) :
    PerElement mk P :=
  .of_sources hexec fun x _ _ _ _ => hP x _ _ _ _

theorem PerElementImm.of_all {mk : M128A → Instr} {P : M128A → Nat → Nat → Nat → Prop} {f : M128A → Nat → Nat → Nat}
    (hexec : ∀ x s, exec (mk x) s = s.run (mk x) (bodyI x (f x))) (hP : ∀ x a b, P x a b (f x a b % 2 ^ x.ty.width)) : PerElementImm mk P := by
  intro x s h
  rw [hexec]
  refine s.run_resultBody _ _ _ _ h fun n e he => ?_
  simp only [State.countIssue_el]
  rw [subEl_mapEl _ _ _ he]
  exact hP x _ _

/-! ### Exact integer results -/

theorem intRes_mod_spec (t : Ty) (sat : Bool) (r : Int) : IntResult t sat r (intRes t sat r % 2 ^ t.width) := by
  rw [Nat.mod_eq_of_lt (intRes_lt t sat r)]
  exact intRes_spec t sat r

/-- A result inside the range of the type is exact. -/
theorem intRes_mod_exact (t : Ty) {r : Int} (h : intLo t ≤ r ∧ r ≤ intHi t) :
    intRes t false r % 2 ^ t.width < 2 ^ t.width ∧ intVal t (intRes t false r % 2 ^ t.width) = r := by
  rw [Nat.mod_eq_of_lt (intRes_lt t false r)]
  exact ⟨intRes_lt t false r, intVal_ofInt t r h⟩

theorem intVal_mem (t : Ty) (c : Nat) : intLo t ≤ intVal t c ∧ intVal t c ≤ intHi t := by
  unfold intLo intHi intVal
  cases hs : t.signed
  · have := Nat.mod_lt c (show 0 < 2 ^ t.width by positivity)
    simp only [Bool.false_eq_true, if_false]
    omega
  · have hlo := (BitVec.ofNat t.width c).le_toInt
    have hhi := (BitVec.ofNat t.width c).toInt_lt
    simp only [if_true]
    push_cast
    omega

/-- The high half of a product of two sub-elements is inside the range of the type. -/
theorem intVal_mulh_mem (t : Ty) (a b : Nat) :
    intLo t ≤ intVal t a * intVal t b / (2 ^ t.width : Nat) ∧ intVal t a * intVal t b / (2 ^ t.width : Nat) ≤ intHi t := by
  obtain ⟨hla, hha⟩ := intVal_mem t a
  obtain ⟨hlb, hhb⟩ := intVal_mem t b
  generalize intVal t a = x at *
  generalize intVal t b = y at *
  cases hs : t.signed <;> simp only [intLo, intHi, hs, if_true, Bool.false_eq_true, if_false] at *
  · have hpos : (0 : Int) < (2 ^ t.width : Nat) := by positivity
    have hxy : x * y ≤ ((2 ^ t.width : Nat) - 1) * (2 ^ t.width : Nat) :=
      (mul_le_mul hha hhb hlb (hla.trans hha)).trans (mul_le_mul_of_nonneg_left (by omega) (by omega))
    exact ⟨Int.ediv_nonneg (mul_nonneg hla hlb) hpos.le, Int.ediv_le_of_le_mul hpos hxy⟩
  · have hw : (2 ^ t.width : Nat) = 2 * 2 ^ (t.width - 1) := by rw [← pow_succ']; congr 1; have := Ty.width_pos t; omega
    rw [hw]
    have hm : (0 : Int) < (2 ^ (t.width - 1) : Nat) := by positivity
    generalize ((2 ^ (t.width - 1) : Nat)) = m at *
    have habs : |x * y| ≤ (m : Int) * m := by
      rw [abs_mul]
      exact mul_le_mul (abs_le.2 ⟨hla, by omega⟩) (abs_le.2 ⟨hlb, by omega⟩) (abs_nonneg _) hm.le
    obtain ⟨h1, h2⟩ := abs_le.1 habs
    have hmm : (m : Int) * m < m * (2 * m : Nat) := by push_cast; nlinarith
    have hpos : (0 : Int) < (2 * m : Nat) := by push_cast; omega
    exact ⟨Int.le_ediv_of_mul_le hpos (by linarith), Int.le_sub_one_of_lt (Int.ediv_lt_of_lt_mul hpos (h2.trans_lt hmm))⟩

/-- The smaller and the larger of two sub-elements are inside the range of the type. -/
theorem intRes_min_mod (t : Ty) (a b : Nat) :
    elMin t a b % 2 ^ t.width < 2 ^ t.width ∧ intVal t (elMin t a b % 2 ^ t.width) = if intVal t a ≤ intVal t b then intVal t a else intVal t b := by
  rw [← min_def]
  exact intRes_mod_exact t ⟨le_min (intVal_mem t a).1 (intVal_mem t b).1, min_le_of_left_le (intVal_mem t a).2⟩
theorem intRes_max_mod (t : Ty) (a b : Nat) :
    elMax t a b % 2 ^ t.width < 2 ^ t.width ∧ intVal t (elMax t a b % 2 ^ t.width) = if intVal t a ≤ intVal t b then intVal t b else intVal t a := by
  rw [← max_def]
  exact intRes_mod_exact t ⟨le_max_of_le_left (intVal_mem t a).1, max_le (intVal_mem t a).2 (intVal_mem t b).2⟩

theorem elAbs_mod (t : Ty) (sat : Bool) (a : Nat) :
    IntResult t sat (if intVal t a < 0 then -intVal t a else intVal t a) (elAbs t sat a % 2 ^ t.width) := by
  have habs : |intVal t a| = if intVal t a < 0 then -intVal t a else intVal t a := by
    split
    case isTrue h => exact abs_of_neg h
    case isFalse h => exact abs_of_nonneg (not_lt.1 h)
  rw [← habs]
  exact intRes_mod_spec t sat _

/-- Settles O1: each result is `intRes` of the exact value, or of one inside the range of the type. -/
theorem integerArithmeticIsExact : Obligations.IntegerArithmeticIsExact := by
  unfold Obligations.IntegerArithmeticIsExact
  refine ⟨?add, ?sub, ?mul, ?mad, ?mulh, ?min, ?max, ?abs, ?neg, ?addI, ?subI, ?mulI, ?minI, ?maxI⟩
  case add => exact .of_all (f := fun x a b _ _ => elAdd x.ty (x.sat == .sat) a b) (fun _ _ => rfl) fun _ _ _ _ _ => intRes_mod_spec _ _ _
  case sub => exact .of_all (f := fun x a b _ _ => elSub x.ty (x.sat == .sat) a b) (fun _ _ => rfl) fun _ _ _ _ _ => intRes_mod_spec _ _ _
  case mul => exact .of_all (f := fun x a b _ _ => elMul x.ty (x.sat == .sat) a b) (fun _ _ => rfl) fun _ _ _ _ _ => intRes_mod_spec _ _ _
  case mad => exact .of_all (f := fun x a b c _ => elMad x.ty (x.sat == .sat) a b c) (fun _ _ => rfl) fun _ _ _ _ _ => intRes_mod_spec _ _ _
  case mulh => exact .of_all (f := fun x a b _ _ => elMulh x.ty a b) (fun _ _ => rfl) fun x a b _ _ => intRes_mod_exact _ (intVal_mulh_mem _ a b)
  case min => exact .of_all (f := fun x a b _ _ => elMin x.ty a b) (fun _ _ => rfl) fun x a b _ _ => intRes_min_mod _ a b
  case max => exact .of_all (f := fun x a b _ _ => elMax x.ty a b) (fun _ _ => rfl) fun x a b _ _ => intRes_max_mod _ a b
  case abs => exact .of_all (f := fun x a _ _ _ => elAbs x.ty (x.sat == .sat) a) (fun _ _ => rfl) fun x a _ _ _ => elAbs_mod _ _ a
  case neg => exact .of_all (f := fun x a _ _ _ => elNeg x.ty (x.sat == .sat) a) (fun _ _ => rfl) fun _ _ _ _ _ => intRes_mod_spec _ _ _
  case addI => exact .of_all (f := fun x => elAdd x.ty (x.sat == .sat)) (fun _ _ => rfl) fun _ _ _ => intRes_mod_spec _ _ _
  case subI => exact .of_all (f := fun x => elSub x.ty (x.sat == .sat)) (fun _ _ => rfl) fun _ _ _ => intRes_mod_spec _ _ _
  case mulI => exact .of_all (f := fun x => elMul x.ty (x.sat == .sat)) (fun _ _ => rfl) fun _ _ _ => intRes_mod_spec _ _ _
  case minI => exact .of_all (f := fun x => elMin x.ty) (fun _ _ => rfl) fun x a b => intRes_min_mod _ a b
  case maxI => exact .of_all (f := fun x => elMax x.ty) (fun _ _ => rfl) fun x a b => intRes_max_mod _ a b

end Sys2Proof.Machine
end

section
/-! PROOFS. Shifts, rotates, bit counts and bit fields of one sub-element, bit by bit (R115, R116). -/

namespace Sys2Proof.Machine
open Sys2Proof

/-! ### Shifts and rotates -/

theorem elShr_testBit {w a : Nat} (ha : a < 2 ^ w) (n k : Nat) : (elShr w a n % 2 ^ w).testBit k = (decide (n < w) && a.testBit (k + n)) := by
  unfold elShr
  split
  case isTrue h =>
    rw [Nat.mod_eq_of_lt ((Nat.div_le_self a _).trans_lt ha), Nat.testBit_div_two_pow, decide_eq_true h, Bool.true_and]
  case isFalse h => rw [Nat.zero_mod, Nat.zero_testBit, decide_eq_false h, Bool.false_and]

/-- The arithmetic shift is that of the bit vector. -/
theorem elSar_eq (w a n : Nat) : elSar w a n = ((BitVec.ofNat w a).sshiftRight (min n w)).toNat := by
  unfold elSar
  congr 1
  apply BitVec.eq_of_toInt_eq
  rw [← Int.shiftRight_eq_div_pow, ← BitVec.toInt_sshiftRight, BitVec.ofInt_toInt]

theorem elSar_testBit {w k : Nat} (hk : k < w) (a n : Nat) : (elSar w a n).testBit k = a.testBit (if k + n < w then k + n else w - 1) := by
  rw [elSar_eq, BitVec.testBit_toNat, BitVec.getLsbD_sshiftRight, decide_eq_false (not_le.2 hk), Bool.not_false, Bool.true_and]
  rcases Nat.lt_or_ge (k + n) w with hlt | hge
  · rw [if_pos hlt, if_pos (by omega), BitVec.getLsbD_ofNat, decide_eq_true (by omega), Bool.true_and]
    congr 1
    omega
  · rw [if_neg (not_lt.2 hge), if_neg (by omega), BitVec.msb_eq_getLsbD_last, BitVec.getLsbD_ofNat, decide_eq_true (by omega), Bool.true_and]

theorem elRol_testBit {w a k : Nat} (ha : a < 2 ^ w) (hk : k < w) (n : Nat) : (elRol w a n).testBit ((k + n) % w) = a.testBit k := by
  have hr : n % w < w := Nat.mod_lt n (by omega)
  have hkn : (k + n) % w = if k + n % w < w then k + n % w else k + n % w - w := by
    rw [Nat.add_mod, Nat.mod_eq_of_lt hk]
    split
    · exact Nat.mod_eq_of_lt ‹_›
    · rw [Nat.mod_eq_sub_mod (by omega), Nat.mod_eq_of_lt (by omega)]
  have hhigh : a / 2 ^ (w - n % w) < 2 ^ (n % w) := by
    rw [Nat.div_lt_iff_lt_mul (by positivity), ← Nat.pow_add, Nat.add_sub_cancel' hr.le]
    exact ha
  unfold elRol
  dsimp only
  generalize n % w = r at *
  rw [Nat.testBit_mod_two_pow, decide_eq_true (Nat.mod_lt _ (by omega)), Bool.true_and, Nat.mul_comm a, Nat.testBit_two_pow_mul_add a hhigh, hkn]
  rcases Nat.lt_or_ge (k + r) w with hlt | hge
  · rw [if_pos hlt, if_neg (by omega), Nat.add_sub_cancel]
  · rw [if_neg (not_lt.2 hge), if_pos (by omega), Nat.testBit_div_two_pow]
    congr 1
    omega

/-! ### Bit counts and reversal -/

theorem elClz_le (w a : Nat) : elClz w a ≤ w := by unfold elClz; split <;> omega

theorem elClz_spec {w a : Nat} (ha : a < 2 ^ w) :
    a < 2 ^ (w - elClz w a) ∧ (a ≠ 0 → 2 ^ (w - elClz w a - 1) ≤ a ∧ elClz w a < w) := by
  by_cases h0 : a = 0
  · exact ⟨by rw [h0]; positivity, fun h => absurd h0 h⟩
  · have hlog : a.log2 < w := (Nat.log2_lt h0).2 ha
    have hclz : elClz w a = w - 1 - a.log2 := by simp [elClz, h0]
    refine ⟨?_, fun _ => ⟨?_, by omega⟩⟩
    · rw [← Nat.log2_lt h0]
      omega
    · rw [show w - elClz w a - 1 = a.log2 by omega]
      exact Nat.log2_self_le h0

theorem elPopc_eq (w a : Nat) : elPopc w a = ((List.range w).filter fun k => a.testBit k).length := by
  rw [elPopc, bitsOf, List.countP_map, List.countP_eq_length_filter]
  rfl

theorem elPopc_le (w a : Nat) : elPopc w a ≤ w := by
  rw [elPopc_eq]
  exact (List.length_filter_le _ _).trans_eq List.length_range

theorem ofBits_lt (l : List Bool) : ofBits l < 2 ^ l.length := by
  induction l with
  | nil => exact Nat.one_pos
  | cons b r ih => rw [ofBits, List.length_cons, Nat.pow_succ]; split <;> omega

theorem ofBits_testBit (l : List Bool) : ∀ k, (ofBits l).testBit k = l.getD k false := by
  induction l with
  | nil => intro k; rw [ofBits, Nat.zero_testBit, List.getD_nil]
  | cons b r ih =>
    rintro (_ | k)
    · rw [ofBits, Nat.testBit_zero, List.getD_cons_zero]
      cases b <;> simp
    · rw [Nat.testBit_succ, List.getD_cons_succ, ← ih k, ofBits]
      congr 1
      split <;> omega

theorem bitsOf_reverse_length (w a : Nat) : (bitsOf w a).reverse.length = w := by simp [bitsOf]

theorem elBrev_testBit {w k : Nat} (hk : k < w) (a : Nat) : (elBrev w a).testBit k = a.testBit (w - 1 - k) := by
  rw [elBrev, ofBits_testBit, List.getD_eq_getElem _ _ (by rw [bitsOf_reverse_length]; exact hk)]
  simp [bitsOf]

/-! ### Bit fields -/

/-- Bit j of a sub-element that is extended to 128 bits by its type. -/
theorem extended_testBit (t : Ty) (a : Nat) {j : Nat} (hj : j < 128) :
    (if t.signed then (BitVec.ofNat t.width a).signExtend 128 else (BitVec.ofNat t.width a).zeroExtend 128).toNat.testBit j =
      if j < t.width then a.testBit j else t.signed && a.testBit (t.width - 1) := by
  have hpos := Ty.width_pos t
  rw [BitVec.testBit_toNat]
  cases t.signed
  · rw [if_neg Bool.false_ne_true, BitVec.zeroExtend, BitVec.getLsbD_setWidth, decide_eq_true hj, Bool.true_and, BitVec.getLsbD_ofNat]
    by_cases h : j < t.width <;> simp [h]
  · rw [if_pos rfl, BitVec.getLsbD_signExtend, decide_eq_true hj, Bool.true_and, BitVec.msb_eq_getLsbD_last, BitVec.getLsbD_ofNat, BitVec.getLsbD_ofNat,
      decide_eq_true (show t.width - 1 < t.width by omega)]
    by_cases h : j < t.width <;> simp [h]

theorem elBfx_testBit (t : Ty) (a b c : Nat) {k : Nat} (hk : k < t.width) :
    (elBfx t a b c).testBit k =
      let len := min c t.width
      let j := min b t.width + (if k < len then k else len - 1)
      if len = 0 then false
      else if k < len ∨ t.signed = true then (if j < t.width then a.testBit j else t.signed && a.testBit (t.width - 1))
      else false := by
  have hw : t.width ≤ 64 := by cases t <;> decide
  have hext := fun j (hj : j < 128) => extended_testBit t a hj
  unfold elBfx
  dsimp only
  generalize (if t.signed then (BitVec.ofNat t.width a).signExtend 128 else (BitVec.ofNat t.width a).zeroExtend 128).toNat = x at *
  have hpos : min b t.width ≤ 64 := by omega
  have hlen : min c t.width ≤ 64 := by omega
  generalize min b t.width = pos at *
  generalize min c t.width = len at *
  have hfield : ∀ j, (x / 2 ^ pos % 2 ^ len).testBit j = (decide (j < len) && x.testBit (pos + j)) := fun j => by
    rw [Nat.testBit_mod_two_pow, Nat.testBit_div_two_pow, Nat.add_comm]
  by_cases h0 : len = 0
  · rw [if_pos (by simpa using h0), if_pos h0, Nat.zero_testBit]
  rw [if_neg (by simpa using h0), if_neg h0]
  cases hs : t.signed
  · rw [if_neg Bool.false_ne_true, hfield]
    by_cases hkl : k < len
    · simp [hkl, hext (pos + k) (by omega), hs]
    · simp [hkl]
  · rw [if_pos rfl, ← BitVec.signExtend, BitVec.testBit_toNat, BitVec.getLsbD_signExtend, decide_eq_true hk, Bool.true_and,
      BitVec.msb_eq_getLsbD_last, BitVec.getLsbD_ofNat, BitVec.getLsbD_ofNat, hfield, hfield]
    by_cases hkl : k < len
    · simp [hkl, hext (pos + k) (by omega), hs]
    · simp [hkl, hext (pos + (len - 1)) (by omega), hs, Nat.pos_of_ne_zero h0]

/-- A field replaced in a number: the part above, the field and the part below. -/
theorem replaceField_eq (a f pos n : Nat) :
    a - a / 2 ^ pos % 2 ^ n * 2 ^ pos + f * 2 ^ pos = 2 ^ pos * (2 ^ n * (a / 2 ^ pos / 2 ^ n) + f) + a % 2 ^ pos := by
  have hlow := Nat.div_add_mod a (2 ^ pos)
  have hhigh := Nat.div_add_mod (a / 2 ^ pos) (2 ^ n)
  have hsplit : a = 2 ^ pos * (2 ^ n * (a / 2 ^ pos / 2 ^ n)) + a / 2 ^ pos % 2 ^ n * 2 ^ pos + a % 2 ^ pos := by
    conv_lhs => rw [← hlow, ← hhigh]
    ring
  have hsub : a - a / 2 ^ pos % 2 ^ n * 2 ^ pos = 2 ^ pos * (2 ^ n * (a / 2 ^ pos / 2 ^ n)) + a % 2 ^ pos := by omega
  rw [hsub]
  ring

theorem replaceField_testBit (a f pos n k : Nat) :
    (a - a / 2 ^ pos % 2 ^ n * 2 ^ pos + f % 2 ^ n * 2 ^ pos).testBit k =
      if pos ≤ k ∧ k < pos + n then f.testBit (k - pos) else a.testBit k := by
  rw [replaceField_eq, Nat.testBit_two_pow_mul_add _ (Nat.mod_lt _ (by positivity)),
    Nat.testBit_two_pow_mul_add _ (Nat.mod_lt _ (by positivity)), Nat.testBit_mod_two_pow, Nat.testBit_mod_two_pow, Nat.testBit_div_two_pow,
    Nat.testBit_div_two_pow]
  rcases Nat.lt_or_ge k pos with h | h
  · simp [h, not_le.2 h]
  · rcases Nat.lt_or_ge k (pos + n) with h' | h'
    · simp [h, h', not_lt.2 h, show k - pos < n by omega]
    · simp [not_lt.2 h, not_lt.2 h', show ¬ k - pos < n by omega, show k - pos - n + n + pos = k by omega]

theorem elBfi_testBit {w k : Nat} (hk : k < w) (a b c d : Nat) :
    (elBfi w a b c d).testBit k = if min c w ≤ k ∧ k < min c w + min d w then b.testBit (k - min c w) else a.testBit k := by
  rw [elBfi, replaceField_testBit]
  congr 1
  rw [eq_iff_iff]
  omega

theorem testBit_mod_width {w k : Nat} (hk : k < w) (v : Nat) : (v % 2 ^ w).testBit k = v.testBit k := by
  rw [Nat.testBit_mod_two_pow, decide_eq_true hk, Bool.true_and]

theorem isFloat_of_wfInt {ctx : Bool} {x : V96A} {srcs : List Opnd} {u : Use96} {satOk : Bool} (h : wfInt ctx x srcs u x.ty.isInt satOk = true) :
    x.ty.isFloat = false := by
  unfold wfInt at h
  simp only [Bool.and_eq_true] at h
  exact Ty.isFloat_of_isInt h.1.2

/-- Settles O2: each instruction by the lemma about the bits of its result. -/
theorem shiftsAndBitFields : Obligations.ShiftsAndBitFields := by
  unfold Obligations.ShiftsAndBitFields
  have hlt : ∀ (x : V96A), 0 < 2 ^ x.ty.width := fun x => by positivity
  refine ⟨?shl, ?shr, ?sar, ?rol, ?clz, ?popc, ?brev, ?bfx, ?bfi⟩
  case shl =>
    refine .of_all (f := fun x a n _ _ => elShl x.ty.width a n) (fun _ _ => rfl) fun x a n _ _ => ?_
    rw [elShl]
    split <;> simp
  case shr =>
    exact .of_sources (f := fun x a n _ _ => elShr x.ty.width a n) (fun _ _ => rfl) fun x s h n e k =>
      elShr_testBit (s.el_lt (isFloat_of_wfInt (State.clean_wf h)) n x.a e) _ k
  case sar =>
    exact .of_all (f := fun x a n _ _ => elSar x.ty.width a n) (fun _ _ => rfl) fun x a n _ _ =>
      ⟨Nat.mod_lt _ (hlt x), fun k hk => by rw [testBit_mod_width hk, elSar_testBit hk]⟩
  case rol =>
    exact .of_sources (f := fun x a n _ _ => elRol x.ty.width a n) (fun _ _ => rfl) fun x s h n e =>
      ⟨Nat.mod_lt _ (hlt x), fun k hk => by
        rw [testBit_mod_width (Nat.mod_lt _ (by omega)), elRol_testBit (s.el_lt (isFloat_of_wfInt (State.clean_wf h)) n x.a e) hk]⟩
  case clz =>
    refine .of_sources (f := fun x a _ _ _ => elClz x.ty.width a) (fun _ _ => rfl) fun x s h n e => ?_
    rw [Nat.mod_eq_of_lt ((elClz_le _ _).trans_lt Nat.lt_two_pow_self)]
    exact ⟨elClz_le _ _, elClz_spec (s.el_lt (isFloat_of_wfInt (State.clean_wf h)) n x.a e)⟩
  case popc =>
    refine .of_all (f := fun x a _ _ _ => elPopc x.ty.width a) (fun _ _ => rfl) fun x a _ _ _ => ?_
    rw [Nat.mod_eq_of_lt ((elPopc_le _ _).trans_lt Nat.lt_two_pow_self), elPopc_eq]
  case brev =>
    exact .of_all (f := fun x a _ _ _ => elBrev x.ty.width a) (fun _ _ => rfl) fun x a _ _ _ =>
      ⟨Nat.mod_lt _ (hlt x), fun k hk => by rw [testBit_mod_width hk, elBrev_testBit hk]⟩
  case bfx =>
    exact .of_all (f := fun x a b c _ => elBfx x.ty a b c) (fun _ _ => rfl) fun x a b c _ =>
      ⟨Nat.mod_lt _ (hlt x), fun k hk => by rw [testBit_mod_width hk]; exact elBfx_testBit x.ty a b c hk⟩
  case bfi =>
    exact .of_all (f := fun x a b c d => elBfi x.ty.width a b c d) (fun _ _ => rfl) fun x a b c d =>
      ⟨Nat.mod_lt _ (hlt x), fun k hk => by rw [testBit_mod_width hk, elBfi_testBit hk]⟩

end Sys2Proof.Machine
end

section
/-! PROOFS. Results of the lane instructions as whole words (R98, R115, R117, R132), the compares (R118, R124), and the add with carry, which sends two
results (R119). -/

namespace Sys2Proof.Machine
open Sys2Proof

/-! ### Whole words -/

theorem WholeWord.of_result {mk : V96A → Instr} {f : V96A → State → Nat → Word}
    (hexec : ∀ x s, exec (mk x) s = s.run (mk x) (resultBody x.d (f x)))
    (hf : ∀ (x : V96A) (s : State) (i : Instr) (n : Nat), f x (s.countIssue i s.cur.tids) n = f x s n) : WholeWord mk f := fun x s h =>
  hexec x s ▸ s.run_resultBody _ _ _ _ h fun n => hf x s _ n

theorem WholeWordImm.of_result {mk : M128A → Instr} {f : M128A → State → Nat → Word}
    (hexec : ∀ x s, exec (mk x) s = s.run (mk x) (resultBody x.d (f x)))
    (hf : ∀ (x : M128A) (s : State) (i : Instr) (n : Nat), f x (s.countIssue i s.cur.tids) n = f x s n) : WholeWordImm mk f := fun x s h =>
  hexec x s ▸ s.run_resultBody _ _ _ _ h fun n => hf x s _ n

theorem WholeWord64.of_result {mk : S64A → Instr} {f : S64A → State → Nat → Word}
    (hexec : ∀ x s, exec (mk x) s = s.run (mk x) (resultBody x.d (f x)))
    (hf : ∀ (x : S64A) (s : State) (i : Instr) (n : Nat), f x (s.countIssue i s.cur.tids) n = f x s n) : WholeWord64 mk f := fun x s h =>
  hexec x s ▸ s.run_resultBody _ _ _ _ h fun n => hf x s _ n

/-- Settles O3: the result is a function of the operands, which the body reads as they stand at issue. -/
theorem wholeRegisterResults : Obligations.WholeRegisterResults := by
  unfold Obligations.WholeRegisterResults
  refine ⟨?band, ?bor, ?bxor, ?bnot, ?bandI, ?borI, ?bxorI, ?sel, ?mov, ?movi, ?movh⟩
  case band | bor | bxor | bnot | mov => exact .of_result (fun _ _ => rfl) fun _ _ _ _ => by simp only [State.countIssue_opnd]
  case sel => exact .of_result (fun _ _ => rfl) fun _ _ _ _ => by simp only [State.countIssue_opnd, State.countIssue_readP]
  case bandI | borI | bxorI | movh => exact .of_result (fun _ _ => rfl) fun _ _ _ _ => by simp only [State.countIssue_opnd]
  case movi => exact .of_result (fun _ _ => rfl) fun _ _ _ _ => rfl

/-! ### Compares -/

theorem cmpPred_map_range (any : Bool) (c : Nat → Bool) (k : Nat) :
    cmpPred any ((List.range k).map c) = decide (if any then ∃ e < k, c e = true else ∀ e < k, c e = true) := by
  rw [Bool.eq_iff_iff, decide_eq_true_iff]
  cases any <;> simp [cmpPred]

theorem cmpMask_map_range (ty : Ty) (c : Nat → Bool) :
    cmpMask ty ((List.range ty.count).map c) = mapEl ty fun e => if c e then 2 ^ ty.width - 1 else 0 := by
  rw [cmpMask, List.map_map]
  rfl

/-- The result of a compare: the predicate, or the mask of each sub-element. -/
theorem cmpResult_spec (d : Opnd) (ty : Ty) (any : Bool) (c : Nat → Bool) :
    if d.isP then cmpResult d ty any ((List.range ty.count).map c) =
      (if (if any then ∃ e < ty.count, c e = true else ∀ e < ty.count, c e = true) then 1 else 0)
    else ∀ e < ty.count, subEl ty (cmpResult d ty any ((List.range ty.count).map c)) e = if c e = true then 2 ^ ty.width - 1 else 0 := by
  unfold cmpResult
  cases d.isP
  · rw [if_neg Bool.false_ne_true, if_neg Bool.false_ne_true, cmpMask_map_range]
    intro e he
    have hones : 2 ^ ty.width - 1 < 2 ^ ty.width := Nat.sub_lt (by positivity) Nat.one_pos
    rw [subEl_mapEl _ _ _ he]
    split
    · exact Nat.mod_eq_of_lt hones
    · exact Nat.zero_mod _
  · rw [if_pos rfl, if_pos rfl, cmpPred_map_range]
    simp only [decide_eq_true_iff]

/-- The issue of a compare whose condition reads operands only. -/
theorem State.run_compare {s : State} {i : Instr} {d : Opnd} {ty : Ty} {any : Bool} (c : State → Nat → Nat → Bool) (h : s.clean i = true)
    (hc : ∀ n, c (s.countIssue i s.cur.tids) n = c s n) :
    ∃ t, s.run i (resultBody d fun s n => cmpResult d ty any ((List.range ty.count).map (c s n))) = .next t ∧ s.Computes t i d fun n w =>
      if d.isP then w = (if (if any then ∃ e < ty.count, c s n e = true else ∀ e < ty.count, c s n e = true) then 1 else 0)
      else ∀ e < ty.count, subEl ty w e = if c s n e = true then 2 ^ ty.width - 1 else 0 :=
  s.run_resultBody _ _ _ _ h fun n => hc n ▸ cmpResult_spec d ty any _

theorem comparesGivePredicatesOrMasks : ComparesGivePredicatesOrMasks := by
  unfold ComparesGivePredicatesOrMasks
  refine ⟨fun x s h => ?icmp, fun x s h => ?icmpI, fun x s h => ?fcmp⟩
  case icmp =>
    exact State.run_compare (fun s n e => intCond (x.opx.extractLsb' 0 3).toNat (intVal x.ty (s.el n x.ty x.a e)) (intVal x.ty (s.el n x.ty x.b e))) h
      fun n => by simp only [State.countIssue_el]
  case icmpI =>
    exact State.run_compare (fun s n e => intCond (x.opx.extractLsb' 0 3).toNat (intVal x.ty (s.el n x.ty x.a e)) (intVal x.ty (immEl x.ty x.i32))) h
      fun n => by simp only [State.countIssue_el]
  case fcmp =>
    exact State.run_compare (fun s n e => fltCond (x.opx.extractLsb' 0 3).toNat ((tyFlt x.ty).decode (s.el n x.ty x.a e))
      ((tyFlt x.ty).decode (s.el n x.ty x.b e))) h fun n => by simp only [State.countIssue_el]

/-! ### Several results of one issue -/

theorem State.result_set_sends (s : State) (ts : List Nat) (d : Opnd) (f : Nat → Word) (set : Nat) :
    ∃ ps : List Pend, s.result ts d f set = s.addPend ps ∧ ps.map (fun p => (p.dst, p.val)) = s.valuesAt ts d f :=
  ⟨_, rfl, by simp [State.valuesAt]⟩

/-- A body that only sends results. -/
theorem State.run_sends {s : State} {i : Instr} {body : Body} {l : List (RegRef × Option Word)} (h : s.clean i = true)
    (hb : ∃ ps : List Pend, body (s.countIssue i s.cur.tids) (s.executing i) = ((s.countIssue i s.cur.tids).addPend ps, []) ∧
      ps.map (fun p => (p.dst, p.val)) = l) :
    ∃ t, s.run i body = .next t ∧ s.Sends t l ∧ s.OnlyResults t ∧ s.Advances t i := by
  obtain ⟨ps, hbody, hl⟩ := hb
  obtain ⟨t, hrun, hpend, honly, hadv⟩ := s.run_results i body ps h hbody
  exact ⟨t, hrun, ⟨ps, hpend, hl⟩, honly, hadv⟩

@[simp] theorem State.countIssue_valuesAt (s : State) (i : Instr) (ts : List Nat) (d : Opnd) (f : Nat → Word) :
    (s.countIssue i s.cur.tids).valuesAt ts d f = s.valuesAt ts d f :=
  (State.SameOperands.countIssue s i).valuesAt ts d f

theorem bit_eq_ite (b : Bool) : bit b = if b then 1 else 0 := by cases b <;> rfl

/-- The low 64 bits of an add with carry (R119). -/
theorem add_carry_eq (a b : Word) (c : Bool) : a + b + (if c then 1 else 0) = BitVec.ofNat 64 (a.toNat + b.toNat + if c then 1 else 0) := by
  apply BitVec.eq_of_toNat_eq
  cases c <;> simp [BitVec.toNat_add]

theorem carryAndPredicateLogic : CarryAndPredicateLogic := by
  unfold CarryAndPredicateLogic
  refine ⟨fun x s h => ?iaddc, ?pand, ?por, ?pxor, ?pnot, ?pmov⟩
  case iaddc =>
    refine State.run_sends h ?_
    obtain ⟨p1, h1, hv1⟩ := (s.countIssue (.iaddc x) s.cur.tids).result_set_sends (s.executing (.iaddc x)) x.d
      (fun t => s.opnd t x.a + s.opnd t x.b + (if s.readP t x.c.num then 1 else 0)) ((s.countIssue (.iaddc x) s.cur.tids).free + 1)
    obtain ⟨p2, h2, hv2⟩ := ((s.countIssue (.iaddc x) s.cur.tids).addPend p1).result_set_sends (s.executing (.iaddc x)) x.e
      (fun t => if carryOut (s.opnd t x.a) (s.opnd t x.b) (s.readP t x.c.num) then 1 else 0) ((s.countIssue (.iaddc x) s.cur.tids).free + 1)
    refine ⟨p1 ++ p2, ?_, ?_⟩
    · simp only [State.countIssue_opnd, State.countIssue_readP, h1, h2]
      simp only [State.addPend, State.setPend, List.append_assoc]
    · rw [List.map_append, hv1, hv2, State.valuesAt_addPend, State.countIssue_valuesAt, State.countIssue_valuesAt]
      simp only [add_carry_eq, carryOut, bit_eq_ite, decide_eq_true_iff]
  case pand | por | pxor => exact .of_result (fun _ _ => rfl) fun _ _ _ _ => by simp only [State.countIssue_opnd]
  case pnot =>
    intro x s h
    refine s.run_resultBody _ _ _ _ h fun n => ?_
    simp only [State.predIn, State.countIssue_opnd]
    split <;> simp_all
  case pmov => exact .of_result (fun _ _ => rfl) fun _ _ _ _ => by simp only [State.countIssue_opnd]

/-- Settles O4: a compare by `cmpResult_spec`, the add with carry by its two results, a predicate instruction by its result. -/
theorem comparesCarriesAndPredicates : Obligations.ComparesCarriesAndPredicates := ⟨comparesGivePredicatesOrMasks, carryAndPredicateLogic⟩

/-! ### Float selection and the special functions -/

/-- Settles O6: each instruction is its function on the sub-elements of its sources. -/
theorem floatSelectionAndSpecialFunctions : Obligations.FloatSelectionAndSpecialFunctions := by
  unfold Obligations.FloatSelectionAndSpecialFunctions
  have sfu : ∀ (mk : V96A → Instr) (k : Sfu), (∀ x s, exec (mk x) s = s.run (mk x) (sfuBody k x)) →
      PerElement mk fun x a _ _ _ v => v = sfuEl k (tyFlt x.ty) (x.sat == .satf) (x.opx.getLsbD 3) a % 2 ^ x.ty.width :=
    fun mk k hexec => .of_all (f := fun x a _ _ _ => sfuEl k (tyFlt x.ty) (x.sat == .satf) (x.opx.getLsbD 3) a) hexec fun _ _ _ _ _ => rfl
  refine ⟨?min, ?max, ?classify, ?rnd, sfu .frcp .rcp ?rcp, sfu .frsq .rsq ?rsq, sfu .fsqrt .sqrt ?sqrt, sfu .fex2 .ex2 ?ex2, sfu .flg2 .lg2 ?lg2,
    sfu .fsin .sin ?sin, sfu .fcos .cos ?cos, sfu .ftanh .tanh ?tanh⟩
  case min => exact .of_all (f := fun x a b _ _ => fltMinMax (tyFlt x.ty) false (x.opx.getLsbD 3) a b) (fun _ _ => rfl) fun _ _ _ _ _ => rfl
  case max => exact .of_all (f := fun x a b _ _ => fltMinMax (tyFlt x.ty) true (x.opx.getLsbD 3) a b) (fun _ _ => rfl) fun _ _ _ _ _ => rfl
  case classify => exact .of_all (f := fun x a _ _ _ => fltClass (tyFlt x.ty) a) (fun _ _ => rfl) fun _ _ _ _ _ => rfl
  case rnd => exact .of_all (f := fun x a _ _ _ => fltRnd (tyFlt x.ty) x.rm (x.opx.getLsbD 3) a) (fun _ _ => rfl) fun _ _ _ _ _ => rfl
  all_goals exact fun _ _ => rfl

end Sys2Proof.Machine
end

section
/-! PROOFS. The cross-lane moves (R133 to R136, R140): the group of a thread is what executes in its warp. -/

namespace Sys2Proof.Machine
open Sys2Proof

/-! ### Bodies that read the group -/

/-- A body whose result depends on the executing threads. -/
theorem State.run_groupBody {s : State} {i : Instr} {d : Opnd} {f : State → List Nat → Nat → Word} {P : Nat → Word → Prop} (h : s.clean i = true)
    (hP : ∀ n, P n (f (s.countIssue i s.cur.tids) (s.executing i) n)) :
    ∃ t, s.run i (fun s ts => (s.result ts d (f s ts), [])) = .next t ∧ s.Computes t i d P := by
  rw [State.run_congr h (body := fun s ts => (s.result ts d (f s ts), [])) (body' := resultBody d fun u => f u (s.executing i)) rfl]
  exact s.run_resultBody _ _ _ _ h hP

theorem laneIn_eq (ts : List Nat) (n lane : Nat) :
    laneIn ts n lane = if lane < 32 ∧ widOf n * 32 + lane ∈ ts then some (widOf n * 32 + lane) else none := by
  simp [laneIn]

theorem laneOf_lt (n : Nat) : laneOf n < 32 := Nat.mod_lt n (by norm_num)

theorem Ty.count_pos (t : Ty) : 0 < t.count := by cases t <;> decide

/-! ### Shuffles (R134) -/

theorem shflSrc_eq (mode self n : Nat) :
    shflSrc mode self n = if mode = 0 then (n : Int) else if mode = 1 then (self : Int) - n else if mode = 2 then (self : Int) + n else (self ^^^ n : Nat) := by
  match mode with
  | 0 | 1 | 2 | _ + 3 => simp [shflSrc]

theorem exec_shfl (x : V96A) (s : State) (h : s.clean (.shfl x) = true) : ∃ t, exec (.shfl x) s = .next t ∧
    s.Computes t (.shfl x) x.d fun n w => ∀ e < x.ty.count,
      let src := shflSrc x.opx.toNat (laneOf n * x.ty.count + e) (s.el n x.ty x.b e)
      let u := widOf n * 32 + src.toNat / x.ty.count
      subEl x.ty w e =
        if 0 ≤ src ∧ src < 32 * x.ty.count ∧ u ∈ s.executing (.shfl x) then s.el u x.ty x.a (src.toNat % x.ty.count) % 2 ^ x.ty.width
        else subEl x.ty (s.opnd n x.d) e := by
  refine State.run_groupBody h fun n e he => ?_
  rw [subEl_mapEl _ _ _ he]
  simp only [State.countIssue_el, State.countIssue_opnd, laneIn_eq]
  generalize shflSrc x.opx.toNat (laneOf n * x.ty.count + e) (s.el n x.ty x.b e) = src
  have hcount := Ty.count_pos x.ty
  by_cases hout : src < 0 ∨ ((32 * x.ty.count : Nat) : Int) ≤ src
  · rw [if_pos hout, if_neg (by omega), subEl_mod]
  · have hlane : src.toNat / x.ty.count < 32 := by rw [Nat.div_lt_iff_lt_mul hcount]; omega
    rw [if_neg hout]
    by_cases hu : widOf n * 32 + src.toNat / x.ty.count ∈ s.executing (.shfl x)
    · rw [if_pos ⟨hlane, hu⟩, if_pos ⟨by omega, by omega, hu⟩]
    · rw [if_neg fun hc => hu hc.2, if_neg fun hc => hu hc.2.2, subEl_mod]

/-! ### Broadcast, vote and ballot (R135, R136) -/

/-- The thread that stands for a destination is one of those that execute. -/
theorem State.mem_of_targets {s : State} {ts : List Nat} {d : Opnd} {q : Nat × RegRef × List Nat} (h : q ∈ s.targets ts d) : q.1 ∈ ts := by
  unfold State.targets at h
  split at h
  · obtain ⟨w, -, hw⟩ := List.mem_filterMap.1 h
    dsimp only at hw
    split at hw
    case h_1 t r heq =>
      obtain rfl := Option.some.inj hw
      exact List.mem_of_mem_filter (heq ▸ List.mem_cons_self)
    case h_2 => cases hw
  · obtain ⟨t, ht, hr⟩ := List.mem_filterMap.1 h
    obtain ⟨r, -, rfl⟩ := Option.map_eq_some_iff.1 hr
    exact ht

theorem laneIn_isSome (ts : List Nat) (n lane : Nat) :
    (laneIn ts n lane).isSome = (decide (lane < 32) && ts.contains (widOf n * 32 + lane)) := by
  rw [laneIn]
  split <;> simp_all

theorem laneIn_getD {ts : List Nat} {n lane : Nat} (h : (laneIn ts n lane).isSome = true) : (laneIn ts n lane).getD n = widOf n * 32 + lane := by
  rw [laneIn_eq] at h ⊢
  split
  · rfl
  · rw [if_neg ‹_›] at h
    cases h

theorem exec_bcast (x : V96A) (s : State) (h : s.clean (.bcast x) = true) : ∃ t, exec (.bcast x) s = .next t ∧
    (let u := fun n => widOf n * 32 + (s.opnd n x.b).toNat
     let here := (s.executing (.bcast x)).filter fun n => decide ((s.opnd n x.b).toNat < 32) && (s.executing (.bcast x)).contains (u n)
     s.Sends t (s.valuesAt here x.d fun n => s.opnd (u n) x.a)) ∧
    s.OnlyResults t ∧ s.Advances t (.bcast x) := by
  refine State.run_sends h ⟨_, rfl, ?_⟩
  simp only [State.countIssue_opnd, (State.SameOperands.countIssue s (.bcast x)).targets, List.map_map, State.valuesAt, laneIn_isSome]
  refine List.map_congr_left fun q hq => ?_
  have hsome := (laneIn_isSome _ _ _).trans (List.mem_filter.1 (State.mem_of_targets hq)).2
  simp only [Function.comp_apply, laneIn_getD hsome]

theorem votePred_map_iff (mode : Nat) (g : List Nat) (p : Nat → Bool) :
    votePred mode (g.map p) = true ↔
      (mode = 0 ∧ ∀ u ∈ g, p u = true) ∨ (mode = 1 ∧ ∃ u ∈ g, p u = true) ∨ (1 < mode ∧ ((∀ u ∈ g, p u = true) ∨ ∀ u ∈ g, p u = false)) := by
  match mode with
  | 0 | 1 | _ + 2 => simp [votePred]

theorem exec_vote (x : V96A) (s : State) (h : s.clean (.vote x) = true) : ∃ t, exec (.vote x) s = .next t ∧
    s.Computes t (.vote x) x.d fun n w =>
      w = if votePred x.opx.toNat (((s.executing (.vote x)).filter fun u => widOf u == widOf n).map fun u => s.readP u x.a.num) then 1 else 0 := by
  refine State.run_groupBody h fun n => ?_
  simp only [State.countIssue_readP, groupOf]

/-- One bit for each thread of a list whose predicate is true. -/
theorem ballot_getLsbD (p : Nat → Bool) (k : Nat) (l : List Nat) : ∀ m : Word,
    (l.foldl (fun (m : Word) u => if p u then m ||| BitVec.ofNat 64 (2 ^ laneOf u) else m) m).getLsbD k =
      (m.getLsbD k || decide (k < 32 ∧ ∃ u ∈ l, laneOf u = k ∧ p u = true)) := by
  induction l with
  | nil => intro m; simp
  | cons u l ih =>
    intro m
    have hlane := laneOf_lt u
    have hbit : (BitVec.ofNat 64 (2 ^ laneOf u)).getLsbD k = decide (laneOf u = k) := by
      rw [BitVec.getLsbD_ofNat, Nat.testBit_two_pow]
      by_cases hk : laneOf u = k
      · simp [hk, show k < 64 by omega]
      · simp [hk]
    rw [List.foldl_cons, ih]
    cases hp : p u
    · simp [hp]
    · rw [if_pos rfl, BitVec.getLsbD_or, hbit, Bool.or_assoc, ← Bool.decide_or]
      congr 2
      rw [eq_iff_iff, List.exists_mem_cons_iff, hp]
      constructor
      · rintro (rfl | ⟨hk, hu⟩)
        · exact ⟨hlane, .inl ⟨rfl, rfl⟩⟩
        · exact ⟨hk, .inr hu⟩
      · rintro ⟨hk, ⟨rfl, -⟩ | hu⟩
        · exact .inl rfl
        · exact .inr ⟨hk, hu⟩

theorem exec_ballot (x : V96A) (s : State) (h : s.clean (.ballot x) = true) : ∃ t, exec (.ballot x) s = .next t ∧
    s.Computes t (.ballot x) x.d fun n w => ∀ k, w.getLsbD k =
      decide (k < 32 ∧ ∃ u ∈ s.executing (.ballot x), widOf u = widOf n ∧ laneOf u = k ∧ s.readP u x.a.num = true) := by
  refine State.run_groupBody h fun n k => ?_
  simp only [State.countIssue_readP, groupOf]
  rw [ballot_getLsbD, show (0 : Word).getLsbD k = false from BitVec.getLsbD_zero, Bool.false_or]
  simp only [List.mem_filter, beq_iff_eq, and_assoc]

/-! ### Byte permutation (R140) -/

theorem subEl_u8x8 (w : Word) (j : Nat) : subEl .u8x8 w j = byteOf w.toNat j := by
  rw [subEl, byteOf, Ty.width, Nat.pow_mul]
  norm_num

theorem permByte_lt (a c : Word) (k : Nat) : permByte a c k < 256 := by
  unfold permByte
  split
  · norm_num
  · split <;> exact byteOf_lt _ _

theorem exec_vperm (x : V96A) (s : State) (h : s.clean (.vperm x) = true) : ∃ t, exec (.vperm x) s = .next t ∧
    s.Computes t (.vperm x) x.d fun n w => ∀ j < 8,
      byteOf w.toNat j = permByte (s.opnd n x.a) (s.opnd n x.c) (byteOf (s.opnd n x.b).toNat j) := by
  refine State.run_resultBody _ _ _ _ _ h fun n j hj => ?_
  simp only [State.countIssue_opnd]
  rw [← subEl_u8x8, subEl_mapEl _ _ _ hj]
  exact Nat.mod_eq_of_lt (permByte_lt _ _ _)

/-- Settles O9: the source slot by its mode, the group by its lanes, a byte by the table of R140. -/
theorem shufflesVotesAndPermutes : Obligations.ShufflesVotesAndPermutes := by
  unfold Obligations.ShufflesVotesAndPermutes
  refine ⟨fun x s h => ?shfl, exec_bcast, fun x s h => ?vote, exec_ballot, exec_vperm⟩
  case shfl => simpa only [shflSrc_eq, Nat.cast_add, Nat.cast_mul] using exec_shfl x s h
  case vote => simpa only [votePred_map_iff] using exec_vote x s h

end Sys2Proof.Machine
end

section
/-! PROOFS. The fixed tree of a group's slots (R137 to R139): for an associative operation every block of the tree is the plain combination of its slots. -/

namespace Sys2Proof.Machine
open Sys2Proof

/-! ### Plain combinations -/

/-- The combination of a list in its order; 0 of an empty list. -/
def combine (f : Nat → Nat → Nat) (l : List Nat) : Nat := l.tail.foldl f (l.headD 0)

@[simp] theorem combine_cons (f : Nat → Nat → Nat) (a : Nat) (l : List Nat) : combine f (a :: l) = l.foldl f a := rfl

theorem combine_take (f : Nat → Nat → Nat) (l : List Nat) {m : Nat} (hm : m ≠ 0) : combine f (l.take m) = (l.take m).tail.foldl f (l.headD 0) := by
  obtain ⟨k, rfl⟩ := Nat.exists_eq_succ_of_ne_zero hm
  cases l <;> rfl

theorem combine_lt {f : Nat → Nat → Nat} {b : Nat} (hf : ∀ x y, x < b → y < b → f x y < b) (hb : 0 < b) {l : List Nat} (hl : ∀ x ∈ l, x < b) :
    combine f l < b := by
  cases l with
  | nil => exact hb
  | cons a l =>
    obtain ⟨ha, hl⟩ := List.forall_mem_cons.1 hl
    rw [combine_cons]
    exact List.foldlRecOn (motive := (· < b)) l f ha fun x hx y hy => hf x y hx (hl y hy)

section
variable {f : Nat → Nat → Nat} (hf : ∀ a b c, f (f a b) c = f a (f b c))
include hf

theorem foldl_assoc (a b : Nat) (l : List Nat) : f a (l.foldl f b) = l.foldl f (f a b) := by
  induction l generalizing b with
  | nil => rfl
  | cons c l ih => rw [List.foldl_cons, List.foldl_cons, ih, hf]

theorem combine_append {l r : List Nat} (hl : l ≠ []) (hr : r ≠ []) : combine f (l ++ r) = f (combine f l) (combine f r) := by
  obtain ⟨a, l, rfl⟩ := List.exists_cons_of_ne_nil hl
  obtain ⟨b, r, rfl⟩ := List.exists_cons_of_ne_nil hr
  rw [List.cons_append, combine_cons, combine_cons, combine_cons, List.foldl_append, List.foldl_cons, foldl_assoc hf]

theorem foldl_pairUp : ∀ (l : List Nat) (a : Nat), (pairUp f l).foldl f a = l.foldl f a
  | [], _ => rfl
  | [_], _ => rfl
  | b :: c :: l, a => by rw [pairUp, List.foldl_cons, List.foldl_cons, List.foldl_cons, foldl_pairUp l, hf]

theorem combine_pairUp : ∀ l : List Nat, combine f (pairUp f l) = combine f l
  | [] => rfl
  | [_] => rfl
  | _ :: _ :: l => foldl_pairUp hf l _

end

/-! ### Levels of the tree -/

theorem pairUp_drop (f : Nat → Nat → Nat) : ∀ (k : Nat) (l : List Nat), pairUp f (l.drop (2 * k)) = (pairUp f l).drop k
  | 0, _ => rfl
  | _ + 1, [] => by simp [pairUp]
  | _ + 1, [_] => by simp [pairUp, Nat.mul_add]
  | k + 1, _ :: _ :: l => pairUp_drop f k l

theorem pairUp_take (f : Nat → Nat → Nat) : ∀ (k : Nat) (l : List Nat), pairUp f (l.take (2 * k)) = (pairUp f l).take k
  | 0, _ => by simp [pairUp]
  | _ + 1, [] => by simp [pairUp]
  | _ + 1, [_] => by simp [pairUp, Nat.mul_add]
  | k + 1, a :: b :: l => by rw [Nat.mul_add, List.take_succ_cons, List.take_succ_cons, pairUp, pairUp, List.take_succ_cons, pairUp_take f k l]

theorem pairUp_length (f : Nat → Nat → Nat) : ∀ {k : Nat} {l : List Nat}, 2 * k ≤ l.length → k ≤ (pairUp f l).length
  | 0, _, _ => Nat.zero_le _
  | _ + 1, [], h => by simp at h
  | _ + 1, [_], h => by simp [Nat.mul_add] at h
  | k + 1, _ :: _ :: l, h => Nat.succ_le_succ (pairUp_length f (k := k) (l := l) (by simpa [Nat.mul_add] using h))

theorem treeLevels_getD (f : Nat → Nat → Nat) : ∀ (n k : Nat) (l : List Nat), k ≤ n → (treeLevels f n l).getD k [] = (pairUp f)^[k] l
  | 0, 0, _, _ => rfl
  | _ + 1, 0, _, _ => rfl
  | n + 1, k + 1, l, h => by
    rw [treeLevels, List.getD_cons_succ, treeLevels_getD f n k _ (Nat.le_of_succ_le_succ h), Function.iterate_succ_apply]

/-- Block j of level k combines its 2^k slots. -/
theorem treeBlock_eq {f : Nat → Nat → Nat} (hf : ∀ a b c, f (f a b) c = f a (f b c)) :
    ∀ (k j : Nat) (l : List Nat), (j + 1) * 2 ^ k ≤ l.length → ((pairUp f)^[k] l).getD j 0 = combine f ((l.drop (j * 2 ^ k)).take (2 ^ k))
  | 0, j, l, h => by
    have hj : j < l.length := by omega
    rw [Function.iterate_zero_apply, pow_zero, Nat.mul_one, List.getD_eq_getElem _ _ hj, List.drop_eq_getElem_cons hj]
    rfl
  | k + 1, j, l, h => by
    have hpow : 2 ^ (k + 1) = 2 * 2 ^ k := pow_succ' 2 k
    rw [Function.iterate_succ_apply, treeBlock_eq hf k j _ (pairUp_length f (by rw [← Nat.mul_left_comm, ← hpow]; exact h)), ← pairUp_drop,
      ← pairUp_take, combine_pairUp hf, hpow, Nat.mul_left_comm]

/-- What the tree gives for the first m slots: what `start` slots hold, and from the level on what the binary digits of m name. -/
theorem prefixOf_eq {f : Nat → Nat → Nat} (hf : ∀ a b c, f (f a b) c = f a (f b c)) {n m : Nat} {l : List Nat} (hm : m ≤ l.length) :
    ∀ k start, k ≤ n + 1 → start = m / 2 ^ k * 2 ^ k →
      prefixOf f (treeLevels f n l) m k start (if start = 0 then none else some (combine f (l.take start))) =
        if m = 0 then none else some (combine f (l.take m))
  | 0, start, _, hs => by
    have : start = m := by simpa using hs
    rw [prefixOf, this]
  | k + 1, start, hk, hs => by
    have hpos : 0 < 2 ^ k := by positivity
    have hpow : 2 ^ (k + 1) = 2 * 2 ^ k := pow_succ' 2 k
    have hhalf : m / 2 ^ (k + 1) = m / 2 ^ k / 2 := by rw [hpow, Nat.mul_comm, Nat.div_div_eq_div_mul]
    have hstart : start = m / 2 ^ k / 2 * 2 * 2 ^ k := by rw [hs, hhalf, hpow, Nat.mul_assoc]
    have hbit : m.testBit k = decide (m / 2 ^ k % 2 = 1) := Nat.testBit_eq_decide_div_mod_eq
    have hdigits := Nat.div_add_mod (m / 2 ^ k) 2
    rw [prefixOf, hbit]
    rcases Nat.mod_two_eq_zero_or_one (m / 2 ^ k) with h0 | h1
    · rw [if_neg (by simp [h0])]
      exact prefixOf_eq hf hm k start (by omega) (by rw [hstart]; congr 1; omega)
    · have hend : (start / 2 ^ k + 1) * 2 ^ k ≤ l.length := by
        rw [hstart, Nat.mul_div_cancel _ hpos, show m / 2 ^ k / 2 * 2 + 1 = m / 2 ^ k by omega]
        exact (Nat.div_mul_le_self m _).trans hm
      have hnext : start + 2 ^ k = m / 2 ^ k * 2 ^ k := by
        rw [hstart, ← Nat.succ_mul]
        congr 1
        omega
      have hdvd : start / 2 ^ k * 2 ^ k = start := by rw [hstart, Nat.mul_div_cancel _ hpos]
      have hroom : start + 2 ^ k ≤ l.length := by rw [Nat.add_mul, hdvd] at hend; omega
      have hblock : (l.drop start).take (2 ^ k) ≠ [] := by
        rw [← List.length_pos_iff_ne_nil, List.length_take, List.length_drop]
        omega
      have hrest := prefixOf_eq hf (n := n) hm k (start + 2 ^ k) (by omega) hnext
      rw [if_neg (by omega), List.take_add] at hrest
      rw [if_pos (by simp [h1]), treeLevels_getD f n k l (by omega), treeBlock_eq hf k _ l hend, hdvd]
      by_cases hz : start = 0
      · subst hz
        rw [List.take_zero, List.nil_append] at hrest
        exact hrest
      · have hbefore : l.take start ≠ [] := by
          rw [← List.length_pos_iff_ne_nil, List.length_take]
          omega
        rw [combine_append hf hbefore hblock] at hrest
        rw [if_neg hz]
        exact hrest

end Sys2Proof.Machine
end

section
/-! PROOFS. `vred` and `vscan` (R137 to R139): the tree over the group's slots, and for the integer operations the plain combination. -/

namespace Sys2Proof.Machine
open Sys2Proof

/-! ### The integer operations are associative -/

theorem ofInt_intVal (t : Ty) (c : Nat) : BitVec.ofInt t.width (intVal t c) = BitVec.ofNat t.width c := by
  unfold intVal
  split
  · exact BitVec.ofInt_toInt
  · rw [BitVec.ofInt_natCast]
    apply BitVec.eq_of_toNat_eq
    simp

theorem elAdd_wrap_eq (t : Ty) (a b : Nat) : elAdd t false a b = (BitVec.ofNat t.width a + BitVec.ofNat t.width b).toNat := by
  have hadd : elAdd t false a b = (BitVec.ofInt t.width (intVal t a + intVal t b)).toNat := rfl
  rw [hadd, BitVec.ofInt_add, ofInt_intVal, ofInt_intVal]

theorem elAdd_wrap_assoc (t : Ty) (a b c : Nat) : elAdd t false (elAdd t false a b) c = elAdd t false a (elAdd t false b c) := by
  simp only [elAdd_wrap_eq, BitVec.ofNat_toNat, BitVec.setWidth_eq, BitVec.add_assoc]

theorem intVal_elMin (t : Ty) (a b : Nat) : intVal t (elMin t a b) = min (intVal t a) (intVal t b) := by
  have h := (intRes_min_mod t a b).2
  rwa [Nat.mod_eq_of_lt (show elMin t a b < 2 ^ t.width from intRes_lt _ _ _), ← min_def] at h

theorem intVal_elMax (t : Ty) (a b : Nat) : intVal t (elMax t a b) = max (intVal t a) (intVal t b) := by
  have h := (intRes_max_mod t a b).2
  rwa [Nat.mod_eq_of_lt (show elMax t a b < 2 ^ t.width from intRes_lt _ _ _), ← max_def] at h

theorem elMin_assoc (t : Ty) (a b c : Nat) : elMin t (elMin t a b) c = elMin t a (elMin t b c) := by
  rw [elMin, intVal_elMin, min_assoc, ← intVal_elMin, ← elMin]

theorem elMax_assoc (t : Ty) (a b c : Nat) : elMax t (elMax t a b) c = elMax t a (elMax t b c) := by
  rw [elMax, intVal_elMax, max_assoc, ← intVal_elMax, ← elMax]

section
variable {o : Nat} (ho : 3 ≤ o)
include ho

theorem redOp_assoc (t : Ty) (rm : Rm) (a b c : Nat) :
    redOp o t rm false (redOp o t rm false a b) c = redOp o t rm false a (redOp o t rm false b c) := by
  match o, ho with
  | 3, _ => exact elAdd_wrap_assoc t a b c
  | 4, _ => exact elMin_assoc t a b c
  | 5, _ => exact elMax_assoc t a b c
  | 6, _ => exact Nat.and_assoc a b c
  | _ + 7, _ => exact Nat.or_assoc a b c

theorem redOp_lt (t : Ty) (rm : Rm) {a b : Nat} (ha : a < 2 ^ t.width) (hb : b < 2 ^ t.width) : redOp o t rm false a b < 2 ^ t.width := by
  match o, ho with
  | 3, _ | 4, _ | 5, _ => exact intRes_lt _ _ _
  | 6, _ => exact Nat.and_lt_two_pow a hb
  | _ + 7, _ => exact Nat.or_lt_two_pow ha hb

theorem redId_lt (t : Ty) : redId o t < 2 ^ t.width := by
  have hw : 2 ^ t.width = 2 * 2 ^ (t.width - 1) := by rw [← pow_succ']; congr 1; have := Ty.width_pos t; omega
  have hpos : 0 < 2 ^ (t.width - 1) := by positivity
  unfold redId
  dsimp only
  generalize 2 ^ (t.width - 1) = top at *
  rw [hw]
  match o, ho with
  | 3, _ | _ + 7, _ => exact (by omega : 0 < 2 * top)
  | 4, _ => exact (by split <;> omega : (if t.signed then top - 1 else 2 * top - 1) < 2 * top)
  | 5, _ => exact (by split <;> omega : (if t.signed then top else 0) < 2 * top)
  | 6, _ => exact (by omega : 2 * top - 1 < 2 * top)

end

/-! ### The slots of a group -/

theorem treeDepth_pow (t : Ty) : 2 ^ treeDepth t = 32 * t.count := by cases t <;> rfl

@[simp] theorem State.countIssue_slotVals (s : State) (i : Instr) (x : V96A) (ts : List Nat) (n : Nat) :
    (s.countIssue i s.cur.tids).slotVals x ts n = s.slotVals x ts n := by
  unfold State.slotVals
  simp only [State.countIssue_el]

theorem State.groupTree_eq (s : State) (x : V96A) (ts : List Nat) (n : Nat) :
    s.groupTree x ts n = treeLevels (redOp (x.opx.extractLsb' 0 3).toNat x.ty x.rm (x.sat == .sat)) (treeDepth x.ty) (s.slotVals x ts n) := rfl

theorem State.slotVals_length (s : State) (x : V96A) (ts : List Nat) (n : Nat) : (s.slotVals x ts n).length = 2 ^ treeDepth x.ty := by
  rw [treeDepth_pow]
  simp [State.slotVals]

theorem State.slotVals_lt {x : V96A} (ho : 3 ≤ (x.opx.extractLsb' 0 3).toNat) (hty : x.ty.isFloat = false) (s : State) (ts : List Nat) (n : Nat) :
    ∀ v ∈ s.slotVals x ts n, v < 2 ^ x.ty.width := by
  unfold State.slotVals
  rw [List.forall_mem_map]
  intro k _
  split
  · exact s.el_lt hty _ _ _
  · exact redId_lt ho x.ty

/-! ### The instructions -/

theorem isFloat_of_wfRedOp {x : V96A} (h : wfRedOp x = true) (ho : 3 ≤ (x.opx.extractLsb' 0 3).toNat) : x.ty.isFloat = false := by
  unfold wfRedOp at h
  dsimp only at h
  rw [if_neg (by omega)] at h
  simp only [Bool.and_eq_true] at h
  exact Ty.isFloat_of_isInt h.1.1

/-- The hypotheses of a plain combination: an integer operation that wraps. -/
structure PlainRed (x : V96A) : Prop where
  opn : 3 ≤ (x.opx.extractLsb' 0 3).toNat
  wrap : (x.sat == .sat) = false
  int : x.ty.isFloat = false

theorem PlainRed.of_wf {x : V96A} (h : wfRedOp x = true) (hplain : 3 ≤ (x.opx.extractLsb' 0 3).toNat ∧ x.sat = .none) : PlainRed x :=
  ⟨hplain.1, by rw [hplain.2]; rfl, isFloat_of_wfRedOp h hplain.1⟩

section
variable {x : V96A} (h : PlainRed x) (s : State) (ts : List Nat) (n : Nat)
include h

theorem PlainRed.assoc (a b c : Nat) :
    let op := redOp (x.opx.extractLsb' 0 3).toNat x.ty x.rm (x.sat == .sat)
    op (op a b) c = op a (op b c) := by
  rw [h.wrap]
  exact redOp_assoc h.opn x.ty x.rm a b c

theorem PlainRed.combine_lt {l : List Nat} (hl : ∀ v ∈ l, v ∈ s.slotVals x ts n) :
    combine (redOp (x.opx.extractLsb' 0 3).toNat x.ty x.rm (x.sat == .sat)) l < 2 ^ x.ty.width := by
  rw [h.wrap]
  exact Sys2Proof.Machine.combine_lt (fun _ _ ha hb => redOp_lt h.opn x.ty x.rm ha hb) (by positivity)
    fun v hv => s.slotVals_lt h.opn h.int ts n v (hl v hv)

/-- The root combines all slots. -/
theorem PlainRed.root :
    ((s.groupTree x ts n).getD (treeDepth x.ty) []).getD 0 0 % 2 ^ x.ty.width =
      combine (redOp (x.opx.extractLsb' 0 3).toNat x.ty x.rm (x.sat == .sat)) (s.slotVals x ts n) := by
  have hlen := s.slotVals_length x ts n
  rw [State.groupTree_eq, treeLevels_getD _ _ _ _ le_rfl, treeBlock_eq h.assoc _ _ _ (by rw [hlen]; omega), Nat.zero_mul, List.drop_zero,
    List.take_of_length_le hlen.le]
  exact Nat.mod_eq_of_lt (h.combine_lt s ts n fun v hv => hv)

/-- The slots up to a place combine in slot order. -/
theorem PlainRed.firstSlots {m : Nat} (hm : m ≤ 2 ^ treeDepth x.ty) (id : Nat) :
    (prefixOf (redOp (x.opx.extractLsb' 0 3).toNat x.ty x.rm (x.sat == .sat)) (s.groupTree x ts n) m (treeDepth x.ty + 1) 0 none).getD id %
        2 ^ x.ty.width =
      if m = 0 then id % 2 ^ x.ty.width
      else combine (redOp (x.opx.extractLsb' 0 3).toNat x.ty x.rm (x.sat == .sat)) ((s.slotVals x ts n).take m) := by
  have hall := prefixOf_eq h.assoc (n := treeDepth x.ty) (l := s.slotVals x ts n) (m := m) (by rw [s.slotVals_length]; exact hm)
    (treeDepth x.ty + 1) 0 le_rfl (by rw [Nat.div_eq_of_lt (hm.trans_lt (Nat.pow_lt_pow_right (by norm_num) (by omega))), Nat.zero_mul])
  rw [if_pos rfl] at hall
  rw [State.groupTree_eq, hall]
  split
  · rfl
  · exact Nat.mod_eq_of_lt (h.combine_lt s ts n fun v hv => List.mem_of_mem_take hv)

end

theorem exec_vred (x : V96A) (s : State) (h : s.clean (.vred x) = true) : ∃ t, exec (.vred x) s = .next t ∧
    s.Computes t (.vred x) x.d fun n w => ∀ e < x.ty.count,
      subEl x.ty w e = ((s.groupTree x (s.executing (.vred x)) n).getD (treeDepth x.ty) []).getD 0 0 % 2 ^ x.ty.width := by
  refine State.run_groupBody h fun n e he => ?_
  simp only [State.groupTree_eq, State.countIssue_slotVals]
  rw [subEl_mapEl _ _ _ he]

theorem exec_vscan (x : V96A) (s : State) (h : s.clean (.vscan x) = true) : ∃ t, exec (.vscan x) s = .next t ∧
    s.Computes t (.vscan x) x.d fun n w => ∀ e < x.ty.count,
      subEl x.ty w e = (prefixOf (redOp (x.opx.extractLsb' 0 3).toNat x.ty x.rm (x.sat == .sat)) (s.groupTree x (s.executing (.vscan x)) n)
        (laneOf n * x.ty.count + e + (if x.opx.getLsbD 3 then 0 else 1)) (treeDepth x.ty + 1) 0 none).getD
          (redId (x.opx.extractLsb' 0 3).toNat x.ty) % 2 ^ x.ty.width := by
  refine State.run_groupBody h fun n e he => ?_
  simp only [State.groupTree_eq, State.countIssue_slotVals]
  rw [subEl_mapEl _ _ _ he]
  rfl

/-- Settles O10: the tree over the slots at its root or for the slots up to a place; an integer operation combines them in slot order. -/
theorem reductionsAndScans : Obligations.ReductionsAndScans := by
  unfold Obligations.ReductionsAndScans
  refine ⟨fun x s h => ?vred, fun x s h => ?vscan⟩
  case vred =>
    obtain ⟨t, hrun, hcomp⟩ := exec_vred x s h
    refine ⟨t, hrun, hcomp.mono fun n w hw => ⟨hw, fun hplain e he => (hw e he).trans ?_⟩⟩
    have hwf : wfRedOp x = true := by
      have := State.clean_wf h
      simp only [Instr.wfIn, Bool.and_eq_true] at this
      exact this.2
    exact (PlainRed.of_wf hwf hplain).root s _ n
  case vscan =>
    obtain ⟨t, hrun, hcomp⟩ := exec_vscan x s h
    refine ⟨t, hrun, hcomp.mono fun n w hw e he => ⟨hw e he, fun hplain => (hw e he).trans ?_⟩⟩
    have hwf : wfRedOp x = true := by
      have := State.clean_wf h
      simp only [Instr.wfIn, Bool.and_eq_true] at this
      exact this.2
    have hlane := laneOf_lt n
    have hm : laneOf n * x.ty.count + e + (if x.opx.getLsbD 3 then 0 else 1) ≤ 2 ^ treeDepth x.ty := by
      rw [treeDepth_pow]
      have : laneOf n * x.ty.count ≤ 31 * x.ty.count := Nat.mul_le_mul_right _ (by omega)
      split <;> omega
    rw [(PlainRed.of_wf hwf hplain).firstSlots s _ n hm]
    generalize laneOf n * x.ty.count + e + (if x.opx.getLsbD 3 then 0 else 1) = m
    split
    · rfl
    · exact combine_take _ _ ‹_›

end Sys2Proof.Machine
end

section
/-! PROOFS. The one rounding of the module (R153): the nearest or the named grid point, and a value of an IEEE format is its own rounding. -/

namespace Sys2Proof.Machine
open Sys2Proof

/-! ### Grid points -/

theorem roundMag_rne_spec (neg : Bool) (n : Nat) {d : Nat} (hd : 0 < d) :
    let k := roundMag .rne neg 0 n d
    2 * (k * d) ≤ 2 * n + d ∧ 2 * n ≤ 2 * (k * d) + d ∧ (2 * (n % d) = d → k % 2 = 0) := by
  have hn := Nat.div_add_mod n d
  have hr := Nat.mod_lt n hd
  rw [Nat.mul_comm] at hn
  simp only [roundMag]
  generalize n / d = k at *
  generalize n % d = r at *
  split
  · exact ⟨by omega, by omega, by omega⟩
  · split
    · rw [Nat.add_mul, Nat.one_mul]
      exact ⟨by omega, by omega, by omega⟩
    · rw [Nat.add_mul]
      rcases Nat.mod_two_eq_zero_or_one k with h | h <;> rw [h] <;> exact ⟨by omega, by omega, by omega⟩

theorem div_ceil_eq (n : Nat) {d : Nat} (hd : 0 < d) : (n + d - 1) / d = if n % d = 0 then n / d else n / d + 1 := by
  have hn := Nat.div_add_mod n d
  have hr := Nat.mod_lt n hd
  generalize n / d = k at *
  generalize n % d = r at *
  split
  · rw [show n + d - 1 = d * k + (d - 1) by omega, Nat.mul_add_div hd, Nat.div_eq_of_lt (by omega), Nat.add_zero]
  · rw [show n + d - 1 = d * (k + 1) + (r - 1) by rw [Nat.mul_add]; omega, Nat.mul_add_div hd, Nat.div_eq_of_lt (by omega), Nat.add_zero]

theorem roundMag_ru (neg : Bool) (n : Nat) {d : Nat} (hd : 0 < d) : roundMag .ru neg 0 n d = if neg then n / d else (n + d - 1) / d := by
  rw [div_ceil_eq n hd]
  cases neg <;> simp [roundMag]

theorem roundMag_rd (neg : Bool) (n : Nat) {d : Nat} (hd : 0 < d) : roundMag .rd neg 0 n d = if neg then (n + d - 1) / d else n / d := by
  rw [div_ceil_eq n hd]
  cases neg <;> simp [roundMag]

/-- A grid point is its own rounding in every mode. -/
theorem roundMag_exact (rm : Rm) (neg : Bool) {dr : Nat} (hdr : dr < 2 ^ 24) (m : Nat) {d : Nat} (hd : 0 < d) : roundMag rm neg dr (m * d) d = m := by
  have hk : m * d / d = m := Nat.mul_div_cancel m hd
  have hr : m * d % d = 0 := Nat.mul_mod_left m d
  cases rm <;> simp only [roundMag, hk, hr]
  case rne => rw [if_pos (by omega)]
  case ru | rd => rfl
  case rs => rw [if_neg (by rw [Nat.zero_mul, Nat.zero_div]; omega)]

/-! ### The logarithm of a scaled number -/

theorem log2_mul_pow {m : Nat} (hm : m ≠ 0) (a : Nat) : (m * 2 ^ a).log2 = m.log2 + a := by
  rw [Nat.log2_eq_iff (by positivity), Nat.pow_add, show m.log2 + a + 1 = m.log2 + 1 + a by omega, Nat.pow_add]
  exact ⟨Nat.mul_le_mul_right _ (Nat.log2_self_le hm), Nat.mul_lt_mul_of_pos_right Nat.lt_log2_self (by positivity)⟩

theorem floorLog2_scaled {m : Nat} (hm : m ≠ 0) (a b : Nat) : floorLog2 (m * 2 ^ a) (2 ^ b) = (m.log2 : Int) + a - b := by
  have hle := Nat.log2_self_le hm
  unfold floorLog2
  simp only [log2_mul_pow hm, Nat.log2_two_pow]
  push_cast
  by_cases h : (0 : Int) ≤ (m.log2 : Int) + a - b
  · have hpow : 2 ^ b * 2 ^ ((m.log2 : Int) + a - b).toNat ≤ m * 2 ^ a := by
      rw [← Nat.pow_add, show b + ((m.log2 : Int) + a - b).toNat = m.log2 + a by omega, Nat.pow_add]
      exact Nat.mul_le_mul_right _ hle
    rw [if_pos h, if_pos (decide_eq_true hpow)]
  · have hpow : 2 ^ b ≤ m * 2 ^ a * 2 ^ (-((m.log2 : Int) + a - b)).toNat := by
      rw [Nat.mul_assoc, ← Nat.pow_add, show b = m.log2 + (a + (-((m.log2 : Int) + a - b)).toNat) by omega, Nat.pow_add]
      exact Nat.mul_le_mul hle (Nat.pow_le_pow_right (by norm_num) (by omega))
    rw [if_neg h, if_pos (decide_eq_true hpow)]

/-! ### Values of an IEEE format -/

/-- A format with a sign, infinities and a negative zero. -/
structure Flt.Signed (f : Flt) : Prop where
  uns : f.uns = false
  ieee : f.ieee = true
  p_pos : 0 < f.p
  bits_pos : 0 < f.bits

section
variable {f : Flt} (hf : f.Signed)
include hf

theorem Flt.Signed.code_eq (neg : Bool) (m : Nat) : f.code neg m = if neg then m + 2 ^ (f.bits - 1) else m := by
  rw [Flt.code, hf.ieee, Bool.true_or, Bool.and_true]

/-- A significand on the grid of its exponent encodes exactly. -/
theorem Flt.Signed.enc_scaled (rm : Rm) (satf neg : Bool) {dr : Nat} (hdr : dr < 2 ^ 24) {m : Nat} {e : Int} (hm : m < 2 ^ f.p)
    (he : f.emin - (f.p - 1 : Nat) ≤ e) (hn : 2 ^ (f.p - 1) ≤ m ∨ e = f.emin - (f.p - 1 : Nat))
    (hmax : (e - (f.emin - (f.p - 1 : Nat))).toNat * 2 ^ (f.p - 1) + m ≤ f.maxc) :
    f.enc rm satf dr (X.scaled neg m e) = f.code neg ((e - (f.emin - (f.p - 1 : Nat))).toNat * 2 ^ (f.p - 1) + m) := by
  have hp := hf.p_pos
  have hlog : m ≠ 0 → m.log2 ≤ f.p - 1 := fun h0 => Nat.le_sub_one_of_lt ((Nat.log2_lt h0).2 hm)
  have htop : ∀ l : Int, (m ≠ 0 → l = (m.log2 : Int) + e) → (if m = 0 then f.emin else max l f.emin) = e + (f.p - 1 : Nat) := by
    intro l hl
    by_cases h0 : m = 0
    · have hpos : 0 < 2 ^ (f.p - 1) := by positivity
      rw [if_pos h0]
      omega
    · rw [if_neg h0, hl h0]
      have := hlog h0
      rcases hn with hn | hn
      · have : f.p - 1 ≤ m.log2 := (Nat.le_log2 h0).2 hn
        omega
      · omega
  have hexp : (e + (f.p - 1 : Nat) - f.emin).toNat = (e - (f.emin - (f.p - 1 : Nat))).toNat := by omega
  have hgrid : e + ((f.p - 1 : Nat) : Int) - ((f.p : Int) - 1) = e := by omega
  unfold X.scaled
  by_cases hpos : 0 ≤ e
  · have hlog2 := htop (floorLog2 (m * 2 ^ e.toNat) 1) fun h0 => by
      rw [← pow_zero 2, floorLog2_scaled h0]
      omega
    have hzero : (m * 2 ^ e.toNat == 0) = decide (m = 0) := by
      rw [Bool.eq_iff_iff, beq_iff_eq, decide_eq_true_iff, Nat.mul_eq_zero]
      exact or_iff_left (by positivity)
    rw [if_pos hpos]
    simp only [Flt.enc, hf.uns, Bool.false_and, Bool.false_eq_true, if_false, hzero, decide_eq_true_eq, hlog2, hgrid, if_pos hpos, hexp, Nat.one_mul,
      roundMag_exact rm neg hdr m (show 0 < 2 ^ e.toNat by positivity), if_neg (not_lt.2 hmax)]
  · have hlog2 := htop (floorLog2 m (2 ^ (-e).toNat)) fun h0 => by
      have := floorLog2_scaled h0 0 (-e).toNat
      rw [pow_zero, Nat.mul_one] at this
      rw [this]
      omega
    rw [if_neg hpos]
    simp only [Flt.enc, hf.uns, Bool.false_and, Bool.false_eq_true, if_false, beq_iff_eq, hlog2, hgrid, if_neg hpos, hexp,
      roundMag_exact rm neg hdr m (show 0 < 2 ^ (-e).toNat by positivity), if_neg (not_lt.2 hmax)]

theorem Flt.Signed.enc_mag (rm : Rm) (satf neg : Bool) {dr : Nat} (hdr : dr < 2 ^ 24) {c : Nat} (hc : c ≤ f.maxc) :
    f.enc rm satf dr (f.mag neg c) = f.code neg c := by
  have hp := hf.p_pos
  have hpow : 2 ^ f.p = 2 * 2 ^ (f.p - 1) := by rw [← pow_succ']; congr 1; omega
  have hdiv := Nat.div_add_mod c (2 ^ (f.p - 1))
  have hmod := Nat.mod_lt c (show 0 < 2 ^ (f.p - 1) by positivity)
  rw [Nat.mul_comm] at hdiv
  unfold Flt.mag
  dsimp only
  generalize c / 2 ^ (f.p - 1) = e at *
  generalize c % 2 ^ (f.p - 1) = m at *
  by_cases h0 : e = 0
  · subst h0
    have hval : (f.emin - ((f.p - 1 : Nat) : Int) - (f.emin - (f.p - 1 : Nat))).toNat * 2 ^ (f.p - 1) + m = c := by rw [sub_self]; simpa using hdiv
    rw [if_pos (beq_self_eq_true 0), hf.enc_scaled rm satf neg hdr (by omega) le_rfl (.inr rfl) (by omega), hval]
  · have hval : (f.emin + ((e - 1 : Nat) : Int) - (f.p - 1 : Nat) - (f.emin - (f.p - 1 : Nat))).toNat * 2 ^ (f.p - 1) + (m + 2 ^ (f.p - 1)) = c := by
      rw [show (f.emin + ((e - 1 : Nat) : Int) - (f.p - 1 : Nat) - (f.emin - (f.p - 1 : Nat))).toNat = e - 1 by omega, Nat.add_comm m, ← Nat.add_assoc,
        ← Nat.succ_mul, show (e - 1).succ = e by omega]
      exact hdiv
    rw [if_neg (by simpa using h0), hf.enc_scaled rm satf neg hdr (by omega) (by omega) (.inl (by omega)) (by omega), hval]

/-- A finite value of the format is its own rounding. -/
theorem Flt.Signed.enc_decode (rm : Rm) (satf : Bool) {dr : Nat} (hdr : dr < 2 ^ 24) {c : Nat} (hc : c < 2 ^ f.bits) (hfin : (f.decode c).isFin = true) :
    f.enc rm satf dr (f.decode c) = c := by
  have hpow : 2 ^ f.bits = 2 * 2 ^ (f.bits - 1) := by rw [← pow_succ']; congr 1; have := hf.bits_pos; omega
  have hdec : f.decode c = if c % 2 ^ (f.bits - 1) ≤ f.maxc then f.mag (decide (2 ^ (f.bits - 1) ≤ c)) (c % 2 ^ (f.bits - 1))
      else if c % 2 ^ (f.bits - 1) == f.maxc + 1 then .inf (decide (2 ^ (f.bits - 1) ≤ c)) else .nan := by
    simp only [Flt.decode, hf.uns, hf.ieee, Nat.mod_eq_of_lt hc, if_true, Bool.false_eq_true, if_false]
  have hle : c % 2 ^ (f.bits - 1) ≤ f.maxc := by
    by_contra hgt
    rw [hdec, if_neg hgt] at hfin
    split at hfin <;> cases hfin
  rw [hdec, if_pos hle, hf.enc_mag rm satf _ hdr hle, hf.code_eq]
  rcases Nat.lt_or_ge c (2 ^ (f.bits - 1)) with hlt | hge
  · rw [if_neg (by simpa using hlt), Nat.mod_eq_of_lt hlt]
  · rw [if_pos (by simpa using hge), Nat.mod_eq_sub_mod hge, Nat.mod_eq_of_lt (by omega), Nat.sub_add_cancel hge]

end

theorem tyFlt_signed (ty : Ty) : (tyFlt ty).Signed := by
  cases ty <;> exact ⟨rfl, rfl, by decide, by decide⟩

theorem tyFlt_bits {ty : Ty} (h : ty ∈ [Ty.f16x4, .bf16x4, .f32x2, .f64]) : (tyFlt ty).bits = ty.width := by
  simp only [List.mem_cons, List.not_mem_nil, or_false] at h
  rcases h with rfl | rfl | rfl | rfl <;> rfl

end Sys2Proof.Machine
end

section
/-! PROOFS. Float arithmetic and conversions (R121 to R125): the function of each instruction on the sub-elements, and the part of D that a conversion
writes. -/

namespace Sys2Proof.Machine
open Sys2Proof

/-! ### Sub-elements replaced in a register -/

theorem subEl_testBit (ty : Ty) (w : Word) (e j : Nat) :
    (subEl ty w e).testBit j = (decide (j < ty.width) && w.getLsbD (ty.width * e + j)) := by
  rw [subEl, Nat.testBit_mod_two_pow, Nat.testBit_div_two_pow, BitVec.testBit_toNat, Nat.add_comm]

/-- The bits of a sub-element lie inside the register. -/
theorem Ty.bit_lt {ty : Ty} {e j : Nat} (he : e < ty.count) (hj : j < ty.width) : ty.width * e + j < 64 := by
  have h : ty.width * (e + 1) ≤ 64 := by rw [← Ty.width_mul_count ty]; exact Nat.mul_le_mul_left _ he
  rw [Nat.mul_add] at h
  omega

theorem setEl_getLsbD (ty : Ty) (w : Word) (e c : Nat) {k : Nat} (hk : k < 64) :
    (setEl ty w e c).getLsbD k = if ty.width * e ≤ k ∧ k < ty.width * e + ty.width then c.testBit (k - ty.width * e) else w.getLsbD k := by
  rw [setEl, subEl, BitVec.getLsbD_ofNat, decide_eq_true hk, Bool.true_and, replaceField_testBit, BitVec.testBit_toNat]

theorem subEl_setEl (ty : Ty) (w : Word) (c : Nat) {e e' : Nat} (he' : e' < ty.count) :
    subEl ty (setEl ty w e c) e' = if e' = e then c % 2 ^ ty.width else subEl ty w e' := by
  apply Nat.eq_of_testBit_eq
  intro j
  rw [subEl_testBit ty]
  by_cases hj : j < ty.width
  · rw [decide_eq_true hj, Bool.true_and, setEl_getLsbD ty w e c (Ty.bit_lt he' hj)]
    by_cases h : e' = e
    · rw [if_pos h, h, if_pos ⟨by omega, by omega⟩, testBit_mod_width hj, Nat.add_sub_cancel_left]
    · have hout : ¬ (ty.width * e ≤ ty.width * e' + j ∧ ty.width * e' + j < ty.width * e + ty.width) := by
        rintro ⟨hlo, hhi⟩
        rcases Nat.lt_or_gt_of_ne h with hlt | hgt
        · have := Nat.mul_le_mul_left ty.width hlt
          rw [Nat.mul_succ] at this
          omega
        · have := Nat.mul_le_mul_left ty.width hgt
          rw [Nat.mul_succ] at this
          omega
      rw [if_neg hout, if_neg h, subEl_testBit ty w, decide_eq_true hj, Bool.true_and]
  · rw [decide_eq_false hj, Bool.false_and]
    split
    · rw [Nat.testBit_mod_two_pow, decide_eq_false hj, Bool.false_and]
    · rw [subEl_testBit ty w, decide_eq_false hj, Bool.false_and]

/-- A run of sub-elements replaced from place q on. -/
theorem subEl_foldl_setEl (ty : Ty) (g : Nat → Nat) (q : Nat) (w : Word) {e : Nat} (he : e < ty.count) : ∀ k,
    subEl ty ((List.range k).foldl (fun d j => setEl ty d (q + j) (g j)) w) e =
      if q ≤ e ∧ e < q + k then g (e - q) % 2 ^ ty.width else subEl ty w e
  | 0 => by rw [if_neg (by omega)]; rfl
  | k + 1 => by
    rw [List.range_succ, List.foldl_concat, subEl_setEl ty _ _ he, subEl_foldl_setEl ty g q w he k]
    by_cases h : e = q + k
    · rw [if_pos h, if_pos ⟨by omega, by omega⟩, h, Nat.add_sub_cancel_left]
    · rw [if_neg h]
      congr 1
      rw [eq_iff_iff]
      omega

/-! ### Bodies without draws -/

/-- Without stochastic rounding nothing is drawn (R154). -/
theorem drawBody_plain {rm : Rm} (h : rm ≠ .rs) (d : Opnd) (k : Nat) (f : State → Nat → (Nat → Nat) → Word) :
    drawBody rm d k f = resultBody d fun s n => f s n fun _ => 0 := by
  funext s ts
  unfold drawBody
  rw [if_pos (by simpa using h)]
  rfl

theorem State.run_fbody2 {s : State} {i : Instr} {x : V96A} (f : Flt → Rm → Bool → Bool → Nat → Nat → Nat → Nat)
    (h : s.clean i = true) (hrm : x.rm ≠ .rs) :
    ∃ t, s.run i (fbody2 x f) = .next t ∧ s.Computes t i x.d fun n w => ∀ e < x.ty.count,
      subEl x.ty w e = f (tyFlt x.ty) x.rm (x.sat == .satf) (x.opx.getLsbD 3) 0 (s.el n x.ty x.a e) (s.el n x.ty x.b e) % 2 ^ x.ty.width := by
  rw [fbody2, drawBody_plain hrm]
  refine s.run_resultBody _ _ _ _ h fun n e he => ?_
  simp only [State.countIssue_el]
  rw [subEl_mapEl _ _ _ he]
  rfl

theorem exec_ffma (x : V96A) (s : State) (h : s.clean (.ffma x) = true) (hrm : x.rm ≠ .rs) : ∃ t, exec (.ffma x) s = .next t ∧
    s.Computes t (.ffma x) x.d fun n w => ∀ e < x.ty.count,
      subEl x.ty w e = fltFma (tyFlt x.ty) x.rm (x.sat == .satf) (x.opx.getLsbD 3) 0 (s.el n x.ty x.a e) (s.el n x.ty x.b e) (s.el n x.ty x.c e) %
        2 ^ x.ty.width := by
  show ∃ t, execFfma x s = .next t ∧ _
  rw [execFfma, drawBody_plain hrm]
  refine s.run_resultBody _ _ _ _ h fun n e he => ?_
  simp only [State.countIssue_el]
  rw [subEl_mapEl _ _ _ he]
  rfl

/-! ### Conversions (R125) -/

/-- A quarter Q that fits, where sources and results are equally many, is 0. -/
theorem cvtOpx_zero {x : V96A} (h : cvtOpx x = true) (heq : x.ty2.count = x.ty.count) : (x.opx.extractLsb' 0 2).toNat = 0 := by
  unfold cvtOpx at h
  simp only [Bool.and_eq_true, decide_eq_true_iff, heq, max_self, min_self, Nat.div_self (Ty.count_pos x.ty)] at h
  omega

theorem State.run_cvtBody {s : State} {i : Instr} {x : V96A} (h : s.clean i = true) (hopx : cvtOpx x = true) (hrm : x.rm ≠ .rs) :
    ∃ t, s.run i (cvtBody x) = .next t ∧ s.Computes t i x.d fun n w => ∀ e < x.ty.count,
      let q := (x.opx.extractLsb' 0 2).toNat
      let one := fun c => convEl x.ty x.ty2 x.rm (x.sat == .satf) (x.opx.getLsbD 3) 0 c % 2 ^ x.ty.width
      subEl x.ty w e =
        if x.ty.count < x.ty2.count then one (s.el n x.ty2 x.a (q * x.ty.count + e))
        else if q * x.ty2.count ≤ e ∧ e < q * x.ty2.count + x.ty2.count then one (s.el n x.ty2 x.a (e - q * x.ty2.count))
        else subEl x.ty (s.opnd n x.d) e := by
  unfold cvtBody
  dsimp only
  rw [drawBody_plain hrm]
  refine s.run_resultBody _ _ _ _ h fun n e he => ?_
  simp only [State.countIssue_el, State.countIssue_opnd]
  by_cases hlt : x.ty.count < x.ty2.count
  · rw [if_neg (not_le.2 hlt), if_pos hlt, subEl_mapEl _ _ _ he]
    rfl
  · rw [if_pos (not_lt.1 hlt), if_neg hlt,
      subEl_foldl_setEl x.ty (fun j => convEl x.ty x.ty2 x.rm (V96A.isSatf x) (V96A.isFtz x) 0 (s.el n x.ty2 x.a j)) _ _ he]
    split
    · rfl
    · have hne : x.ty.count ≠ x.ty2.count := by
        intro heq
        have hq := cvtOpx_zero hopx heq.symm
        simp only [hq] at *
        omega
      rw [if_neg (by simpa using hne)]

/-- Settles O5: each instruction by its body without draws, the rounding by its grid points. -/
theorem floatArithmeticRoundsOnce : Obligations.FloatArithmeticRoundsOnce := by
  unfold Obligations.FloatArithmeticRoundsOnce
  refine ⟨fun x s h hrm => ?add, fun x s h hrm => ?sub, fun x s h hrm => ?mul, exec_ffma, fun x s h hrm => ?fcvt, fun x s h hrm => ?icvtf,
    fun x s h hrm => ?fcvti, fun neg n d hd => ?grid, fun ty hty c dr rm satf hc hdr hfin => ?exact⟩
  case add => exact State.run_fbody2 fltAdd h hrm
  case sub => exact State.run_fbody2 fltSub h hrm
  case mul => exact State.run_fbody2 fltMul h hrm
  case fcvt | icvtf =>
    have hwf := State.clean_wf h
    simp only [Instr.wfIn, wfFloat, Bool.and_eq_true] at hwf
    exact State.run_cvtBody h hwf.2 hrm
  case fcvti =>
    have hwf := State.clean_wf h
    simp only [Instr.wfIn, Bool.and_eq_true] at hwf
    exact State.run_cvtBody h hwf.2 hrm
  case grid => exact ⟨roundMag_rne_spec neg n hd, rfl, roundMag_ru neg n hd, roundMag_rd neg n hd⟩
  case exact => exact (tyFlt_signed ty).enc_decode rm satf hdr (tyFlt_bits hty ▸ hc) hfin

end Sys2Proof.Machine
end

section
/-! PROOFS. Activation tables (R127, R128, R130, R131): `tbl`, which sends its results thread by thread, and the events of a table slot. -/

namespace Sys2Proof.Machine
open Sys2Proof

/-! ### A bundle that goes on after a body that leaves the threads alone -/

/-- A bundle whose body leaves every thread as it was counted: the threads go on, and the rest is the body's. -/
theorem State.run_clean_next {s u : State} {i : Instr} {body : Body} (h : s.clean i = true)
    (hb : body (s.countIssue i s.cur.tids) (s.executing i) = (u, [])) (hthr : ∀ k, u.thread? k = (s.countIssue i s.cur.tids).thread? k) :
    ∃ t, s.run i body = .next t ∧ t = { u with free := t.free, c := { u.c with threads := t.c.threads } } ∧
      (∀ k, t.thread k = (s.thread k).control (t.thread k)) ∧ (∀ k, k ∉ s.cur.tids → t.thread k = s.thread k) ∧ s.Advances t i := by
  have hn : s.cur.tids.Nodup := by
    simp only [State.clean, Bool.and_eq_true, decide_eq_true_eq] at h
    exact h.1.2
  have hrun := s.runBundle_clean i body h
  rw [hb] at hrun
  simp only [List.find?_nil, Option.elim_none] at hrun
  have hall := State.finish_all i (s.countIssue i s.cur.tids) s.cur.tids u.afterBody
  have hth := State.finish_all_thread i (s.countIssue i s.cur.tids) s.cur.tids hn u.afterBody
  change s.runBundle i body =
    (s.cur.tids.foldl (fun u n => State.finish i u (s.countIssue i s.cur.tids) n Ctl.next) u.afterBody).splitBundle s.cur.tids at hrun
  generalize s.cur.tids.foldl (fun u n => State.finish i u (s.countIssue i s.cur.tids) n Ctl.next) u.afterBody = w at hrun hall hth
  obtain ⟨f, hf, hbundle, hother⟩ := w.splitBundle_eq s.cur.tids
  have hthread : ∀ k, (s.runBundle i body).thread? k = (s.thread? k).map fun t =>
      if k ∈ s.cur.tids then f ((s.counted i t).onward u.afterBody i) else t := by
    intro k
    rw [hrun, hf, State.thread?_setThreads_map _ _ (fun t => by rw [hbundle]), hth, show u.afterBody.thread? k = u.thread? k from rfl, hthr,
      s.thread?_countIssue]
    cases hq : s.thread? k with
    | none => rfl
    | some t =>
      have ht : t.tid = k := by simpa using List.find?_some hq
      by_cases hm : k ∈ s.cur.tids
      · simp [hm]
      · simp [hm, hother t (ht ▸ hm)]
  refine ⟨s.runBundle i body, rfl, by rw [hrun, hf, hall]; rfl, fun k => ?_, fun k hk => ?_, fun k hk hs => ?_⟩ <;> unfold State.thread <;> rw [hthread]
  · cases s.thread? k with
    | none => rfl
    | some t =>
      simp only [Option.map_some, Option.getD_some]
      split
      · rw [hbundle, Thread.onward_control]
        rfl
      · rfl
  · cases s.thread? k <;> simp [hk]
  · cases hq : s.thread? k with
    | none => simp [hq] at hs
    | some t =>
      simp only [Option.map_some, Option.getD_some, hk, if_true]
      rw [hbundle]
      exact ⟨Thread.onward_park _ _ _, Thread.onward_wait _ _ _, fun hl => Thread.onward_pc u.afterBody i (s.counted i t) hl⟩

/-- A body that sends results and takes a free number. -/
theorem State.run_sends_free {s : State} {i : Instr} {body : Body} {l : List (RegRef × Option Word)} {k : Nat} (h : s.clean i = true)
    (hb : ∃ ps : List Pend, body (s.countIssue i s.cur.tids) (s.executing i) = ({ s.countIssue i s.cur.tids with free := k }.addPend ps, []) ∧
      ps.map (fun p => (p.dst, p.val)) = l) :
    ∃ t, s.run i body = .next t ∧ s.Sends t l ∧ s.OnlyResults t ∧ s.Advances t i := by
  obtain ⟨ps, hbody, hl⟩ := hb
  obtain ⟨t, hrun, ht, hctl, hother, hadv⟩ := State.run_clean_next h hbody fun _ => rfl
  rw [State.countIssue_eq] at ht
  have hpend : t.c.pend = s.c.pend ++ ps := by rw [ht]; rfl
  have heq : t = { s with free := t.free, c := { s.c with threads := t.c.threads, pend := t.c.pend }, b := { s.b with units := t.b.units } } := by
    rw [hpend, ht]
    rfl
  exact ⟨t, hrun, ⟨ps, hpend, hl⟩, ⟨heq, hctl, hother, State.OnlyResults.byteAt_of_eq heq⟩, hadv⟩

/-! ### `tbl` -/

/-- The active bank of a thread's workgroup, and the mark of a result that reads it. -/
def State.tblBank (s : State) (n : Nat) : Nat := (s.wgOf n).elim 0 fun g => g.table.act
def State.tblOp (s : State) (n : Nat) : Nat := (s.wgOf n).elim 0 fun g => tblMark g.key g.table.actNo

/-- The result of `tbl` for a thread (R128). -/
def State.tblValue (x : V96A) (s : State) (n : Nat) : Word :=
  mapEl x.ty fun e => tblEl (s.tblBank n) x.ty (V96A.isFtz x) (s.el n x.ty x.a e)

/-- The destinations of thread registers, thread by thread. -/
theorem State.targets_cons (s : State) {d : Opnd} (hd : d.isV = true) (n : Nat) (ts : List Nat) :
    s.targets (n :: ts) d = s.targets [n] d ++ s.targets ts d := by
  cases d with
  | v k =>
    simp only [State.targets, List.filterMap_cons, List.filterMap_nil]
    cases s.dest n (.v k) <;> rfl
  | _ => cases hd

theorem State.emit_sends (s : State) (ts : List Nat) (d : Opnd) (op : Nat) (f : Nat → Word) :
    ∃ ps : List Pend, (s.emit ts d op fun n => some (f n)) = s.addPend ps ∧ ps.map (fun p => (p.dst, p.val)) = s.valuesAt ts d f :=
  ⟨_, rfl, by simp [State.valuesAt]⟩

theorem State.valuesAt_nil (s : State) {d : Opnd} (hd : d.isV = true) (f : Nat → Word) : s.valuesAt [] d f = [] := by
  cases d with
  | v k => rfl
  | _ => cases hd

/-- Results sent thread by thread are the results of all the threads. -/
theorem State.foldl_emit {d : Opnd} (hd : d.isV = true) (op : Nat → Nat) (f : Nat → Word) : ∀ (ts : List Nat) (s : State),
    ∃ ps : List Pend, ts.foldl (fun s1 n => s1.emit [n] d (op n) fun n => some (f n)) s = s.addPend ps ∧
      ps.map (fun p => (p.dst, p.val)) = s.valuesAt ts d f
  | [], s => ⟨[], (State.addPend_nil s).symm, (s.valuesAt_nil hd f).symm⟩
  | n :: ts, s => by
    obtain ⟨p1, h1, hv1⟩ := s.emit_sends [n] d (op n) f
    obtain ⟨p2, h2, hv2⟩ := State.foldl_emit hd op f ts (s.addPend p1)
    refine ⟨p1 ++ p2, ?_, ?_⟩
    · rw [List.foldl_cons, h1, h2]
      simp only [State.addPend, State.setPend, List.append_assoc]
    · have hlater : (s.addPend p1).valuesAt ts d f = s.valuesAt ts d f := rfl
      rw [List.map_append, hv1, hv2, hlater, State.valuesAt, State.valuesAt, ← List.map_append, ← s.targets_cons hd]
      rfl

/-- What `tbl` does to its threads. -/
def tblBody (x : V96A) : Body := fun s ts =>
  (ts.foldl (fun s1 t =>
    match s.wgOf t with
    | some g => s1.emit [t] x.d (tblMark g.key g.table.actNo) fun t =>
        some (mapEl x.ty fun e => tblEl g.table.act x.ty (V96A.isFtz x) (s.el t x.ty x.a e))
    | none => s1.result [t] x.d fun t => BitVec.ofNat 64 (Config.freeChoice s.free t 5000)) { s with free := s.free + 1 }, [])

theorem exec_tbl (x : V96A) (s : State) : exec (.tbl x) s = s.run (.tbl x) (tblBody x) := rfl

/-- The result that `tbl` sends for one thread reads the bank of its workgroup. -/
theorem State.emit_tblValue {s : State} {n : Nat} {g : Wg} (hg : s.wgOf n = some g) (s1 : State) (x : V96A) :
    (s1.emit [n] x.d (tblMark g.key g.table.actNo) fun t => some (mapEl x.ty fun e => tblEl g.table.act x.ty (V96A.isFtz x) (s.el t x.ty x.a e))) =
      s1.emit [n] x.d (s.tblOp n) fun n => some (s.tblValue x n) := by
  have hop : s.tblOp n = tblMark g.key g.table.actNo := by rw [State.tblOp, hg]; rfl
  have hbank : s.tblBank n = g.table.act := by rw [State.tblBank, hg]; rfl
  unfold State.emit
  rw [hop]
  congr 1
  refine List.map_congr_left fun q hq => ?_
  have hqn : q.1 = n := by simpa using State.mem_of_targets hq
  simp only [hqn, State.tblValue, hbank]

theorem tblBody_eq {x : V96A} {s : State} {ts : List Nat} (h : ∀ n ∈ ts, (s.wgOf n).isSome) :
    tblBody x s ts = (ts.foldl (fun s1 n => s1.emit [n] x.d (s.tblOp n) fun n => some (s.tblValue x n)) { s with free := s.free + 1 }, []) := by
  refine congrArg (fun u : State => (u, ([] : List (Nat × Ctl)))) (List.foldl_ext _ _ _ fun s1 n hn => ?_)
  obtain ⟨g, hg⟩ := Option.isSome_iff_exists.1 (h n hn)
  simp only [hg]
  exact State.emit_tblValue hg s1 x

@[simp] theorem State.countIssue_tblValue (x : V96A) (s : State) (i : Instr) (n : Nat) :
    (s.countIssue i s.cur.tids).tblValue x n = s.tblValue x n := by
  simp only [State.tblValue, State.tblBank, State.countIssue_wgOf, State.countIssue_el]

theorem exec_tbl_sends (x : V96A) (s : State) (h : s.clean (.tbl x) = true) (hwg : ∀ n ∈ s.executing (.tbl x), (s.wgOf n).isSome) :
    ∃ t f, exec (.tbl x) s = .next t ∧ s.Sends t (s.valuesAt (s.executing (.tbl x)) x.d f) ∧
      (∀ n ∈ s.executing (.tbl x), ∀ g, s.wgOf n = some g → ∀ e < x.ty.count, subEl x.ty (f n) e =
        tblEl (if g.table.active then g.table.bank1 else g.table.bank0) x.ty (x.opx.getLsbD 3) (s.el n x.ty x.a e) % 2 ^ x.ty.width) ∧
      s.OnlyResults t ∧ s.Advances t (.tbl x) := by
  have hwf := State.clean_wf h
  simp only [Instr.wfIn, Bool.and_eq_true] at hwf
  obtain ⟨⟨⟨⟨-, hd⟩, -⟩, -⟩, -⟩ := hwf
  obtain ⟨ps, hps, hvals⟩ := State.foldl_emit hd (s.countIssue (.tbl x) s.cur.tids).tblOp (s.tblValue x) (s.executing (.tbl x))
    { s.countIssue (.tbl x) s.cur.tids with free := (s.countIssue (.tbl x) s.cur.tids).free + 1 }
  obtain ⟨t, hrun, hsends, honly, hadv⟩ := State.run_sends_free (k := (s.countIssue (.tbl x) s.cur.tids).free + 1) (body := tblBody x)
    (l := s.valuesAt (s.executing (.tbl x)) x.d (s.tblValue x)) h
    ⟨ps, by rw [tblBody_eq (by simpa only [State.countIssue_wgOf] using hwg)]; simp only [State.countIssue_tblValue, hps],
      hvals.trans (s.countIssue_valuesAt (.tbl x) _ x.d _)⟩
  refine ⟨t, s.tblValue x, (exec_tbl x s).trans hrun, hsends, fun n _ g hg e he => ?_, honly, hadv⟩
  rw [State.tblValue, State.tblBank, hg, subEl_mapEl _ _ _ he]
  rfl

/-! ### Events of a slot (R129 to R131) -/

theorem State.wg?_modWg {s : State} {key : Nat} {g : Wg} (hg : s.wg? key = some g) (f : Wg → Wg) (hf : ∀ h, (f h).key = h.key) :
    (s.modWg key f).wg? key = some (f g) := by
  have hkey : g.key = key := by simpa using List.find?_some hg
  unfold State.wg? at *
  simp only [State.modWg, State.setWgs, List.find?_map]
  have hsame : ((fun g : Wg => g.key == key) ∘ fun g => if g.key == key then f g else g) = fun g => g.key == key := by
    funext h
    simp only [Function.comp_apply]
    split
    · rw [hf]
    · rfl
  rw [hsame, hg, Option.map_some, if_pos (beq_iff_eq.2 hkey)]

theorem exec_tableSwap_exchanges {s : State} {key k : Nat} {g : Wg} (hg : s.wg? key = some g) (hk : g.table.swapAt = some k)
    (hq : s.bankQuiet key (1 - bit g.table.active) = true) :
    ∃ t h, exec (.tableSwap key) s = .next t ∧ t.wg? key = some h ∧ h.table.active = !g.table.active ∧ h.table.bank0 = g.table.bank0 ∧
      h.table.bank1 = g.table.bank1 ∧ h.table.jobs = g.table.jobs.eraseIdx k ∧ t.m = s.m := by
  have hquiet : s.bankQuiet key (1 - g.table.actNo) = true := hq
  refine ⟨s.tableSwap key, { g with table := { g.table with active := !g.table.active, jobs := g.table.jobs.eraseIdx k } }, rfl, ?_, rfl, rfl, rfl, rfl, ?_⟩
  · simp only [State.tableSwap, hg, hk, hquiet, Bool.not_true, Bool.false_eq_true, if_false]
    exact State.wg?_modWg hg (fun h => { h with table := { h.table with active := !h.table.active, jobs := h.table.jobs.eraseIdx k } }) fun _ => rfl
  · simp only [State.tableSwap, hg, hk, hquiet, Bool.not_true, Bool.false_eq_true, if_false]
    rfl

theorem exec_tblldWriteStart_starts {s : State} {key k : Nat} {g : Wg} (hg : s.wg? key = some g) (hk : g.table.loadAt = some k)
    (hq : s.bankQuiet key (1 - bit g.table.active) = true) :
    ∃ t h, exec (.tblldWriteStart key) s = .next t ∧ t.wg? key = some h ∧
      h.table.jobs = g.table.jobs.modify k (fun j => { j with started := true }) ∧ t.m = s.m := by
  have hquiet : s.bankQuiet key (1 - g.table.actNo) = true := hq
  refine ⟨s.modWg key fun h => { h with table := { h.table with jobs := h.table.jobs.modify k fun j => { j with started := true } } }, _, ?_,
    State.wg?_modWg hg _ fun _ => rfl, rfl, rfl⟩
  change execTblldWriteStart key s = _
  simp only [execTblldWriteStart, hg, hk, hquiet, if_true]

theorem exec_tblldComplete_fills {s : State} {key k : Nat} {g : Wg} {j : TableJob} (hg : s.wg? key = some g)
    (hk : (g.table.jobs.findIdx? fun j => j.started) = some k) (hj : g.table.jobs[k]? = some j) (hbad : j.bad = none) :
    ∃ t h, exec (.tblldComplete key) s = .next t ∧ t.wg? key = some h ∧
      (if g.table.active then h.table.bank0 = j.img ∧ h.table.bank1 = g.table.bank1 else h.table.bank1 = j.img ∧ h.table.bank0 = g.table.bank0) ∧
      h.table.active = g.table.active ∧ h.table.jobs = g.table.jobs.eraseIdx k ∧ t.m = s.m := by
  refine ⟨s.modWg key fun h => { h with table := { h.table.put (1 - g.table.actNo) j.img with jobs := h.table.jobs.eraseIdx k } }, _, ?_,
    State.wg?_modWg hg _ fun _ => rfl, ?_, ?_, ?_, rfl⟩
  · change execTblldComplete key s = _
    simp only [execTblldComplete, hg, hk, hj, hbad, State.loadedBank]
  · cases hact : g.table.active <;> simp [TableSlot.put, TableSlot.actNo, hact, bit]
  · unfold TableSlot.put
    split <;> rfl
  · rfl

end Sys2Proof.Machine
end

section
/-! PROOFS. What an engine reads (R201, R210 to R221, R229) does not depend on the control of threads, nor on the debug state of the units: both may change
before the read or after it. Of the threads, a read changes no more than what their walks have met. -/

namespace Sys2Proof.Machine
open Sys2Proof

/-! ### Reads of the memory side, and other cores -/

section
variable (s : State) (c : Cores) (l : Launch) (us : List UnitSt)

theorem State.visitorFill_withCores (x data : Nat) (hint : Hint) (ef : Bool) :
    (s.withCores c l us).visitorFill x data hint ef = (s.visitorFill x data hint ef).withCores c l us := by
  have hway : (s.withCores c l us).hway = s.hway := rfl
  have hset : (s.withCores c l us).l2Set x = s.l2Set x := rfl
  have hhome : (s.withCores c l us).homeOf x = s.homeOf x := rfl
  unfold State.visitorFill
  rw [State.withCores_l2Find, hway, hset, hhome]
  dsimp only
  split
  · rfl
  · cases s.l2Find x with
    | some k => simp only [State.l2Hit_withCores, State.l2Mod_withCores]
    | none => simp only [State.l2Insert_withCores, State.l2Mod_withCores]

theorem State.dropVfill_withCores (p : Req → Bool) : (s.withCores c l us).dropVfill p = (s.dropVfill p).withCores c l us := rfl

theorem State.visitorReturn_withCores (x data : Nat) (hint : Hint) (ef fill : Bool) :
    (s.withCores c l us).visitorReturn x data hint ef fill = (s.visitorReturn x data hint ef fill).withCores c l us := by
  have hquiet : (s.withCores c l us).quiet2 x = s.quiet2 x := rfl
  have hl2 : (s.withCores c l us).m.l2 = s.m.l2 := rfl
  unfold State.visitorReturn
  simp only [State.withCores_visitorRead, hquiet, hl2, State.setL2_withCores, State.visitorFill_withCores, State.dropVfill_withCores,
    ← apply_ite (fun t : State => t.withCores c l us)]

theorem State.withCores_homeRead (t x n : Nat) : (s.withCores c l us).homeRead t x n = s.homeRead t x n := by
  simp only [State.homeRead, State.withCores_homeGate, State.withCores_poisonedIn, State.withCores_rdNat]

theorem State.engRead_withCores (t x n : Nat) (hint : Hint) (ef : Bool) :
    (s.withCores c l us).engRead t x n hint ef = ((s.engRead t x n hint ef).1.withCores c l us, (s.engRead t x n hint ef).2) := by
  have hnext : ∀ t : State, { t.withCores c l us with free := (t.withCores c l us).free + 1 } = { t with free := t.free + 1 }.withCores c l us := fun _ => rfl
  dsimp only at hnext
  unfold State.engRead
  rw [State.withCores_rdNat, State.withCores_here, State.withCores_homeGate, State.findErrors_withCores, ← apply_ite (fun t : State => t.withCores c l us)]
  generalize (if (s.here x && (s.homeGate t x true false).isSome) = true then s else s.findErrors x n) = s0
  dsimp only
  rw [State.withCores_visitorRead, State.withCores_l2Find, State.withCores_homeRead, hnext]
  split
  · rfl
  · cases (if s.here x = true then none else s0.visitorRead x) with
    | some d =>
      cases s0.l2Find x with
      | some k => simp only [State.l2Hit_withCores]
      | none => rfl
    | none =>
      cases s0.homeRead t x n with
      | error e => rfl
      | ok d =>
        simp only [State.withCores_rdNat, State.l2Home_withCores, State.visitorReturn_withCores, ← apply_ite (fun t : State => t.withCores c l us)]

theorem State.withCores_leafOk (lvl e : Nat) : (s.withCores c l us).leafOk lvl e = s.leafOk lvl e := rfl

theorem State.walkFrom_withCores (t va : Nat) : ∀ (f : Nat) (s : State) (lvl a : Nat),
    (s.withCores c l us).walkFrom t va f lvl a = ((s.walkFrom t va f lvl a).1.withCores c l us, (s.walkFrom t va f lvl a).2)
  | 0, _, _, _ => rfl
  | f + 1, s, lvl, a => by
    unfold State.walkFrom
    dsimp only
    rw [State.withCores_populated, State.engRead_withCores]
    split
    · rfl
    · cases s.engRead t (a + 8 * walkIndex lvl va) 8 with
      | mk u r =>
        cases r with
        | error e => rfl
        | ok e =>
          dsimp only
          rw [State.withCores_leafOk, State.walkFrom_withCores t va f u]
          split
          · rfl
          · split
            · rfl
            · rfl

end

/-! ### Threads in another control -/

/-- A change of threads that leaves their numbers, their regions and what their walks have met. -/
structure Thread.Apart (F : Thread → Thread) : Prop where
  tid : ∀ t, (F t).tid = t.tid
  region : ∀ t, (F t).region = t.region
  walked : ∀ (t : Thread) w, F { t with walked := t.walked ++ w } = { F t with walked := (F t).walked ++ w }

/-- The state with its threads changed and another debug state of its units. -/
def State.recast (s : State) (F : Thread → Thread) (us : List UnitSt) : State := s.withCores { s.c with threads := s.c.threads.map F } s.l us

section
variable (s : State) {F : Thread → Thread} (us : List UnitSt)

theorem State.engRead_recast (t x n : Nat) (hint : Hint) (ef : Bool) :
    (s.recast F us).engRead t x n hint ef = ((s.engRead t x n hint ef).1.recast F us, (s.engRead t x n hint ef).2) := by
  rw [State.recast, State.engRead_withCores, State.recast, State.engRead_c, (State.Served.engRead s t x n hint ef).launch]

theorem State.walkFrom_recast (t va f lvl a : Nat) :
    (s.recast F us).walkFrom t va f lvl a = ((s.walkFrom t va f lvl a).1.recast F us, (s.walkFrom t va f lvl a).2) := by
  rw [State.recast, State.walkFrom_withCores, State.recast, State.walkFrom_c, (State.Served.walkFrom t va f s lvl a).launch]

theorem State.tlbFill_recast (core asid : Nat) (p : Pte) : (s.recast F us).tlbFill core asid p = (s.tlbFill core asid p).recast F us := rfl

theorem State.tlbFills_recast (asid : Nat) (p : Pte) : ∀ (cores : List Nat) (s : State),
    cores.foldl (fun t core => t.tlbFill core asid p) (s.recast F us) = (cores.foldl (fun t core => t.tlbFill core asid p) s).recast F us
  | [], _ => rfl
  | core :: cores, s => by rw [List.foldl_cons, State.tlbFill_recast, State.tlbFills_recast asid p cores, List.foldl_cons]

theorem State.endWalk_recast (hF : Thread.Apart F) (w : Walk) : (s.recast F us).endWalk w = ((s.endWalk w).1.recast F us, (s.endWalk w).2) := by
  unfold State.endWalk State.walk
  rw [State.walkFrom_recast]
  cases s.walkFrom w.tenant w.va 4 0 w.ttb with
  | mk u r =>
    cases r with
    | ok p =>
      dsimp only
      refine Prod.ext (.trans ?_ (State.tlbFills_recast us w.asid p _ _)) rfl
      rfl
    | error e =>
      refine Prod.ext ?_ rfl
      simp only [State.recast, State.withCores, State.setThreads, List.map_map]
      refine congrArg (fun ts => ({ u with c := { u.c with threads := ts }, m := _, b := { u.b with units := us } } : State)) (List.map_congr_left fun t _ => ?_)
      simp only [Function.comp_apply]
      by_cases h : w.tids.contains t.tid = true
      · rw [if_pos h, if_pos (by rw [hF.tid, h])]
        exact (hF.walked t _).symm
      · rw [if_neg h, if_neg (by rw [hF.tid]; exact h)]

theorem State.pageOf_recast (hF : Thread.Apart F) (core : Nat) (r : Region) (va : Nat) :
    (s.recast F us).pageOf core r va = ((s.pageOf core r va).1.recast F us, (s.pageOf core r va).2) := by
  have hhit : (s.recast F us).tlbHit core r.asid va = s.tlbHit core r.asid va := rfl
  have hm : (s.recast F us).m = s.m := rfl
  unfold State.pageOf
  rw [hhit, hm]
  cases s.tlbHit core r.asid va with
  | some e => rfl
  | none =>
    dsimp only
    rw [State.endWalk_recast s us hF]
    generalize s.endWalk _ = q
    obtain ⟨u, e | p⟩ := q <;> rfl

/-- A translation for a read sets no dirty bit. -/
theorem State.xlate_rd_eq (s : State) (core : Nat) (r : Region) (va : Nat) : s.xlate core r va .rd = s.xpage core r va .rd := by
  unfold State.xlate
  generalize s.xpage core r va .rd = q
  obtain ⟨u, e | p⟩ := q <;> rfl

theorem State.xpage_recast (hF : Thread.Apart F) (core : Nat) (r : Region) (va : Nat) (n : Need) :
    (s.recast F us).xpage core r va n = ((s.xpage core r va n).1.recast F us, (s.xpage core r va n).2) := by
  unfold State.xpage
  rw [State.pageOf_recast s us hF]
  split
  · rfl
  · generalize s.pageOf core r va = q
    obtain ⟨u, e | p⟩ := q <;> rfl

theorem State.vread_recast (hF : Thread.Apart F) (core : Nat) (r : Region) (va n : Nat) :
    (s.recast F us).vread core r va n = ((s.vread core r va n).1.recast F us, (s.vread core r va n).2) := by
  unfold State.vread
  rw [State.xlate_rd_eq, State.xlate_rd_eq, State.xpage_recast s us hF]
  generalize s.xpage core r va .rd = q
  obtain ⟨u, e | p⟩ := q
  · rfl
  · dsimp only
    rw [State.engRead_recast]
    generalize u.engRead r.tenant (p.addr va) n .dflt p.ef = q
    obtain ⟨v, e | d⟩ := q <;> rfl

end

/-! ### What a read changes of the cores -/

/-- From `s` to `t` the cores change in their L1 and in what the walks of threads have met. -/
def State.Walks (s t : State) : Prop :=
  ∃ G : Thread → Thread, t.c = { s.c with threads := s.c.threads.map G, l1 := t.c.l1 } ∧ ∀ x, G x = { x with walked := (G x).walked }

namespace State.Walks
variable {s t u : State}

theorem refl (s : State) : s.Walks s := ⟨id, by simp, fun _ => rfl⟩

theorem trans (h : s.Walks t) (k : t.Walks u) : s.Walks u := by
  obtain ⟨G, hG, hw⟩ := h
  obtain ⟨H, hH, hv⟩ := k
  refine ⟨H ∘ G, by rw [hH, hG, List.map_map], fun x => ?_⟩
  rw [Function.comp_apply, hv, hw]

theorem of_c (h : t.c = { s.c with l1 := t.c.l1 }) : s.Walks t := ⟨id, by rw [h]; simp, fun _ => rfl⟩

theorem engRead (s : State) (tenant x n : Nat) (hint : Hint) (ef : Bool) : s.Walks (s.engRead tenant x n hint ef).1 :=
  of_c (State.Served.engRead s tenant x n hint ef).cores

theorem endWalk (s : State) (w : Walk) : s.Walks (s.endWalk w).1 := by
  have hwalk := State.walkFrom_c w.tenant w.va 4 s 0 w.ttb
  unfold State.endWalk State.walk
  generalize s.walkFrom w.tenant w.va 4 0 w.ttb = q at hwalk ⊢
  obtain ⟨v, e | p⟩ := q
  · exact ⟨_, by dsimp only [State.setThreads] at hwalk ⊢; rw [hwalk], fun x => by split <;> rfl⟩
  · refine of_c ?_
    have hc : ∀ (ks : List Nat) (v : State), (ks.foldl (fun s k => s.tlbFill k w.asid p) v).c = v.c := fun ks v =>
      List.foldlRecOn (motive := fun (x : State) => x.c = v.c) _ _ rfl fun x hx k _ => hx
    dsimp only at hwalk ⊢
    rw [hc]
    exact hwalk ▸ rfl

theorem pageOf (s : State) (core : Nat) (r : Region) (va : Nat) : s.Walks (s.pageOf core r va).1 := by
  unfold State.pageOf
  split
  · exact refl s
  · dsimp only
    generalize (s.m.walks.find? _).getD _ = w
    have hend := endWalk s w
    generalize s.endWalk w = q at hend ⊢
    obtain ⟨v, e | p⟩ := q <;> exact hend

theorem xpage (s : State) (core : Nat) (r : Region) (va : Nat) (n : Need) : s.Walks (s.xpage core r va n).1 := by
  have hpage := pageOf s core r va
  unfold State.xpage
  split
  · exact refl s
  · generalize s.pageOf core r va = q at hpage ⊢
    obtain ⟨v, e | p⟩ := q <;> exact hpage

theorem vread (s : State) (core : Nat) (r : Region) (va n : Nat) : s.Walks (s.vread core r va n).1 := by
  have hpage := xpage s core r va .rd
  unfold State.vread
  rw [State.xlate_rd_eq]
  generalize s.xpage core r va .rd = q at hpage ⊢
  obtain ⟨v, e | p⟩ := q
  · exact hpage
  · have hread := engRead v r.tenant (p.addr va) n .dflt p.ef
    dsimp only at hpage ⊢
    generalize v.engRead r.tenant (p.addr va) n .dflt p.ef = q at hread ⊢
    obtain ⟨v', e | d⟩ := q
    · exact hpage.trans hread
    · exact hpage.trans (hread.trans (of_c rfl))

theorem wgOf (h : s.Walks t) (n : Nat) : t.wgOf n = s.wgOf n := by
  obtain ⟨G, hG, -⟩ := h
  unfold State.wgOf State.warp? State.wg?
  rw [hG]

theorem thread? (h : s.Walks t) (n : Nat) : ∃ w : Thread → List (Nat × Code × Nat × Nat), t.thread? n = (s.thread? n).map fun x => { x with walked := w x } := by
  obtain ⟨G, hG, hw⟩ := h
  refine ⟨fun x => (G x).walked, ?_⟩
  unfold State.thread?
  rw [hG, ← show G = fun x => { x with walked := (G x).walked } from funext hw]
  exact s.thread?_setThreads_map G (fun x => by rw [hw]) n

theorem isSome {n : Nat} (h : s.Walks t) (hs : (s.thread? n).isSome) : (t.thread? n).isSome := by
  obtain ⟨w, hw⟩ := h.thread? n
  rw [hw, Option.isSome_map]
  exact hs

/-- Besides what its walks have met, a thread stays. -/
theorem thread (h : s.Walks t) (n : Nat) : t.thread n = { s.thread n with walked := (t.thread n).walked } := by
  obtain ⟨w, hw⟩ := h.thread? n
  unfold State.thread
  rw [hw]
  cases s.thread? n <;> rfl

end State.Walks

end Sys2Proof.Machine
end

section
/-! PROOFS. `tblld` and `tblsw` (R129, R130), which one thread issues for its workgroup's table slot. -/

namespace Sys2Proof.Machine
open Sys2Proof

/-! ### The count of an issue as a change of control -/

/-- What the count of an issue does to the threads. -/
def State.countedAt (s : State) (i : Instr) (t : Thread) : Thread := if s.cur.tids.contains t.tid then s.counted i t else t

theorem State.countIssue_recast (s : State) (i : Instr) :
    s.countIssue i s.cur.tids = s.recast (s.countedAt i) (s.skidCount s.cur.unit s.cur.tids).b.units := by
  rw [State.countIssue_eq]
  rfl

theorem State.countedAt_control (s : State) (i : Instr) (t : Thread) : s.countedAt i t = t.control (s.countedAt i t) := by
  unfold State.countedAt
  split <;> rfl

theorem State.countedAt_apart (s : State) (i : Instr) : Thread.Apart (s.countedAt i) where
  tid t := by rw [s.countedAt_control]; rfl
  region t := by rw [s.countedAt_control]; rfl
  walked t w := by
    unfold State.countedAt
    split <;> rfl

theorem State.thread?_recast (s : State) {F : Thread → Thread} (us : List UnitSt) (hF : ∀ t, (F t).tid = t.tid) (n : Nat) :
    (s.recast F us).thread? n = (s.thread? n).map F := s.thread?_setThreads_map F hF n

/-- The one thread that executes goes on after a body that leaves the threads' control as it was counted. -/
theorem State.run_solo_becomes {s u : State} {i : Instr} {body : Body} {n : Nat} (h : s.solo i n = true)
    (hb : body (s.countIssue i s.cur.tids) [n] = (u.recast (s.countedAt i) (s.skidCount s.cur.unit s.cur.tids).b.units, []))
    (hsome : (u.thread? n).isSome) (hpc : (u.thread n).pc = (s.thread n).pc) (hloop : (u.thread n).loop = (s.thread n).loop) :
    ∃ t, s.run i body = .next t ∧ s.Advances t i ∧ t.Becomes n u := by
  have hcur := State.solo_tids h
  obtain ⟨g, hrun, hg⟩ := State.run_solo_goes_on h hb
  generalize hus : (s.skidCount s.cur.unit s.cur.tids).b.units = us at hrun hg
  have hctl : ∀ x, g (s.countedAt i x) = x.control (g (s.countedAt i x)) := fun x => by
    rw [hg, Thread.onward_control, s.countedAt_control]
    rfl
  have hth : ∀ k, ((u.recast (s.countedAt i) us).afterBody.modThread n g).thread? k =
      (u.thread? k).map fun x => if k = n then g (s.countedAt i x) else s.countedAt i x := fun k => by
    have hmap : (u.recast (s.countedAt i) us).afterBody.thread? k = (u.thread? k).map (s.countedAt i) := u.thread?_recast us (s.countedAt_apart i).tid k
    rw [State.thread?_modThread _ _ _ fun x => by rw [hg]; exact Thread.onward_tid _ i x, hmap, Option.map_map]
    exact congrArg (fun f => (u.thread? k).map f) (funext fun x => rfl)
  obtain ⟨w, hw⟩ := Option.isSome_iff_exists.1 hsome
  have hun : u.thread n = w := by rw [State.thread, hw]; rfl
  have htn : ((u.recast (s.countedAt i) us).afterBody.modThread n g).thread n = g (s.countedAt i w) := by
    rw [State.thread, hth, hw]
    simp
  have htid : w.tid = n := by simpa using List.find?_some hw
  have hcounted : s.countedAt i w = s.counted i w := if_pos (by simp [hcur, htid])
  refine ⟨_, hrun, fun k hk _ => ?_, rfl, ?_, fun k hk => ?_⟩
  · obtain rfl : k = n := by simpa [hcur] using hk
    rw [hun] at hpc hloop
    rw [htn, hcounted, hg]
    exact ⟨Thread.onward_park _ _ _, Thread.onward_wait _ _ _, fun hl => (Thread.onward_pc _ i (s.counted i w) (hloop ▸ hl)).trans (by rw [← hpc]; rfl)⟩
  · rw [htn, hun]
    exact hctl w
  · unfold State.thread
    rw [hth]
    cases hq : u.thread? k with
    | none => rfl
    | some x =>
      have hx : x.tid = k := by simpa using List.find?_some hq
      simp [hk, State.countedAt, hcur, hx]

theorem State.countIssue_isSome {s : State} {i : Instr} {n : Nat} (h : s.solo i n = true) : ((s.countIssue i s.cur.tids).thread? n).isSome := by
  rw [State.thread?_countIssue, Option.isSome_map]
  exact State.solo_isSome h

/-- The one thread that executes waits at its next instruction after a body that keeps it. -/
theorem State.run_solo_waits {s u : State} {i : Instr} {body : Body} {n : Nat} {w : Wait} (h : s.solo i n = true)
    (hb : body (s.countIssue i s.cur.tids) [n] = (u, [(n, .wait w)])) (hsome : (u.thread? n).isSome) :
    ∃ t, s.run i body = .next t ∧ t = { u with free := t.free, c := { u.c with threads := t.c.threads } } ∧ (t.thread n).wait = w := by
  have hw := Thread.waiting_eq u.afterBody i w
  refine ⟨_, State.run_solo_leaves h hb (Thread.waiting u.afterBody i w) (State.finish_wait ..) fun t => by rw [hw]; rfl, rfl, ?_⟩
  rw [State.thread_modThread_same u.afterBody n _ (fun t => by rw [hw]; rfl) hsome, hw]

/-! ### `tblsw` -/

/-- What `tblsw` does to its threads. -/
def tblswBody : Body := fun s ts =>
  (warpsOf ts).foldl (fun (acc : State × List (Nat × Ctl)) (w : Nat × List Nat) =>
    match s.wgOf (w.2.headD 0) with
    | some g =>
      (acc.1.modWg g.key fun g => { g with table := { g.table with jobs := g.table.jobs ++
        [{ swap := true, clk := s.clk, tids := w.2, pc := s.cur.pc, img := 0, bad := none, started := false }] } },
       acc.2 ++ w.2.map fun t => (t, .wait .table))
    | none => acc) (s, [])

theorem exec_tblsw (x : S64A) (s : State) : exec (.tblsw x) s = s.run (.tblsw x) tblswBody := rfl

/-- A job that joins the slot of a workgroup. -/
def Wg.addJob (g : Wg) (j : TableJob) : Wg := { g with table := { g.table with jobs := g.table.jobs ++ [j] } }

theorem tblswBody_single {s : State} {n : Nat} {g : Wg} (hg : s.wgOf n = some g) :
    tblswBody s [n] = (s.modWg g.key fun h =>
      Wg.addJob h { swap := true, clk := s.clk, tids := [n], pc := s.cur.pc, img := 0, bad := none, started := false }, [(n, .wait .table)]) := by
  rw [tblswBody, warpsOf_single]
  simp only [List.foldl_cons, List.foldl_nil, List.headD_cons, hg]
  rfl

theorem exec_tblsw_joins {x : S64A} {s : State} {n : Nat} {g : Wg} (h : s.solo (.tblsw x) n = true) (hg : s.wgOf n = some g) :
    ∃ t, exec (.tblsw x) s = .next t ∧
      t.c.wgs = s.c.wgs.map (fun h => if h.key = g.key then
        { h with table := { h.table with jobs := h.table.jobs ++
            [{ swap := true, clk := s.clk, tids := [n], pc := s.cur.pc, img := 0, bad := none, started := false }] } }
        else h) ∧
      (t.thread n).wait = .table ∧ t.c.pend = s.c.pend ∧ t.m = s.m := by
  have hb := tblswBody_single ((s.countIssue_wgOf (.tblsw x) n).trans hg)
  obtain ⟨t, hrun, ht, hwait⟩ := State.run_solo_waits h hb (State.countIssue_isSome h)
  refine ⟨t, (exec_tblsw x s).trans hrun, ?_, hwait, ?_, ?_⟩ <;> rw [ht, State.countIssue_eq]
  · simp [State.modWg, State.setWgs, Wg.addJob]
  · rfl
  · rfl

end Sys2Proof.Machine
end

section
/-! PROOFS. O14: the image that `tblld` reads (R129), and the instruction. -/

namespace Sys2Proof.Machine
open Sys2Proof

/-! ### The image (R129) -/

/-- The scratch that `.own` names is unwatched. -/
def State.ownUnwatched (s : State) (sp : Sp) : Prop := sp = .own → ∀ g ∈ s.c.wgs, s.unwatched g.core

theorem State.scrRead_eq {s : State} (h : ∀ g ∈ s.c.wgs, s.unwatched g.core) (key : Nat) (src : Src) (ak off n : Nat) :
    s.scrRead key src ak off n = (s, (s.wg? key).elim 0 fun g => memNat g.scr off n) := by
  cases hg : s.wg? key with
  | none => simp only [State.scrRead, hg, Option.elim_none]
  | some g => exact s.scrRead_unwatched key src ak off n g hg (h g (List.mem_of_find?_eq_some hg))

theorem State.regionOf_recast (s : State) {F : Thread → Thread} (us : List UnitSt) (hF : Thread.Apart F) (n : Nat) :
    (s.recast F us).regionOf n = s.regionOf n := by
  have hregion : ((s.recast F us).thread n).region = (s.thread n).region := by
    unfold State.thread
    rw [s.thread?_recast us hF.tid]
    cases s.thread? n with
    | none => rfl
    | some t => exact hF.region t
  unfold State.regionOf
  rw [hregion]
  rfl

theorem State.readImage_recast {F : Thread → Thread} (us : List UnitSt) (hF : Thread.Apart F) (tid : Nat) (sp : Sp) (va : Nat) :
    ∀ (n : Nat) (s : State) (k img : Nat), s.ownUnwatched sp →
      (s.recast F us).readImage tid sp va n k img = ((s.readImage tid sp va n k img).1.recast F us, (s.readImage tid sp va n k img).2)
  | 0, _, _, _, _ => rfl
  | n + 1, s, k, img, h => by
    unfold State.readImage
    dsimp only
    by_cases hsp : sp = .own
    · subst hsp
      have hwin : (s.recast F us).window tid .own ((va + 16 * k) % 2 ^ 64) 16 = s.window tid .own ((va + 16 * k) % 2 ^ 64) 16 := rfl
      rw [if_pos (beq_self_eq_true Sp.own), if_pos (beq_self_eq_true Sp.own), hwin]
      cases s.window tid .own ((va + 16 * k) % 2 ^ 64) 16 with
      | none => rfl
      | some q =>
        dsimp only
        rw [State.scrRead_eq (h rfl), State.scrRead_eq (s := s.recast F us) (h rfl)]
        exact State.readImage_recast us hF tid .own va n s (k + 1) _ h
    · rw [if_neg (by simpa using hsp), if_neg (by simpa using hsp), State.regionOf_recast s us hF]
      cases s.regionOf tid with
      | none => rfl
      | some r =>
        dsimp only
        rw [State.vread_recast s us hF]
        generalize s.vread (coreOf tid) r ((va + 16 * k) % 2 ^ 64) 16 = q
        obtain ⟨u, e | v⟩ := q
        · rfl
        · exact State.readImage_recast us hF tid sp va n u (k + 1) _ fun he => absurd he hsp

theorem State.readImage_walks (tid : Nat) (sp : Sp) (va : Nat) :
    ∀ (n : Nat) (s : State) (k img : Nat), s.ownUnwatched sp → s.Walks (s.readImage tid sp va n k img).1
  | 0, s, _, _, _ => .refl s
  | n + 1, s, k, img, h => by
    unfold State.readImage
    dsimp only
    by_cases hsp : sp = .own
    · subst hsp
      rw [if_pos (beq_self_eq_true Sp.own)]
      cases s.window tid .own ((va + 16 * k) % 2 ^ 64) 16 with
      | none => exact .refl s
      | some q =>
        dsimp only
        rw [State.scrRead_eq (h rfl)]
        exact State.readImage_walks tid .own va n s (k + 1) _ h
    · rw [if_neg (by simpa using hsp)]
      cases s.regionOf tid with
      | none => exact .refl s
      | some r =>
        have hread := State.Walks.vread s (coreOf tid) r ((va + 16 * k) % 2 ^ 64) 16
        dsimp only
        generalize s.vread (coreOf tid) r ((va + 16 * k) % 2 ^ 64) 16 = q at hread
        obtain ⟨u, e | v⟩ := q
        · exact hread
        · exact hread.trans (State.readImage_walks tid sp va n u (k + 1) _ fun he => absurd he hsp)

/-! ### `tblld` -/

/-- R439: a unit whose virtual watchpoints stand at zero sees no access. -/
theorem State.vwatch_unwatched {s : State} {tid : Nat} (h : ∀ m < 8, s.reg (rVwp (unitOf tid) m) = 0) (pc ak va n : Nat) :
    s.vwatch tid pc ak va n = s := by
  unfold State.vwatch State.vwatchAll
  refine foldl_stays _ _ _ fun m hm => foldl_stays _ _ _ fun q hq => ?_
  obtain rfl : q = (tid, va, n) := by simpa using hq
  simp [State.vwatch1, h m (by simpa using hm), slice]

/-- What `tblld` does to its threads. -/
def tblldBody (x : M128A) : Body := fun s ts =>
  let busy := fun (t : Nat) => s.m.ops.any fun o => o.tid == t
  (warpsOf ts).foldl (fun (acc : State × List (Nat × Ctl)) (w : Nat × List Nat) =>
    let t := w.2.headD 0
    let va := (s.opnd t x.a + x.i32.signExtend 64).toNat
    if w.2.any busy then (acc.1, acc.2 ++ w.2.map fun t => (t, .hold .drain))
    else if va % 16 != 0 then (acc.1, acc.2 ++ w.2.map fun t => (t, .fault (fltAt .misalign 0 0 va)))
    else
      let (s1, img, bad) := (acc.1.vwatch t s.cur.pc akRead va (if x.sp == .gv then bankBytes else 0)).readImage t x.sp va 257 0 0
      match s1.wgOf t with
      | some g =>
        (s1.modWg g.key fun g => { g with table := { g.table with jobs := g.table.jobs ++
          [{ swap := false, clk := s.clk, tids := w.2, pc := s.cur.pc, img := img, bad := bad, started := false }] } }, acc.2)
      | none => (s1, acc.2 ++ match bad with | some (_, f) => w.2.map (fun t => (t, .fault f)) | none => [])) (s, [])

theorem exec_tblld (x : M128A) (s : State) : exec (.tblld x) s = s.run (.tblld x) (tblldBody x) := rfl

/-- The address that the thread of a `tblld` names. -/
def tblldVa (x : M128A) (s : State) (n : Nat) : Nat := (s.opnd n x.a + x.i32.signExtend 64).toNat

section
variable {x : M128A} {s : State} {n : Nat}

theorem tblldBody_busy (h : (s.m.ops.any fun o => o.tid == n) = true) : tblldBody x s [n] = (s, [(n, .hold .drain)]) := by
  simp [tblldBody, warpsOf_single, h]

theorem tblldBody_misaligned (h : (s.m.ops.any fun o => o.tid == n) = false) (ha : tblldVa x s n % 16 ≠ 0) :
    tblldBody x s [n] = (s, [(n, .fault (fltAt .misalign 0 0 (tblldVa x s n)))]) := by
  have ha' : ((s.opnd n x.a + x.i32.signExtend 64).toNat % 16 != 0) = true := bne_iff_ne.2 ha
  simp only [tblldBody, warpsOf_single, List.foldl_cons, List.foldl_nil, List.headD_cons, List.any_cons, List.any_nil, h, Bool.or_false,
    Bool.false_eq_true, if_false, ha', if_true]
  rfl

theorem tblldBody_reads {u : State} {img : Nat} {bad : Option (Nat × FaultInfo)} {g : Wg} (h : (s.m.ops.any fun o => o.tid == n) = false)
    (ha : tblldVa x s n % 16 = 0) (hw : ∀ m < 8, s.reg (rVwp (unitOf n) m) = 0)
    (himg : s.readImage n x.sp (tblldVa x s n) 257 0 0 = (u, img, bad)) (hg : u.wgOf n = some g) :
    tblldBody x s [n] = (u.modWg g.key fun h =>
      Wg.addJob h { swap := false, clk := s.clk, tids := [n], pc := s.cur.pc, img := img, bad := bad, started := false }, []) := by
  have ha' : ((s.opnd n x.a + x.i32.signExtend 64).toNat % 16 != 0) = false := bne_eq_false_iff_eq.2 ha
  have himg' : s.readImage n x.sp (s.opnd n x.a + x.i32.signExtend 64).toNat 257 0 0 = (u, img, bad) := himg
  simp only [tblldBody, warpsOf_single, List.foldl_cons, List.foldl_nil, List.headD_cons, List.any_cons, List.any_nil, h, Bool.or_false,
    Bool.false_eq_true, if_false, ha', State.vwatch_unwatched hw, himg', hg]
  rfl

end

theorem tblldVa_countIssue (x : M128A) (s : State) (i : Instr) (n : Nat) : tblldVa x (s.countIssue i s.cur.tids) n = tblldVa x s n := by
  simp only [tblldVa, State.countIssue_opnd]

section
variable {x : M128A} {s : State} {n : Nat} {g : Wg}

theorem exec_tblld_holds (h : s.solo (.tblld x) n = true) (hbusy : (s.m.ops.any fun o => o.tid == n) = true) :
    ∃ t, exec (.tblld x) s = .next t ∧ s.OnlyResults t ∧ t.c.pend = s.c.pend ∧ (t.thread n).wait = .drain := by
  have hb := tblldBody_busy (x := x) (s := s.countIssue (.tblld x) s.cur.tids) (n := n) (by rw [State.countIssue_eq]; exact hbusy)
  obtain ⟨t, hrun, hpend, honly, hwait, -⟩ := State.run_solo_hold h hb (s.onlyResults_countIssue _) (s.countIssue_thread_pc _ n)
  exact ⟨t, (exec_tblld x s).trans hrun, honly, hpend.trans (s.countIssue_pend _), hwait⟩

theorem exec_tblld_misaligned (h : s.solo (.tblld x) n = true) (hidle : ∀ o ∈ s.m.ops, o.tid ≠ n) (ha : tblldVa x s n % 16 ≠ 0) :
    ∃ t, exec (.tblld x) s = .next t ∧
      s.Raises t n { fltAt .misalign 0 0 (tblldVa x s n) with pc := (s.thread n).pc, resume := (s.thread n).pc } := by
  have hb := tblldBody_misaligned (x := x) (s := s.countIssue (.tblld x) s.cur.tids) (n := n) (by rw [State.countIssue_eq]; simpa using hidle)
    (by rwa [tblldVa_countIssue])
  rw [tblldVa_countIssue] at hb
  exact State.run_solo_fault h hb (s.onlyResults_countIssue _) (s.countIssue_pend _) (s.countIssue_thread_pc _ n)
    (show Code.misalign ≠ .trap by decide) (show Code.misalign ≠ .brk by decide) rfl

theorem exec_tblld_loads {u : State} {img : Nat} {bad : Option (Nat × FaultInfo)} (h : s.solo (.tblld x) n = true) (hg : s.wgOf n = some g)
    (hdebug : s.debugIdle) (hseat : s.seated) (hidle : ∀ o ∈ s.m.ops, o.tid ≠ n) (ha : tblldVa x s n % 16 = 0)
    (himg : s.readImage n x.sp (tblldVa x s n) 257 0 0 = (u, img, bad)) :
    ∃ t, exec (.tblld x) s = .next t ∧ s.Advances t (.tblld x) ∧ t.Becomes n (u.modWg g.key fun h =>
      Wg.addJob h { swap := false, clk := s.clk, tids := [n], pc := s.cur.pc, img := img, bad := bad, started := false }) := by
  obtain ⟨hunit, hunits, hcores⟩ := hseat
  have hown : s.ownUnwatched x.sp := fun _ g hg => hdebug.unwatched g.core (hcores g hg)
  have hwalks := State.readImage_walks n x.sp (tblldVa x s n) 257 s 0 0 hown
  have hcount := State.readImage_recast (s.skidCount s.cur.unit s.cur.tids).b.units (s.countedAt_apart (.tblld x)) n x.sp (tblldVa x s n) 257 s 0 0 hown
  rw [himg] at hwalks hcount
  have hn : unitOf n = s.cur.unit := hunits n (by simp [State.solo_tids h])
  have hb := tblldBody_reads (x := x) (s := s.countIssue (.tblld x) s.cur.tids) (n := n) (g := g)
    (u := u.recast (s.countedAt (.tblld x)) (s.skidCount s.cur.unit s.cur.tids).b.units) (by rw [State.countIssue_eq]; simpa using hidle) (by rwa [tblldVa_countIssue])
    (fun m hm => by
      rw [(State.KeepsRest.countIssue s _).reg, hn]
      exact hdebug.reg_eq_zero _ (by unfold rVwp; omega))
    (by rw [tblldVa_countIssue, s.countIssue_recast]; exact hcount) ((hwalks.wgOf n).trans hg)
  rw [s.countIssue_clk, s.countIssue_cur] at hb
  have hthread : u.thread n = { s.thread n with walked := (u.thread n).walked } := hwalks.thread n
  exact State.run_solo_becomes h hb (hwalks.isSome (State.solo_isSome h)) ((congrArg Thread.pc hthread).trans rfl)
    ((congrArg Thread.loop hthread).trans rfl)

end

/-- Settles O14: the issues by their bodies, the events by the slot's equations; what `tblld` reads does not depend on the count of its issue. -/
theorem activationTables : Obligations.ActivationTables := by
  unfold Obligations.ActivationTables
  refine ⟨exec_tbl_sends, fun x s n g h hg => exec_tblsw_joins h hg, fun x s n g h hg hdebug hseat => ⟨exec_tblld_holds h, exec_tblld_misaligned h,
    fun u img bad hidle ha himg => exec_tblld_loads h hg hdebug hseat hidle ha himg⟩, fun s key k g => exec_tableSwap_exchanges,
    fun s key k g => exec_tblldWriteStart_starts, fun s key k g j => exec_tblldComplete_fills⟩

end Sys2Proof.Machine
end

section
/-! PROOFS. O32: loop nests (R141 to R146): the start of a nest, its end, and the elements that a fill and a map of one source write. -/

namespace Sys2Proof.Machine
open Sys2Proof

/-! ### The start of a nest (R142) -/

theorem nestBody_starts {op : Nat} {x : NestA} {s : State} {n : Nat} {g : Wg} (hg : s.wgOf n = some g) (hq : ∀ e ∈ s.c.scrQ, e.tid ≠ n)
    (hr : ∀ j ∈ s.c.rows, ∀ l ∈ j.lanes, l.tid ≠ n) :
    nestBody op x s [n] = ({ s with c := { s.c with nests := s.c.nests ++
      [{ wid := widOf n, tids := [n], op := op, a := x, img := g.table.act, iter := 0, part := 0, pc := s.cur.pc,
         back := [(n, (s.thread n).loop.act, (s.thread n).loop.pass)],
         base := [s.readW n x.bas0.toNat, s.readW n x.bas1.toNat, s.readW n x.bas2.toNat] }] } }, [(n, .wait .nest)]) := by
  have hfree : ((s.c.scrQ.any fun e => [n].contains e.tid) || s.c.rows.any fun j => j.lanes.any fun l => [n].contains l.tid) = false := by
    simpa using ⟨hq, hr⟩
  simp only [nestBody, hfree, warpsOf_single, List.foldl_cons, List.foldl_nil, List.headD_cons, hg]
  rfl

/-- One thread's loop-nest instruction starts its nest, and the thread waits. -/
theorem State.run_nestBody {i : Instr} {op : Nat} {x : NestA} {s : State} {n : Nat} {g : Wg} (h : s.solo i n = true) (hg : s.wgOf n = some g)
    (hq : ∀ e ∈ s.c.scrQ, e.tid ≠ n) (hr : ∀ j ∈ s.c.rows, ∀ l ∈ j.lanes, l.tid ≠ n) :
    ∃ t, s.run i (nestBody op x) = .next t ∧
      t.c.nests = s.c.nests ++ [{ wid := widOf n, tids := [n], op := op, a := x, img := g.table.act, iter := 0, part := 0, pc := s.cur.pc,
                                   back := [(n, (s.thread n).loop.act, (s.thread n).loop.pass)],
                                   base := [s.readW n x.bas0.toNat, s.readW n x.bas1.toNat, s.readW n x.bas2.toNat] }] ∧
      (t.thread n).wait = .nest ∧ t.c.pend = s.c.pend ∧ t.c.wgs = s.c.wgs ∧ t.m = s.m ∧ t.c.warps = s.c.warps := by
  have hread := (State.SameOperands.countIssue s i).readW
  have hb := nestBody_starts (op := op) (x := x) ((s.countIssue_wgOf i n).trans hg) (by rwa [State.countIssue_eq]) (by rwa [State.countIssue_eq])
  rw [hread, hread, hread, s.countIssue_cur, s.countIssue_thread_loop] at hb
  obtain ⟨t, hrun, ht, hwait⟩ := State.run_solo_waits h hb (State.countIssue_isSome h)
  refine ⟨t, hrun, ?_, hwait, ?_, ?_, ?_, ?_⟩ <;> rw [ht, State.countIssue_eq]

theorem nestsStartWithTheirBases : NestsStartWithTheirBases := by
  unfold NestsStartWithTheirBases
  exact ⟨fun x s n g => State.run_nestBody, fun x s n g => State.run_nestBody, fun x s n g => State.run_nestBody⟩

/-! ### The end of a nest (R142, R145) -/

theorem exec_nestComplete {s u : State} {wid : Nat} {x : Nest} (h : s.nestTurn wid = some x) (hu : s.runNest x (x.inner * x.outer - x.iter) = u) :
    exec (.nestComplete wid) s = .next u := by
  change execNestComplete wid s = _
  rw [execNestComplete, h]
  exact congrArg Host.Outcome.next hu

theorem State.nestTurn_eq {s : State} {wid : Nat} {x : Nest} (hfind : (s.c.nests.find? fun n => n.wid / 16 == wid / 16) = some x)
    (hfrozen : s.frozen (wid / 16) = false) : s.nestTurn wid = if x.wid = wid then some x else none := by
  simp only [State.nestTurn, hfrozen, hfind, Bool.false_eq_true, if_false, Option.filter_some, beq_iff_eq]

theorem State.runNest_ends {s u : State} {x : Nest} {acc : Int}
    (h : s.walkNest x (x.inner * x.outer - x.iter) x.iter (accOfPart x.a.typ.toNat x.part) = .ok (u, acc)) :
    s.runNest x (x.inner * x.outer - x.iter) = u.dropNest x.wid := by
  simp only [State.runNest, Nat.min_self, h, le_refl, if_true]

theorem State.runNest_fails {s u : State} {x : Nest} {f : FaultInfo}
    (h : s.walkNest x (x.inner * x.outer - x.iter) x.iter (accOfPart x.a.typ.toNat x.part) = .error (u, f)) :
    s.runNest x (x.inner * x.outer - x.iter) = u.failNest x f := by
  simp only [State.runNest, Nat.min_self, h]

theorem State.failNest_single {u : State} {x : Nest} {f : FaultInfo} {n p : Nat} {a : Bool} (ht : x.tids = [n]) (hb : x.back = [(n, a, p)]) :
    u.failNest x f = ((u.dropNest x.wid).modThread n fun h =>
      { h with wait := .none, pc := x.pc, loop := { h.loop with act := a, pass := p } }).raise n { f with pc := x.pc, resume := x.pc } := by
  simp [State.failNest, ht, hb]

/-! ### Elements in a window (R142) -/

theorem withWindow_withWindow (gs : List Wg) (g : Wg) (scr scr' : List Cell) :
    withWindow (withWindow gs g.key g scr) g.key { g with scr := scr } scr' = withWindow gs g.key g scr' := by
  unfold withWindow
  rw [List.map_map]
  refine List.map_congr_left fun h _ => ?_
  by_cases hk : h.key = g.key
  · simp [hk]
  · simp [hk]

theorem State.wg?_withWindow {s : State} {key : Nat} {g : Wg} (hg : s.wg? key = some g) (scr : List Cell) :
    (s.setWgs (withWindow s.c.wgs key g scr)).wg? key = some { g with scr := scr } := by
  have hkey : g.key = key := by simpa using List.find?_some hg
  have hmod : s.setWgs (withWindow s.c.wgs key g scr) = s.modWg key fun h => if h.key = key then { g with scr := scr } else h := by
    unfold State.modWg withWindow
    congr 1
    refine List.map_congr_left fun h _ => ?_
    by_cases hk : h.key = key <;> simp [hk]
  rw [hmod, State.wg?_modWg hg _ fun h => by split; exacts [hkey.trans (Eq.symm ‹_›), rfl], if_pos hkey]

/-- A thread finds its workgroup with the window that was written. -/
theorem State.wgOf_withWindow {s : State} {n : Nat} {g : Wg} (hg : s.wgOf n = some g) (scr : List Cell) :
    (s.setWgs (withWindow s.c.wgs g.key g scr)).wgOf n = some { g with scr := scr } := by
  unfold State.wgOf at hg ⊢
  have hwarp : (s.setWgs (withWindow s.c.wgs g.key g scr)).warp? (widOf n) = s.warp? (widOf n) := rfl
  rw [hwarp]
  cases hw : s.warp? (widOf n) with
  | none => simp [hw] at hg
  | some w =>
    simp only [hw] at hg ⊢
    obtain ⟨key, hkey, hfind⟩ := Option.bind_eq_some_iff.1 hg
    obtain rfl : g.key = key := by simpa using List.find?_some hfind
    rw [hkey]
    exact State.wg?_withWindow hfind scr

/-- An element lies in a window of `win` bytes, at a multiple of its size (R145, R182). -/
def Nest.fits (x : Nest) (win k : Nat) : Prop :=
  0 ≤ x.offset k 0 ∧ x.offset k 0 + nestSize x.a.typ.toNat ≤ win ∧ x.offset k 0 % nestSize x.a.typ.toNat = 0

theorem State.nestAt_fits {s : State} {x : Nest} {k : Nat} {g : Wg} (hg : s.wgOf (x.tids.headD 0) = some g) (h : x.fits g.win k) :
    s.nestAt x k 0 = .ok (g.key, (x.offset k 0).toNat) := by
  obtain ⟨hpos, hwin, halign⟩ := h
  have hin : (x.offset k 0).toNat + nestSize x.a.typ.toNat ≤ g.win := by omega
  simp only [State.nestAt, State.window, State.windowOf, hg, halign, not_lt.2 hpos, hin, Option.isNone_some, bne_self_eq_false, Bool.false_eq_true,
    if_false, if_true]

theorem Nest.fits.aligned {x : Nest} {win k : Nat} (h : x.fits win k) : (x.offset k 0).toNat % nestSize x.a.typ.toNat = 0 := by
  obtain ⟨hpos, -, halign⟩ := h
  zify
  rw [Int.toNat_of_nonneg hpos]
  exact halign

/-! ### A fill (R141, R143) -/

/-- What a fill writes into each element. -/
def Nest.fillWord (x : Nest) : Nat := nestEnc x.a.typ.toNat false (x.base.getD 1 0).toInt

/-- A window after m elements of a fill from the k-th on. -/
def Nest.filled (x : Nest) : Nat → Nat → List Cell → List Cell
  | 0, _, scr => scr
  | m + 1, k, scr => x.filled m (k + 1) (memPut scr (x.offset k 0).toNat (nestSize x.a.typ.toNat) x.fillWord)

section
variable {x : Nest}

theorem State.nmapStep_fill {s : State} {k : Nat} {g : Wg} (hop : x.op = 0xE2) (hint : nestFloat x.a.typ.toNat = false)
    (hg : s.wgOf (x.tids.headD 0) = some g) (hw : s.unwatched g.core) (h : x.fits g.win k) :
    s.nmapStep x k = .ok (s.setWgs (withWindow s.c.wgs g.key g (x.filled 1 k g.scr))) := by
  simp only [State.nmapStep, hop, beq_self_eq_true, if_true, hint, Bool.false_eq_true, if_false, State.nestAt_fits hg h]
  exact congrArg Except.ok (s.scrWrite_unwatched g.key _ akWrite _ _ _ g (State.wgOf_key hg) hw)

theorem State.walkNest_fill (hop : x.op = 0xE2) (hint : nestFloat x.a.typ.toNat = false) (acc : Int) :
    ∀ (m : Nat) (s : State) (k : Nat) (g : Wg), s.wgOf (x.tids.headD 0) = some g → s.unwatched g.core →
      (∀ j, k ≤ j → j ≤ k + m → x.fits g.win j) →
      s.walkNest x (m + 1) k acc = .ok (s.setWgs (withWindow s.c.wgs g.key g (x.filled (m + 1) k g.scr)), acc) := by
  have hne : (x.op == 0xE1) = false := by rw [hop]; rfl
  intro m
  induction m with
  | zero =>
    intro s k g hg hw h
    simp only [State.walkNest, hne, Bool.false_eq_true, if_false, State.nmapStep_fill hop hint hg hw (h k (le_refl k) (by omega))]
  | succ m ih =>
    intro s k g hg hw h
    rw [State.walkNest, hne, if_neg Bool.false_ne_true, State.nmapStep_fill hop hint hg hw (h k (le_refl k) (by omega))]
    dsimp only
    rw [ih _ (k + 1) _ (State.wgOf_withWindow hg (x.filled 1 k g.scr)) hw fun j hlo hhi => h j (by omega) (by omega)]
    refine congrArg (fun gs => Except.ok (s.setWgs gs, acc)) ?_
    exact withWindow_withWindow s.c.wgs g _ _

/-! #### The bytes of a filled window -/

theorem memNat_memPut_outside (m : List Cell) (a n x b k : Nat) (h : b + k ≤ a ∨ a + n ≤ b) : memNat (memPut m a n x) b k = memNat m b k := by
  induction k generalizing b with
  | zero => rfl
  | succ k ih => rw [memNat, memNat, memGet_memPut_outside _ _ _ _ _ (by omega), ih _ (by omega)]

/-- Elements that the fill does not write keep their bytes. -/
theorem Nest.memGet_filled_outside {a : Nat} : ∀ (m k : Nat) (scr : List Cell),
    (∀ j, k ≤ j → j < k + m → 0 ≤ x.offset j 0 ∧ ((a : Int) < x.offset j 0 ∨ x.offset j 0 + nestSize x.a.typ.toNat ≤ a)) →
    memGet (x.filled m k scr) a = memGet scr a
  | 0, _, _, _ => rfl
  | m + 1, k, scr, h => by
    obtain ⟨hpos, hout⟩ := h k (le_refl k) (by omega)
    rw [Nest.filled, Nest.memGet_filled_outside m (k + 1) _ fun j hlo hhi => h j (by omega) (by omega), memGet_memPut_outside _ _ _ _ _ (by omega)]

/-- Two elements at multiples of their size are the same or lie apart. -/
theorem eq_or_apart {sz a b : Nat} (ha : a % sz = 0) (hb : b % sz = 0) : a = b ∨ a + sz ≤ b ∨ b + sz ≤ a := by
  obtain ⟨i, rfl⟩ := Nat.dvd_of_mod_eq_zero ha
  obtain ⟨j, rfl⟩ := Nat.dvd_of_mod_eq_zero hb
  rcases Nat.lt_trichotomy i j with h | rfl | h
  · exact .inr (.inl (by rw [← Nat.mul_succ]; exact Nat.mul_le_mul_left _ h))
  · exact .inl rfl
  · exact .inr (.inr (by rw [← Nat.mul_succ]; exact Nat.mul_le_mul_left _ h))

/-- An element that holds the value holds it after a fill. -/
theorem Nest.memNat_filled_keeps {a : Nat} (ha : a % nestSize x.a.typ.toNat = 0) :
    ∀ (m k : Nat) (scr : List Cell), Memory.wf scr = true → (∀ j, k ≤ j → j < k + m → (x.offset j 0).toNat % nestSize x.a.typ.toNat = 0) →
      memNat scr a (nestSize x.a.typ.toNat) = x.fillWord % 256 ^ nestSize x.a.typ.toNat →
      memNat (x.filled m k scr) a (nestSize x.a.typ.toNat) = x.fillWord % 256 ^ nestSize x.a.typ.toNat
  | 0, _, _, _, _, h => h
  | m + 1, k, scr, hwf, hal, h => by
    refine Nest.memNat_filled_keeps ha m (k + 1) _ (memPut_wf _ _ _ _ hwf) (fun j hlo hhi => hal j (by omega) (by omega)) ?_
    rcases eq_or_apart ha (hal k (le_refl k) (by omega)) with rfl | hout
    · exact memNat_memPut _ _ _ _ hwf
    · rw [memNat_memPut_outside _ _ _ _ _ _ hout, h]

/-- Every element of a fill holds the value. -/
theorem Nest.memNat_filled : ∀ (m k : Nat) (scr : List Cell), Memory.wf scr = true →
    (∀ j, k ≤ j → j < k + m → (x.offset j 0).toNat % nestSize x.a.typ.toNat = 0) → ∀ j, k ≤ j → j < k + m →
      memNat (x.filled m k scr) (x.offset j 0).toNat (nestSize x.a.typ.toNat) = x.fillWord % 256 ^ nestSize x.a.typ.toNat
  | 0, _, _, _, _, _, _, _ => by omega
  | m + 1, k, scr, hwf, hal, j, hlo, hhi => by
    have hwf' := memPut_wf (nestSize x.a.typ.toNat) scr (x.offset k 0).toNat x.fillWord hwf
    have hal' : ∀ j, k + 1 ≤ j → j < k + 1 + m → (x.offset j 0).toNat % nestSize x.a.typ.toNat = 0 := fun j hlo hhi => hal j (by omega) (by omega)
    rcases Nat.eq_or_lt_of_le hlo with rfl | hlt
    · exact Nest.memNat_filled_keeps (hal k (le_refl k) hhi) m (k + 1) _ hwf' hal' (memNat_memPut _ _ _ _ hwf)
    · exact Nest.memNat_filled m (k + 1) _ hwf' hal' j hlt (by omega)

end

/-! ### A map of one source (R141, R143) -/

theorem State.nmapStep_single {s : State} {x : Nest} {k key o0 o1 : Nat} {g : Wg} (hop : x.op = 0xE0) (hsrc : nestSrcs x.a.opn.toNat ≠ 2)
    (hg : s.wg? key = some g) (hw : s.unwatched g.core) (h0 : s.nestAt x k 0 = .ok (key, o0)) (h1 : s.nestAt x k 1 = .ok (key, o1)) :
    s.nmapStep x k = .ok (s.setWgs (withWindow s.c.wgs key g (memPut g.scr o0 (nestSize x.a.typ.toNat)
      (nestEnc x.a.typ.toNat (x.a.flg.getLsbD 0) (nestOp x.a.typ.toNat x.a.opn.toNat x.img (x.a.flg.getLsbD 0)
        (nestDec x.a.typ.toNat (memNat g.scr o1 (nestSize x.a.typ.toNat))) 0))))) := by
  have hmap : (x.op == 0xE2) = false := by rw [hop]; rfl
  have hone : (nestSrcs x.a.opn.toNat == 2) = false := by simpa using hsrc
  simp only [State.nmapStep, hmap, hone, Bool.false_eq_true, if_false, h1, State.nestLoad, s.scrRead_unwatched key _ akRead _ _ g hg hw, h0]
  exact congrArg Except.ok (s.scrWrite_unwatched key _ akWrite _ _ _ g hg hw)

theorem nestsWalkTheirElements : NestsWalkTheirElements := by
  unfold NestsWalkTheirElements
  refine ⟨fun s wid x hfind hfrozen => ⟨fun hne => ?other, fun hwid => ⟨fun u acc h => ?ends, fun u f n a p h ht hb => ?fails⟩⟩,
    fun s x m g hop hdebug hseat hg hwf hint _ hm hfits => ?fill,
    fun s x k k0 k1 o0 o1 g hop hdebug hseat hsrc hg hwf h0 h1 hk => ?map⟩
  case other =>
    change execNestComplete wid s = _
    rw [execNestComplete, State.nestTurn_eq hfind hfrozen, if_neg hne]
  case ends =>
    rw [exec_nestComplete ((State.nestTurn_eq hfind hfrozen).trans (if_pos hwid)) (State.runNest_ends h), State.dropNest, hwid]
  case fails =>
    rw [exec_nestComplete ((State.nestTurn_eq hfind hfrozen).trans (if_pos hwid)) (State.runNest_fails h), State.failNest_single ht hb, State.dropNest, hwid]
  case fill =>
    obtain ⟨-, -, hcores⟩ := hseat
    have hw := hdebug.unwatched g.core (hcores g (List.mem_of_find?_eq_some (State.wgOf_key hg)))
    obtain ⟨m, rfl⟩ : ∃ l, m = l + 1 := ⟨m - 1, by omega⟩
    have hal : ∀ j, 0 ≤ j → j < 0 + (m + 1) → (x.offset j 0).toNat % nestSize x.a.typ.toNat = 0 := fun j _ hj =>
      Nest.fits.aligned (hfits j (by omega))
    refine ⟨_, x.filled (m + 1) 0 g.scr, State.walkNest_fill hop hint 0 m s 0 g hg hw fun j _ hj => hfits j (by omega), rfl, rfl, rfl,
      fun k hk => Nest.memNat_filled (m + 1) 0 g.scr hwf hal k (Nat.zero_le k) (by omega), fun a ha => ?_⟩
    exact Nest.memGet_filled_outside (m + 1) 0 g.scr fun j _ hj => ⟨(hfits j (by omega)).1, ha j (by omega)⟩
  case map =>
    subst hk
    obtain ⟨-, -, hcores⟩ := hseat
    have hw := hdebug.unwatched g.core (hcores g (List.mem_of_find?_eq_some hg))
    exact ⟨_, _, State.nmapStep_single hop hsrc hg hw h0 h1, rfl, rfl, memNat_memPut _ _ _ _ hwf, fun a ha => memGet_memPut_outside _ _ _ _ _ ha⟩

/-- Settles O32: the starts by the body of the issue, the walk element by element. -/
theorem loopNests : Obligations.LoopNests := by
  unfold Obligations.LoopNests
  exact ⟨nestsStartWithTheirBases, nestsWalkTheirElements⟩

end Sys2Proof.Machine
end

section
/-! PROOFS. Results that draw (R154, R155): one thread's result and what it leaves of the thread's draw sequence. -/

namespace Sys2Proof.Machine
open Sys2Proof

/-! ### One thread that sends results and changes its own record -/

theorem State.Remaps.addPend {s t : State} {F : Thread → Thread} (h : s.Remaps t F) (ps : List Pend) : (s.addPend ps).Remaps (t.addPend ps) F where
  rest := by
    unfold State.addPend State.setPend
    conv_lhs => rw [h.rest]
  tid := h.tid

/-- What one thread's record becomes does not depend on the results in flight. -/
theorem State.OnlyThread.of_addPend {s t : State} {n : Nat} {w : Thread} {ps : List Pend} (h : (s.addPend ps).OnlyThread t n w) : s.OnlyThread t n w :=
  h

theorem State.OnlyResults.onlyThread {s t : State} {n : Nat} (h : s.OnlyResults t) (hcur : s.cur.tids = [n]) : s.OnlyThread t n (s.thread n) := by
  obtain ⟨hrest, hctl, hother, hbyte⟩ := h
  exact ⟨hrest, hctl n, fun k hk => hother k (by simpa [hcur] using hk), hbyte⟩

/-- One thread whose body sends results and then changes the thread's own record. -/
theorem State.run_solo_sends_onlyThread {s : State} {i : Instr} {body : Body} {n : Nat} (h : s.solo i n = true) {ps : List Pend} {f : Thread → Thread}
    (hb : body (s.countIssue i s.cur.tids) [n] = (((s.countIssue i s.cur.tids).addPend ps).modThread n f, [])) (hf : ∀ t, (f t).tid = t.tid) {w : Thread}
    (hw : ∀ c, (f (s.counted i (s.thread n))).control c = w.control c) :
    ∃ t, s.run i body = .next t ∧ t.c.pend = s.c.pend ++ ps ∧ s.OnlyThread t n w := by
  obtain ⟨g, hrun, hg⟩ := State.run_solo_goes_on h hb
  have hctl : ∀ t, g t = t.control (g t) := fun t => by
    rw [hg, Thread.onward_control]
    rfl
  have hmap := (((State.Remaps.countIssue s i n (State.solo_tids h)).addPend ps).trans_at (.modThread _ n hf)).control hctl
  have hsome := State.solo_isSome h
  have honly : (s.addPend ps).OnlyThread _ n w := hmap.onlyThread_at hsome (by rw [Function.comp_apply, ← hw]; exact hctl _)
  exact ⟨_, hrun, hmap.pend, honly.of_addPend⟩

/-! ### The draws of one thread -/

/-- A thread that goes on from another place of its draw sequence. -/
def Thread.reseed (v : Word) (t : Thread) : Thread := { t with rseed := v }

/-- The place of a register does not depend on the draw sequence. -/
theorem State.targets_modThread_reseed (s : State) (n : Nat) (v : Word) (ts : List Nat) (d : Opnd) :
    (s.modThread n (Thread.reseed v)).targets ts d = s.targets ts d := by
  have hphys : ∀ m k, ((s.modThread n (Thread.reseed v)).thread m).phys k = (s.thread m).phys k := fun m k => by
    unfold State.thread
    rw [State.thread?_modThread s n (Thread.reseed v) fun _ => rfl]
    cases s.thread? m with
    | none => rfl
    | some t =>
      simp only [Option.map_some, Option.getD_some]
      split <;> rfl
  cases d <;> simp only [State.targets, State.dest, hphys]

theorem State.result_modThread_reseed (s : State) (n : Nat) (v : Word) (ts : List Nat) (d : Opnd) (f : Nat → Word) :
    (s.modThread n (Thread.reseed v)).result ts d f = (s.result ts d f).modThread n (Thread.reseed v) := by
  rw [State.result, State.emit, State.targets_modThread_reseed]
  rfl

theorem State.result_single_congr (s : State) (n : Nat) (d : Opnd) {f g : Nat → Word} (h : f n = g n) : s.result [n] d f = s.result [n] d g := by
  unfold State.result State.emit
  refine congrArg s.addPend (List.map_congr_left fun q hq => ?_)
  obtain rfl : q.1 = n := by simpa using State.mem_of_targets hq
  simp only [h]

/-- One thread's `v` or `w` register is one destination, for which the thread stands. -/
theorem State.targets_single (s : State) (n : Nat) {d : Opnd} (hd : d.isV = true ∨ d.isW = true) : ∃ r, s.targets [n] d = [(n, r, [n])] := by
  cases d with
  | v m => exact ⟨.v n ((s.thread n).phys m.toNat), by simp [State.targets, State.dest]⟩
  | w m => exact ⟨.w (widOf n) m.toNat, by simp [State.targets]⟩
  | imm _ | p _ | k _ | t _ | z _ => simp [Opnd.isV, Opnd.isW] at hd

/-- Under `.rs` one thread's result takes its draws from the thread's own sequence, which moves on past them. -/
theorem drawBody_rs_single (s : State) (n : Nat) {d : Opnd} (hd : d.isV = true ∨ d.isW = true) (k : Nat) (f : State → Nat → (Nat → Nat) → Word) :
    drawBody .rs d k f s [n] =
      ((s.result [n] d fun _ => f s n fun e => (draws k (s.thread n).rseed).2.getD e 0).modThread n (Thread.reseed (draws k (s.thread n).rseed).1), []) := by
  obtain ⟨r, hr⟩ := s.targets_single n hd
  unfold drawBody
  rw [if_neg (by decide), hr]
  have hdrawer : s.drawer n [n] = n := if_pos (by simp)
  simp only [List.foldl_cons, List.foldl_nil, List.find?_cons_of_pos, beq_self_eq_true, hdrawer]
  rw [State.result_single_congr (g := fun _ => f s n fun e => (draws k (s.thread n).rseed).2.getD e 0)]
  · rfl
  · simp only [List.find?_cons_of_pos, beq_self_eq_true, hdrawer]
/-- One thread's result with the draws of R154, in every rounding mode. -/
theorem State.run_drawBody_solo {s : State} {i : Instr} {n : Nat} (h : s.solo i n = true) {d : Opnd} (hd : d.isV = true ∨ d.isW = true) (rm : Rm) (k : Nat)
    (f : State → Nat → (Nat → Nat) → Word) :
    let ds := draws k (s.thread n).rseed
    ∃ t, s.run i (drawBody rm d k f) = .next t ∧
      s.Sends t (s.valuesAt [n] d fun _ => f (s.countIssue i s.cur.tids) n fun e => if rm = .rs then ds.2.getD e 0 else 0) ∧
      s.OnlyThread t n { s.thread n with rseed := if rm = .rs then ds.1 else (s.thread n).rseed } := by
  intro ds
  obtain ⟨hclean, hon, hcur⟩ := s.solo_clean i n h
  obtain ⟨ps, hps, hvals⟩ := (s.countIssue i s.cur.tids).result_sends [n] d fun _ =>
    f (s.countIssue i s.cur.tids) n fun e => if rm = .rs then ds.2.getD e 0 else 0
  rw [State.countIssue_valuesAt] at hvals
  by_cases hrm : rm = .rs
  · subst hrm
    simp only [if_true] at hps hvals ⊢
    have hb := drawBody_rs_single (s.countIssue i s.cur.tids) n hd k f
    rw [(State.SameOperands.countIssue s i).rseed, hps] at hb
    obtain ⟨t, hrun, hpend, honly⟩ := State.run_solo_sends_onlyThread h hb (fun _ => rfl) (w := { s.thread n with rseed := ds.1 }) fun _ => rfl
    exact ⟨t, hrun, ⟨ps, hpend, hvals⟩, honly⟩
  · simp only [if_neg hrm] at hps hvals ⊢
    have hb : drawBody rm d k f (s.countIssue i s.cur.tids) (s.executing i) = ((s.countIssue i s.cur.tids).addPend ps, []) := by
      rw [drawBody_plain hrm, resultBody, hon, ← hps, State.result_single_congr]
      rfl
    obtain ⟨t, hrun, hpend, honly, -⟩ := s.run_results i _ ps hclean hb
    exact ⟨t, hrun, ⟨ps, hpend, hvals⟩, honly.onlyThread hcur⟩

/-- An instruction whose one result draws once for each of `count` values, with a result that `P` allows for the draws (R154, R155). -/
def DrawsPerValue (mk : V96A → Instr) (count : V96A → Nat) (P : V96A → State → Nat → (Nat → Nat) → Word → Prop) : Prop :=
  ∀ (x : V96A) (s : State) (n : Nat), s.solo (mk x) n = true →
    let ds := draws (count x) (s.thread n).rseed
    ∃ t w, exec (mk x) s = .next t ∧ s.Sends t (s.valuesAt [n] x.d fun _ => w) ∧
      P x s n (fun e => if x.rm = .rs then ds.2.getD e 0 else 0) w ∧
      s.OnlyThread t n { s.thread n with rseed := if x.rm = .rs then ds.1 else (s.thread n).rseed }

/-- An instruction that the decoder accepts with a register as its destination, and whose result is right for all draws. -/
theorem DrawsPerValue.of_drawBody {mk : V96A → Instr} {count : V96A → Nat} {P : V96A → State → Nat → (Nat → Nat) → Word → Prop}
    {f : V96A → State → Nat → (Nat → Nat) → Word} (hexec : ∀ x s, exec (mk x) s = s.run (mk x) (drawBody x.rm x.d (count x) (f x)))
    (hd : ∀ x ctx, (mk x).wfIn ctx = true → x.d.isV = true ∨ x.d.isW = true)
    (hP : ∀ (x : V96A) (s : State) (n : Nat), s.clean (mk x) = true → ∀ dr, P x s n dr (f x (s.countIssue (mk x) s.cur.tids) n dr)) :
    DrawsPerValue mk count P := by
  intro x s n h ds
  obtain ⟨hclean, -, -⟩ := s.solo_clean _ n h
  obtain ⟨t, hrun, hsends, honly⟩ := State.run_drawBody_solo h (hd x _ (State.clean_wf hclean)) x.rm (count x) (f x)
  exact ⟨t, _, (hexec x s).trans hrun, hsends, hP x s n hclean _, honly⟩

/-! ### Destinations that the decoder accepts -/

theorem isV_or_isW_of_uniOk {ctx : Bool} {d : Opnd} {srcs : List Opnd} {g0 g1 : Guard} (h : uniOk ctx d srcs g0 g1 = true) :
    d.isV = true ∨ d.isW = true := by
  unfold uniOk at h
  split at h
  case isTrue hw => exact .inr hw
  case isFalse =>
    simp only [Bool.and_eq_true] at h
    exact .inl h.1.2

theorem isV_or_isW_of_wfFloat {ctx : Bool} {x : V96A} {srcs : List Opnd} {u : Use96} {rmOk satOk opxOk : Bool}
    (h : wfFloat ctx x srcs u rmOk satOk opxOk = true) : x.d.isV = true ∨ x.d.isW = true := by
  unfold wfFloat at h
  simp only [Bool.and_eq_true] at h
  exact isV_or_isW_of_uniOk h.1.1.1.2

theorem isV_of_wfCvt {ctx : Bool} {x : V96A} {u : Use96} (h : wfCvt ctx x u = true) : x.d.isV = true := by
  unfold wfCvt at h
  simp only [Bool.and_eq_true] at h
  tauto

end Sys2Proof.Machine
end

section
/-! PROOFS. O7: float arithmetic, conversions and the codec group under stochastic rounding (R154, R155, R165, R169). -/

namespace Sys2Proof.Machine
open Sys2Proof

/-! ### Bytes and nibbles replaced in a register -/

/-- A run of bytes replaced from place q on. -/
theorem byteOf_foldl_setEl (g : Nat → Nat) (q : Nat) (w : Word) {j : Nat} (hj : j < 8) (k : Nat) :
    byteOf ((List.range k).foldl (fun d e => setEl .u8x8 d (q + e) (g e)) w).toNat j =
      if q ≤ j ∧ j < q + k then g (j - q) % 256 else byteOf w.toNat j := by
  rw [← subEl_u8x8, ← subEl_u8x8]
  exact subEl_foldl_setEl .u8x8 g q w hj k

theorem sixteen_pow_eq (i : Nat) : 16 ^ i = 2 ^ (4 * i) := by rw [Nat.pow_mul]

theorem nibble_testBit (w : Word) (i j : Nat) : (nibble w i).testBit j = (decide (j < 4) && w.getLsbD (4 * i + j)) := by
  rw [nibble, sixteen_pow_eq, show 16 = 2 ^ 4 from rfl, Nat.testBit_mod_two_pow, Nat.testBit_div_two_pow, BitVec.testBit_toNat, Nat.add_comm]

theorem setNibble_getLsbD (w : Word) (i c : Nat) {k : Nat} (hk : k < 64) :
    (setNibble w i c).getLsbD k = if 4 * i ≤ k ∧ k < 4 * i + 4 then c.testBit (k - 4 * i) else w.getLsbD k := by
  rw [setNibble, nibble, sixteen_pow_eq, BitVec.getLsbD_ofNat, decide_eq_true hk, Bool.true_and]
  exact (replaceField_testBit w.toNat c (4 * i) 4 k).trans (by rw [BitVec.testBit_toNat])

theorem nibble_setNibble (w : Word) (c : Nat) {i j : Nat} (hj : j < 16) : nibble (setNibble w i c) j = if j = i then c % 16 else nibble w j := by
  apply Nat.eq_of_testBit_eq
  intro b
  rw [nibble_testBit]
  by_cases hb : b < 4
  · rw [decide_eq_true hb, Bool.true_and, setNibble_getLsbD w i c (by omega)]
    by_cases h : j = i
    · rw [if_pos h, h, if_pos ⟨by omega, by omega⟩, Nat.add_sub_cancel_left]
      exact (testBit_mod_width hb c).symm
    · rw [if_neg h, if_neg (by omega), nibble_testBit, decide_eq_true hb, Bool.true_and]
  · have hsixteen : ∀ m, m < 16 → m.testBit b = false := fun m hm =>
      Nat.testBit_lt_two_pow (hm.trans_le (Nat.pow_le_pow_right two_pos (not_lt.1 hb) : 2 ^ 4 ≤ 2 ^ b))
    rw [decide_eq_false hb, Bool.false_and, hsixteen]
    split
    · exact Nat.mod_lt _ (by norm_num)
    · exact Nat.mod_lt _ (by norm_num)

/-- A run of nibbles replaced from place q on. -/
theorem nibble_foldl_setNibble (g : Nat → Nat) (q : Nat) (w : Word) {j : Nat} (hj : j < 16) : ∀ k,
    nibble ((List.range k).foldl (fun d e => setNibble d (q + e) (g e)) w) j = if q ≤ j ∧ j < q + k then g (j - q) % 16 else nibble w j
  | 0 => by rw [if_neg (by omega)]; rfl
  | k + 1 => by
    rw [List.range_succ, List.foldl_concat, nibble_setNibble _ _ hj, nibble_foldl_setNibble g q w hj k]
    by_cases h : j = q + k
    · rw [if_pos h, if_pos ⟨by omega, by omega⟩, h, Nat.add_sub_cancel_left]
    · rw [if_neg h]
      congr 1
      rw [eq_iff_iff]
      omega

/-! ### Float arithmetic and conversions -/

theorem DrawsPerValue.of_fbody2 {mk : V96A → Instr} {f : Flt → Rm → Bool → Bool → Nat → Nat → Nat → Nat}
    (hexec : ∀ x s, exec (mk x) s = s.run (mk x) (fbody2 x f)) (hd : ∀ x ctx, (mk x).wfIn ctx = true → x.d.isV = true ∨ x.d.isW = true) :
    DrawsPerValue mk (fun x => x.ty.count) fun x s n dr w => ∀ e < x.ty.count, subEl x.ty w e =
      f (tyFlt x.ty) x.rm (x.sat == .satf) (x.opx.getLsbD 3) (dr e) (s.el n x.ty x.a e) (s.el n x.ty x.b e) % 2 ^ x.ty.width :=
  .of_drawBody hexec hd fun x s n _ dr e he => by
    simp only [State.countIssue_el]
    rw [subEl_mapEl _ _ _ he]
    rfl

theorem drawsPerValue_ffma : DrawsPerValue .ffma (fun x => x.ty.count) fun x s n dr w => ∀ e < x.ty.count, subEl x.ty w e =
    fltFma (tyFlt x.ty) x.rm (x.sat == .satf) (x.opx.getLsbD 3) (dr e) (s.el n x.ty x.a e) (s.el n x.ty x.b e) (s.el n x.ty x.c e) % 2 ^ x.ty.width :=
  .of_drawBody (fun _ _ => rfl) (fun _ _ => isV_or_isW_of_wfFloat) fun x s n _ dr e he => by
    simp only [State.countIssue_el]
    rw [subEl_mapEl _ _ _ he]
    rfl

/-- The result of a conversion with its draws. -/
def cvtWord (x : V96A) (s : State) (n : Nat) (dr : Nat → Nat) : Word :=
  let q := (x.opx.extractLsb' 0 2).toNat
  let one := fun (k c : Nat) => convEl x.ty x.ty2 x.rm (V96A.isSatf x) (V96A.isFtz x) (dr k) c
  if x.ty2.count ≤ x.ty.count then
    (List.range x.ty2.count).foldl (fun d e => setEl x.ty d (q * x.ty2.count + e) (one e (s.el n x.ty2 x.a e)))
      (if x.ty.count == x.ty2.count then 0 else s.opnd n x.d)
  else mapEl x.ty fun e => one e (s.el n x.ty2 x.a (q * x.ty.count + e))

theorem cvtBody_eq (x : V96A) : cvtBody x = drawBody x.rm x.d (min x.ty.count x.ty2.count) (cvtWord x) := rfl

theorem subEl_cvtWord {x : V96A} (hopx : cvtOpx x = true) (s : State) (n : Nat) (dr : Nat → Nat) {e : Nat} (he : e < x.ty.count) :
    let q := (x.opx.extractLsb' 0 2).toNat
    let one := fun (k c : Nat) => convEl x.ty x.ty2 x.rm (x.sat == .satf) (x.opx.getLsbD 3) (dr k) c % 2 ^ x.ty.width
    subEl x.ty (cvtWord x s n dr) e =
      if x.ty.count < x.ty2.count then one e (s.el n x.ty2 x.a (q * x.ty.count + e))
      else if q * x.ty2.count ≤ e ∧ e < q * x.ty2.count + x.ty2.count then one (e - q * x.ty2.count) (s.el n x.ty2 x.a (e - q * x.ty2.count))
      else subEl x.ty (s.opnd n x.d) e := by
  unfold cvtWord
  by_cases hlt : x.ty.count < x.ty2.count
  · simp only [if_neg (not_le.2 hlt), if_pos hlt]
    exact subEl_mapEl _ _ _ he
  · simp only [if_pos (not_lt.1 hlt), if_neg hlt]
    rw [subEl_foldl_setEl x.ty (fun j => convEl x.ty x.ty2 x.rm (V96A.isSatf x) (V96A.isFtz x) (dr j) (s.el n x.ty2 x.a j)) _ _ he]
    split
    case isTrue => rfl
    case isFalse hout =>
      have hne : x.ty.count ≠ x.ty2.count := fun heq => by
        rw [cvtOpx_zero hopx heq.symm] at hout
        omega
      rw [if_neg (by simpa using hne)]

theorem DrawsPerValue.of_cvtBody {mk : V96A → Instr} (hexec : ∀ x s, exec (mk x) s = s.run (mk x) (cvtBody x))
    (hd : ∀ x ctx, (mk x).wfIn ctx = true → x.d.isV = true ∨ x.d.isW = true) (hopx : ∀ x ctx, (mk x).wfIn ctx = true → cvtOpx x = true) :
    DrawsPerValue mk (fun x => min x.ty.count x.ty2.count) fun x s n dr w => ∀ e < x.ty.count,
      let q := (x.opx.extractLsb' 0 2).toNat
      let one := fun (k c : Nat) => convEl x.ty x.ty2 x.rm (x.sat == .satf) (x.opx.getLsbD 3) (dr k) c % 2 ^ x.ty.width
      subEl x.ty w e =
        if x.ty.count < x.ty2.count then one e (s.el n x.ty2 x.a (q * x.ty.count + e))
        else if q * x.ty2.count ≤ e ∧ e < q * x.ty2.count + x.ty2.count then one (e - q * x.ty2.count) (s.el n x.ty2 x.a (e - q * x.ty2.count))
        else subEl x.ty (s.opnd n x.d) e :=
  .of_drawBody (f := cvtWord) (fun x s => (hexec x s).trans (by rw [cvtBody_eq])) hd fun x s n h dr e he => by
    simpa only [State.countIssue_el, State.countIssue_opnd] using subEl_cvtWord (hopx x _ (State.clean_wf h)) (s.countIssue (mk x) s.cur.tids) n dr he

/-! ### The codec group (R165, R169) -/

theorem drawsPerValue_cvt8 : DrawsPerValue .cvt8 (fun x => x.ty.count) fun x s n dr w => ∀ j < 8,
    let q := (x.opx.extractLsb' 0 3).toNat * x.ty.count
    let a := fun e => (tyFlt x.ty).decode (s.el n x.ty x.a e)
    byteOf w.toNat j =
      if q ≤ j ∧ j < q + x.ty.count then
        (fmtCode (x.e.num % 64)).enc x.rm (x.sat == .satf) (dr (j - q))
          (if x.opx.getLsbD 3 then quot (a (j - q)) (s.el n x.ty x.b (j - q)) else a (j - q)) % 256
      else byteOf (s.opnd n x.d).toNat j := by
  refine .of_drawBody (fun _ _ => rfl) (fun x ctx h => ?_) fun x s n _ dr j hj => ?_
  · simp only [Instr.wfIn, Bool.and_eq_true] at h
    exact .inl (isV_of_wfCvt h.1)
  · simp only [State.countIssue_el, State.countIssue_opnd]
    exact byteOf_foldl_setEl (fun e => (fmtCode (x.e.num % 64)).enc x.rm (V96A.isSatf x) (dr e)
      (if x.opx.getLsbD 3 then quot ((tyFlt x.ty).decode (s.el n x.ty x.a e)) (s.el n x.ty x.b e) else (tyFlt x.ty).decode (s.el n x.ty x.a e)))
      _ _ hj _

theorem drawsPerValue_cvw8 : DrawsPerValue .cvw8 (fun x => x.ty.count) fun x s n dr w => ∀ e < x.ty.count,
    let a := (fmtCode (x.e.num % 64)).decode (byteOf (s.opnd n x.a).toNat ((x.opx.extractLsb' 0 3).toNat * x.ty.count + e))
    subEl x.ty w e = (tyFmt x.ty).enc x.rm (x.sat == .satf) (dr e) (if x.opx.getLsbD 3 then prod a (s.el n x.ty x.b e) else a) % 2 ^ x.ty.width := by
  refine .of_drawBody (fun _ _ => rfl) (fun x ctx h => ?_) fun x s n _ dr e he => ?_
  · simp only [Instr.wfIn, Bool.and_eq_true] at h
    exact .inl (isV_of_wfCvt h.1)
  · simp only [State.countIssue_el, State.countIssue_opnd]
    exact subEl_mapEl _ _ _ he

theorem drawsPerValue_pk4 : DrawsPerValue .pk4 (fun x => x.ty.count) fun x s n dr w => ∀ j < 16,
    let q := (x.opx.extractLsb' 0 3).toNat * x.ty.count
    nibble w j =
      if q ≤ j ∧ j < q + x.ty.count then
        (fmtCode (x.e.num % 64)).enc x.rm false (dr (j - q)) ((tyFmt x.ty).decode (s.el n x.ty x.a (j - q))) % 16
      else nibble (s.opnd n x.d) j := by
  refine .of_drawBody (fun _ _ => rfl) (fun x ctx h => ?_) fun x s n _ dr j hj => ?_
  · simp only [Instr.wfIn, Bool.and_eq_true] at h
    tauto
  · simp only [State.countIssue_el, State.countIssue_opnd]
    exact nibble_foldl_setNibble (fun e => (fmtCode (x.e.num % 64)).enc x.rm false (dr e) ((tyFmt x.ty).decode (s.el n x.ty x.a e))) _ _ hj _

/-! ### The outlier split (R166) -/

theorem State.SameOperands.outlier {s t : State} (h : s.SameOperands t) (n : Nat) (ty : Ty) (c : Nat) : t.outlier n ty c = s.outlier n ty c := by
  rw [State.outlier, State.outlier, h.olthr]

@[simp] theorem State.countIssue_outlier (s : State) (i : Instr) (n : Nat) (ty : Ty) (c : Nat) :
    (s.countIssue i s.cur.tids).outlier n ty c = s.outlier n ty c :=
  (State.SameOperands.countIssue s i).outlier n ty c

/-- The codes of the outlier split with its draws. -/
def cvolCodes (x : V96A) (s : State) (n : Nat) (dr : Nat → Nat) : Word :=
  (List.range x.ty.count).foldl (fun d e => setEl .u8x8 d (V96A.q x * x.ty.count + e)
    (if s.outlier n x.ty (s.el n x.ty x.a e) then 0
      else (fmtCode (x.e.num % 64)).enc x.rm (V96A.isSatf x) (dr e) ((tyFlt x.ty).decode (s.el n x.ty x.a e)))) (s.opnd n x.d)

/-- The threads of a group below one of it. -/
def groupBelow (ts : List Nat) (n : Nat) : List Nat := (groupOf ts n).filter fun u => decide (u < n)

/-- The flags of the outlier split, above them the count of outliers below the lane. -/
def cvolFlags (x : V96A) (s : State) (ts : List Nat) (n : Nat) : Word :=
  BitVec.ofNat 64 ((List.range x.ty.count).foldl (fun a e => a + bit (s.outlier n x.ty (s.el n x.ty x.a e)) * 2 ^ e) 0 +
    (s.outliers x (groupBelow ts n)).length * 256)

/-- One lane's part of the side list of the outlier split. -/
def cvolSide (x : V96A) (s : State) (ts : List Nat) (n : Nat) : Word :=
  mapEl .u16x4 fun k => (s.outliers x (groupOf ts n)).getD (4 * (groupBelow ts n).length + k) 0

/-- What `cvol` does to its threads. -/
def cvolBody (x : V96A) : Body := fun s ts =>
  let r := drawBody x.rm x.d x.ty.count (cvolCodes x) s ts
  ((r.1.result ts x.b (cvolFlags x s ts)).result ts x.c (cvolSide x s ts), r.2)

theorem exec_cvol (x : V96A) (s : State) : exec (.cvol x) s = s.run (.cvol x) (cvolBody x) := rfl

theorem byteOf_cvolCodes (x : V96A) (s : State) (n : Nat) (dr : Nat → Nat) {j : Nat} (hj : j < 8) :
    let q := (x.opx.extractLsb' 0 3).toNat * x.ty.count
    byteOf (cvolCodes x s n dr).toNat j =
      if q ≤ j ∧ j < q + x.ty.count then
        (if s.outlier n x.ty (s.el n x.ty x.a (j - q)) = true then 0
          else (fmtCode (x.e.num % 64)).enc x.rm (x.sat == .satf) (dr (j - q)) ((tyFlt x.ty).decode (s.el n x.ty x.a (j - q))) % 256)
      else byteOf (s.opnd n x.d).toNat j := by
  intro q
  have hcode := byteOf_foldl_setEl (fun e => if s.outlier n x.ty (s.el n x.ty x.a e) then 0
    else (fmtCode (x.e.num % 64)).enc x.rm (V96A.isSatf x) (dr e) ((tyFlt x.ty).decode (s.el n x.ty x.a e))) q (s.opnd n x.d) hj x.ty.count
  rw [apply_ite (· % 256), Nat.zero_mod] at hcode
  exact hcode

@[simp] theorem cvolCodes_countIssue (x : V96A) (s : State) (i : Instr) (n : Nat) (dr : Nat → Nat) :
    cvolCodes x (s.countIssue i s.cur.tids) n dr = cvolCodes x s n dr := by
  simp only [cvolCodes, State.countIssue_el, State.countIssue_opnd, State.countIssue_outlier]

/-- Three results of one issue. -/
theorem State.result_three_sends (s : State) (ts : List Nat) (d b c : Opnd) (f g h : Nat → Word) :
    ∃ ps : List Pend, ((s.result ts d f).result ts b g).result ts c h = s.addPend ps ∧
      ps.map (fun p => (p.dst, p.val)) = s.valuesAt ts d f ++ s.valuesAt ts b g ++ s.valuesAt ts c h := by
  obtain ⟨p1, h1, hv1⟩ := s.result_sends ts d f
  obtain ⟨p2, h2, hv2⟩ := (s.addPend p1).result_sends ts b g
  obtain ⟨p3, h3, hv3⟩ := ((s.addPend p1).addPend p2).result_sends ts c h
  refine ⟨p1 ++ p2 ++ p3, ?_, ?_⟩
  · rw [h1, h2, h3]
    simp only [State.addPend, State.setPend, List.append_assoc]
  · simp only [List.map_append, hv1, hv2, hv3, State.valuesAt_addPend]

theorem isV_of_wfIn_cvol {x : V96A} {ctx : Bool} (h : (Instr.cvol x).wfIn ctx = true) : x.d.isV = true := by
  simp only [Instr.wfIn, Bool.and_eq_true] at h
  exact isV_of_wfCvt h.1.1.1

/-- The outlier split of one thread under `.rs`. -/
theorem exec_cvol_rs {x : V96A} {s : State} {n : Nat} (h : s.solo (.cvol x) n = true) (hrm : x.rm = .rs) :
    let ds := draws x.ty.count (s.thread n).rseed
    ∃ t flags side, exec (.cvol x) s = .next t ∧
      s.Sends t (s.valuesAt [n] x.d (fun _ => cvolCodes x s n fun e => ds.2.getD e 0) ++ s.valuesAt [n] x.b flags ++ s.valuesAt [n] x.c side) ∧
      s.OnlyThread t n { s.thread n with rseed := ds.1 } := by
  intro ds
  obtain ⟨hclean, -, -⟩ := s.solo_clean _ n h
  obtain ⟨c, hc⟩ : ∃ c, c = s.countIssue (.cvol x) s.cur.tids := ⟨_, rfl⟩
  obtain ⟨ps, hps, hvals⟩ := c.result_three_sends [n] x.d x.b x.c (fun _ => cvolCodes x s n fun e => ds.2.getD e 0) (cvolFlags x c [n]) (cvolSide x c [n])
  have hdraw := drawBody_rs_single c n (.inl (isV_of_wfIn_cvol (State.clean_wf hclean))) x.ty.count (cvolCodes x)
  have hb : cvolBody x c [n] = ((c.addPend ps).modThread n (Thread.reseed ds.1), []) := by
    rw [cvolBody, hrm, hdraw, hc, (State.SameOperands.countIssue s (.cvol x)).rseed, cvolCodes_countIssue, ← hc, ← hps]
    simp only [State.result_modThread_reseed]
    rfl
  subst hc
  obtain ⟨t, hrun, hpend, honly⟩ := State.run_solo_sends_onlyThread h hb (fun _ => rfl) (w := { s.thread n with rseed := ds.1 }) fun _ => rfl
  simp only [State.countIssue_valuesAt] at hvals
  exact ⟨t, _, _, (exec_cvol x s).trans hrun, ⟨ps, hpend, hvals⟩, honly⟩

/-- Settles O7: each instruction by its body with draws, which one thread takes from its own sequence. -/
theorem stochasticRoundingDraws : Obligations.StochasticRoundingDraws := by
  unfold Obligations.StochasticRoundingDraws
  refine ⟨?fcvt, ?icvtf, fun x s n h hrm => ?cvol, ?fsub, ?fadd, ?fmul, drawsPerValue_ffma, drawsPerValue_cvt8, drawsPerValue_cvw8, drawsPerValue_pk4⟩
  case fsub => exact DrawsPerValue.of_fbody2 (f := fltSub) (fun _ _ => rfl) fun _ _ => isV_or_isW_of_wfFloat
  case fadd => exact DrawsPerValue.of_fbody2 (f := fltAdd) (fun _ _ => rfl) fun _ _ => isV_or_isW_of_wfFloat
  case fmul => exact DrawsPerValue.of_fbody2 (f := fltMul) (fun _ _ => rfl) fun _ _ => isV_or_isW_of_wfFloat
  case fcvt | icvtf =>
    refine DrawsPerValue.of_cvtBody (fun _ _ => rfl) (fun _ _ => isV_or_isW_of_wfFloat) fun x ctx h => ?_
    simp only [Instr.wfIn, wfFloat, Bool.and_eq_true] at h
    exact h.2
  case cvol =>
    obtain ⟨t, flags, side, hrun, hsends, honly⟩ := exec_cvol_rs h hrm
    refine ⟨t, _, flags, side, hrun, hsends, fun j hj => ?_, honly⟩
    have hcode := byteOf_cvolCodes x s n (fun e => (draws x.ty.count (s.thread n).rseed).2.getD e 0) hj
    rwa [hrm] at hcode

end Sys2Proof.Machine
end

section
/-! PROOFS. O8: the outlier split over a group, block maxima, block scales and the unpacking of nibbles (R166 to R169). -/

namespace Sys2Proof.Machine
open Sys2Proof

/-! ### Outliers of a group -/

theorem State.SameOperands.outliers {s t : State} (h : s.SameOperands t) (x : V96A) (g : List Nat) : t.outliers x g = s.outliers x g := by
  have hel : ∀ u, t.el u x.ty x.a = s.el u x.ty x.a := fun u => funext (h.el u x.ty x.a)
  simp only [State.outliers, hel, h.outlier]

/-- A group holds at most the 32 lanes of its warp. -/
theorem groupOf_length_le {ts : List Nat} (h : ts.Nodup) (n : Nat) : (groupOf ts n).length ≤ 32 := by
  have hsub : groupOf ts n ⊆ (List.range 32).map (widOf n * 32 + ·) := fun u hu => by
    have hw := (List.mem_filter.1 hu).2
    simp only [beq_iff_eq, widOf] at hw
    exact List.mem_map.2 ⟨u % 32, List.mem_range.2 (Nat.mod_lt _ (by norm_num)), by simp only [widOf]; omega⟩
  exact ((h.filter _).subperm hsub).length_le.trans_eq (by simp)

theorem groupBelow_length_le {ts : List Nat} (h : ts.Nodup) (n : Nat) : (groupBelow ts n).length ≤ 32 :=
  (List.length_filter_le _ _).trans (groupOf_length_le h n)

theorem Ty.count_le (t : Ty) : t.count ≤ 8 := by cases t <;> decide

theorem State.outliers_length_le (s : State) (x : V96A) (g : List Nat) : (s.outliers x g).length ≤ g.length * 8 := by
  rw [State.outliers, List.length_flatMap]
  refine (List.sum_le_card_nsmul _ 8 fun k hk => ?_).trans_eq (by simp)
  obtain ⟨u, -, rfl⟩ := List.mem_map.1 hk
  exact (List.length_filterMap_le _ _).trans (by simpa using Ty.count_le x.ty)

/-! ### Flags -/

/-- A number with one bit for each value of a predicate, lowest first. -/
theorem foldl_bit_spec (p : Nat → Bool) : ∀ k,
    (List.range k).foldl (fun a e => a + bit (p e) * 2 ^ e) 0 < 2 ^ k ∧
      ∀ e < k, ((List.range k).foldl (fun a e => a + bit (p e) * 2 ^ e) 0).testBit e = p e
  | 0 => ⟨by simp, fun e he => absurd he e.not_lt_zero⟩
  | k + 1 => by
    obtain ⟨hlt, hbits⟩ := foldl_bit_spec p k
    rw [List.range_succ, List.foldl_concat]
    generalize (List.range k).foldl (fun a e => a + bit (p e) * 2 ^ e) 0 = v at *
    have hbit : bit (p k) ≤ 1 := by cases p k <;> decide
    refine ⟨?_, fun e he => ?_⟩
    · have hle := Nat.mul_le_mul_right (2 ^ k) hbit
      omega
    · rw [Nat.add_comm, Nat.mul_comm, Nat.testBit_two_pow_mul_add _ hlt]
      split
      case isTrue hek => exact hbits e hek
      case isFalse hek =>
        obtain rfl : e = k := by omega
        rw [Nat.sub_self]
        cases p e <;> rfl

/-- The flags lie below the count of outliers. -/
theorem cvolFlags_spec (x : V96A) (s : State) {ts : List Nat} (h : ts.Nodup) (n : Nat) :
    (∀ e < x.ty.count, (cvolFlags x s ts n).toNat.testBit e = s.outlier n x.ty (s.el n x.ty x.a e)) ∧
      (cvolFlags x s ts n).toNat % 256 < 2 ^ x.ty.count ∧ (cvolFlags x s ts n).toNat / 256 = (s.outliers x (groupBelow ts n)).length := by
  obtain ⟨hlt, hbits⟩ := foldl_bit_spec (fun e => s.outlier n x.ty (s.el n x.ty x.a e)) x.ty.count
  have hcount := s.outliers_length_le x (groupBelow ts n)
  have hgroup := groupBelow_length_le h n
  have hbyte : 2 ^ x.ty.count ≤ 256 := Nat.pow_le_pow_right (n := 2) two_pos (Ty.count_le x.ty)
  unfold cvolFlags
  generalize (List.range x.ty.count).foldl (fun a e => a + bit (s.outlier n x.ty (s.el n x.ty x.a e)) * 2 ^ e) 0 = v at *
  rw [BitVec.toNat_ofNat, Nat.mod_eq_of_lt (by omega)]
  refine ⟨fun e he => ?_, by omega, by omega⟩
  have hfield := Nat.testBit_two_pow_mul_add (i := 8) (s.outliers x (groupBelow ts n)).length (b := v) (by omega) e
  rw [if_pos (he.trans_le (Ty.count_le x.ty)), hbits e he] at hfield
  rw [← hfield, Nat.add_comm, Nat.mul_comm]

theorem cvolFlags_countIssue (x : V96A) (s : State) (i : Instr) (ts : List Nat) (n : Nat) :
    cvolFlags x (s.countIssue i s.cur.tids) ts n = cvolFlags x s ts n := by
  simp only [cvolFlags, State.countIssue_el, State.countIssue_outlier, (State.SameOperands.countIssue s i).outliers]

theorem cvolSide_countIssue (x : V96A) (s : State) (i : Instr) (ts : List Nat) (n : Nat) :
    cvolSide x (s.countIssue i s.cur.tids) ts n = cvolSide x s ts n := by
  simp only [cvolSide, (State.SameOperands.countIssue s i).outliers]

/-- The outlier split of a bundle without stochastic rounding. -/
theorem exec_cvol_clean {x : V96A} {s : State} (h : s.clean (.cvol x) = true) (hrm : x.rm ≠ .rs) :
    ∃ t, exec (.cvol x) s = .next t ∧
      s.Sends t (s.valuesAt (s.executing (.cvol x)) x.d (fun n => cvolCodes x s n fun _ => 0) ++
        s.valuesAt (s.executing (.cvol x)) x.b (cvolFlags x s (s.executing (.cvol x))) ++
        s.valuesAt (s.executing (.cvol x)) x.c (cvolSide x s (s.executing (.cvol x)))) ∧
      s.OnlyResults t ∧ s.Advances t (.cvol x) := by
  rw [exec_cvol]
  obtain ⟨ps, hps, hvals⟩ := (s.countIssue (.cvol x) s.cur.tids).result_three_sends (s.executing (.cvol x)) x.d x.b x.c
    (fun n => cvolCodes x s n fun _ => 0) (cvolFlags x s (s.executing (.cvol x))) (cvolSide x s (s.executing (.cvol x)))
  refine State.run_sends h ⟨ps, ?_, by simpa only [State.countIssue_valuesAt] using hvals⟩
  rw [← hps, cvolBody, drawBody_plain hrm]
  simp only [resultBody, cvolCodes_countIssue, funext (cvolFlags_countIssue x s (.cvol x) _), funext (cvolSide_countIssue x s (.cvol x) _)]

theorem State.executing_nodup {s : State} {i : Instr} (h : s.clean i = true) : (s.executing i).Nodup := by
  simp only [State.clean, Bool.and_eq_true, decide_eq_true_iff] at h
  exact h.1.2.filter _

/-! ### Block maxima (R167) -/

theorem State.SameOperands.blockVals {s t : State} (h : s.SameOperands t) (x : V96A) (ts : List Nat) (n b g : Nat) :
    t.blockVals x ts n b g = s.blockVals x ts n b g := by
  simp only [State.blockVals, State.el, h.opnd]

theorem exec_bmax (x : V96A) (s : State) (h : s.clean (.bmax x) = true) : ∃ t, exec (.bmax x) s = .next t ∧
    s.Computes t (.bmax x) x.d fun n w => ∀ e < x.ty.count,
      let g := 8 * 2 ^ x.opx.toNat
      subEl x.ty w e =
        (BitVec.ofInt x.ty.width (bmaxOf (s.blockVals x (s.executing (.bmax x)) n ((laneOf n * x.ty.count + e) / g) g))).toNat := by
  refine State.run_groupBody h fun n e he => ?_
  rw [subEl_mapEl _ _ _ he, (State.SameOperands.countIssue s (.bmax x)).blockVals]
  exact Nat.mod_eq_of_lt (BitVec.isLt _)

/-! ### Unpacking (R169) -/

theorem exec_upk4 (x : V96A) (s : State) (h : s.clean (.upk4 x) = true) : ∃ t, exec (.upk4 x) s = .next t ∧
    s.Computes t (.upk4 x) x.d fun n w => ∀ e < x.ty.count, subEl x.ty w e =
      (tyFmt x.ty).enc .rne false 0 ((fmtCode (x.e.num % 64)).decode (nibble (s.opnd n x.a) ((x.opx.extractLsb' 0 3).toNat * x.ty.count + e))) %
        2 ^ x.ty.width := by
  refine s.run_resultBody _ _ _ _ h fun n e he => ?_
  rw [State.countIssue_opnd]
  exact subEl_mapEl _ _ _ he

/-- Settles O8: the outlier split by its three results over the group, the other instructions sub-element by sub-element. -/
theorem codecSplitsScalesAndUnpacks : Obligations.CodecSplitsScalesAndUnpacks := by
  unfold Obligations.CodecSplitsScalesAndUnpacks
  refine ⟨fun x s h hrm => ?cvol, exec_bmax, ?bscl, exec_upk4⟩
  case cvol =>
    obtain ⟨t, hrun, hsends, honly, hadv⟩ := exec_cvol_clean h hrm
    refine ⟨t, _, _, _, hrun, ⟨hsends, fun n _ => ?_⟩, honly, hadv⟩
    obtain ⟨hflag, hbyte, hbelow⟩ := cvolFlags_spec x s (State.executing_nodup h) n
    exact ⟨fun j hj => byteOf_cvolCodes x s n _ hj, hflag, hbyte, hbelow, fun k hk => subEl_mapEl .u16x4 _ k hk⟩
  case bscl =>
    exact .of_all (f := fun x a _ _ _ => scaleCode (x.e.num % 64) (BitVec.ofNat x.ty.width a).toInt) (fun _ _ => rfl) fun _ _ _ _ _ => rfl

end Sys2Proof.Machine
end

section
/-! PROOFS. The issue of one thread whose body changes the memory side: the state in which its accesses are made, and what follows it. -/

namespace Sys2Proof.Machine
open Sys2Proof

/-! ### The control of the thread after such a body -/

section
variable {s u : State} {i : Instr} {body : Body} {n : Nat} {f : Thread → Thread}

/-- One thread that goes on after a body that has changed its own record as `f` says: the rest is the body's. -/
theorem State.run_solo_advances (h : s.solo i n = true) (hb : body (s.countIssue i s.cur.tids) [n] = (u, []))
    (hu : ∀ k, u.thread? k = (s.thread? k).map (Thread.onlyAt n f)) (hwait : (f (s.thread n)).wait = .none)
    (hpc : (f (s.thread n)).pc = (s.thread n).pc) (hloop : (f (s.thread n)).loop = (s.thread n).loop) :
    ∃ t, s.run i body = .next t ∧ t = { u with free := t.free, c := { u.c with threads := t.c.threads } } ∧ s.Advances t i ∧
      t.thread n = (f (s.thread n)).control (t.thread n) ∧ ∀ k, k ≠ n → t.thread k = s.thread k := by
  obtain ⟨g, hrun, hg⟩ := State.run_solo_goes_on h hb
  have hgtid : ∀ t, (g t).tid = t.tid := fun t => by rw [hg]; exact Thread.onward_tid _ i t
  have hgctl : ∀ t, g t = t.control (g t) := fun t => by rw [hg, Thread.onward_control]; rfl
  have hth : ∀ k, (u.afterBody.modThread n g).thread? k = (s.thread? k).map fun t => if k = n then g (Thread.onlyAt n f t) else Thread.onlyAt n f t := fun k => by
    rw [State.thread?_modThread _ n g hgtid]
    exact (congrArg _ (hu k)).trans (Option.map_map ..)
  have hn : (u.afterBody.modThread n g).thread n = g (f (s.thread n)) := by
    obtain ⟨t, ht⟩ := Option.isSome_iff_exists.1 (State.solo_isSome h)
    have htid : t.tid = n := by simpa using List.find?_some ht
    simp only [State.thread, hth, ht, Option.map_some, Option.getD_some, if_true, Thread.onlyAt_same htid]
  refine ⟨_, hrun, rfl, fun k hk _ => ?_, by rw [hn]; exact hgctl _, fun k hk => ?_⟩
  · obtain rfl : k = n := by simpa [State.solo_tids h] using hk
    rw [hn, hg]
    exact ⟨Thread.onward_park .., (Thread.onward_wait ..).trans hwait, fun hl => (Thread.onward_pc _ _ _ (hloop ▸ hl)).trans (by rw [hpc])⟩
  · unfold State.thread
    rw [hth]
    cases hq : s.thread? k with
    | none => rfl
    | some t =>
      have htid : t.tid = k := by simpa using List.find?_some hq
      simp [hk, Thread.onlyAt_ne (n := n) (by rw [htid]; exact hk) f]

end

/-! ### The state in which a thread's accesses are made -/

/-- What the count of an issue and the watchpoints leave of a thread's record. -/
def Thread.Begun (f : Thread → Thread) : Prop :=
  ∀ t, f t = { t with ycnt := (f t).ycnt, wait := .none, park := false, losses := 0, issuedAt := (f t).issuedAt, stage := (f t).stage }

/-- From `s` to `c` thread n has begun an instruction: its record shows the count of the issue and what the watchpoints have seen; besides it only the
debug state of the units has changed. -/
def State.Begins (s c : State) (n : Nat) : Prop :=
  c.free = s.free ∧ ∃ f, s.Remaps c (Thread.onlyAt n f) ∧ Thread.Begun f

namespace State.Begins
variable {s c : State} {n : Nat}

theorem countIssue {i : Instr} (h : s.solo i n = true) : s.Begins (s.countIssue i s.cur.tids) n :=
  ⟨by rw [State.countIssue_eq], _, State.Remaps.countIssue s i n (State.solo_tids h), fun _ => rfl⟩

theorem unitCounted (h : s.Begins c n) : s.Begins c.unitCounted n := by
  obtain ⟨hfree, f, hf, hb⟩ := h
  exact ⟨hfree, f, hf.setUnit _, hb⟩

/-- With its watchpoints at zero a unit sees no access (R439); a thread whose bytes are known is marked. -/
theorem watchIssue_eq (s : State) (ak : Nat) {ls : List (Nat × Nat × Nat)} (hls : ∀ l ∈ ls, l.1 = n) (h : ∀ m < 8, s.reg (rVwp (unitOf n) m) = 0) :
    ∃ k : Thread → Nat, s.watchIssue ak ls = s.setThreads (s.c.threads.map (Thread.onlyAt n fun t => { t with stage := k t })) := by
  obtain ⟨new, hnew⟩ : ∃ new, new = ls.filter fun l => (s.thread l.1).stage == 0 := ⟨_, rfl⟩
  have hn : ∀ l ∈ new, l.1 = n := fun l hl => hls l (List.mem_of_mem_filter (hnew ▸ hl))
  have hseen : s.vwatchAll s.cur.pc ak new = s := by
    unfold State.vwatchAll
    refine foldl_stays _ _ _ fun m hm => foldl_stays _ _ _ fun q hq => ?_
    simp [State.vwatch1, hn q hq, h m (by simpa using hm), slice]
  refine ⟨fun t => if new.isEmpty then t.stage else 1, ?_⟩
  unfold State.watchIssue
  simp only [← hnew, hseen]
  refine congrArg s.setThreads (List.map_congr_left fun t _ => ?_)
  cases new with
  | nil => simp [Thread.onlyAt]
  | cons l new =>
    by_cases ht : t.tid = n
    · rw [Thread.onlyAt_same ht]
      simp [hn l (by simp), ht]
    · rw [Thread.onlyAt_ne ht, if_neg]
      simp only [List.any_eq_true, beq_iff_eq, not_exists, not_and]
      exact fun q hq hqt => ht (hqt ▸ hn q hq)

theorem free_eq (h : s.Begins c n) : c.free = s.free := h.1

theorem rest (h : s.Begins c n) :
    c = { s with c := { s.c with threads := c.c.threads }, b := { s.b with units := c.b.units } } := by
  obtain ⟨hfree, f, hf, -⟩ := h
  conv_lhs => rw [hf.rest]
  rw [hf.rest]
  rw [hf.rest] at hfree
  simp only at hfree
  rw [hfree]

theorem keepsRest (h : s.Begins c n) : s.KeepsRest c := by
  rw [h.rest]
  exact ⟨rfl, rfl, rfl, rfl, rfl, rfl, rfl, rfl, rfl⟩

theorem watchIssue (h : s.Begins c n) (ak : Nat) {ls : List (Nat × Nat × Nat)} (hls : ∀ l ∈ ls, l.1 = n) (hidle : s.debugIdle) (hn : unitOf n < 960) :
    s.Begins (c.watchIssue ak ls) n := by
  have hreg : ∀ m < 8, c.reg (rVwp (unitOf n) m) = 0 := fun m hm => by
    rw [h.keepsRest.reg]
    exact hidle.reg_eq_zero _ (by unfold rVwp; omega)
  obtain ⟨k, hk⟩ := watchIssue_eq c ak hls hreg
  obtain ⟨hfree, f, hf, hb⟩ := h
  rw [hk]
  refine ⟨hfree, _, hf.trans_at (.setThreads c (Thread.onlyAt_tid fun _ => rfl)), fun t => ?_⟩
  rw [Function.comp_apply, hb t]

theorem mem_eq (h : s.Begins c n) : c.m = s.m := by rw [h.rest]

theorem wgs (h : s.Begins c n) : c.c.wgs = s.c.wgs := by rw [h.rest]

theorem l1 (h : s.Begins c n) : c.c.l1 = s.c.l1 := by rw [h.rest]

theorem pend (h : s.Begins c n) : c.c.pend = s.c.pend := by rw [h.rest]

/-- The thread's own record. -/
theorem thread? (h : s.Begins c n) : ∃ f, Thread.Begun f ∧ ∀ k, c.thread? k = (s.thread? k).map (Thread.onlyAt n f) := by
  obtain ⟨-, f, hf, hb⟩ := h
  exact ⟨f, hb, hf.thread?⟩

theorem thread_eq (h : s.Begins c n) (k : Nat) : c.thread k =
    { s.thread k with ycnt := (c.thread k).ycnt, wait := (c.thread k).wait, park := (c.thread k).park, losses := (c.thread k).losses
                      issuedAt := (c.thread k).issuedAt, stage := (c.thread k).stage } := by
  obtain ⟨-, f, hf, hb⟩ := h
  refine hf.thread_rel k (fun x y => y = { x with ycnt := y.ycnt, wait := y.wait, park := y.park, losses := y.losses, issuedAt := y.issuedAt, stage := y.stage })
    (fun _ => rfl) fun x _ => ?_
  unfold Thread.onlyAt
  split
  · rw [hb x]
  · rfl

theorem sameOperands (h : s.Begins c n) : s.SameOperands c where
  pend := by rw [h.rest]
  free := h.free_eq
  warps := by rw [h.rest]
  regs k := by rw [h.thread_eq k]; rfl
  snaps k := by rw [h.thread_eq k]; exact ⟨rfl, rfl⟩

theorem regionOf (h : s.Begins c n) (k : Nat) : c.regionOf k = s.regionOf k := by
  have hl : c.l = s.l := by rw [h.rest]
  unfold State.regionOf State.region?
  rw [h.thread_eq k, hl]

theorem busy (h : s.Begins c n) (k : Nat) : c.busy k = s.busy k := by
  unfold State.busy
  rw [h.mem_eq, h.thread_eq k]
  rfl

theorem unheld (h : s.Begins c n) (hu : s.unheld n) : c.unheld n := by
  obtain ⟨hacq, hf, hrows⟩ := hu
  refine ⟨?_, by rw [h.thread_eq n]; exact hf, by rw [h.rest]; exact hrows⟩
  unfold State.acquiring at hacq ⊢
  rw [h.mem_eq, hacq]

/-! #### Its plans -/

theorem laneXlate (h : s.Begins c n) (k va : Nat) (need : Need) (kind : Nat) : c.laneXlate k va need kind = s.laneXlate k va need kind := by
  have hhit : ∀ core asid va, c.tlbHit core asid va = s.tlbHit core asid va := fun core asid va => by
    unfold State.tlbHit
    rw [h.mem_eq]
  have hwalked : (c.thread k).walked = (s.thread k).walked := by rw [h.thread_eq k]
  unfold State.laneXlate
  rw [h.regionOf]
  simp only [hhit, hwalked]

theorem slotPlan (h : s.Begins c n) (k shb : Nat) (bs : List Nat) : c.slotPlan k shb bs = s.slotPlan k shb bs := by
  induction bs with
  | nil => rfl
  | cons b bs ih =>
    unfold State.slotPlan
    simp only [h.laneXlate, ih]

theorem plan (h : s.Begins c n) (q : Ask) (k ea : Nat) : c.plan q k ea = s.plan q k ea := by
  have hscr : c.planScr q k ea = s.planScr q k ea := State.planScr_congr (by rw [h.rest]) (by rw [h.rest]) (by rw [h.rest]) q k ea
  have hgv : c.planGv q k ea = s.planGv q k ea := by
    unfold State.planGv
    simp only [h.laneXlate, h.regionOf, h.slotPlan]
  unfold State.plan
  rw [hscr, hgv]

end State.Begins

/-! ### The common body for one lane -/

section
variable {s : State} {i : Instr} {q : Ask} {drain : Bool} {ea : State → Nat → Nat}
  {go : Nat → List (Nat × Plan) → State → Nat → Plan → State × Option FaultInfo} {n : Nat} {pl : Plan}

theorem Ask.lanes_tid (q : Ask) (ea : Nat → Nat) (n : Nat) (pl : Plan) : ∀ l ∈ q.lanes ea [(n, pl)], l.1 = n := by
  intro l hl
  unfold Ask.lanes at hl
  split at hl
  · cases hl
  · obtain ⟨p, hp, he⟩ := List.mem_filterMap.1 hl
    obtain rfl : p = (n, pl) := by simpa using hp
    dsimp only at he
    repeat' split at he
    all_goals simp only [Option.some.injEq, reduceCtorEq] at he
    all_goals rw [← he]

/-- What the lanes of one thread's load-store instruction have in common: no debug register acts, and the address is a matter of operands. -/
structure LaneIssue (s : State) (i : Instr) (q : Ask) (ea : State → Nat → Nat) (n : Nat) (pl : Plan) : Prop where
  solo : s.solo i n = true
  idle : s.debugIdle
  seated : s.seated
  addr : ∀ t, s.SameOperands t → ea t n = ea s n
  plan : s.plan q n (ea s n) = pl

theorem LaneIssue.unit (h : LaneIssue s i q ea n pl) : unitOf n < 960 := by
  obtain ⟨hu, hus, -⟩ := h.seated
  rw [hus n (by simp [State.solo_tids h.solo])]
  exact hu

theorem LaneIssue.plan_begun (h : LaneIssue s i q ea n pl) {c : State} (hc : s.Begins c n) : c.plan q n (ea c n) = pl := by
  rw [hc.plan, h.addr c hc.sameOperands, h.plan]

/-- The state in which the lane waits, and that in which it acts: no watchpoint sees it and no sample is taken. -/
theorem LaneIssue.begun_waiting (h : LaneIssue s i q ea n pl) : s.Begins ((s.countIssue i s.cur.tids).watchIssue q.need.watchKind
    (q.lanes (ea (s.countIssue i s.cur.tids)) [(n, pl)])) n :=
  (State.Begins.countIssue h.solo).watchIssue _ (Ask.lanes_tid q _ n pl) h.idle h.unit

theorem LaneIssue.begun_acting (h : LaneIssue s i q ea n pl) : s.Begins ((s.countIssue i s.cur.tids).unitCounted.watchIssue q.need.watchKind
    (q.lanes (ea (s.countIssue i s.cur.tids)) [(n, pl)])) n :=
  (State.Begins.countIssue h.solo).unitCounted.watchIssue _ (Ask.lanes_tid q _ n pl) h.idle h.unit

theorem State.Begins.sampleTake {c : State} (hc : s.Begins c n) (hidle : s.debugIdle) (hseated : s.seated) (ts : List Nat) :
    c.sampleTake ts = (c.unitCounted, none) := by
  have hk := hc.keepsRest
  have ⟨_, hsmpl, _⟩ := hidle
  exact c.sampleTake_idle ts (by rw [hk.warps]; exact hsmpl) (by rw [hk.reg, hk.cur]; exact hidle.notSampled hseated.1)

/-- A lane that waits for something else than a walk. -/
theorem LaneIssue.waits (h : LaneIssue s i q ea n pl) {w : Wait}
    (hw : memWait q drain (s.countIssue i s.cur.tids) [(n, pl)] = some w) (hne : w ≠ .walk) :
    ∃ c, s.Begins c n ∧ memBody q drain ea go (s.countIssue i s.cur.tids) [n] = (c, [(n, .hold w)]) := by
  refine ⟨_, h.begun_waiting, ?_⟩
  unfold memBody
  simp only [List.map_cons, List.map_nil, h.plan_begun (State.Begins.countIssue h.solo), hw, beq_eq_false_iff_ne.2 hne, Bool.false_eq_true, if_false,
    List.foldl_nil]

/-- A lane whose page is in no TLB. -/
theorem LaneIssue.misses {a : Nat} (h : LaneIssue s i q ea n (.miss a))
    (hw : memWait q drain (s.countIssue i s.cur.tids) [(n, .miss a)] = some .walk) :
    ∃ c, s.Begins c n ∧ memBody q drain ea go (s.countIssue i s.cur.tids) [n] = (c.addMiss n a, [(n, .hold .walk)]) := by
  refine ⟨_, h.begun_waiting, ?_⟩
  unfold memBody
  simp only [List.map_cons, List.map_nil, h.plan_begun (State.Begins.countIssue h.solo), hw]
  rfl

/-- A lane whose check fails. -/
theorem LaneIssue.faults {f : FaultInfo} (h : LaneIssue s i q ea n (.fault f))
    (hw : memWait q drain (s.countIssue i s.cur.tids) [(n, .fault f)] = none) :
    ∃ c, s.Begins c n ∧ memBody q drain ea go (s.countIssue i s.cur.tids) [n] = (c.newId.joinOlder s.m.nextId, [(n, .fault f)]) := by
  have hc := State.Begins.countIssue h.solo
  have hid := congrArg MemSys.nextId h.begun_acting.mem_eq
  refine ⟨_, h.begun_acting, ?_⟩
  unfold memBody
  simp only [List.map_cons, List.map_nil, h.plan_begun hc, hw, hc.sampleTake h.idle h.seated, hid]
  rfl

/-- A lane that makes its access to memory. -/
theorem LaneIssue.acts {p : Pte} {va xpa m fmt : Nat} {sl : List (Nat × Nat × Nat)} {r : Region} (h : LaneIssue s i q ea n (.mem p va xpa m fmt sl))
    (hw : memWait q drain (s.countIssue i s.cur.tids) [(n, .mem p va xpa m fmt sl)] = none) (hr : s.regionOf n = some r) :
    ∃ c, s.Begins c n ∧ ∀ u, go s.m.nextId [(n, .mem p va xpa m fmt sl)] (c.newId.tlbFill (coreOf n) r.asid p) n (.mem p va xpa m fmt sl) = (u, none) →
      memBody q drain ea go (s.countIssue i s.cur.tids) [n] = (u.joinOlder s.m.nextId, []) := by
  have hc := State.Begins.countIssue h.solo
  have hid := congrArg MemSys.nextId h.begun_acting.mem_eq
  refine ⟨_, h.begun_acting, fun u hgo => ?_⟩
  unfold memBody
  simp only [List.map_cons, List.map_nil, h.plan_begun hc, hw, hc.sampleTake h.idle h.seated, hid, List.foldl_cons, List.foldl_nil, hc.regionOf, hr, hgo,
    List.nil_append]
  rfl

end

end Sys2Proof.Machine
end

section
/-! PROOFS. The checks of an access (O24): their order in the plan of a raw access, and what the issue of a lane does whose check fails or whose page is in no
TLB. -/

namespace Sys2Proof.Machine
open Sys2Proof

/-! ### The order of the checks (R170 to R172, R182, R216) -/

section
variable {s : State} {q : Ask} {n ea : Nat} {r : Region}

theorem rawMis_iff (m al ea : Nat) : rawMis m al ea = true ↔ 128 < ea % 128 + m ∨ ea % al ≠ 0 := by simp [rawMis]

theorem State.plan_raw_fault {f : FaultInfo} (hsp : q.sp = .gv) (hty : q.ty = .none) (hmis : rawMis q.n q.al ea = false)
    (hx : s.laneXlate n ea q.need q.need.kind = .error (some f)) : s.plan q n ea = .fault f := by
  simp only [State.plan, State.planGv, hsp, hty, hmis, hx, beq_self_eq_true, if_true, Bool.and_false, Bool.false_eq_true, if_false]

theorem State.plan_raw_miss (hsp : q.sp = .gv) (hty : q.ty = .none) (hmis : rawMis q.n q.al ea = false)
    (hx : s.laneXlate n ea q.need q.need.kind = .error none) : s.plan q n ea = .miss ea := by
  simp only [State.plan, State.planGv, hsp, hty, hmis, hx, beq_self_eq_true, if_true, Bool.and_false, Bool.false_eq_true, if_false]

theorem State.plan_raw_mem {p : Pte} (hsp : q.sp = .gv) (hty : q.ty = .none) (hmis : rawMis q.n q.al ea = false)
    (hx : s.laneXlate n ea q.need q.need.kind = .ok p) : s.plan q n ea = .mem p ea (p.addr ea) q.n 0 [] := by
  simp only [State.plan, State.planGv, hsp, hty, hmis, hx, beq_self_eq_true, if_true, Bool.and_false, Bool.false_eq_true, if_false]

theorem State.plan_misaligned (hsp : q.sp = .gv) (hty : q.ty = .none) (hmis : rawMis q.n q.al ea = true) :
    s.plan q n ea = .fault (fltAt .misalign q.need.kind 0 ea) := by
  simp [State.plan, State.planGv, hsp, hty, hmis]

theorem State.laneXlate_outside (need : Need) (kind : Nat) (h : 2 ^ 57 ≤ ea) : s.laneXlate n ea need kind = .error (some (fltAt .page kind 0 ea)) :=
  if_pos h

theorem State.laneXlate_missing (need : Need) (kind : Nat) (h : ea < 2 ^ 57) (hr : s.regionOf n = some r) (hhit : s.tlbHit (coreOf n) r.asid ea = none)
    (hwalked : (s.thread n).walked = []) : s.laneXlate n ea need kind = .error none := by
  rw [State.laneXlate, if_neg (Nat.not_le.2 h), hr]
  simp only [hhit, hwalked, List.find?_nil]

/-- What a page must allow (R216, R186). -/
theorem Pte.check_iff (p : Pte) (need : Need) : (need.ok p.perm && !(need.atomic && p.plc == 2)) = true ↔
    (need = .rd → p.perm.testBit 0 = true) ∧ (need = .w → p.perm.testBit 1 = true) ∧
    (need = .watom → p.perm.testBit 1 = true ∧ p.perm.testBit 2 = true ∧ p.plc ≠ 2) ∧
    (need = .ratom → p.perm.testBit 0 = true ∧ p.perm.testBit 2 = true ∧ p.plc ≠ 2) ∧ (need = .x → p.perm.testBit 3 = true) := by
  cases need <;> simp [Need.ok, Need.atomic, and_assoc]

theorem State.laneXlate_allowed {need : Need} (kind : Nat) (h : ea < 2 ^ 57) (hr : s.regionOf n = some r) {e : TlbEnt}
    (hhit : s.tlbHit (coreOf n) r.asid ea = some e) (hok : (need.ok e.pte.perm && !(need.atomic && e.pte.plc == 2)) = true) :
    s.laneXlate n ea need kind = .ok e.pte := by
  rw [State.laneXlate, if_neg (Nat.not_le.2 h), hr]
  simp only [hhit, Pte.check, hok, if_true]

theorem State.laneXlate_refused {need : Need} (kind : Nat) (h : ea < 2 ^ 57) (hr : s.regionOf n = some r) {e : TlbEnt}
    (hhit : s.tlbHit (coreOf n) r.asid ea = some e) (hno : ¬ (need.ok e.pte.perm && !(need.atomic && e.pte.plc == 2)) = true) :
    s.laneXlate n ea need kind = .error (some (fltAt .perm kind e.pte.lvl ea)) := by
  rw [State.laneXlate, if_neg (Nat.not_le.2 h), hr]
  simp only [hhit, Pte.check, if_neg hno]
  rfl

end

theorem accessChecksInOrder : AccessChecksInOrder := by
  unfold AccessChecksInOrder
  intro s q n ea r hsp hty hr
  refine ⟨fun hmis => State.plan_misaligned hsp hty ((rawMis_iff ..).2 hmis), fun hline hal => ?_⟩
  have hmis : rawMis q.n q.al ea = false := Bool.eq_false_iff.2 fun h => by
    obtain h | h := (rawMis_iff ..).1 h
    · omega
    · exact h hal
  refine ⟨fun h => ?_, fun h => ⟨fun hhit hwalked => ?_, fun e hhit => ⟨fun hok => ?_, fun hno => ?_⟩⟩⟩
  · exact State.plan_raw_fault hsp hty hmis (State.laneXlate_outside _ _ h)
  · exact State.plan_raw_miss hsp hty hmis (State.laneXlate_missing _ _ h hr hhit hwalked)
  · exact State.plan_raw_mem hsp hty hmis (State.laneXlate_allowed _ h hr hhit ((Pte.check_iff ..).2 hok))
  · exact State.plan_raw_fault hsp hty hmis (State.laneXlate_refused _ h hr hhit (mt (Pte.check_iff ..).1 hno))

/-! ### A lane that does not come to its access (R182, R221) -/

section
variable {s c u : State} {i : Instr} {body : Body} {n : Nat}

/-- The thread faults: its stop and the raise come after the body. -/
theorem State.run_solo_stops (h : s.solo i n = true) {f : FaultInfo} (hb : body (s.countIssue i s.cur.tids) [n] = (u, [(n, .fault f)]))
    (htrap : f.code ≠ .trap) (hbrk : f.code ≠ .brk) (hdef : f.deferred = false) :
    s.run i body = .next ((u.afterBody.modThread n (Thread.stopped i)).raise n { f with pc := (u.thread n).pc, resume := (u.thread n).pc }) := by
  obtain ⟨-, -, hcur⟩ := s.solo_clean i n h
  rw [hcur] at hb
  rw [State.run_next, s.runBundle_solo i body n h, hb]
  have hfind : ([(n, Ctl.fault f)].find? fun (q : Nat × Ctl) => q.1 == n) = some (n, .fault f) := by simp
  rw [hfind]
  change Host.Outcome.next ((u.afterBody.finish i (s.countIssue i [n]) n (.fault f)).splitBundle [n]) = _
  rw [State.finish_fault i _ _ n f htrap hbrk hdef, State.splitBundle_of_unbundled ((State.unbundled_modThread u.afterBody n _ fun t => rfl).raise n _)]
  rfl

theorem State.Begins.pc (h : s.Begins c n) (k : Nat) : (c.thread k).pc = (s.thread k).pc := by rw [h.thread_eq k]

theorem State.Begins.control (h : s.Begins c n) (k : Nat) : c.thread k = (s.thread k).control (c.thread k) := by rw [h.thread_eq k]; rfl

/-- The control of a thread that has begun an instruction. -/
theorem State.Begins.modThread_control (h : s.Begins c n) {g : Thread → Thread} (hg : ∀ t, g t = t.control (g t)) (k : Nat) :
    (c.afterBody.modThread n g).thread k = (s.thread k).control ((c.afterBody.modThread n g).thread k) := by
  obtain ⟨-, f, hf, hb⟩ := h
  refine (hf.control hg).thread_rel k (fun x y => y = x.control y) (fun _ => rfl) fun x hx => ?_
  unfold Thread.onlyAt
  split
  · rw [Function.comp_apply, hg (f x), hb x]
    rfl
  · rfl

/-- A thread that has begun an instruction and changes the queues of the memory system before its control takes effect keeps what programs store. -/
theorem State.Begins.keepsStorage (h : s.Begins c n) {m : MemSys} (hmem : m.mem = c.m.mem) (hpeer : m.peer = c.m.peer) (hhost : m.host = c.m.host)
    (hpois : m.pois = c.m.pois) {g : Thread → Thread} (hg : ∀ t, g t = t.control (g t)) :
    s.KeepsStorage (State.modThread (State.afterBody { c with m := m }) n g) := by
  have hk := h.keepsRest
  exact State.KeepsRest.keepsStorage ⟨hk.cur, hk.warps, hk.clusters, hk.launch, hk.regs, hmem.trans hk.mem, hpeer.trans hk.peer, hhost.trans hk.host,
    hpois.trans hk.pois⟩ h.wgs (h.modThread_control hg)

theorem State.Begins.isSome (h : s.Begins c n) {k : Nat} (hk : (s.thread? k).isSome) : (c.thread? k).isSome := by
  obtain ⟨f, -, hth⟩ := h.thread?
  rw [hth, Option.isSome_map]
  exact hk

theorem State.Begins.ops (h : s.Begins c n) : c.m.ops = s.m.ops := by rw [h.mem_eq]

theorem State.Begins.acquiring (h : s.Begins c n) (k : Nat) : c.acquiring k = s.acquiring k := by
  unfold State.acquiring
  rw [h.mem_eq]

theorem State.Begins.fences (h : s.Begins c n) (k : Nat) : (c.thread k).fences = (s.thread k).fences := by rw [h.thread_eq k]

theorem memWait_fault (q : Ask) (f : FaultInfo) (hacq : s.acquiring n = false) (hf : (s.thread n).fences = []) :
    memWait q false s [(n, .fault f)] = none := by
  simp [memWait, hacq, hf, State.fenceIds, State.rowBlocks, Plan.ordered]

theorem memWait_miss (q : Ask) (a : Nat) (hacq : s.acquiring n = false) (hf : (s.thread n).fences = []) :
    memWait q false s [(n, .miss a)] = some .walk := by
  simp [memWait, hacq, hf, State.fenceIds, State.rowBlocks]

/-- A miss stands in a walk of its page. -/
theorem State.addMiss_walks (s : State) (n a : Nat) (hr : (s.regionOf n).isSome) :
    ∃ ws, s.addMiss n a = { s with m := { s.m with walks := ws } } ∧ ∃ w ∈ ws, n ∈ w.tids ∧ w.va / 65536 = a / 65536 := by
  obtain ⟨r, hr⟩ := Option.isSome_iff_exists.1 hr
  unfold State.addMiss
  rw [hr]
  refine ⟨_, rfl, ?_⟩
  split
  · rename_i hany
    obtain ⟨w, hw, hkey⟩ := List.any_eq_true.1 hany
    refine ⟨_, List.mem_map_of_mem hw, ?_⟩
    simp only [hkey, if_true]
    simp only [Bool.and_eq_true, beq_iff_eq] at hkey
    exact ⟨by simp, hkey.2⟩
  · exact ⟨_, List.mem_append_right _ (List.mem_singleton_self _), by simp, rfl⟩

section
variable {q : Ask} {ea : State → Nat → Nat} {go : Nat → List (Nat × Plan) → State → Nat → Plan → State × Option FaultInfo}

/-- R182: a lane whose check fails raises its fault, and only its issue comes before it. -/
theorem LaneIssue.faultsFirst {f : FaultInfo} (h : LaneIssue s i q ea n (.fault f)) (hacq : s.acquiring n = false) (hf : (s.thread n).fences = [])
    (htrap : f.code ≠ .trap) (hbrk : f.code ≠ .brk) (hdef : f.deferred = false) :
    ∃ t, s.run i (memBody q false ea go) = .next t ∧ s.FaultsFirst t n { f with pc := (s.thread n).pc, resume := (s.thread n).pc } := by
  have hc := State.Begins.countIssue h.solo
  obtain ⟨c, hb, hbody⟩ := h.faults (drain := false) (go := go) (memWait_fault q f ((hc.acquiring n).trans hacq) ((hc.fences n).trans hf))
  obtain ⟨cq, w, hj⟩ := c.newId.joinOlder_eq s.m.nextId
  rw [hj] at hbody
  refine ⟨_, State.run_solo_stops h.solo hbody htrap hbrk hdef, _, by rw [← hb.pc n]; rfl, ?_, ?_, ?_, ?_⟩
  · exact hb.keepsStorage rfl rfl rfl rfl fun _ => rfl
  · exact hb.sameOperands.pend
  · exact hb.ops
  · exact (c.afterBody.thread_modThread_pc n (Thread.stopped i) (fun _ => rfl) fun _ => rfl).trans (hb.pc n)

/-- R221: a lane whose page is in no TLB waits for its walk. -/
theorem LaneIssue.waitsForWalk {a : Nat} (h : LaneIssue s i q ea n (.miss a)) (hacq : s.acquiring n = false) (hf : (s.thread n).fences = [])
    (hr : (s.regionOf n).isSome) :
    ∃ t, s.run i (memBody q false ea go) = .next t ∧ s.KeepsStorage t ∧ t.c.pend = s.c.pend ∧ t.m.ops = s.m.ops ∧
      (t.thread n).pc = (s.thread n).pc ∧ (t.thread n).wait = .walk ∧ ∃ w ∈ t.m.walks, n ∈ w.tids ∧ w.va / 65536 = a / 65536 := by
  have hc := State.Begins.countIssue h.solo
  obtain ⟨c, hb, hbody⟩ := h.misses (drain := false) (go := go) (memWait_miss q a ((hc.acquiring n).trans hacq) ((hc.fences n).trans hf))
  obtain ⟨ws, hmiss, hw⟩ := c.addMiss_walks n a (by rw [hb.regionOf]; exact hr)
  rw [hmiss] at hbody
  have hsome := hb.isSome (State.solo_isSome h.solo)
  obtain ⟨g, hg⟩ : ∃ g, g = Thread.held i ((s.countIssue i s.cur.tids).snapOf i n) .walk := ⟨_, rfl⟩
  have hth : (c.afterBody.modThread n g).thread n = g (c.thread n) := State.thread_modThread_same c.afterBody n g (fun t => by rw [hg]; rfl) hsome
  refine ⟨_, State.run_solo_leaves h.solo hbody g (by rw [hg]; rfl) fun t => by rw [hg]; rfl, ?_, hb.sameOperands.pend,
    hb.ops, ?_, ?_, hw⟩
  · exact hb.keepsStorage rfl rfl rfl rfl fun t => by rw [hg]; rfl
  · exact (congrArg Thread.pc hth).trans (by rw [hg]; exact hb.pc n)
  · exact (congrArg Thread.wait hth).trans (by rw [hg]; rfl)

end

end

theorem LdStForm.exec_eq {i : Instr} {l : LdSt} {o : Opnd} {st : Bool} {ea : State → Nat → Nat} (h : LdStForm i l o st ea) :
    ∃ go, ∀ s, exec i s = s.run i (memBody (LdSt.ask l st) false ea go) := by
  cases st
  · exact ⟨_, h.exec_load⟩
  · exact ⟨_, h.exec_store⟩

theorem failedAccessesDoNothing : FailedAccessesDoNothing := by
  unfold FailedAccessesDoNothing
  intro i l o st ea s n hform hsolo hidle hseated hacq hf
  obtain ⟨go, hexec⟩ := hform.exec_eq
  rw [hexec]
  constructor
  · intro f hplan hdef htrap hbrk
    exact LaneIssue.faultsFirst ⟨hsolo, hidle, hseated, fun t ht => hform.addr ht n, hplan⟩ hacq hf htrap hbrk hdef
  · intro a hplan hr
    exact LaneIssue.waitsForWalk ⟨hsolo, hidle, hseated, fun t ht => hform.addr ht n, hplan⟩ hacq hf hr

/-- Settles O24: the checks by the branches of the plan, the failed access by the common body for one lane. -/
theorem accessChecksAndFaults : Obligations.AccessChecksAndFaults := ⟨accessChecksInOrder, failedAccessesDoNothing⟩

end Sys2Proof.Machine
end

section
/-! PROOFS. The accesses of memory as O25 to O27 state them. What an issue adds to the collector joins the older requests of its core (R22, R195), and new is every
request whose number is not below the machine's next one. The statements' premises allow a queue in which requests of another core have such numbers: in `strayed`
two loads of core 1 stand there with the numbers 0 and 9 while the next number is 1. An issue of core 0 takes load 9 for one of its own and joins it to load 0, so the
requests that stood there before it do not all stand there after it. -/

namespace Sys2Proof.Machine
open Sys2Proof

/-- A page of 64 KiB at virtual and physical address 0, marked dirty, that allows everything. -/
def openPage : Pte :=
  { page := 0, size := 16, pa := 0, fmt := 0, geo := 0, ef := false, plc := 0, own := 0, dty := true, perm := 15, lvl := 3, entry := 0 }

/-- Load number k of a thread of core 1, of the first sector. -/
def otherLoad (k : Nat) : Req :=
  { id := k, core := 1, org := .part 0 0, hint := .dflt, ef := false, region := 1, sent := none, thr := [2560], vfill := false, cut := 0, todo := 2 ^ 32 - 1, got := 0
    w := { src := 0, tag := 0, dst := 0, vc := 0, op := .load, xpa := 0, size := 32, ksz := 8, mask := 0, data := 0, cmp := 0, sc := .thread, ord := .rlx,
           tenant := 0, nr := false } }

/-- One thread of core 0 that issues, with the page in its TLB, and two loads of core 1 in the collector, one with a number not given out yet. -/
def strayed : State :=
  let s := State.reset.placed 0 0
  { s with
    agenda := [], cur := { unit := 0, tids := [0], pc := placedPc }
    m := { s.m with tlb := [{ level := 0, inst := 0, asid := 0, pte := openPage }], colQ := [otherLoad 0, otherLoad 9] } }

theorem strayed_accessReady : strayed.accessReady 0 := by
  have hregs : strayed.b.regs = [] := by decide +kernel
  refine ⟨⟨fun o _ => ?_, by decide +kernel, by decide +kernel⟩, ⟨by decide +kernel, by decide +kernel, by decide +kernel⟩,
    ⟨by decide +kernel, by decide +kernel, by decide +kernel⟩, by decide +kernel, by decide +kernel⟩
  unfold State.reg
  rw [hregs]
  rfl

/-- The numbers of the requests in the collector after an instruction. -/
def collected (o : Host.Outcome State Fault Refusal) : Option (List Nat) :=
  match o with
  | .next t => some (t.m.colQ.map (·.id))
  | _ => none

/-- Of the loads 0 and 9 only load 0 stands in the queue after the issue: they do not stand before what the issue added. -/
theorem strayed_loses {i : Instr} {t : State} {pre rest : List Req} (hids : collected (exec i strayed) = some [0, 3]) (hrun : exec i strayed = .next t)
    (hq : t.m.colQ = pre ++ rest) (hpre : pre.map (·.id) = strayed.m.colQ.map (·.id)) : False := by
  rw [hrun, collected, hq, List.map_append, hpre] at hids
  have hold : strayed.m.colQ.map (·.id) = [0, 9] := by decide +kernel
  simp [hold] at hids

/-- A load, a store and an acquire of the word at virtual address 0. -/
def wordLoad : V96A := ⟨false, .v 4, .v 5, .imm 0, .v 0, .v 0, .always, .always, .dflt, .none, .none, .rne, .none, .thread, 0⟩
def wordStore : V96A := ⟨false, .v 0, .v 5, .imm 0, .v 4, .v 0, .always, .always, .dflt, .none, .none, .rne, .none, .thread, 0⟩
def wordAcquire : M128A := ⟨false, .v 6, .v 8, .v 0, .v 0, .always, .always, .dflt, .none, .none, .gv, .core, .rlx, .dflt, .rne, .none, 0, 0⟩

/-- Refutes O25: in `strayed` a load of core 0 joins the two loads of core 1, and load 9 is no longer in the collector's queue. -/
theorem not_loadsRequestTheirBytes : ¬ Obligations.LoadsRequestTheirBytes := by
  unfold Obligations.LoadsRequestTheirBytes
  intro h
  obtain ⟨t, o, hrun, -, -, -, -, -, pre, rest, hq, hpre, -⟩ := h _ _ _ _ strayed 0 (.ldV96 wordLoad) (by decide +kernel) strayed_accessReady openPage 0 0 8
    (by decide +kernel) (by decide)
  exact strayed_loses (by decide +kernel) hrun hq hpre

/-- Refutes O26: in `strayed` a store of core 0 joins the two loads of core 1, and load 9 is no longer in the collector's queue. -/
theorem not_storesRequestTheirBytes : ¬ Obligations.StoresRequestTheirBytes := by
  unfold Obligations.StoresRequestTheirBytes
  intro h
  obtain ⟨t, o, hrun, -, -, -, -, -, pre, rest, hq, hpre, -⟩ := h _ _ _ _ strayed 0 (.stV96 wordStore) (by decide +kernel) strayed_accessReady openPage 0 0 8
    (by decide +kernel) (by decide) rfl
  exact strayed_loses (by decide +kernel) hrun hq hpre

/-- Refutes O27: in `strayed` an acquire of core 0 joins the two loads of core 1, and load 9 is no longer in the collector's queue. -/
theorem not_atomicsRequestTheirOperation : ¬ Obligations.AtomicsRequestTheirOperation := by
  unfold Obligations.AtomicsRequestTheirOperation
  rintro ⟨-, -, hacq, -⟩
  obtain ⟨t, o, r, pre, hrun, -, -, -, -, -, hq, hpre, -⟩ := hacq wordAcquire strayed 0 (by decide +kernel) strayed_accessReady (fun h => by cases h) openPage 0 0 8
    (by decide +kernel) (by decide) (.inr rfl)
  exact strayed_loses (by decide +kernel) hrun hq hpre

end Sys2Proof.Machine
end

section
/-! PROOFS. `fence` (R193): one that waits, one that stands, one that is over at once. -/

namespace Sys2Proof.Machine
open Sys2Proof

/-! ### Records that have begun an instruction -/

theorem Thread.Begun.control {f : Thread → Thread} (h : Thread.Begun f) (t c : Thread) : (f t).control c = t.control c := by
  rw [h t]
  rfl

theorem Thread.Begun.wait {f : Thread → Thread} (h : Thread.Begun f) (t : Thread) : (f t).wait = .none := by rw [h t]
theorem Thread.Begun.pc {f : Thread → Thread} (h : Thread.Begun f) (t : Thread) : (f t).pc = t.pc := by rw [h t]
theorem Thread.Begun.loop {f : Thread → Thread} (h : Thread.Begun f) (t : Thread) : (f t).loop = t.loop := by rw [h t]
theorem Thread.Begun.tid {f : Thread → Thread} (h : Thread.Begun f) (t : Thread) : (f t).tid = t.tid := by rw [h t]

/-! ### What a fence waits for, and its acquire -/

/-- A thread that passes a fence. -/
def Thread.passing (f : Fence) (t : Thread) : Thread := { t with fences := t.fences ++ [f] }

/-- A thread that keeps the fences of which p holds. -/
def Thread.keepFences (p : Fence → Bool) (t : Thread) : Thread := { t with fences := t.fences.filter p }

section
variable {s : State} {n kind : Nat} {sc : Sc} {f : Fence}

theorem State.fenceOf_eq (s : State) (n kind : Nat) (sc : Sc) : s.fenceOf n kind sc =
    { ids := (s.m.ops.filter fun o => o.tid == n && (kind != 0 || o.kind != 1)).map (·.id), reads := kind != 1, acq := if kind = 1 then none else some sc } := by
  unfold State.fenceOf
  by_cases h : kind = 1 <;> simp [h]

theorem State.passFence_eq (s : State) (n kind : Nat) (sc : Sc) : s.passFence n kind sc = (s.modThread n (Thread.passing (s.fenceOf n kind sc))).fencesDone n := rfl

/-- The one fence of a thread stands while an access that it waits for is in flight. -/
theorem State.fencesDone_stands (hf : (s.thread n).fences = [f]) (hin : (s.m.ops.any fun o => f.ids.contains o.id) = true) : s.fencesDone n = s := by
  simp only [State.fencesDone, hf, hin, List.foldl_cons, List.foldl_nil, List.any_cons, List.any_nil, Bool.not_true, Bool.or_false, Bool.false_eq_true, if_false]

/-- The one fence of a thread is over when none is: its acquire takes effect. -/
theorem State.fencesDone_over {r : Region} (hr : s.regionOf n = some r) (hf : (s.thread n).fences = [f])
    (hin : (s.m.ops.any fun o => f.ids.contains o.id) = false) :
    s.fencesDone n = (f.acq.elim s fun sc => s.acquire (coreOf n) r sc none).modThread n
      (Thread.keepFences fun f => s.m.ops.any fun o => f.ids.contains o.id) := by
  unfold State.fencesDone
  simp only [hf, hin, hr, List.foldl_cons, List.foldl_nil, List.any_cons, List.any_nil, Bool.not_false, Bool.true_or, if_true, Bool.not_not]
  cases f.acq <;> rfl

/-- The access numbers of a fence are those of accesses in flight. -/
theorem State.fenceOf_waits (s : State) (n kind : Nat) (sc : Sc) :
    (s.m.ops.any fun o => (s.fenceOf n kind sc).ids.contains o.id) = !(s.fenceOf n kind sc).ids.isEmpty := by
  rw [State.fenceOf_eq]
  cases hl : s.m.ops.filter fun o => o.tid == n && (kind != 0 || o.kind != 1) with
  | nil => simp
  | cons o l =>
    have ho : o ∈ s.m.ops := (List.mem_filter.1 (hl ▸ List.mem_cons_self)).1
    simpa using ⟨o, ho, .inl rfl⟩

theorem State.thread_passing (hf : (s.thread n).fences = []) (hsome : (s.thread? n).isSome) :
    ((s.modThread n (Thread.passing f)).thread n).fences = [f] := by
  rw [State.thread_modThread_same s n (Thread.passing f) (fun _ => rfl) hsome, Thread.passing, hf]
  rfl

/-- What an acquire of everything leaves: the caches and the fills of requests in flight alone change. -/
theorem State.acquire_all (s : State) (core : Nat) (r : Region) (sc : Sc) : ∃ m, s.acquire core r sc none =
      { s with c := { s.c with l1 := if 3 ≤ scNum sc then s.c.l1.filter fun e => e.core != core else s.c.l1 }, m := m } ∧
    m.mem = s.m.mem ∧ m.peer = s.m.peer ∧ m.host = s.m.host ∧ m.pois = s.m.pois := by
  cases sc <;> exact ⟨_, rfl, rfl, rfl, rfl, rfl⟩

/-- What the fence of a kind and a scope does to the caches when it is over. -/
theorem State.fenceOf_acquires (s : State) (core : Nat) (r : Region) (hacq : f.acq = if kind = 1 then none else some sc) :
    ∃ m, (f.acq.elim s fun sc => s.acquire core r sc none) =
      { s with c := { s.c with l1 := if kind ≠ 1 ∧ 3 ≤ scNum sc then s.c.l1.filter fun e => e.core != core else s.c.l1 }, m := m } ∧
    m.mem = s.m.mem ∧ m.peer = s.m.peer ∧ m.host = s.m.host ∧ m.pois = s.m.pois := by
  by_cases hk : kind = 1
  · rw [hacq, if_pos hk, if_neg (by simp [hk])]
    exact ⟨_, rfl, rfl, rfl, rfl, rfl⟩
  · simp only [hacq, ne_eq, hk, not_false_eq_true, true_and]
    exact s.acquire_all core r sc

/-- The region of a thread that passes a fence. -/
theorem State.regionOf_passing (hsome : (s.thread? n).isSome) : (s.modThread n (Thread.passing f)).regionOf n = s.regionOf n := by
  unfold State.regionOf
  rw [State.thread_modThread_same s n (Thread.passing f) (fun _ => rfl) hsome]
  rfl

end

/-! ### The instruction -/

/-- What `fence` does to its threads. -/
def fenceBody (x : S64A) : Body := fun s ts =>
  if x.park && ts.any s.busy then (s, ts.map fun t => (t, .hold .drain))
  else
    let (s0, tag) := s.sampleTake ts
    let s1 := ts.foldl (fun s t => s.passFence t (x.i16.extractLsb' 0 2).toNat (fenceScope (x.i16.extractLsb' 2 3).toNat)) s0
    (s1.sampleOpen tag ts s1.m.nextId [] true, [])

theorem exec_fence (x : S64A) (s : State) : exec (.fence x) s = s.run (.fence x) (fenceBody x) := rfl

section
variable {x : S64A} {s c : State} {n : Nat} {r : Region}

theorem fenceBody_parks (hpark : x.park = true) (hbusy : c.busy n = true) : fenceBody x c [n] = (c, [(n, .hold .drain)]) := by
  simp [fenceBody, hpark, hbusy]

theorem fenceBody_passes (hno : (x.park && c.busy n) = false) (hs : c.sampleTake [n] = (c.unitCounted, none)) :
    fenceBody x c [n] = (c.unitCounted.passFence n (x.i16.extractLsb' 0 2).toNat (fenceScope (x.i16.extractLsb' 2 3).toNat), []) := by
  simp only [fenceBody, List.any_cons, List.any_nil, Bool.or_false, hno, Bool.false_eq_true, if_false, hs, List.foldl_cons, List.foldl_nil]
  rfl

/-- R193: with `park` the thread waits while it has an access in flight. -/
theorem exec_fence_parks (h : s.solo (.fence x) n = true) (hpark : x.park = true) (hbusy : s.busy n = true) :
    ∃ t, exec (.fence x) s = .next t ∧ s.OnlyResults t ∧ t.c.pend = s.c.pend ∧ (t.thread n).wait = .drain ∧ (t.thread n).pc = (s.thread n).pc := by
  obtain ⟨t, hrun, hpend, honly, hwait, hpc⟩ := State.run_solo_hold h
    (fenceBody_parks hpark ((s.busy_countIssue (.fence x) n).trans hbusy)) (s.onlyResults_countIssue _) (s.countIssue_thread_pc _ n)
  exact ⟨t, (exec_fence x s).trans hrun, honly, hpend.trans (s.countIssue_pend _), hwait, hpc⟩

/-- R193: while an access that it orders is in flight the fence stands, and the thread goes on. -/
theorem exec_fence_stands (h : s.solo (.fence x) n = true) (hidle : s.debugIdle) (hseated : s.seated) (hpark : x.park = false)
    (hf : (s.thread n).fences = [])
    (hids : (s.fenceOf n (x.i16.extractLsb' 0 2).toNat (fenceScope (x.i16.extractLsb' 2 3).toNat)).ids ≠ []) :
    ∃ t, exec (.fence x) s = .next t ∧ t.c.pend = s.c.pend ∧ s.Advances t (.fence x) ∧ s.OnlyThread t n { s.thread n with
      fences := [s.fenceOf n (x.i16.extractLsb' 0 2).toNat (fenceScope (x.i16.extractLsb' 2 3).toNat)] } := by
  generalize hkind : (x.i16.extractLsb' 0 2).toNat = kind at hids ⊢
  generalize hsc : fenceScope (x.i16.extractLsb' 2 3).toNat = sc at hids ⊢
  have hc := State.Begins.countIssue h
  have hbody := fenceBody_passes (by rw [hpark, Bool.false_and]) (hc.sampleTake hidle hseated [n])
  have hu := hc.unitCounted
  generalize (s.countIssue (.fence x) s.cur.tids).unitCounted = c at hbody hu
  have hsome := hu.isSome (State.solo_isSome h)
  have hof : c.fenceOf n kind sc = s.fenceOf n kind sc := by rw [State.fenceOf_eq, State.fenceOf_eq, hu.ops]
  have hin : (c.m.ops.any fun o => (c.fenceOf n kind sc).ids.contains o.id) = true := by
    rw [State.fenceOf_waits, hof]
    simpa using hids
  rw [hkind, hsc, State.passFence_eq, State.fencesDone_stands (State.thread_passing ((hu.fences n).trans hf) hsome) hin, hof] at hbody
  obtain ⟨-, f, hmap, hb⟩ := hu
  refine State.run_solo_onlyThread h hbody (hmap.trans_at (.modThread c n fun _ => rfl)) (fun w => ?_) (hb.wait _) (hb.pc _) (hb.loop _)
  rw [Function.comp_apply, Thread.passing, hb (s.thread n), hf]
  rfl

/-- R177, R193, R231: with no access in flight the fence is over at once; unless it is a release, it empties the core's L1 from cluster scope on. -/
theorem exec_fence_over (h : s.solo (.fence x) n = true) (hidle : s.debugIdle) (hseated : s.seated) (hr : s.regionOf n = some r) (hbusy : s.busy n = false)
    (hf : (s.thread n).fences = []) :
    let far := (x.i16.extractLsb' 0 2).toNat ≠ 1 ∧ 3 ≤ scNum (fenceScope (x.i16.extractLsb' 2 3).toNat)
    ∃ t, exec (.fence x) s = .next t ∧ s.KeepsStorage t ∧ s.Advances t (.fence x) ∧ t.c.pend = s.c.pend ∧
      (far → t.c.l1 = s.c.l1.filter fun e => e.core != coreOf n) ∧ (¬ far → t.c.l1 = s.c.l1) := by
  generalize hkind : (x.i16.extractLsb' 0 2).toNat = kind
  generalize hsc : fenceScope (x.i16.extractLsb' 2 3).toNat = sc
  have hc := State.Begins.countIssue h
  have hbody := fenceBody_passes (x := x) (by rw [hc.busy, hbusy, Bool.and_false]) (hc.sampleTake hidle hseated [n])
  have hu := hc.unitCounted
  generalize (s.countIssue (.fence x) s.cur.tids).unitCounted = c at hbody hu
  have hsome := hu.isSome (State.solo_isSome h)
  have hids : (c.fenceOf n kind sc).ids = [] := by
    simp only [State.busy, Bool.or_eq_false_iff, List.any_eq_false] at hbusy
    simp [State.fenceOf_eq, hu.ops]
    intro o ho hn
    exact absurd hn (by simpa using hbusy.1 o ho)
  generalize hfe : c.fenceOf n kind sc = fe at hids
  have hacq : fe.acq = if kind = 1 then none else some sc := by rw [← hfe, State.fenceOf_eq]
  obtain ⟨m, hm, hmem, hpeer, hhost, hpois⟩ := (c.modThread n (Thread.passing fe)).fenceOf_acquires (coreOf n) r hacq
  rw [hkind, hsc, State.passFence_eq, hfe, State.fencesDone_over ((State.regionOf_passing hsome).trans ((hu.regionOf n).trans hr))
    (State.thread_passing ((hu.fences n).trans hf) hsome) (by rw [hids]; simp), hm] at hbody
  generalize hp : (fun f : Fence => (c.modThread n (Thread.passing fe)).m.ops.any fun o => f.ids.contains o.id) = p at hbody
  have hpfe : p fe = false := by rw [← hp]; simp [hids]
  obtain ⟨-, f, hmap, hb⟩ := id hu
  have hmap2 := (hmap.trans_at (.modThread c n (f := Thread.passing fe) fun _ => rfl)).trans_at (.modThread _ n (f := Thread.keepFences p) fun _ => rfl)
  have hrec : ∀ w : Thread, ((Thread.keepFences p ∘ Thread.passing fe ∘ f) (s.thread n)).control w = (s.thread n).control w := fun w => by
    have hkeep : ((f (s.thread n)).fences ++ [fe]).filter p = (s.thread n).fences := by
      have hfn : (f (s.thread n)).fences = [] := by rw [hb]; exact hf
      simp [hfn, hf, hpfe]
    rw [Function.comp_apply, Function.comp_apply, Thread.keepFences, Thread.passing, hkeep, hb (s.thread n)]
    rfl
  obtain ⟨t, hrun, ht, hadv, hn, hne⟩ := State.run_solo_advances h hbody hmap2.thread? (hb.wait _) (hb.pc _) (hb.loop _)
  have hk := hu.keepsRest
  have hthreads : ∀ k, t.thread k = (s.thread k).control (t.thread k) := fun k => by
    by_cases hkn : k = n
    · rw [hkn, ← hrec]
      exact hn
    · rw [hne k hkn]
      rfl
  have hl1 : t.c.l1 = if kind ≠ 1 ∧ 3 ≤ scNum sc then s.c.l1.filter fun e => e.core != coreOf n else s.c.l1 := by
    rw [ht, hu.rest]
    rfl
  refine ⟨t, (exec_fence x s).trans hrun, ?_, hadv, ?_, fun hfar => hl1.trans (if_pos hfar), fun hfar => hl1.trans (if_neg hfar)⟩
  · refine State.KeepsRest.keepsStorage ?_ ?_ hthreads
    · rw [ht]
      exact ⟨hk.cur, hk.warps, hk.clusters, hk.launch, hk.regs, hmem.trans hk.mem, hpeer.trans hk.peer, hhost.trans hk.host, hpois.trans hk.pois⟩
    · rw [ht, hu.rest]
      rfl
  · rw [ht]
    exact hu.sameOperands.pend

end

end Sys2Proof.Machine
end

section
/-! PROOFS. `bind` and `unbind` (R189, R190) of one thread. -/

namespace Sys2Proof.Machine
open Sys2Proof

/-- The slot of a region's table that a `bind` takes. -/
def Region.freeSlot (r : Region) : Option Nat := (List.range 64).find? fun i => !(r.binds.any fun e => e.1 == i)

theorem Region.freeSlot_lowest {r : Region} {i : Nat} (hi : i < 64) (hbelow : ∀ j, j < i → ∃ e ∈ r.binds, e.1 = j) (hfree : ∀ e ∈ r.binds, e.1 ≠ i) :
    r.freeSlot = some i := by
  rw [Region.freeSlot, List.find?_range_eq_some]
  refine ⟨by simpa using hfree, by simpa using hi, fun j hj => ?_⟩
  simpa using hbelow j hj

theorem Region.freeSlot_none {r : Region} (hfull : ∀ i, i < 64 → ∃ e ∈ r.binds, e.1 = i) : r.freeSlot = none := by
  rw [Region.freeSlot, List.find?_eq_none]
  intro i hi
  simpa using hfull i (by simpa using hi)

/-- What `bind` does to its threads. -/
def bindBody (x : M128A) : Body := fun s ts =>
  let (s0, tag) := s.sampleTake ts
  let (s1, cs) := (warpsOf ts).foldl (fun (acc : State × List (Nat × Ctl)) (w : Nat × List Nat) =>
    let t := w.2.headD 0
    let a := (s.opnd t x.a).toNat
    let b := (s.opnd t x.b).toNat
    let c := (s.opnd t x.c).toNat
    if bindMis a b c then (acc.1, acc.2 ++ w.2.map fun t => (t, .fault (fltAt .misalign 0 0 a)))
    else match acc.1.regionOf t with
      | none => acc
      | some r =>
        match r.freeSlot with
        | some i => ((acc.1.modRegion r.num fun r => { r with binds := r.binds ++ [(i, a, b, c)] }).result w.2 x.d fun _ => BitVec.ofNat 64 i, acc.2)
        | none => (acc.1.result w.2 x.d fun _ => BitVec.allOnes 64, acc.2)) (s0, [])
  (s1.sampleOpen tag ts s1.m.nextId [] true, cs)

theorem exec_bind (x : M128A) (s : State) : exec (.bind x) s = s.run (.bind x) (bindBody x) := rfl

/-- What `unbind` does to its threads. -/
def unbindBody (x : M128A) : Body := fun s ts =>
  let (s0, tag) := s.sampleTake ts
  let s1 := (warpsOf ts).foldl (fun (s1 : State) (w : Nat × List Nat) =>
    let t := w.2.headD 0
    match s1.regionOf t with
    | none => s1
    | some r => s1.modRegion r.num fun r => { r with binds := r.binds.filter fun e => e.1 != (s.opnd t x.a).toNat }) s0
  (s1.sampleOpen tag ts s1.m.nextId [] true, [])

theorem exec_unbind (x : M128A) (s : State) : exec (.unbind x) s = s.run (.unbind x) (unbindBody x) := rfl

section
variable {x : M128A} {s c : State} {i : Instr} {n : Nat} {r : Region} {body : Body}

/-- A binding in a slot of a region. -/
def State.bound (c : State) (r : Region) (e : Nat × Nat × Nat × Nat) : State := c.modRegion r.num fun r => { r with binds := r.binds ++ [e] }

theorem bindMis_false {a b l : Nat} (ha : a % 8 = 0) (hb : b % 128 = 0) (hl : l % 128 = 0) (hmin : 128 ≤ l) (hend : b + l ≤ 2 ^ 57) :
    bindMis a b l = false := by
  simp only [bindMis, ha, hb, hl, Bool.or_eq_false_iff, bne_self_eq_false, decide_eq_false_iff_not, true_and]
  omega

theorem bindBody_takes {j : Nat} (hs : c.sampleTake [n] = (c.unitCounted, none)) (hr : c.regionOf n = some r)
    (hok : bindMis (c.opnd n x.a).toNat (c.opnd n x.b).toNat (c.opnd n x.c).toNat = false) (hslot : r.freeSlot = some j) :
    bindBody x c [n] = ((c.unitCounted.bound r (j, (c.opnd n x.a).toNat, (c.opnd n x.b).toNat, (c.opnd n x.c).toNat)).result [n] x.d
      fun _ => BitVec.ofNat 64 j, []) := by
  have hr' : c.unitCounted.regionOf n = some r := hr
  simp only [bindBody, hs, warpsOf_single, List.foldl_cons, List.foldl_nil, List.headD_cons, hok, Bool.false_eq_true, if_false, hr', hslot]
  rfl

theorem bindBody_full (hs : c.sampleTake [n] = (c.unitCounted, none)) (hr : c.regionOf n = some r)
    (hok : bindMis (c.opnd n x.a).toNat (c.opnd n x.b).toNat (c.opnd n x.c).toNat = false) (hslot : r.freeSlot = none) :
    bindBody x c [n] = (c.unitCounted.result [n] x.d fun _ => BitVec.allOnes 64, []) := by
  have hr' : c.unitCounted.regionOf n = some r := hr
  simp only [bindBody, hs, warpsOf_single, List.foldl_cons, List.foldl_nil, List.headD_cons, hok, Bool.false_eq_true, if_false, hr', hslot]
  rfl

theorem unbindBody_single (hs : c.sampleTake [n] = (c.unitCounted, none)) (hr : c.regionOf n = some r) :
    unbindBody x c [n] = (c.unitCounted.modRegion r.num fun r => { r with binds := r.binds.filter fun e => e.1 != (c.opnd n x.a).toNat }, []) := by
  have hr' : c.unitCounted.regionOf n = some r := hr
  simp only [unbindBody, hs, warpsOf_single, List.foldl_cons, List.foldl_nil, List.headD_cons, hr']
  rfl

/-- A body that changes the regions and sends results, and nothing else. -/
theorem State.run_solo_regions (h : s.solo i n = true) {l : Launch} {ps : List Pend}
    (hb : body (s.countIssue i s.cur.tids) [n] = (State.addPend { (s.countIssue i s.cur.tids).unitCounted with l := l } ps, [])) :
    ∃ t, s.run i body = .next t ∧ s.Advances t i ∧ t.m = s.m ∧ t.c.warps = s.c.warps ∧ t.c.wgs = s.c.wgs ∧ t.b.regs = s.b.regs ∧
      (∀ k, t.thread k = (s.thread k).control (t.thread k)) ∧ t.l = l ∧ t.c.pend = s.c.pend ++ ps := by
  obtain ⟨t, hrun, ht, hctl, hadv⟩ := s.run_solo_next i body n _ h hb fun _ => rfl
  have hu := (State.Begins.countIssue h).unitCounted
  have hk := hu.keepsRest
  generalize (s.countIssue i s.cur.tids).unitCounted = c at ht hu hk
  refine ⟨t, hrun, hadv, ?_, ?_, ?_, ?_, hctl, ?_, ?_⟩ <;> rw [ht]
  · exact hu.mem_eq
  · exact hk.warps
  · exact hu.wgs
  · exact hk.regs
  · rfl
  · exact congrArg (· ++ ps) hu.pend

/-- The region of the thread, the operands and the sample of a `bind` or an `unbind`, once its issue is counted. -/
theorem State.counted_binding (h : s.solo i n = true) (hidle : s.debugIdle) (hseated : s.seated) (hr : s.regionOf n = some r) :
    (s.countIssue i s.cur.tids).sampleTake [n] = ((s.countIssue i s.cur.tids).unitCounted, none) ∧ (s.countIssue i s.cur.tids).regionOf n = some r ∧
    (s.countIssue i s.cur.tids).l = s.l ∧ s.SameOperands (s.countIssue i s.cur.tids).unitCounted :=
  have hc := State.Begins.countIssue h
  ⟨hc.sampleTake hidle hseated [n], (hc.regionOf n).trans hr, hc.keepsRest.launch, hc.unitCounted.sameOperands⟩

/-- R189: a binding takes the free slot. -/
theorem exec_bind_takes (h : s.solo (.bind x) n = true) (hidle : s.debugIdle) (hseated : s.seated) (hr : s.regionOf n = some r)
    (hok : bindMis (s.opnd n x.a).toNat (s.opnd n x.b).toNat (s.opnd n x.c).toNat = false) {j : Nat} (hslot : r.freeSlot = some j) :
    ∃ t, exec (.bind x) s = .next t ∧ s.Advances t (.bind x) ∧ t.m = s.m ∧ t.c.warps = s.c.warps ∧ t.c.wgs = s.c.wgs ∧ t.b.regs = s.b.regs ∧
      (∀ k, t.thread k = (s.thread k).control (t.thread k)) ∧
      t.l = { s.l with regions := s.l.regions.map fun q => if q.num = r.num then
          { q with binds := q.binds ++ [(j, (s.opnd n x.a).toNat, (s.opnd n x.b).toNat, (s.opnd n x.c).toNat)] } else q } ∧
      s.Sends t (s.valuesAt [n] x.d fun _ => BitVec.ofNat 64 j) := by
  obtain ⟨hs, hreg, hl, hsame⟩ := State.counted_binding h hidle hseated hr
  have hb := bindBody_takes (x := x) hs hreg (by simpa only [State.countIssue_opnd] using hok) hslot
  simp only [State.countIssue_opnd] at hb
  obtain ⟨ps, hps, hvals⟩ := State.result_sends ((s.countIssue (.bind x) s.cur.tids).unitCounted.bound r
    (j, (s.opnd n x.a).toNat, (s.opnd n x.b).toNat, (s.opnd n x.c).toNat)) [n] x.d fun _ => BitVec.ofNat 64 j
  rw [hps] at hb
  obtain ⟨t, hrun, hadv, hm, hw, hg, hregs, hctl, htl, hpend⟩ := State.run_solo_regions h hb
  refine ⟨t, (exec_bind x s).trans hrun, hadv, hm, hw, hg, hregs, hctl, ?_, ps, hpend, ?_⟩
  · rw [htl]
    simp only [← hl, beq_iff_eq]
    rfl
  · rw [hvals, ← hsame.valuesAt]
    cases x.d <;> rfl

/-- R189: with no slot free the binding answers all ones. -/
theorem exec_bind_full (h : s.solo (.bind x) n = true) (hidle : s.debugIdle) (hseated : s.seated) (hr : s.regionOf n = some r)
    (hok : bindMis (s.opnd n x.a).toNat (s.opnd n x.b).toNat (s.opnd n x.c).toNat = false) (hslot : r.freeSlot = none) :
    ∃ t, exec (.bind x) s = .next t ∧ s.Advances t (.bind x) ∧ t.m = s.m ∧ t.c.warps = s.c.warps ∧ t.c.wgs = s.c.wgs ∧ t.b.regs = s.b.regs ∧
      (∀ k, t.thread k = (s.thread k).control (t.thread k)) ∧ t.l = s.l ∧ s.Sends t (s.valuesAt [n] x.d fun _ => BitVec.allOnes 64) := by
  obtain ⟨hs, hreg, hl, hsame⟩ := State.counted_binding h hidle hseated hr
  have hb := bindBody_full (x := x) hs hreg (by simpa only [State.countIssue_opnd] using hok) hslot
  obtain ⟨ps, hps, hvals⟩ := State.result_sends (s.countIssue (.bind x) s.cur.tids).unitCounted [n] x.d fun _ => BitVec.allOnes 64
  rw [hps] at hb
  obtain ⟨t, hrun, hadv, hm, hw, hg, hregs, hctl, htl, hpend⟩ := State.run_solo_regions h hb
  exact ⟨t, (exec_bind x s).trans hrun, hadv, hm, hw, hg, hregs, hctl, htl.trans hl, ps, hpend, by rw [hvals, ← hsame.valuesAt]⟩

/-- R190: an `unbind` frees a slot. -/
theorem exec_unbind_frees (h : s.solo (.unbind x) n = true) (hidle : s.debugIdle) (hseated : s.seated) (hr : s.regionOf n = some r) :
    ∃ t, exec (.unbind x) s = .next t ∧ s.Advances t (.unbind x) ∧ t.c.pend = s.c.pend ∧ t.m = s.m ∧ t.c.warps = s.c.warps ∧ t.c.wgs = s.c.wgs ∧
      t.b.regs = s.b.regs ∧ (∀ k, t.thread k = (s.thread k).control (t.thread k)) ∧
      t.l = { s.l with regions := s.l.regions.map fun q => if q.num = r.num then
        { q with binds := q.binds.filter fun e => decide (e.1 ≠ (s.opnd n x.a).toNat) } else q } := by
  obtain ⟨hs, hreg, hl, -⟩ := State.counted_binding h hidle hseated hr
  have hb := unbindBody_single (x := x) hs hreg
  rw [← State.addPend_nil (State.modRegion ..)] at hb
  obtain ⟨t, hrun, hadv, hm, hw, hg, hregs, hctl, htl, hpend⟩ := State.run_solo_regions h hb
  refine ⟨t, (exec_unbind x s).trans hrun, hadv, hpend.trans (List.append_nil _), hm, hw, hg, hregs, hctl, htl.trans ?_⟩
  simp only [State.countIssue_opnd, ← hl, beq_iff_eq, decide_not]
  rfl

end

end Sys2Proof.Machine
end

section
/-! PROOFS. An access without destinations on its way to its home (R176, R195, R230): what it does to the copies of its lines and to the queues. -/

namespace Sys2Proof.Machine
open Sys2Proof

/-! ### Copies and queues -/

/-- From `s` to `t` the memory side works on accesses: copies of memory and their fills, queues, translations, numbers and the accesses in flight change, and
nothing that programs store. -/
structure State.Touches (s t : State) : Prop where
  rest : t = { s with c := { s.c with l1 := t.c.l1 }, m := t.m }
  mem : t.m.mem = s.m.mem
  peer : t.m.peer = s.m.peer
  host : t.m.host = s.m.host
  pois : t.m.pois = s.m.pois

namespace State.Touches
variable {s t u : State}

theorem refl (s : State) : s.Touches s := ⟨rfl, rfl, rfl, rfl, rfl⟩

theorem trans (h : s.Touches t) (k : t.Touches u) : s.Touches u where
  rest := by
    obtain ⟨hk, -⟩ := k
    rw [h.rest] at hk
    exact hk
  mem := k.mem.trans h.mem
  peer := k.peer.trans h.peer
  host := k.host.trans h.host
  pois := k.pois.trans h.pois

theorem ite {p : Prop} [Decidable p] (ht : s.Touches t) (hu : s.Touches u) : s.Touches (if p then t else u) := by
  split
  · exact ht
  · exact hu

theorem thread? (h : s.Touches t) (k : Nat) : t.thread? k = s.thread? k := by
  rw [h.rest]
  rfl

theorem regionOf (h : s.Touches t) (k : Nat) : t.regionOf k = s.regionOf k := by
  rw [h.rest]
  rfl

theorem tlbFill (s : State) (core asid : Nat) (p : Pte) : s.Touches (s.tlbFill core asid p) := ⟨rfl, rfl, rfl, rfl, rfl⟩

theorem newId (s : State) : s.Touches s.newId := ⟨rfl, rfl, rfl, rfl, rfl⟩

theorem setOps (s : State) (l : List MOp) : s.Touches (s.setOps l) := ⟨rfl, rfl, rfl, rfl, rfl⟩

theorem joinOlder (s : State) (since : Nat) : s.Touches (s.joinOlder since) := by
  obtain ⟨q, w, h⟩ := s.joinOlder_eq since
  rw [h]
  exact ⟨rfl, rfl, rfl, rfl, rfl⟩

end State.Touches

/-- An access but for whether what returns of it fills the L1. -/
def MOp.unfilled (o : MOp) : MOp := { o with fill := false }

/-- What accesses have in common that differ in their fills. -/
theorem map_of_unfilled {α : Type} {f : MOp → α} (hf : ∀ o, f o.unfilled = f o) {os ps : List MOp} (h : ps.map MOp.unfilled = os.map MOp.unfilled) :
    ps.map f = os.map f := by
  have hmap := congrArg (List.map f) h
  simpa only [List.map_map, Function.comp_def, hf] using hmap

theorem State.dropFill_unfilled (s : State) (core : Nat) (p : MOp → Bool) :
    (s.dropFill core p).m.ops.map MOp.unfilled = s.m.ops.map MOp.unfilled := by
  simp only [State.dropFill, List.map_map]
  refine List.map_congr_left fun o _ => ?_
  rw [Function.comp_apply]
  split <;> rfl

/-- Copies of memory and their fills go: the accesses in flight are the same ones. -/
structure State.Invalidates (s t : State) : Prop extends s.Touches t where
  unfilled : t.m.ops.map MOp.unfilled = s.m.ops.map MOp.unfilled

namespace State.Invalidates
variable {s t u : State}

theorem refl (s : State) : s.Invalidates s := ⟨.refl s, rfl⟩

theorem trans (h : s.Invalidates t) (k : t.Invalidates u) : s.Invalidates u := ⟨h.toTouches.trans k.toTouches, k.unfilled.trans h.unfilled⟩

theorem ite {p : Prop} [Decidable p] (ht : s.Invalidates t) (hu : s.Invalidates u) : s.Invalidates (if p then t else u) := by
  split
  · exact ht
  · exact hu

theorem dropFill (s : State) (core : Nat) (p : MOp → Bool) : s.Invalidates (s.dropFill core p) := ⟨⟨rfl, rfl, rfl, rfl, rfl⟩, s.dropFill_unfilled core p⟩

theorem setL1 (s : State) (l : List L1Sec) : s.Invalidates (s.setL1 l) := ⟨⟨rfl, rfl, rfl, rfl, rfl⟩, rfl⟩

theorem l1Drop (s : State) (core x : Nat) : s.Invalidates (s.l1Drop core x) := (setL1 s _).trans (dropFill _ _ _)

theorem visitorInvalidate (s : State) (x : Nat) : s.Invalidates (s.visitorInvalidate x) := ⟨⟨rfl, rfl, rfl, rfl, rfl⟩, rfl⟩

theorem copiesOf (s : State) (core : Nat) (op : ReqOp) (p : Part) : s.Invalidates (s.copiesOf core op p) := by
  have hinvalidate : ∀ (t : State) (b : Bool), s.Invalidates t → s.Invalidates (if b = true then t else t.visitorInvalidate p.xpa) := fun t b ht =>
    .ite ht (ht.trans (visitorInvalidate t _))
  unfold State.copiesOf
  cases op with
  | load => exact refl s
  | store => exact hinvalidate _ _ (dropFill s _ _)
  | _ => exact hinvalidate _ _ (l1Drop s _ _)

end State.Invalidates

/-! ### Queues -/

/-- From `s` to `t` requests have entered the queues: these, the waits and the numbers have changed. -/
def State.Queues (s t : State) : Prop := ∃ q w h i, t = { s with m := { s.m with colQ := q, waits := w, hostQ := h, nextId := i } }

theorem State.Queues.trans {s t u : State} (h : s.Queues t) (k : t.Queues u) : s.Queues u := by
  obtain ⟨_, _, _, _, rfl⟩ := h
  obtain ⟨q, w, l, i, rfl⟩ := k
  exact ⟨q, w, l, i, rfl⟩

theorem State.Queues.touches {s t : State} (h : s.Queues t) : s.Touches t := by
  obtain ⟨_, _, _, _, rfl⟩ := h
  exact ⟨rfl, rfl, rfl, rfl, rfl⟩

theorem State.Queues.ops {s t : State} (h : s.Queues t) : t.m.ops = s.m.ops := by
  obtain ⟨_, _, _, _, rfl⟩ := h
  rfl

theorem State.Queues.collect (s : State) (since : Nat) (r : Req) : s.Queues (s.newId.collect since r) := by
  unfold State.collect
  dsimp only
  split
  · exact ⟨_, _, _, _, rfl⟩
  · exact ⟨_, _, _, _, rfl⟩

/-- The request of a part enters its queue, unless the part is done. -/
def State.sendPart (host : Bool) (since : Nat) (rq : State → Part × Nat → Req) (s : State) (q : Part × Nat) : State :=
  if q.1.done then s
  else if host then { s.newId with m := { s.newId.m with hostQ := s.m.hostQ ++ [rq s q] } } else s.newId.collect since (rq s q)

theorem State.Queues.sendParts (s : State) (host : Bool) (since : Nat) (rq : State → Part × Nat → Req) (ps : List (Part × Nat)) :
    s.Queues (ps.foldl (State.sendPart host since rq) s) := by
  refine List.foldlRecOn (motive := fun (t : State) => s.Queues t) _ _ ⟨_, _, _, _, rfl⟩ fun t ht q _ => ht.trans ?_
  unfold State.sendPart
  split
  · exact ⟨_, _, _, _, rfl⟩
  · split
    · exact ⟨_, _, _, _, rfl⟩
    · exact .collect t _ _

/-! ### The access -/

/-- The record of an access without destinations. -/
def Access.record (a : Access) (s : State) (r : Region) (ps : List Part) : MOp :=
  { id := s.m.nextId, tid := a.tid, pc := s.cur.pc, kind := a.kind, va := a.va, dsts := [], parts := ps, fmt := a.fmt,
    acq := a.acq, ranges := if a.acq.isSome then r.bound a.va else [], fill := a.op == .load && !hostSpace a.xpa && a.hint != .nl1 && a.hint != .nl1ef,
    clk := s.clk, sample := some a.since, mst := a.mst }

section
variable {s : State} {a : Access} {r : Region} {parts : List Part}

/-- The L1 of the core holds nothing that would serve a part. -/
theorem State.l1Hit_none (h : ∀ e ∈ s.c.l1, e.core ≠ coreOf a.tid) (asid va x : Nat) : s.l1Hit a.tid asid va x = none := by
  unfold State.l1Hit
  split
  · rfl
  · rw [Option.map_eq_none_iff, List.find?_eq_none]
    intro e he
    simp [h e he]

/-- The copies of the parts of an access go. -/
def State.copiesOfParts (s : State) (a : Access) (parts : List Part) : State :=
  parts.foldl (fun s p => if hostSpace a.xpa then s else s.copiesOf (coreOf a.tid) a.op p) s

theorem State.Invalidates.copiesOfParts (s : State) (a : Access) (parts : List Part) : s.Invalidates (s.copiesOfParts a parts) :=
  List.foldlRecOn (motive := fun (t : State) => s.Invalidates t) _ _ (.refl s) fun t ht _ _ => .ite ht (ht.trans (.copiesOf t _ _ _))

theorem State.copiesOfParts_load (s : State) (h : a.op = .load) (parts : List Part) : s.copiesOfParts a parts = s := by
  refine foldl_stays _ _ _ fun _ _ => ?_
  rw [h]
  split <;> rfl

/-- An access without destinations that needs no DTY and whose parts no copy serves: copies of its line go, and its requests enter the queues. -/
theorem State.access_eq (hr : s.regionOf a.tid = some r) (hdty : reqW a.op = true → a.p.dty = true) (hdsts : a.dsts = [])
    (hl1 : a.op = .load → ∀ e ∈ s.c.l1, e.core ≠ coreOf a.tid) (hnew : ∃ p ∈ parts, p.done = false) :
    s.access a parts = ((parts.zip (List.range parts.length)).foldl
      (State.sendPart (hostSpace a.xpa) a.since fun t q => accessReq a t r t.m.nextId s.m.nextId q.2 q.1)
      ((s.newId.copiesOfParts a parts).setOps ((s.newId.copiesOfParts a parts).m.ops ++ [a.record s r parts])), none) := by
  have hset : (if reqW a.op then s.setDty r.tenant a.p else (s, none)) = (s, none) := by
    split
    · rename_i hw
      rw [State.setDty, if_pos (hdty hw)]
    · rfl
  have hmap : ∀ f : Part → Part, (∀ p, f p = p) → parts.map f = parts := fun f hf => (List.map_congr_left fun p _ => hf p).trans (List.map_id _)
  have hall : parts.all (·.done) = false := by
    obtain ⟨p, hp, hd⟩ := hnew
    exact List.all_eq_false.2 ⟨p, hp, by simp [hd]⟩
  unfold State.access
  simp only [hr, hset, hdsts, List.filterMap_nil, List.foldl_nil]
  rw [hmap _ fun p => ?served, if_neg (by rw [hall]; decide)]
  · rfl
  case served =>
    split
    · rename_i hload
      simp only [Bool.and_eq_true, beq_iff_eq] at hload
      rw [State.l1Hit_none (hl1 hload.1)]
    · rfl

/-- Such an access stands behind the accesses in flight, which are the same ones. -/
theorem State.access_sends (hr : s.regionOf a.tid = some r) (hdty : reqW a.op = true → a.p.dty = true) (hdsts : a.dsts = [])
    (hl1 : a.op = .load → ∀ e ∈ s.c.l1, e.core ≠ coreOf a.tid) (hnew : ∃ p ∈ parts, p.done = false) :
    ∃ t, s.access a parts = (t, none) ∧ s.Touches t ∧
      ∃ pre, t.m.ops = pre ++ [a.record s r parts] ∧ pre.map MOp.unfilled = s.m.ops.map MOp.unfilled ∧ (a.op = .load → pre = s.m.ops) := by
  have hcop := State.Invalidates.copiesOfParts s.newId a parts
  have hload : a.op = .load → (s.newId.copiesOfParts a parts).m.ops = s.m.ops := fun h => by
    rw [s.newId.copiesOfParts_load h]
    rfl
  have heq := State.access_eq hr hdty hdsts hl1 hnew
  generalize s.newId.copiesOfParts a parts = u at hcop hload heq
  have hq := State.Queues.sendParts (u.setOps (u.m.ops ++ [a.record s r parts])) (hostSpace a.xpa) a.since
    (fun t q => accessReq a t r t.m.nextId s.m.nextId q.2 q.1) (parts.zip (List.range parts.length))
  exact ⟨_, heq, ((State.Touches.newId s).trans hcop.toTouches).trans ((State.Touches.setOps u _).trans hq.touches), u.m.ops, hq.ops, hcop.unfilled, hload⟩

end

end Sys2Proof.Machine
end

section
/-! PROOFS. `prf` (R194), and the statement of fences, bindings and prefetch (O29). -/

namespace Sys2Proof.Machine
open Sys2Proof

section
variable {s c u : State} {i : Instr} {body : Body} {n : Nat}

/-- A body that sends accesses of the one thread that executes: the thread goes on, and what programs store stays. -/
theorem State.run_solo_touches (h : s.solo i n = true) (hc : s.Begins c n) (hu : c.Touches u) (hb : body (s.countIssue i s.cur.tids) [n] = (u, [])) :
    ∃ t, s.run i body = .next t ∧ s.KeepsStorage t ∧ s.Advances t i ∧ t.c.pend = s.c.pend ∧ t.m.ops = u.m.ops := by
  obtain ⟨f, hf, hth⟩ := hc.thread?
  have hk := hc.keepsRest
  obtain ⟨t, hrun, ht, hadv, hn, hne⟩ := State.run_solo_advances h hb (fun k => (hu.thread? k).trans (hth k)) (hf.wait _) (hf.pc _) (hf.loop _)
  refine ⟨t, hrun, State.KeepsRest.keepsStorage ?_ ?_ fun k => ?_, hadv, ?_, ?_⟩
  · rw [ht, hu.rest]
    exact ⟨hk.cur, hk.warps, hk.clusters, hk.launch, hk.regs, hu.mem.trans hk.mem, hu.peer.trans hk.peer, hu.host.trans hk.host, hu.pois.trans hk.pois⟩
  · rw [ht, hu.rest]
    exact hc.wgs
  · by_cases hkn : k = n
    · rw [hkn, ← hf.control]
      exact hn
    · rw [hne k hkn]
      rfl
  · rw [ht, hu.rest]
    exact hc.pend
  · rw [ht]

/-- Nothing that the thread has issued before holds its access of memory back. -/
theorem memWait_mem (q : Ask) (p : Pte) (va xpa m fmt : Nat) (hu : s.unheld n) : memWait q false s [(n, .mem p va xpa m fmt [])] = none := by
  obtain ⟨hacq, hf, hrows⟩ := hu
  have hrow : s.rowBlocks n (.mem p va xpa m fmt []) = false := by
    simp only [State.rowBlocks, List.any_eq_false, Bool.and_eq_true, not_and]
    intro j hj hany
    obtain ⟨l, hl, hln⟩ := List.any_eq_true.1 hany
    exact absurd (by simpa using hln) (hrows j hj l hl)
  simp [memWait, hacq, hf, hrow, State.fenceIds, Plan.ordered]

/-- An access of scratch has no plan in memory. -/
theorem State.planScr_ne_mem (s : State) (q : Ask) (n ea : Nat) (p : Pte) (va xpa m fmt : Nat) (sl : List (Nat × Nat × Nat)) :
    s.planScr q n ea ≠ .mem p va xpa m fmt sl := by
  unfold State.planScr
  dsimp only
  repeat' split
  all_goals simp

theorem State.laneXlate_no_region (hr : s.regionOf n = none) (va : Nat) (need : Need) (kind : Nat) :
    s.laneXlate n va need kind = .error (some (fltAt .page kind 0 va)) := by
  unfold State.laneXlate
  rw [hr]
  split <;> rfl

/-- A plan of memory belongs to a thread of a region. -/
theorem State.region_of_mem_plan {q : Ask} {ea va xpa m fmt : Nat} {p : Pte} {sl : List (Nat × Nat × Nat)}
    (h : s.plan q n ea = .mem p va xpa m fmt sl) : ∃ r, s.regionOf n = some r := by
  cases hr : s.regionOf n with
  | some r => exact ⟨r, rfl⟩
  | none =>
    unfold State.plan at h
    split at h
    · unfold State.planGv at h
      dsimp only at h
      rw [State.laneXlate_no_region hr] at h
      split at h <;> cases h
    · exact (s.planScr_ne_mem q n ea p va xpa m fmt sl h).elim

/-- The four sectors of a line. -/
theorem sectorParts_line (x : Nat) : sectorParts (lineOf x) 128 = (List.range 4).map fun k => (lineOf x + 32 * k, 32 * k, 32) := by
  have hs : sectorOf (lineOf x) = lineOf x := by unfold sectorOf lineOf; omega
  have hin : ∀ i, i < 4 → max (lineOf x + 32 * i) (lineOf x) < min (lineOf x + 32 * i + 32) (lineOf x + 128) := fun i hi => by omega
  have hout : ∀ i, 4 ≤ i → ¬ max (lineOf x + 32 * i) (lineOf x) < min (lineOf x + 32 * i + 32) (lineOf x + 128) := fun i hi => by omega
  unfold sectorParts
  rw [hs, show 128 / 32 + 2 = 4 + 2 from rfl, List.range_add, List.filterMap_append]
  have htail : ((List.range 2).map (4 + ·)).filterMap (fun i =>
      if max (lineOf x + 32 * i) (lineOf x) < min (lineOf x + 32 * i + 32) (lineOf x + 128) then
        some (max (lineOf x + 32 * i) (lineOf x), max (lineOf x + 32 * i) (lineOf x) - lineOf x,
          min (lineOf x + 32 * i + 32) (lineOf x + 128) - max (lineOf x + 32 * i) (lineOf x)) else none) = [] := by
    refine List.filterMap_eq_nil_iff.2 fun i hi => if_neg (hout i ?_)
    obtain ⟨j, -, rfl⟩ := List.mem_map.1 hi
    exact Nat.le_add_right 4 j
  rw [htail, List.append_nil, ← List.filterMap_eq_map]
  refine List.filterMap_congr fun i hi => ?_
  have hi4 : i < 4 := List.mem_range.1 hi
  rw [if_pos (hin i hi4), Function.comp_apply]
  congr 3 <;> omega

end

/-! ### The instruction -/

/-- The access of a prefetch: the line of the address, without a destination. -/
def prefetchAccess (x : M128A) (since n : Nat) (p : Pte) (va xpa : Nat) : Access :=
  let h := prefetchHint (x.opx.getLsbD 0) x.hint p.ef
  { tid := n, p := { p with ef := h.2 }, va := lineOf va, xpa := lineOf xpa, n := 128, op := .load, kind := prefetchKind, since := since, hint := h.1, unit := 1 }

/-- What a lane of `prf` does: nothing unless its page is there and in memory. -/
def prefetchLane (x : M128A) (since : Nat) (_ : List (Nat × Plan)) (s : State) (n : Nat) : Plan → State × Option FaultInfo
  | .mem p va xpa _ _ _ => if hostSpace xpa then (s, none) else s.access (prefetchAccess x since n p va xpa) (prefetchAccess x since n p va xpa).parts
  | _ => (s, none)

def prefetchAsk : Ask := { sp := .gv, n := 1, need := .rd, watch := false }

/-- What `prf` does to its threads: no fault is raised. -/
def prefetchBody (x : M128A) : Body := fun s ts =>
  let (s1, cs) := memBody prefetchAsk false (M128A.eaI x) (prefetchLane x) s ts
  (s1, cs.filter fun c => match c.2 with | .fault _ => false | _ => true)

theorem exec_prf (x : M128A) (s : State) : exec (.prf x) s = s.run (.prf x) (prefetchBody x) := by
  have hlane : prefetchLane x = fun since _ s tid pl =>
      match pl with
      | .mem p va xpa _ _ _ => if hostSpace xpa then (s, none)
        else s.access (prefetchAccess x since tid p va xpa) (prefetchAccess x since tid p va xpa).parts
      | _ => (s, none) := by
    funext since ps s n pl
    cases pl <;> rfl
  unfold prefetchBody
  rw [hlane]
  rfl

theorem prefetch_parts (x : M128A) (since n : Nat) (p : Pte) (va xpa : Nat) :
    (prefetchAccess x since n p va xpa).parts = (List.range 4).map fun k =>
      { xpa := lineOf xpa + 32 * k, size := 32, at_ := 32 * k, done := false, data := 0, fault := none } := by
  have hparts : (prefetchAccess x since n p va xpa).parts = (sectorParts (lineOf xpa) 128).map fun (q : Nat × Nat × Nat) =>
      { xpa := q.1, size := q.2.2, at_ := q.2.1, done := false, data := 0, fault := none } := rfl
  rw [hparts, sectorParts_line, List.map_map]
  rfl

/-- R194: a prefetch whose page is there makes one access of its line, without a destination. -/
theorem exec_prf_accesses {x : M128A} {s : State} {n va xpa m : Nat} {p : Pte} (h : s.solo (.prf x) n = true) (hready : s.accessReady n)
    (hplan : s.plan prefetchAsk n (M128A.eaI x s n) = .mem p va xpa m 0 []) (hhost : hostSpace xpa = false) :
    ∃ t o, exec (.prf x) s = .next t ∧ s.KeepsStorage t ∧ s.Advances t (.prf x) ∧ t.c.pend = s.c.pend ∧ t.m.ops = s.m.ops ++ [o] ∧
      o.tid = n ∧ o.va = va / 128 * 128 ∧ o.dsts = [] ∧ o.parts.map (·.xpa) = (List.range 4).map fun k => xpa / 128 * 128 + 32 * k := by
  obtain ⟨hidle, hseated, hunheld, hl1, -⟩ := hready
  obtain ⟨r, hr⟩ := State.region_of_mem_plan hplan
  have hissue : LaneIssue s (.prf x) prefetchAsk (M128A.eaI x) n (.mem p va xpa m 0 []) := ⟨h, hidle, hseated, fun _ ht => M128A.eaI_congr x ht n, hplan⟩
  obtain ⟨c, hc, hbody⟩ := hissue.acts (drain := false) (go := prefetchLane x)
    (memWait_mem _ p va xpa m 0 ((State.Begins.countIssue h).unheld hunheld)) hr
  have hstart : c.Touches (c.newId.tlbFill (coreOf n) r.asid p) := (State.Touches.newId c).trans (.tlbFill _ _ _ _)
  obtain ⟨a, ha⟩ : ∃ a, a = prefetchAccess x s.m.nextId n p va xpa := ⟨_, rfl⟩
  have hparts := prefetch_parts x s.m.nextId n p va xpa
  rw [← ha] at hparts
  have hop : a.op = .load := by rw [ha]; rfl
  have hdsts : a.dsts = [] := by rw [ha]; rfl
  have htid : a.tid = n := by rw [ha]; rfl
  have hpart : ∃ q ∈ a.parts, q.done = false := by
    rw [hparts]
    exact ⟨_, List.mem_map_of_mem (List.mem_range.2 (by decide : 0 < 4)), rfl⟩
  have hlines : a.op = .load → ∀ e ∈ (c.newId.tlbFill (coreOf n) r.asid p).c.l1, e.core ≠ coreOf a.tid := fun _ e he => by
    rw [htid]
    exact hl1 e (hc.l1 ▸ he)
  obtain ⟨u, hacc, hu, pre, hops, -, hload⟩ := State.access_sends (by rw [htid, hstart.regionOf, hc.regionOf, hr])
    (fun hw => by rw [hop] at hw; cases hw) hdsts hlines hpart
  have hgo : prefetchLane x s.m.nextId [(n, .mem p va xpa m 0 [])] (c.newId.tlbFill (coreOf n) r.asid p) n (.mem p va xpa m 0 []) = (u, none) := by
    rw [prefetchLane, if_neg (by rw [hhost]; decide), ← ha]
    exact hacc
  have hb : prefetchBody x (s.countIssue (.prf x) s.cur.tids) [n] = (u.joinOlder s.m.nextId, []) := by
    rw [prefetchBody, hbody u hgo]
    rfl
  obtain ⟨t, hrun, hkeep, hadv, hpend, htops⟩ := State.run_solo_touches h hc ((hstart.trans hu).trans (.joinOlder u _)) hb
  have hlast : t.m.ops = s.m.ops ++ [a.record (c.newId.tlbFill (coreOf n) r.asid p) r a.parts] := by
    obtain ⟨q, w, hj⟩ := u.joinOlder_eq s.m.nextId
    rw [htops, hj, ← hc.ops]
    exact hops.trans (by rw [hload hop]; rfl)
  refine ⟨t, _, (exec_prf x s).trans hrun, hkeep, hadv, hpend, hlast, htid, by rw [ha]; rfl, rfl, ?_⟩
  rw [Access.record, hparts, List.map_map]
  rfl

/-- Settles O29. -/
theorem fencesBindingsPrefetch : Obligations.FencesBindingsPrefetch := by
  unfold Obligations.FencesBindingsPrefetch
  refine ⟨fun x s n r h hidle hseated hr => ⟨?parks, ?stands, ?passes⟩, fun x s n r h hidle hseated hr => ?bind,
    fun x s n r h hidle hseated hr => exec_unbind_frees h hidle hseated hr, fun x s n h hready p va xpa m hplan hhost => exec_prf_accesses h hready hplan hhost⟩
  case parks => exact fun hbusy hpark => exec_fence_parks h hpark hbusy
  case stands =>
    rintro _ rfl hne hpark hf
    have hids := s.fenceOf_eq n (x.i16.extractLsb' 0 2).toNat (fenceScope (x.i16.extractLsb' 2 3).toNat)
    rw [← hids]
    exact exec_fence_stands h hidle hseated hpark hf (by rw [hids]; exact hne)
  case passes => exact fun hbusy hf => exec_fence_over h hidle hseated hr hbusy hf
  case bind =>
    intro a b c ha hb hc hmin hend
    have hok := bindMis_false ha hb hc hmin hend
    cases hslot : r.freeSlot with
    | some j =>
      obtain ⟨t, hrun, hadv, hm, hw, hg, hregs, hctl, hl, hsend⟩ := exec_bind_takes h hidle hseated hr hok hslot
      refine ⟨t, hrun, hadv, hm, hw, hg, hregs, hctl, fun i hi hbelow hfree => ?_, fun hfull => ?_⟩
      · obtain rfl : j = i := Option.some.inj (hslot.symm.trans (Region.freeSlot_lowest hi hbelow hfree))
        exact ⟨hl, hsend⟩
      · rw [Region.freeSlot_none hfull] at hslot
        cases hslot
    | none =>
      obtain ⟨t, hrun, hadv, hm, hw, hg, hregs, hctl, hl, hsend⟩ := exec_bind_full h hidle hseated hr hok hslot
      refine ⟨t, hrun, hadv, hm, hw, hg, hregs, hctl, fun i hi hbelow hfree => ?_, fun _ => ⟨hl, hsend⟩⟩
      rw [Region.freeSlot_lowest hi hbelow hfree] at hslot
      cases hslot

end Sys2Proof.Machine
end

section
/-! PROOFS. What an access at its home leaves alone (R229, R233): the order of the L2's lines and the hit counts of the retention registers change, no byte of
memory, no poison, no other register. -/

namespace Sys2Proof.Machine
open Sys2Proof

/-- The bytes of memory are the same in both states, with their poison, their errors, and the registers and protection words that say who may touch them. -/
structure State.SameStore (s t : State) : Prop where
  mem : t.m.mem = s.m.mem
  peer : t.m.peer = s.m.peer
  host : t.m.host = s.m.host
  pois : t.m.pois = s.m.pois
  pdt : t.m.pdt = s.m.pdt
  errs : t.m.errs = s.m.errs
  pkg : t.b.pkg = s.b.pkg
  reg : ∀ o, o < 0x10100 ∨ 0x10200 ≤ o → t.reg o = s.reg o

namespace State.SameStore
variable {s t u : State}

theorem refl (s : State) : s.SameStore s := ⟨rfl, rfl, rfl, rfl, rfl, rfl, rfl, fun _ _ => rfl⟩

theorem trans (h : s.SameStore t) (k : t.SameStore u) : s.SameStore u where
  mem := k.mem.trans h.mem
  peer := k.peer.trans h.peer
  host := k.host.trans h.host
  pois := k.pois.trans h.pois
  pdt := k.pdt.trans h.pdt
  errs := k.errs.trans h.errs
  pkg := k.pkg.trans h.pkg
  reg o ho := (k.reg o ho).trans (h.reg o ho)

theorem fld (h : s.SameStore t) {o : Nat} (ho : o < 0x10100 ∨ 0x10200 ≤ o) (hi lo : Nat) : t.fld o hi lo = s.fld o hi lo := by
  unfold State.fld
  rw [h.reg o ho]

theorem plog (h : s.SameStore t) : t.plog = s.plog := h.fld (.inl (by decide)) 10 8
theorem hs (h : s.SameStore t) : t.hs = s.hs := h.fld (.inl (by decide)) 3 0
theorem nmod (h : s.SameStore t) : t.nmod = s.nmod := h.fld (.inr (by decide)) 6 0

theorem homeOf (h : s.SameStore t) (x : Nat) : t.homeOf x = s.homeOf x := by
  unfold State.homeOf
  rw [h.plog]

theorem here (h : s.SameStore t) (x : Nat) : t.here x = s.here x := by
  unfold State.here
  rw [h.homeOf, h.pkg]

theorem populated (h : s.SameStore t) (x : Nat) : t.populated x = s.populated x := by
  unfold State.populated
  rw [h.plog, h.hs]

theorem storeAddr (h : s.SameStore t) (x : Nat) : t.storeAddr x = s.storeAddr x := by
  unfold State.storeAddr State.slotOfLine
  rw [h.plog, h.hs]

theorem place (h : s.SameStore t) : t.place = s.place := by
  funext x
  unfold State.place
  rw [h.populated, h.here, h.storeAddr]

theorem poisoned (h : s.SameStore t) (x : Nat) : t.poisoned x = s.poisoned x := by
  unfold State.poisoned
  rw [h.populated, h.here, h.storeAddr, h.pois]

theorem poisonedIn (h : s.SameStore t) (x n : Nat) : t.poisonedIn x n = s.poisonedIn x n := by
  unfold State.poisonedIn
  simp only [h.poisoned]

end State.SameStore

/-- From `s` to `t` an access has passed its home way: besides the L2, the hit counts of the retention registers and the free counter nothing has changed. -/
structure State.Homed (s t : State) : Prop where
  rest : t = { s with free := t.free, m := { s.m with l2 := t.m.l2 }, b := { s.b with regs := t.b.regs } }
  reg : ∀ o, o < 0x10100 ∨ 0x10200 ≤ o → t.reg o = s.reg o

namespace State.Homed
variable {s t u : State}

theorem sameStore (h : s.Homed t) : s.SameStore t := by
  obtain ⟨hrest, hreg⟩ := h
  exact ⟨by rw [hrest], by rw [hrest], by rw [hrest], by rw [hrest], by rw [hrest], by rw [hrest], by rw [hrest], hreg⟩

theorem refl (s : State) : s.Homed s := ⟨rfl, fun _ _ => rfl⟩

theorem trans (h : s.Homed t) (k : t.Homed u) : s.Homed u where
  rest := by
    obtain ⟨hk, -⟩ := k
    rw [h.rest] at hk
    exact hk
  reg o ho := (k.reg o ho).trans (h.reg o ho)

theorem free (s : State) (n : Nat) : s.Homed { s with free := n } := ⟨rfl, fun _ _ => rfl⟩

theorem setL2 (s : State) (l : List L2Line) : s.Homed (s.setL2 l) := ⟨rfl, fun _ _ => rfl⟩

theorem hitCount (s : State) {i : Nat} (hi : i < 8) (lo n : Nat) : s.Homed (s.satInc (rHomeRet i + 24) lo n) :=
  ⟨rfl, fun o ho => s.reg_setReg_ne _ _ _ (by unfold rHomeRet; omega)⟩

theorem l2Insert (s : State) (k : L2Line) (lru : Bool) : s.Homed (s.l2Insert k lru) := by
  have hput : ∀ (u : State) (j : L2Line), u.Homed (u.l2Put j lru) := fun _ _ => ⟨rfl, fun _ _ => rfl⟩
  unfold State.l2Insert
  dsimp only
  cases hfind : (List.range 8).find? fun i => s.retCovers i k.xpa with
  | none =>
    dsimp only
    repeat' split
    · exact hput s _
    · exact hput s _
    · exact refl s
  | some i =>
    have hcount : s.Homed (s.satInc (rHomeRet i + 24) 32 1) := hitCount s (List.mem_range.1 (List.mem_of_find?_eq_some hfind)) 32 1
    dsimp only
    repeat' split
    · exact hput s _
    · exact hcount.trans (hput _ _)
    · exact hcount.trans (hput _ _)
    · exact hcount

theorem l2Hit (s : State) (k : L2Line) (hint : Hint) : s.Homed (s.l2Hit k hint) := by
  unfold State.l2Hit
  split
  · exact refl s
  · exact setL2 s _

theorem l2Home (s : State) (x : Nat) (hint : Hint) (ef w : Bool) : s.Homed (s.l2Home x hint ef w) := by
  unfold State.l2Home
  split
  · exact (l2Hit s _ hint).trans (setL2 _ _)
  · split
    · exact refl s
    · exact l2Insert s _ _

end State.Homed

/-! ### Memory -/

/-- Two states with the same bytes of memory in the same places. -/
structure State.SameMemory (s t : State) : Prop where
  mem : t.m.mem = s.m.mem
  peer : t.m.peer = s.m.peer
  host : t.m.host = s.m.host
  place : t.place = s.place

theorem State.SameStore.sameMemory {s t : State} (h : s.SameStore t) : s.SameMemory t := ⟨h.mem, h.peer, h.host, h.place⟩

/-- The memory side with a byte at a place. -/
def MemSys.put (m : MemSys) (v : Byte) : Option (Nat × Nat) → MemSys
  | none => m
  | some (0, a) => { m with host := memSet m.host a v }
  | some (1, a) => { m with mem := memSet m.mem a v }
  | some (_, a) => { m with peer := memSet m.peer a v }

theorem State.setByte_eq_put (s : State) (x : Nat) (v : Byte) : s.setByte x v = { s with m := s.m.put v (s.place x) } := by
  obtain ⟨hp, he⟩ | ⟨hp, he⟩ | ⟨hp, he⟩ | ⟨hp, he⟩ := s.place_cases x <;> rw [he, hp] <;> rfl

theorem MemSys.put_congr {m k : MemSys} (hmem : k.mem = m.mem) (hpeer : k.peer = m.peer) (hhost : k.host = m.host) (v : Byte) (p : Option (Nat × Nat)) :
    (k.put v p).mem = (m.put v p).mem ∧ (k.put v p).peer = (m.put v p).peer ∧ (k.put v p).host = (m.put v p).host := by
  unfold MemSys.put
  split
  · exact ⟨hmem, hpeer, hhost⟩
  · exact ⟨hmem, hpeer, by rw [hhost]⟩
  · exact ⟨by rw [hmem], hpeer, hhost⟩
  · exact ⟨hmem, by rw [hpeer], hhost⟩

namespace State.SameMemory
variable {s t u : State}

theorem refl (s : State) : s.SameMemory s := ⟨rfl, rfl, rfl, rfl⟩

theorem trans (h : s.SameMemory t) (k : t.SameMemory u) : s.SameMemory u :=
  ⟨k.mem.trans h.mem, k.peer.trans h.peer, k.host.trans h.host, k.place.trans h.place⟩

theorem byteAt (h : s.SameMemory t) (x : Nat) : t.byteAt x = s.byteAt x := by
  rw [State.byteAt_eq_atPlace, State.byteAt_eq_atPlace, h.place]
  unfold State.atPlace
  rw [h.mem, h.peer, h.host]

theorem rdNat (h : s.SameMemory t) (x n : Nat) : t.rdNat x n = s.rdNat x n := by
  rw [State.rdNat_eq_leNat, State.rdNat_eq_leNat]
  exact congrArg (fun f => leNat f x n) (funext h.byteAt)

theorem setByte (h : s.SameMemory t) (x : Nat) (v : Byte) : (s.setByte x v).SameMemory (t.setByte x v) := by
  have hplace : (t.setByte x v).place = (s.setByte x v).place := by rw [State.place_setByte, State.place_setByte, h.place]
  obtain ⟨hmem, hpeer, hhost⟩ := MemSys.put_congr h.mem h.peer h.host v (s.place x)
  refine ⟨?_, ?_, ?_, hplace⟩ <;> rw [State.setByte_eq_put, State.setByte_eq_put, h.place]
  · exact hmem
  · exact hpeer
  · exact hhost

theorem wrNat (h : s.SameMemory t) (x n v : Nat) : (s.wrNat x n v).SameMemory (t.wrNat x n v) := by
  induction n generalizing s t x v with
  | zero => exact h
  | succ n ih => exact ih (h.setByte x _) _ _

end State.SameMemory

theorem State.SameStore.rdNat {s t : State} (h : s.SameStore t) (x n : Nat) : t.rdNat x n = s.rdNat x n := h.sameMemory.rdNat x n

/-! ### The check of the tenant (R418) -/

theorem State.SameStore.window? {s t : State} (h : s.SameStore t) (frame k n : Nat) : t.window? frame k n = s.window? frame k n := by
  induction k generalizing n with
  | zero => rfl
  | succ k ih =>
    have hreg : ∀ o, t.reg (rTwin n + o) = s.reg (rTwin n + o) := fun o => h.reg _ (.inr (by unfold rTwin; omega))
    unfold State.window? State.fld
    rw [hreg 8, ih]
    exact congrArg (fun (v : Word) => if slice v.toNat 61 32 ≤ frame ∧ frame < slice (s.reg (rTwin n + 8)).toNat 29 0 then some v.toNat
      else s.window? frame k (n + 1)) (hreg 0)

theorem State.SameStore.tenantOk {s t : State} (h : s.SameStore t) (tenant x : Nat) (rd w : Bool) : t.tenantOk tenant x rd w = s.tenantOk tenant x rd w := by
  have hword : ∀ agent addr, t.pdtWord agent addr = s.pdtWord agent addr := fun agent addr => by
    unfold State.pdtWord
    rw [h.pdt, h.rdNat]
  have haddr : t.pdtAddr tenant x = s.pdtAddr tenant x := by
    unfold State.pdtAddr
    rw [h.pkg, h.fld (.inr (by decide))]
  unfold State.tenantOk
  rw [h.nmod, h.window?, h.fld (.inr (by decide)), hword, haddr]

/-! ### The bytes of one line (R225, R227) -/

section
variable (s : State) {x y : Nat}

theorem localOf_of_line (hline : y / 128 = x / 128) : localOf y = localOf x := by
  have : y / 2 ^ 52 = x / 2 ^ 52 := by omega
  simp only [localOf, this]

theorem paOf_of_line (hline : y / 128 = x / 128) : paOf y / 128 = paOf x / 128 := by
  have hpx := paOf_eq x
  have hpy := paOf_eq y
  omega

theorem hostSpace_of_line (hline : y / 128 = x / 128) : hostSpace y = hostSpace x := by
  have : y / 2 ^ 51 = x / 2 ^ 51 := by omega
  simp only [hostSpace, this]

theorem State.here_of_line (hline : y / 128 = x / 128) : s.here y = s.here x := by
  simp only [State.here, State.homeOf, localOf_of_line hline, paOf_of_line hline]

theorem State.storeAddr_of_line (hline : y / 128 = x / 128) : s.storeAddr y = s.storeAddr x / 128 * 128 + y % 128 := by
  have hslot : s.slotOfLine y = s.slotOfLine x := by simp only [State.slotOfLine, localOf_of_line hline, paOf_of_line hline]
  have hagent : agentOf y = agentOf x := by simp only [agentOf, paOf_of_line hline]
  simp only [State.storeAddr, hslot, hagent]
  omega

theorem State.populated_of_line (hline : y / 128 = x / 128) : s.populated y = s.populated x := by
  have hlimit : ∃ k, s.rangeLimit x = k * 128 ∧ s.rangeLimit y = k * 128 := by
    unfold State.rangeLimit
    rw [localOf_of_line hline]
    cases localOf x with
    | some _ => exact ⟨64 * (12 - s.hs) * 2 ^ 23, by ring, by ring⟩
    | none => exact ⟨2 ^ s.plog * 64 * s.hs * 2 ^ 23, by ring, by ring⟩
  obtain ⟨k, hkx, hky⟩ := hlimit
  have hpl := paOf_of_line hline
  have hhigh : slice (paOf y) 50 46 = slice (paOf x) 50 46 := by
    have : paOf y / 2 ^ 46 = paOf x / 2 ^ 46 := by omega
    simp only [slice, this]
  have hlow : slice (paOf y) 45 0 < k * 128 ↔ slice (paOf x) 45 0 < k * 128 := by
    simp only [slice, pow_zero, Nat.div_one]
    omega
  rw [Bool.eq_iff_iff, State.populated_iff, State.populated_iff, hkx, hky, hostSpace_of_line hline, hhigh, hlow]

/-- The bytes of a line lie in one range and at one home. -/
theorem State.place_of_line {s : State} (hline : y / 128 = x / 128) (hp : s.populated x = true) (hh : s.here x = true) :
    s.place y = some (1, s.storeAddr y) := by
  rw [← s.populated_of_line hline] at hp
  unfold State.place
  rw [if_neg (by rw [((s.populated_iff y).1 hp).1]; decide), hp, s.here_of_line hline, hh]
  rfl

/-- Poison marks whole sectors (R235). -/
theorem State.poisoned_of_sector (hsec : sectorOf y = sectorOf x) : s.poisoned y = s.poisoned x := by
  unfold sectorOf at hsec
  have hline : y / 128 = x / 128 := by omega
  have haddr : s.storeAddr y / 32 = s.storeAddr x / 32 := by
    have hx := s.storeAddr_of_line (x := x) rfl
    rw [s.storeAddr_of_line hline]
    omega
  unfold State.poisoned
  rw [s.here_of_line hline, s.populated_of_line hline, haddr]

end

end Sys2Proof.Machine
end

section
/-! PROOFS. What a home does with its next request (O34): the refusals, and the operation of the others on the word's bytes. -/

namespace Sys2Proof.Machine
open Sys2Proof

/-! ### The bytes that a store writes -/

section
variable {sel : Nat → Bool} {f : Nat → Nat} {b : Nat → Byte}

/-- The selected bytes of a list, each at its address. -/
def memSets (sel : Nat → Bool) (f : Nat → Nat) (b : Nat → Byte) (is : List Nat) (m : List Cell) : List Cell :=
  is.foldl (fun m i => if sel i then memSet m (f i) (b i) else m) m

theorem memGet_memSets_outside {a : Nat} {is : List Nat} (h : ∀ i ∈ is, sel i = true → f i ≠ a) (m : List Cell) :
    memGet (memSets sel f b is m) a = memGet m a := by
  unfold memSets
  induction is generalizing m with
  | nil => rfl
  | cons i is ih =>
    rw [List.foldl_cons, ih fun j hj => h j (by simp [hj])]
    split
    · rename_i hi
      exact memGet_memSet_ne _ _ _ _ (h i (by simp) hi).symm
    · rfl

theorem memGet_memSets_inside {i : Nat} {is : List Nat} (hn : is.Nodup) (hinj : ∀ j ∈ is, ∀ k ∈ is, j ≠ k → f j ≠ f k) (hi : i ∈ is)
    (hsel : sel i = true)
    {m : List Cell} (hm : Memory.wf m = true) : memGet (memSets sel f b is m) (f i) = b i := by
  induction is generalizing m with
  | nil => cases hi
  | cons j is ih =>
    have hcons : memSets sel f b (j :: is) m = memSets sel f b is (if sel j then memSet m (f j) (b j) else m) := rfl
    obtain ⟨hj, hnd⟩ := List.nodup_cons.1 hn
    rw [hcons]
    obtain rfl | hi := List.mem_cons.1 hi
    · rw [memGet_memSets_outside fun k hk _ => hinj k (by simp [hk]) i (by simp) fun hki => hj (hki ▸ hk), if_pos hsel, memGet_memSet_same _ _ _ hm]
    · refine ih hnd (fun p hp q hq => hinj p (by simp [hp]) q (by simp [hq])) hi ?_
      split
      · exact memSet_wf _ _ _ hm
      · exact hm

end

section
variable {s : State} {x : Nat}

/-- Bytes of this module's memory, written one by one. -/
theorem State.setBytes_eq {sel : Nat → Bool} {f : Nat → Nat} {b : Nat → Byte} {is : List Nat}
    (hp : ∀ i ∈ is, sel i = true → s.place (x + i) = some (1, f i)) :
    is.foldl (fun s i => if sel i then s.setByte (x + i) (b i) else s) s = { s with m := { s.m with mem := memSets sel f b is s.m.mem } } := by
  induction is generalizing s with
  | nil => rfl
  | cons i is ih =>
    have hcons : memSets sel f b (i :: is) s.m.mem = memSets sel f b is (if sel i then memSet s.m.mem (f i) (b i) else s.m.mem) := rfl
    rw [List.foldl_cons, hcons]
    cases hsel : sel i with
    | false => exact ih fun j hj => hp j (by simp [hj])
    | true =>
      have hset : s.setByte (x + i) (b i) = { s with m := { s.m with mem := memSet s.m.mem (f i) (b i) } } := by
        rw [State.setByte_eq_put, hp i (by simp) hsel]
        rfl
      rw [if_pos rfl, hset]
      exact ih fun j hj hsel => (congrFun (State.place_congr rfl) _).trans (hp j (by simp [hj]) hsel)

end

/-! ### The steps of a home -/

section
variable {s u : State} {r : Req}

theorem State.ecc_clean (s : State) (x : Nat) : s.ecc x .clean = s := by
  unfold State.ecc
  cases s.l2Find x <;> rfl

theorem State.findErrors_of_none (h : s.m.errs = []) (x n : Nat) : s.findErrors x n = s := by
  refine foldl_stays _ _ _ fun i _ => ?_
  split
  · unfold State.findError
    rw [h]
    rfl
  · rfl

/-- An operation leaves everything but the bytes of memory alone. -/
theorem State.performAt_rest (s : State) (w : WireReq) : ∃ a b c, (s.performAt w).1 = { s with m := { s.m with mem := a, peer := b, host := c } } := by
  unfold State.performAt
  dsimp only
  split
  · exact ⟨_, _, _, rfl⟩
  · exact ⟨_, _, _, rfl⟩
  · exact ⟨_, _, _, rfl⟩
  · refine List.foldlRecOn (motive := fun (t : State) => ∃ a b c, t = { s with m := { s.m with mem := a, peer := b, host := c } }) _ _ ⟨_, _, _, rfl⟩ ?_
    rintro _ ⟨a, b, c, rfl⟩ i _
    split
    · obtain ⟨d, e, f, h⟩ := State.setByte_rest { s with m := { s.m with mem := a, peer := b, host := c } } (w.xpa + i) (BitVec.ofNat 8 (byteOf w.data i))
      exact ⟨d, e, f, h⟩
    · exact ⟨_, _, _, rfl⟩
  · exact State.wrNat_rest ..
  · split
    · exact State.wrNat_rest ..
    · exact ⟨_, _, _, rfl⟩
  · exact State.wrNat_rest ..
  · exact State.wrNat_rest ..

/-- With neither record nor replay a home operation is not logged (R460, R461). -/
theorem State.logHome_idle (h : s.reg rRpctl = 0) (r : Req) : s.logHome r = s := by
  unfold State.logHome
  cases s.reqThread r with
  | none => rfl
  | some k =>
    dsimp only
    rw [s.logged_idle h, beq_self_eq_true, if_pos rfl, s.logOf_idle h]
    split <;> rfl

/-- A monitored event changes registers alone. -/
theorem State.monEvent_regs (s : State) (src sel v : Nat) : ∃ regs, s.monEvent src sel v = { s with b := { s.b with regs := regs } } := by
  refine List.foldlRecOn (motive := fun (t : State) => ∃ regs, t = { s with b := { s.b with regs := regs } }) _ _ ⟨_, rfl⟩ ?_
  rintro _ ⟨regs, rfl⟩ i _
  split
  · exact ⟨_, rfl⟩
  · exact ⟨_, rfl⟩

/-- The events that the monitors see of a performed request. -/
def State.homeEvents (s : State) (r : Req) (free : Nat) (miss : Bool) : State :=
  let t := if r.w.op == .load then s.monEvent 1 (agentOf r.w.xpa) (Config.queueTime free 10) else s
  if miss then t.monEvent 2 (agentOf r.w.xpa) (Config.queueTime free 11) else t

theorem State.homeEvents_regs (s : State) (r : Req) (free : Nat) (miss : Bool) : ∃ regs, s.homeEvents r free miss = { s with b := { s.b with regs := regs } } := by
  have hload : ∃ regs, (if r.w.op == .load then s.monEvent 1 (agentOf r.w.xpa) (Config.queueTime free 10) else s) = { s with b := { s.b with regs := regs } } := by
    split
    · exact s.monEvent_regs ..
    · exact ⟨_, rfl⟩
  unfold State.homeEvents
  dsimp only
  obtain ⟨regs, h⟩ := hload
  rw [h]
  split
  · obtain ⟨regs2, h2⟩ := State.monEvent_regs { s with b := { s.b with regs := regs } } 2 (agentOf r.w.xpa) (Config.queueTime free 11)
    exact ⟨regs2, h2⟩
  · exact ⟨_, rfl⟩

/-! ### The refusals -/

theorem State.homePerform_fabric (hfresh : r.fresh = true) (hpop : s.populated r.w.xpa = false) : s.homePerform r .clean = s.homeAnswer r 0 (some .fabric) := by
  simp [State.homePerform, hfresh, hpop]

theorem State.homePerform_tenant (hfresh : r.fresh = true) (hpop : s.populated r.w.xpa = true)
    (hten : s.tenantOk r.w.tenant r.w.xpa (reqRd r.w.op) (reqW r.w.op) = false) : s.homePerform r .clean = s.homeAnswer r 0 (some .tenant) := by
  simp [State.homePerform, hfresh, hpop, hten]

/-- A store of a whole sector, which clears its mark (R235). -/
def Req.full (r : Req) : Bool := r.w.op == .store && r.w.mask == 2 ^ 32 - 1

/-- What the home holds when it performs the request's operation. -/
def State.homeStart (s : State) (r : Req) : State :=
  (if r.full then s.setPoison r.w.xpa false else s).l2Home r.w.xpa r.hint r.ef (reqW r.w.op)

/-- The operation on the units that are performed now (R200). -/
def State.homeActs (s : State) (r : Req) : State × Nat := (s.homeStart r).performAt { r.w with mask := r.w.mask &&& s.pieceOf r }

/-- The value that the request has after these units. -/
def State.homeGot (s : State) (r : Req) : Nat :=
  if r.w.op == .load then r.got + (if s.pieceOf r == 2 ^ 32 - 1 then (s.homeActs r).2 else maskBytes (s.pieceOf r) (s.homeActs r).2) else (s.homeActs r).2

theorem State.homePerform_poison (hfresh : r.fresh = true) (herrs : s.m.errs = []) (hpop : s.populated r.w.xpa = true)
    (hten : s.tenantOk r.w.tenant r.w.xpa (reqRd r.w.op) (reqW r.w.op) = true) (hpois : s.poisonedIn r.w.xpa r.w.size = true) (hfull : r.full = false) :
    s.homePerform r .clean = s.homeAnswer r 0 (some .poison) := by
  unfold Req.full at hfull
  unfold State.homePerform
  simp only [hfresh, hpop, hten, State.ecc_clean, State.findErrors_of_none herrs, hpois, hfull, Bool.not_true, Bool.not_false, Bool.and_false, Bool.and_true,
    Bool.true_or, Bool.false_eq_true, if_false, if_true]

theorem State.homePerform_performs (hfresh : r.fresh = true) (herrs : s.m.errs = []) (hpop : s.populated r.w.xpa = true)
    (hten : s.tenantOk r.w.tenant r.w.xpa (reqRd r.w.op) (reqW r.w.op) = true) (hpois : (s.poisonedIn r.w.xpa r.w.size && !r.full) = false) :
    s.homePerform r .clean = if s.pieceOf r != r.todo then
        (s.homeActs r).1.setBQ ((s.homeActs r).1.m.bQ.map fun q => if q.id == r.id then { q with todo := r.todo - s.pieceOf r, got := s.homeGot r } else q)
      else (((s.homeActs r).1.logHome r).homeEvents r s.free (s.l2Find r.w.xpa).isNone).homeAnswer r (s.homeGot r) none := by
  unfold Req.full at hpois
  unfold State.homePerform
  simp only [hfresh, hpop, hten, State.ecc_clean, State.findErrors_of_none herrs, hpois, Bool.not_true, Bool.and_false, Bool.false_and, Bool.false_eq_true, if_false]
  rfl

/-! ### What a performed request leaves -/

/-- The bytes that the home works on are those of the state before. -/
theorem State.homeStart_sameMemory (s : State) (r : Req) : s.SameMemory (s.homeStart r) := by
  have hmark : s.SameMemory (if r.full then s.setPoison r.w.xpa false else s) := by
    split
    · exact ⟨rfl, rfl, rfl, State.place_congr rfl⟩
    · exact .refl s
  exact hmark.trans (State.Homed.l2Home _ r.w.xpa r.hint r.ef (reqW r.w.op)).sameStore.sameMemory

theorem State.homeStart_reg (s : State) (r : Req) {o : Nat} (ho : o < 0x10100 ∨ 0x10200 ≤ o) : (s.homeStart r).reg o = s.reg o := by
  unfold State.homeStart
  rw [(State.Homed.l2Home _ _ r.hint r.ef (reqW r.w.op)).reg o ho]
  split <;> rfl

/-- Queues, accesses, cores and regions while the operation is performed. -/
theorem State.homeActs_rest (s : State) (r : Req) : (s.homeActs r).1.c = s.c ∧ (s.homeActs r).1.l = s.l ∧ (s.homeActs r).1.m.ops = s.m.ops ∧
    (s.homeActs r).1.m.bQ = s.m.bQ ∧ (s.homeActs r).1.m.anss = s.m.anss := by
  obtain ⟨a, b, c, h⟩ := (s.homeStart r).performAt_rest { r.w with mask := r.w.mask &&& s.pieceOf r }
  have hstart := (State.Homed.l2Home (if r.full then s.setPoison r.w.xpa false else s) r.w.xpa r.hint r.ef (reqW r.w.op)).rest
  unfold State.homeActs
  rw [h]
  unfold State.homeStart
  rw [hstart]
  split <;> exact ⟨rfl, rfl, rfl, rfl, rfl⟩

/-- The memory of `t` is that of `s`. -/
def State.KeepsBytes (s t : State) : Prop := t.m.mem = s.m.mem ∧ t.m.peer = s.m.peer ∧ t.m.host = s.m.host

/-- The memory of `t` is that of `s` with a word written. -/
def State.Puts (s t : State) (x n y : Nat) : Prop := (s.wrNat x n y).KeepsBytes t

/-- The request has left its agent's queue with its answer. -/
def State.Answers (s t : State) (r : Req) (d : Nat) (f : Option Code) : Prop :=
  t.m.bQ = s.m.bQ.eraseP (fun q => q.id == r.id) ∧ t.m.anss = s.m.anss ++ [{ req := r, data := d, fault := f }]

/-- The request stays for the units that are left. -/
def State.Rests (s t : State) (r : Req) (now d : Nat) : Prop :=
  t.m.anss = s.m.anss ∧ t.m.bQ = s.m.bQ.map fun q => if q.id == r.id then { q with todo := 2 ^ 32 - 1 - now, got := d } else q

/-- What the performing of a request leaves alone. -/
def State.KeepsAccesses (s t : State) : Prop := t.c = s.c ∧ t.l = s.l ∧ t.m.ops = s.m.ops

/-- A home that performs a request: its answer when all of it is performed, else the rest of it; memory holds what the operation leaves. -/
structure State.Performs (s t : State) (r : Req) : Prop where
  keeps : s.KeepsAccesses t
  bytes : (s.homeActs r).1.KeepsBytes t
  whole : s.pieceOf r = 2 ^ 32 - 1 → s.Answers t r (s.homeGot r) none
  part : s.pieceOf r ≠ 2 ^ 32 - 1 → s.Rests t r (s.pieceOf r) (s.homeGot r)

theorem State.homePerform_done (htodo : r.todo = 2 ^ 32 - 1) (herrs : s.m.errs = []) (hlog : s.reg rRpctl = 0) (hpop : s.populated r.w.xpa = true)
    (hten : s.tenantOk r.w.tenant r.w.xpa (reqRd r.w.op) (reqW r.w.op) = true) (hpois : (s.poisonedIn r.w.xpa r.w.size && !r.full) = false) :
    s.Performs (s.homePerform r .clean) r := by
  obtain ⟨hc, hl, hops, hbq, hans⟩ := s.homeActs_rest r
  have hidle : (s.homeActs r).1.reg rRpctl = 0 := by
    obtain ⟨a, b, c, h⟩ := (s.homeStart r).performAt_rest { r.w with mask := r.w.mask &&& s.pieceOf r }
    unfold State.homeActs
    rw [h]
    exact (s.homeStart_reg r (.inr (by decide))).trans hlog
  rw [State.homePerform_performs (by simp [Req.fresh, htodo]) herrs hpop hten hpois, htodo]
  by_cases hall : s.pieceOf r = 2 ^ 32 - 1
  · obtain ⟨regs, hev⟩ := ((s.homeActs r).1.logHome r).homeEvents_regs r s.free (s.l2Find r.w.xpa).isNone
    rw [State.logHome_idle hidle] at hev
    rw [if_neg (by simp [hall]), State.logHome_idle hidle, hev]
    refine ⟨⟨hc, hl, hops⟩, ⟨rfl, rfl, rfl⟩, fun _ => ⟨?_, ?_⟩, fun h => absurd hall h⟩
    · rw [← hbq]
      rfl
    · rw [← hans]
      rfl
  · rw [if_pos (by simpa using hall)]
    refine ⟨⟨hc, hl, hops⟩, ⟨rfl, rfl, rfl⟩, fun h => absurd h hall, fun _ => ⟨hans, ?_⟩⟩
    rw [← hbq]
    rfl

/-! ### The operations (R185 to R192) -/

/-- The word as it stood. -/
theorem State.homeStart_rdNat (s : State) (r : Req) (x n : Nat) : (s.homeStart r).rdNat x n = s.rdNat x n := (s.homeStart_sameMemory r).rdNat x n

theorem State.homeActs_reads (hop : r.w.op = .load ∨ r.w.op = .acq ∨ r.w.op = .join) : s.homeActs r = (s.homeStart r, s.rdNat r.w.xpa r.w.size) := by
  unfold State.homeActs State.performAt
  rw [s.homeStart_rdNat]
  obtain h | h | h := hop <;> rw [h]

theorem State.homeActs_atom {k : BitVec 4} (hop : r.w.op = .atom k) : s.homeActs r =
    ((s.homeStart r).wrNat r.w.xpa r.w.size (atomNew k.toNat r.w.size (s.rdNat r.w.xpa r.w.size) r.w.data), s.rdNat r.w.xpa r.w.size) := by
  unfold State.homeActs State.performAt
  rw [s.homeStart_rdNat, hop]

theorem State.homeActs_cas (hop : r.w.op = .cas) : s.homeActs r =
    (if s.rdNat r.w.xpa r.w.size == r.w.cmp then (s.homeStart r).wrNat r.w.xpa r.w.size r.w.data else s.homeStart r, s.rdNat r.w.xpa r.w.size) := by
  unfold State.homeActs State.performAt
  rw [s.homeStart_rdNat, hop]

theorem State.homeActs_rel (hop : r.w.op = .rel) : s.homeActs r =
    ((s.homeStart r).wrNat r.w.xpa r.w.size ((s.rdNat r.w.xpa r.w.size + r.w.data) % 2 ^ 64), s.rdNat r.w.xpa r.w.size) := by
  unfold State.homeActs State.performAt
  rw [s.homeStart_rdNat, hop]

theorem State.homeActs_store (hop : r.w.op = .store) : s.homeActs r =
    ((List.range 32).foldl (fun t i => if (r.w.mask &&& s.pieceOf r).testBit i then t.setByte (r.w.xpa + i) (BitVec.ofNat 8 (byteOf r.w.data i)) else t)
      (s.homeStart r), 0) := by
  unfold State.homeActs State.performAt
  rw [hop]

/-- An atomic is one unit. -/
theorem State.pieceOf_whole (hload : r.w.op ≠ .load) (hstore : r.w.op ≠ .store) : s.pieceOf r = r.todo := by
  simp [State.pieceOf, hload, hstore]

theorem State.homeGot_of_not_load (hload : r.w.op ≠ .load) : s.homeGot r = (s.homeActs r).2 := if_neg (by simpa using hload)

theorem State.homeGot_load (hload : r.w.op = .load) (hgot : r.got = 0) : s.homeGot r =
    if s.pieceOf r = 2 ^ 32 - 1 then s.rdNat r.w.xpa r.w.size else maskBytes (s.pieceOf r) (s.rdNat r.w.xpa r.w.size) := by
  unfold State.homeGot
  rw [State.homeActs_reads (.inl hload), hgot, hload]
  simp

/-- The bytes that a store leaves: those of the selected units, the others as they were. -/
theorem State.homeActs_store_bytes (hop : r.w.op = .store) (hpop : s.populated r.w.xpa = true) (hhere : s.here r.w.xpa = true)
    (hline : r.w.xpa % 128 + 32 ≤ 128) (hwf : Memory.wf s.m.mem = true) :
    (s.homeActs r).1.m.peer = s.m.peer ∧ (s.homeActs r).1.m.host = s.m.host ∧
    (∀ i < 32, (r.w.mask &&& s.pieceOf r).testBit i = true →
      memGet (s.homeActs r).1.m.mem (s.storeAddr (r.w.xpa + i)) = BitVec.ofNat 8 (byteOf r.w.data i)) ∧
    ∀ a, (∀ i < 32, (r.w.mask &&& s.pieceOf r).testBit i = true → s.storeAddr (r.w.xpa + i) ≠ a) →
      memGet (s.homeActs r).1.m.mem a = memGet s.m.mem a := by
  obtain ⟨hmem, hpeer, hhost, hplace⟩ := s.homeStart_sameMemory r
  have hat : ∀ i < 32, s.place (r.w.xpa + i) = some (1, s.storeAddr (r.w.xpa + i)) := fun i hi => State.place_of_line (by omega) hpop hhere
  have hset := State.setBytes_eq (s := s.homeStart r) (x := r.w.xpa) (sel := (r.w.mask &&& s.pieceOf r).testBit) (f := fun i => s.storeAddr (r.w.xpa + i))
    (b := fun i => BitVec.ofNat 8 (byteOf r.w.data i)) (is := List.range 32) fun i hi _ => by rw [hplace]; exact hat i (List.mem_range.1 hi)
  rw [State.homeActs_store hop, hset]
  dsimp only
  rw [hmem]
  refine ⟨hpeer, hhost, fun i hi hsel => ?_, fun a ha => memGet_memSets_outside (fun i hi => ha i (List.mem_range.1 hi)) _⟩
  refine memGet_memSets_inside (f := fun i => s.storeAddr (r.w.xpa + i)) List.nodup_range (fun j hj k hk hne => ?_) (List.mem_range.2 hi) hsel hwf
  have hj := List.mem_range.1 hj
  have hk := List.mem_range.1 hk
  have hplaces := s.place_ne_of_line (r.w.xpa + j) (r.w.xpa + k) (by omega) (by omega) (by rw [hat j hj]; simp)
  rw [hat j hj, hat k hk] at hplaces
  simpa using hplaces

theorem State.KeepsBytes.puts {t a : State} {x n y : Nat} (h : a.KeepsBytes t) (hu : s.SameMemory u) (ha : a = u.wrNat x n y) : s.Puts t x n y := by
  obtain ⟨hmem, hpeer, hhost, -⟩ := hu.wrNat x n y
  obtain ⟨kmem, kpeer, khost⟩ := h
  rw [ha] at kmem kpeer khost
  exact ⟨kmem.trans hmem, kpeer.trans hpeer, khost.trans hhost⟩

theorem State.KeepsBytes.of_sameMemory {t : State} (h : u.KeepsBytes t) (hu : s.SameMemory u) : s.KeepsBytes t := by
  obtain ⟨kmem, kpeer, khost⟩ := h
  exact ⟨kmem.trans hu.mem, kpeer.trans hu.peer, khost.trans hu.host⟩

namespace State.Performs
variable {t : State}

/-- An operation that is one unit is answered with the value that it returns. -/
theorem answers (h : s.Performs t r) (htodo : r.todo = 2 ^ 32 - 1) (hload : r.w.op ≠ .load) (hstore : r.w.op ≠ .store) {a : State × Nat}
    (hacts : s.homeActs r = a) : s.Answers t r a.2 none := by
  rw [← hacts, ← State.homeGot_of_not_load hload]
  exact h.whole (by rw [State.pieceOf_whole hload hstore, htodo])

theorem read (h : s.Performs t r) (htodo : r.todo = 2 ^ 32 - 1) (hop : r.w.op = .acq ∨ r.w.op = .join) :
    s.KeepsBytes t ∧ s.Answers t r (s.rdNat r.w.xpa r.w.size) none := by
  have hacts := State.homeActs_reads (s := s) (.inr hop)
  have hbytes := h.bytes
  rw [hacts] at hbytes
  refine ⟨hbytes.of_sameMemory (s.homeStart_sameMemory r), h.answers htodo ?_ ?_ hacts⟩ <;> rcases hop with hop | hop <;> rw [hop] <;> decide

theorem load (h : s.Performs t r) (hgot : r.got = 0) (hop : r.w.op = .load) :
    s.KeepsBytes t ∧ (s.pieceOf r = 2 ^ 32 - 1 → s.Answers t r (s.rdNat r.w.xpa r.w.size) none) ∧
    (s.pieceOf r ≠ 2 ^ 32 - 1 → s.Rests t r (s.pieceOf r) (maskBytes (s.pieceOf r) (s.rdNat r.w.xpa r.w.size))) := by
  obtain ⟨-, hbytes, hwhole, hpart⟩ := h
  rw [State.homeActs_reads (.inl hop)] at hbytes
  rw [State.homeGot_load hop hgot] at hwhole hpart
  refine ⟨hbytes.of_sameMemory (s.homeStart_sameMemory r), fun hall => ?_, fun hall => ?_⟩
  · rw [if_pos hall] at hwhole
    exact hwhole hall
  · rw [if_neg hall] at hpart
    exact hpart hall

theorem atom (h : s.Performs t r) (htodo : r.todo = 2 ^ 32 - 1) {k : BitVec 4} (hop : r.w.op = .atom k) :
    s.Puts t r.w.xpa r.w.size (atomNew k.toNat r.w.size (s.rdNat r.w.xpa r.w.size) r.w.data) ∧ s.Answers t r (s.rdNat r.w.xpa r.w.size) none := by
  have hacts := State.homeActs_atom (s := s) hop
  exact ⟨h.bytes.puts (s.homeStart_sameMemory r) (congrArg Prod.fst hacts),
    h.answers htodo (by rw [hop]; exact fun h => by cases h) (by rw [hop]; exact fun h => by cases h) hacts⟩

theorem cas (h : s.Performs t r) (htodo : r.todo = 2 ^ 32 - 1) (hop : r.w.op = .cas) :
    (s.rdNat r.w.xpa r.w.size = r.w.cmp → s.Puts t r.w.xpa r.w.size r.w.data) ∧ (s.rdNat r.w.xpa r.w.size ≠ r.w.cmp → s.KeepsBytes t) ∧
    s.Answers t r (s.rdNat r.w.xpa r.w.size) none := by
  have hacts := State.homeActs_cas (s := s) hop
  refine ⟨fun heq => ?_, fun hne => ?_, h.answers htodo (by rw [hop]; decide) (by rw [hop]; decide) hacts⟩
  · exact h.bytes.puts (s.homeStart_sameMemory r) ((congrArg Prod.fst hacts).trans (if_pos (by simpa using heq)))
  · have hbytes := h.bytes
    rw [(congrArg Prod.fst hacts).trans (if_neg (by simpa using hne))] at hbytes
    exact hbytes.of_sameMemory (s.homeStart_sameMemory r)

theorem rel (h : s.Performs t r) (htodo : r.todo = 2 ^ 32 - 1) (hop : r.w.op = .rel) :
    s.Puts t r.w.xpa r.w.size ((s.rdNat r.w.xpa r.w.size + r.w.data) % 2 ^ 64) ∧ s.Answers t r (s.rdNat r.w.xpa r.w.size) none := by
  have hacts := State.homeActs_rel (s := s) hop
  exact ⟨h.bytes.puts (s.homeStart_sameMemory r) (congrArg Prod.fst hacts), h.answers htodo (by rw [hop]; decide) (by rw [hop]; decide) hacts⟩

theorem store (h : s.Performs t r) (hop : r.w.op = .store) :
    (s.pieceOf r = 2 ^ 32 - 1 → s.Answers t r 0 none) ∧ (s.pieceOf r ≠ 2 ^ 32 - 1 → s.Rests t r (s.pieceOf r) 0) := by
  have hzero : s.homeGot r = 0 := by rw [State.homeGot_of_not_load (by rw [hop]; decide), State.homeActs_store hop]
  exact ⟨hzero ▸ h.whole, hzero ▸ h.part⟩

end State.Performs

end

/-! ### The statement -/

theorem exec_homePerform {s : State} {agent : Nat} {r : Req} (hnext : s.homeNext agent [] s.m.bQ = some r) (hpdt : s.pdtMiss r = none) :
    exec (.homePerform agent .clean) s = .next (State.homePerform { s with free := s.free + 1 } r .clean) := by
  change execHomePerform agent .clean s = _
  unfold execHomePerform
  simp only [hnext, hpdt]

theorem reqRd_eq (op : ReqOp) : reqRd op = (op != .store) := by cases op <;> rfl

theorem reqW_eq (op : ReqOp) : reqW op = (op != .load && op != .acq && op != .join) := by cases op <;> rfl

/-- A refused request is answered with its fault, and nothing is written. -/
theorem State.homeAnswer_refuses (s : State) (r : Req) (f : Code) : s.KeepsAccesses (s.homeAnswer r 0 (some f)) ∧
    s.Answers (s.homeAnswer r 0 (some f)) r 0 (some f) ∧ s.KeepsBytes (s.homeAnswer r 0 (some f)) :=
  ⟨⟨rfl, rfl, rfl⟩, ⟨rfl, rfl⟩, rfl, rfl, rfl⟩

theorem State.Puts.of_sameMemory {s u t : State} {x n y : Nat} (h : u.Puts t x n y) (hu : s.SameMemory u) : s.Puts t x n y :=
  State.KeepsBytes.puts h hu rfl

/-- Settles O34: the refusals one by one, the operations by the bytes that each leaves. -/
theorem homesPerformOperations : Obligations.HomesPerformOperations := by
  unfold Obligations.HomesPerformOperations
  intro s agent r hnext hpdt htodo hgot herrs hidle x n v now allowed
  have hcount : s.SameStore { s with free := s.free + 1 } := (State.Homed.free s _).sameStore
  refine ⟨_, exec_homePerform hnext hpdt, ?_⟩
  generalize ht : State.homePerform { s with free := s.free + 1 } r .clean = t
  have hfresh : r.fresh = true := by simp [Req.fresh, htodo]
  have htenant := hcount.tenantOk r.w.tenant x (reqRd r.w.op) (reqW r.w.op)
  rw [reqRd_eq, reqW_eq] at htenant
  by_cases hp : s.populated x = true
  case neg =>
    rw [State.homePerform_fabric hfresh ((hcount.populated x).trans (by simpa using hp))] at ht
    obtain ⟨⟨hc, hl, hops⟩, hans, hbytes⟩ := ht ▸ State.homeAnswer_refuses { s with free := s.free + 1 } r .fabric
    exact ⟨hc, hl, hops, fun _ => ⟨hans, hbytes⟩, fun h => absurd h hp, fun h => absurd h.1 hp, fun h => absurd h.1 hp⟩
  by_cases hten : s.tenantOk r.w.tenant x (r.w.op != .store) (r.w.op != .load && r.w.op != .acq && r.w.op != .join) = true
  case neg =>
    rw [State.homePerform_tenant hfresh ((hcount.populated x).trans hp) (by rw [reqRd_eq, reqW_eq, htenant]; simpa using hten)] at ht
    obtain ⟨⟨hc, hl, hops⟩, hans, hbytes⟩ := ht ▸ State.homeAnswer_refuses { s with free := s.free + 1 } r .tenant
    exact ⟨hc, hl, hops, fun h => absurd hp h, fun _ _ => ⟨hans, hbytes⟩, fun h => absurd h.2 hten, fun h => absurd h.2 hten⟩
  have hall : allowed := ⟨hp, hten⟩
  by_cases hq : s.poisonedIn x n = true ∧ r.full = false
  case pos =>
    rw [State.homePerform_poison (s := { s with free := s.free + 1 }) hfresh herrs ((hcount.populated x).trans hp)
      (by rw [reqRd_eq, reqW_eq, htenant, hten]) ((hcount.poisonedIn x n).trans hq.1) hq.2] at ht
    obtain ⟨⟨hc, hl, hops⟩, hans, hbytes⟩ := ht ▸ State.homeAnswer_refuses { s with free := s.free + 1 } r .poison
    exact ⟨hc, hl, hops, fun h => absurd hp h, fun _ h => absurd hall h, fun _ _ _ => ⟨hans, hbytes⟩, fun _ h => by rw [hq.1] at h; cases h⟩
  have hlog : State.reg { s with free := s.free + 1 } rRpctl = 0 := hidle.reg_eq_zero _ (by decide)
  have hdone : State.Performs { s with free := s.free + 1 } t r := ht ▸ State.homePerform_done htodo herrs hlog ((hcount.populated x).trans hp)
    (by rw [reqRd_eq, reqW_eq, htenant, hten]) (by rw [hcount.poisonedIn]; simpa using hq)
  have hv : State.rdNat { s with free := s.free + 1 } r.w.xpa r.w.size = v := hcount.rdNat x n
  obtain ⟨hc, hl, hops⟩ := hdone.keeps
  have hstore : s.poisonedIn x n = true → r.w.op = .store ∧ r.w.mask = 2 ^ 32 - 1 := fun hpo => by
    have hfull : r.full = true := by simpa [hpo] using hq
    simpa [Req.full] using hfull
  refine ⟨hc, hl, hops, fun h => absurd hp h, fun _ h => absurd hall h, fun _ hpo hno => absurd (hstore hpo) hno,
    fun _ _ => ⟨fun hop => ?_, fun hop => ?_, fun k hop => ?_, fun hop => ?_, fun hop => ?_, fun hop => ?_⟩⟩
  · exact hv ▸ hdone.read htodo hop
  · exact hv ▸ hdone.load hgot hop
  · obtain ⟨hput, hans⟩ := hv ▸ hdone.atom htodo hop
    exact ⟨hput.of_sameMemory hcount.sameMemory, hans⟩
  · obtain ⟨hput, hkeep, hans⟩ := hv ▸ hdone.cas htodo hop
    exact ⟨fun h => (hput h).of_sameMemory hcount.sameMemory, hkeep, hans⟩
  · obtain ⟨hput, hans⟩ := hv ▸ hdone.rel htodo hop
    exact ⟨hput.of_sameMemory hcount.sameMemory, hans⟩
  · obtain ⟨hwhole, hpart⟩ := hdone.store hop
    refine ⟨hwhole, hpart, fun hline hwf hhere => ?_⟩
    obtain ⟨hmem, hpeer, hhost⟩ := hdone.bytes
    rw [hmem, hpeer, hhost]
    simpa only [hcount.storeAddr] using State.homeActs_store_bytes hop ((hcount.populated x).trans hp) ((hcount.here x).trans hhere) hline hwf

end Sys2Proof.Machine
end

section
/-! PROOFS. Reads that are made at once for a thread, through the L1 of its core (R176, R178, R229): they bring the bytes of memory and change copies alone. -/

namespace Sys2Proof.Machine
open Sys2Proof

/-! ### A part of a number in memory -/

theorem State.rdNat_add (s : State) (x m n : Nat) : s.rdNat x (m + n) = s.rdNat x m + 256 ^ m * s.rdNat (x + m) n := by
  induction m generalizing x with
  | zero => simp [State.rdNat]
  | succ m ih =>
    rw [Nat.add_right_comm, State.rdNat, State.rdNat, ih, Nat.add_right_comm x, Nat.add_assoc x m 1]
    ring

theorem State.rdNat_part (s : State) {x m n k : Nat} (h : m + n ≤ k) : s.rdNat x k / 256 ^ m % 256 ^ n = s.rdNat (x + m) n := by
  obtain ⟨j, rfl⟩ := Nat.exists_eq_add_of_le h
  rw [State.rdNat_add, State.rdNat_add, Nat.pow_add, Nat.mul_assoc, Nat.add_assoc, ← Nat.mul_add, Nat.add_mul_div_left _ _ (by positivity),
    Nat.div_eq_of_lt (s.rdNat_lt m x), Nat.zero_add, Nat.add_mul_mod_self_left, Nat.mod_eq_of_lt (s.rdNat_lt n _)]

/-- Bytes inside a sector, taken from the sector. -/
theorem State.rdNat_sector (s : State) {x n : Nat} (h : x % 32 + n ≤ 32) : s.rdNat (sectorOf x) 32 / 256 ^ (x % 32) % 256 ^ n = s.rdNat x n := by
  rw [s.rdNat_part h]
  congr 1
  unfold sectorOf
  omega

/-! ### The sectors of a short access -/

theorem sectorParts_inside {x n : Nat} (hn : 0 < n) (h : x % 32 + n ≤ 32) : sectorParts x n = [(x, 0, n)] := by
  have hfirst : max (sectorOf x + 32 * 0) x = x := by unfold sectorOf; omega
  have hend : min (sectorOf x + 32 * 0 + 32) (x + n) = x + n := by unfold sectorOf; omega
  have hrest : ∀ i, 0 < i → ¬ max (sectorOf x + 32 * i) x < min (sectorOf x + 32 * i + 32) (x + n) := fun i hi => by unfold sectorOf; omega
  unfold sectorParts
  rw [List.range_succ_eq_map, List.filterMap_cons, List.filterMap_eq_nil_iff.2 fun i hi => ?_]
  · simp only [hfirst, hend]
    rw [if_pos (by omega)]
    simp
  · obtain ⟨j, -, rfl⟩ := List.mem_map.1 hi
    exact if_neg (hrest _ (Nat.succ_pos j))

theorem sectorParts_across {x n : Nat} (hn : n < 32) (h : 32 < x % 32 + n) :
    sectorParts x n = [(x, 0, 32 - x % 32), (x + (32 - x % 32), 32 - x % 32, n - (32 - x % 32))] := by
  have hlo : max (sectorOf x + 32 * 0) x = x := by unfold sectorOf; omega
  have hhi : min (sectorOf x + 32 * 0 + 32) (x + n) = x + (32 - x % 32) := by unfold sectorOf; omega
  have hlo1 : max (sectorOf x + 32 * 1) x = x + (32 - x % 32) := by unfold sectorOf; omega
  have hhi1 : min (sectorOf x + 32 * 1 + 32) (x + n) = x + n := by unfold sectorOf; omega
  have htwo : List.range (n / 32 + 2) = [0, 1] := by rw [Nat.div_eq_of_lt hn]; rfl
  unfold sectorParts
  rw [htwo]
  simp only [List.filterMap_cons, List.filterMap_nil, hlo, hhi, hlo1, hhi1]
  rw [if_pos (by omega), if_pos (by omega)]
  simp only [Nat.sub_self, Nat.add_sub_cancel_left, List.cons.injEq, Prod.mk.injEq, true_and, and_true]
  omega

theorem sectorParts_within {x n : Nat} : ∀ q ∈ sectorParts x n, q.1 % 32 + q.2.2 ≤ 32 := by
  intro q hq
  unfold sectorParts at hq
  obtain ⟨i, -, hi⟩ := List.mem_filterMap.1 hq
  dsimp only at hi
  split at hi
  · obtain rfl := Option.some.inj hi
    dsimp only
    unfold sectorOf at *
    omega
  · cases hi

/-- A short access read sector by sector. -/
theorem State.rdNat_sectorParts (s : State) {x n : Nat} (hn : 0 < n) (hn32 : n < 32) :
    ((sectorParts x n).map fun q => s.rdNat q.1 q.2.2 * 256 ^ q.2.1).sum = s.rdNat x n := by
  by_cases h : x % 32 + n ≤ 32
  · rw [sectorParts_inside hn h]
    simp
  · rw [sectorParts_across hn32 (by omega)]
    have hsum := s.rdNat_add x (32 - x % 32) (n - (32 - x % 32))
    rw [Nat.add_sub_cancel' (by omega)] at hsum
    rw [hsum]
    simp only [List.map_cons, List.map_nil, List.sum_cons, List.sum_nil]
    ring

/-! ### What a read leaves -/

/-- From `s` to `t` memory has been read for a thread: copies of memory, the hit counts of the retention registers, the fills of the accesses in flight and
the free counter have changed, and nothing else. -/
structure State.Fetches (s t : State) : Prop where
  rest : t = { s with free := t.free, c := { s.c with l1 := t.c.l1 }, m := { s.m with l2 := t.m.l2, ops := t.m.ops }, b := { s.b with regs := t.b.regs } }
  reg : ∀ o, o < 0x10100 ∨ 0x10200 ≤ o → t.reg o = s.reg o
  unfilled : t.m.ops.map MOp.unfilled = s.m.ops.map MOp.unfilled

namespace State.Fetches
variable {s t u : State}

theorem refl (s : State) : s.Fetches s := ⟨rfl, fun _ _ => rfl, rfl⟩

theorem trans (h : s.Fetches t) (k : t.Fetches u) : s.Fetches u where
  rest := by
    obtain ⟨hk, -, -⟩ := k
    rw [h.rest] at hk
    exact hk
  reg o ho := (k.reg o ho).trans (h.reg o ho)
  unfilled := k.unfilled.trans h.unfilled

theorem sameStore (h : s.Fetches t) : s.SameStore t := by
  obtain ⟨hrest, hreg, -⟩ := h
  exact ⟨by rw [hrest], by rw [hrest], by rw [hrest], by rw [hrest], by rw [hrest], by rw [hrest], by rw [hrest], hreg⟩

theorem of_homed (h : s.Homed t) : s.Fetches t where
  rest := by
    conv_lhs => rw [h.rest]
    rw [h.rest]
  reg := h.reg
  unfilled := by rw [h.rest]

theorem setL1 (s : State) (l : List L1Sec) : s.Fetches (s.setL1 l) := ⟨rfl, fun _ _ => rfl, rfl⟩

theorem dropFill (s : State) (core : Nat) (p : MOp → Bool) : s.Fetches (s.dropFill core p) := ⟨rfl, fun _ _ => rfl, s.dropFill_unfilled core p⟩

theorem ite {p : Prop} [Decidable p] (ht : s.Fetches t) (hu : s.Fetches u) : s.Fetches (if p then t else u) := by
  split
  · exact ht
  · exact hu

theorem l1Trim (s : State) (core : Nat) : s.Fetches (s.l1Trim core) := .ite (.refl s) (.setL1 s _)

theorem l1Return (s : State) (core asid va x data : Nat) (fill : Bool) : s.Fetches (s.l1Return core asid va x data fill) :=
  .ite (.refl s) (.ite ((setL1 s _).trans (.dropFill _ _ _)) (.ite (((setL1 s _).trans (.l1Trim _ _)).trans (.dropFill _ _ _)) (.refl s)))

theorem c_eq (h : s.Fetches t) : t.c = { s.c with l1 := t.c.l1 } := by rw [h.rest]

end State.Fetches

/-! ### The L1 holds what memory holds -/

section
variable {s t : State} {core x n : Nat} {e : L1Sec}

/-- The sectors that the L1 of a core holds are those of memory. -/
def State.L1Current (s : State) (core : Nat) : Prop := ∀ e ∈ s.c.l1, e.core = core → e.data = s.rdNat e.xpa 32

theorem State.L1Current.of_empty (h : ∀ e ∈ s.c.l1, e.core ≠ core) : s.L1Current core := fun e he hc => absurd hc (h e he)

/-- What the L1 holds after the return of a sector: sectors that it held, and perhaps the new one. -/
theorem State.mem_l1Return {asid va data : Nat} {fill : Bool} (h : e ∈ (s.l1Return core asid va x data fill).c.l1) :
    e ∈ s.c.l1 ∨ e = { core := core, asid := asid, va := sectorOf va, xpa := sectorOf x, data := data } := by
  have htrim : ∀ t : State, e ∈ (t.l1Trim core).c.l1 → e ∈ t.c.l1 := fun t ht => by
    unfold State.l1Trim at ht
    dsimp only at ht
    split at ht
    · exact ht
    · exact List.mem_of_mem_filter ht
  unfold State.l1Return at h
  dsimp only at h
  split at h
  · exact .inl h
  · split at h
    · exact .inl (List.mem_of_mem_filter h)
    · split at h
      · obtain h | h := List.mem_append.1 (htrim _ h)
        · exact .inl (List.mem_of_mem_filter h)
        · exact .inr (List.mem_singleton.1 h)
      · exact .inl h

theorem State.L1Current.l1Return (h : s.L1Current core) (asid va x : Nat) (fill : Bool) :
    (s.l1Return core asid va x (s.rdNat (sectorOf x) 32) fill).L1Current core := fun e he hcore => by
  rw [(State.Fetches.l1Return s core asid va x _ fill).sameStore.rdNat]
  obtain he | rfl := State.mem_l1Return he
  · exact h e he hcore
  · rfl

theorem State.L1Current.of_homed (h : s.L1Current core) (k : s.Homed t) : t.L1Current core := by
  have hl1 : t.c.l1 = s.c.l1 := by rw [k.rest]
  intro e he hcore
  rw [k.sameStore.rdNat]
  exact h e (hl1 ▸ he) hcore

end

/-! ### The reads -/

section
variable {s t : State} {tenant core x n : Nat} {r : Region} {hint : Hint} {ef rd w : Bool}

/-- An engine may reach the sector of a byte for a tenant: homed on this module, the tenant's, not poisoned. -/
def State.holdsSector (s : State) (tenant x : Nat) (rd w : Bool) : Prop :=
  hostSpace x = false ∧ s.here x = true ∧ s.poisoned x = false ∧ ∀ a, sectorOf a = sectorOf x → s.tenantOk tenant a rd w = true

theorem State.homeHolds_iff : s.homeHolds tenant x n rd w ↔ s.m.errs = [] ∧ ∀ q ∈ sectorParts x n, s.holdsSector tenant q.1 rd w := Iff.rfl

theorem State.SameStore.holdsSector (h : s.SameStore t) (hs : s.holdsSector tenant x rd w) : t.holdsSector tenant x rd w := by
  obtain ⟨hhost, hhere, hpois, hten⟩ := hs
  exact ⟨hhost, (h.here x).trans hhere, (h.poisoned x).trans hpois, fun a ha => (h.tenantOk ..).trans (hten a ha)⟩

theorem State.SameStore.homeHolds (h : s.SameStore t) (hs : s.homeHolds tenant x n rd w) : t.homeHolds tenant x n rd w :=
  ⟨h.errs.trans hs.1, fun q hq => h.holdsSector (hs.2 q hq)⟩

/-- Bytes inside one sector are poisoned with it. -/
theorem State.poisonedIn_inside (s : State) (hn : 0 < n) (h : x % 32 + n ≤ 32) : s.poisonedIn x n = s.poisoned x := by
  have hrest : ∀ i, 0 < i → ¬ x / 32 * 32 + 32 * i < x + n := fun i hi => by omega
  have hfirst : s.poisoned (x / 32 * 32 + 32 * 0) = s.poisoned x := s.poisoned_of_sector (by unfold sectorOf; omega)
  unfold State.poisonedIn
  rw [List.range_succ_eq_map, List.any_cons, hfirst, List.any_eq_false.2 fun i hi => ?_, Bool.or_false, decide_eq_true (by omega), Bool.true_and]
  obtain ⟨j, -, rfl⟩ := List.mem_map.1 hi
  simp [hrest _ (Nat.succ_pos j)]

/-- A read inside a sector that an engine may reach (R229, R235, R418). -/
theorem State.engRead_home (herrs : s.m.errs = []) (h : s.holdsSector tenant x true false) (hn : 0 < n) (hin : x % 32 + n ≤ 32) :
    s.engRead tenant x n hint ef = (({ s with free := s.free + 1 } : State).l2Home x hint ef false, .ok (s.rdNat x n)) := by
  obtain ⟨hhost, hhere, hpois, hten⟩ := h
  have hreach : s.reachable x = true := by rw [State.reachable, hhere, Bool.true_or]
  have hgate : s.homeGate tenant x true false = none := by
    simp only [State.homeGate, hhost, hreach, hhere, hten x rfl, Bool.not_true, Bool.false_eq_true, if_false, if_true]
  have hread : s.homeRead tenant x n = .ok (s.rdNat x n) := by
    simp only [State.homeRead, hgate, hhost, s.poisonedIn_inside hn hin, hpois, Bool.and_false, Bool.false_eq_true, if_false]
  unfold State.engRead
  simp only [hhost, hhere, hgate, Option.isSome_none, Bool.and_false, Bool.false_eq_true, if_false, if_true, State.findErrors_of_none herrs, hread]

theorem State.holdsSector.sector (h : s.holdsSector tenant x rd w) : s.holdsSector tenant (sectorOf x) rd w := by
  have hsec : sectorOf (sectorOf x) = sectorOf x := by unfold sectorOf; omega
  have hline : sectorOf x / 128 = x / 128 := by unfold sectorOf; omega
  obtain ⟨hhost, hhere, hpois, hten⟩ := h
  exact ⟨(hostSpace_of_line hline).trans hhost, (s.here_of_line hline).trans hhere, (s.poisoned_of_sector hsec).trans hpois,
    fun a ha => hten a (ha.trans hsec)⟩

/-- A read through the L1 of a core brings the bytes of memory. -/
theorem State.coreRead_home (va : Nat) (herrs : s.m.errs = []) (h : s.holdsSector r.tenant x true false) (hl1 : s.L1Current core) (hin : x % 32 + n ≤ 32) :
    ∃ t, s.coreRead core r va x n hint ef = (t, .ok (s.rdNat x n)) ∧ s.Fetches t ∧ t.L1Current core := by
  have hhost := h.1
  unfold State.coreRead
  rw [if_neg (by rw [hhost]; decide)]
  dsimp only
  cases hfind : s.c.l1.find? fun e => e.core == core && e.asid == r.asid && e.va == sectorOf va && e.xpa == sectorOf x with
  | some e =>
    have hkey := List.find?_some hfind
    simp only [Bool.and_eq_true, beq_iff_eq] at hkey
    obtain ⟨⟨⟨hcore, -⟩, -⟩, hxpa⟩ := hkey
    refine ⟨s, ?_, .refl s, hl1⟩
    dsimp only
    rw [hl1 e (List.mem_of_find?_eq_some hfind) hcore, hxpa, s.rdNat_sector hin]
  | none =>
    have hhome : s.Homed (({ s with free := s.free + 1 } : State).l2Home (sectorOf x) hint ef false) :=
      (State.Homed.free s _).trans (State.Homed.l2Home _ _ _ _ _)
    have hcur := (hl1.of_homed hhome).l1Return r.asid va x (hint != .nl1 && hint != .nl1ef)
    rw [hhome.sameStore.rdNat] at hcur
    refine ⟨_, ?_, (State.Fetches.of_homed hhome).trans (.l1Return _ core r.asid va x _ _), hcur⟩
    rw [State.engRead_home herrs h.sector (by decide) (by unfold sectorOf; omega)]
    dsimp only
    rw [s.rdNat_sector hin]

theorem State.coreReads_home (va y : Nat) (qs : List (Nat × Nat × Nat)) (herrs : s.m.errs = [])
    (h : ∀ q ∈ qs, s.holdsSector r.tenant q.1 true false ∧ q.1 % 32 + q.2.2 ≤ 32) (hl1 : s.L1Current core) :
    ∃ t, s.coreReads core r va y hint ef qs = (t, .ok (qs.map fun q => s.rdNat q.1 q.2.2 * 256 ^ q.2.1).sum) ∧ s.Fetches t ∧ t.L1Current core := by
  induction qs generalizing s with
  | nil => exact ⟨s, rfl, .refl s, hl1⟩
  | cons q qs ih =>
    obtain ⟨hq, hin⟩ := h q (by simp)
    obtain ⟨t, hread, ht, hcur⟩ := State.coreRead_home (hint := hint) (ef := ef) (va + q.2.1) herrs hq hl1 hin
    obtain ⟨u, hreads, hu, hcur⟩ := ih (ht.sameStore.errs.trans herrs)
      (fun p hp => ⟨ht.sameStore.holdsSector (h p (by simp [hp])).1, (h p (by simp [hp])).2⟩) hcur
    refine ⟨u, ?_, ht.trans hu, hcur⟩
    simp only [State.coreReads, hread, hreads, ht.sameStore.rdNat, List.map_cons, List.sum_cons]

/-- The bytes of a short access. -/
theorem State.coreReads_holds (va y : Nat) (h : s.homeHolds r.tenant x n true false) (hl1 : s.L1Current core) (hn : 0 < n) (hn32 : n < 32) :
    ∃ t, s.coreReads core r va y hint ef (sectorParts x n) = (t, .ok (s.rdNat x n)) ∧ s.Fetches t := by
  obtain ⟨herrs, hparts⟩ := State.homeHolds_iff.1 h
  obtain ⟨t, hread, ht, -⟩ := State.coreReads_home (hint := hint) (ef := ef) va y (sectorParts x n) herrs
    (fun q hq => ⟨hparts q hq, sectorParts_within q hq⟩) hl1
  exact ⟨t, by rw [hread, s.rdNat_sectorParts hn hn32], ht⟩

/-- The scale codes of a row (R162). -/
theorem State.readSlots_home (qs : List (Nat × Nat × Nat)) (herrs : s.m.errs = [])
    (h : ∀ q ∈ qs, q.2.2 % 2 = 0 ∧ s.homeHolds r.tenant q.2.2 2 true false) (hl1 : s.L1Current core) :
    ∃ t, s.readSlots core r qs = (t, .ok (qs.map fun q => (q.1, s.rdNat q.2.2 2))) ∧ s.Fetches t := by
  induction qs generalizing s with
  | nil => exact ⟨s, rfl, .refl s⟩
  | cons q qs ih =>
    obtain ⟨heven, hq⟩ := h q (by simp)
    have hin : q.2.2 % 32 + 2 ≤ 32 := by omega
    have hsec : s.holdsSector r.tenant q.2.2 true false := hq.2 (q.2.2, 0, 2) (by rw [sectorParts_inside (by decide) hin]; simp)
    obtain ⟨t, hread, ht, hcur⟩ := State.coreRead_home (hint := .dflt) (ef := false) q.2.1 herrs hsec hl1 hin
    obtain ⟨u, hreads, hu⟩ := ih (ht.sameStore.errs.trans herrs)
      (fun p hp => ⟨(h p (by simp [hp])).1, ht.sameStore.homeHolds (h p (by simp [hp])).2⟩) hcur
    refine ⟨u, ?_, ht.trans hu⟩
    simp only [State.readSlots, hread, hreads, ht.sameStore.rdNat, List.map_cons]

end

end Sys2Proof.Machine
end

section
/-! PROOFS. The moving of a row's element (R197, R200): the end of the access that stands for a lane, an element of `gth` and one of `sct`. -/

namespace Sys2Proof.Machine
open Sys2Proof

/-! ### The end of an access without results -/

/-- From `s` to `t` an access has ended: threads, results, copies and queues change, and nothing that memory or scratch stores. -/
structure State.Settles (s t : State) : Prop where
  rest : t = { s with c := { s.c with threads := t.c.threads, pend := t.c.pend, l1 := t.c.l1 }, m := t.m }
  mem : t.m.mem = s.m.mem
  peer : t.m.peer = s.m.peer
  host : t.m.host = s.m.host

namespace State.Settles
variable {s t u : State}

theorem refl (s : State) : s.Settles s := ⟨rfl, rfl, rfl, rfl⟩

theorem trans (h : s.Settles t) (k : t.Settles u) : s.Settles u where
  rest := by
    obtain ⟨hk, -, -, -⟩ := k
    rw [h.rest] at hk
    exact hk
  mem := k.mem.trans h.mem
  peer := k.peer.trans h.peer
  host := k.host.trans h.host

theorem of_touches (h : s.Touches t) : s.Settles t where
  rest := by
    conv_lhs => rw [h.rest]
    rw [h.rest]
  mem := h.mem
  peer := h.peer
  host := h.host

theorem setThreads (s : State) (l : List Thread) : s.Settles (s.setThreads l) := ⟨rfl, rfl, rfl, rfl⟩

theorem setPend (s : State) (l : List Pend) : s.Settles (s.setPend l) := ⟨rfl, rfl, rfl, rfl⟩

theorem l1ClearRange (s : State) (core asid lo hi : Nat) : s.Touches (s.l1ClearRange core asid lo hi) :=
  ((Invalidates.setL1 s _).trans (.dropFill _ _ _)).toTouches

theorem visitorClear (s : State) (p : Nat → Bool) : s.Touches (s.visitorClear p) := ⟨rfl, rfl, rfl, rfl, rfl⟩

theorem acquire (s : State) (core : Nat) (r : Region) (sc : Sc) (ranges : Option (List (Nat × Nat))) : s.Settles (s.acquire core r sc ranges) := by
  refine of_touches ?_
  have hcore : s.Touches (if scNum sc < 3 then s else ranges.elim (s.l1Clear core) fun rs => rs.foldl (fun s q => s.l1ClearRange core r.asid q.1 q.2) s) := by
    refine .ite (.refl s) ?_
    cases ranges with
    | none => exact ((Invalidates.setL1 s _).trans (.dropFill _ _ _)).toTouches
    | some rs =>
      exact List.foldlRecOn (motive := fun (t : State) => s.Touches t) _ _ (.refl s) fun t ht q _ => ht.trans (l1ClearRange t _ _ _ _)
  cases ranges with
  | none => exact .ite hcore (hcore.trans (visitorClear _ _))
  | some rs => exact .ite hcore (hcore.trans (visitorClear _ _))

theorem fencesDone (s : State) (n : Nat) : s.Settles (s.fencesDone n) := by
  unfold State.fencesDone
  dsimp only
  have hacq : ∀ (past : Fence → Bool) (fs : List Fence), s.Settles (fs.foldl (fun s f => match past f, f.acq, s.regionOf n with
      | true, some sc, some r => s.acquire (coreOf n) r sc none
      | _, _, _ => s) s) := fun past fs => by
    refine List.foldlRecOn (motive := fun (t : State) => s.Settles t) _ _ (.refl s) fun t ht f _ => ?_
    split
    · exact ht.trans (acquire t _ _ _ _)
    · exact ht
  split
  · exact (hacq _ _).trans (setThreads _ _)
  · exact hacq _ _

/-- An access without results and without a sample. -/
theorem endOp {o : MOp} (hfmt : o.fmt = .none) (hs : s.b.samples = []) : s.Settles (s.endOp o) := by
  have hsample : ∀ (t : State) (op tid : Nat), t.b.samples = [] → t.sampleAnswer op tid = t := fun t op tid ht => by
    unfold State.sampleAnswer
    rw [ht]
    rfl
  have hfilter : s.Settles (s.setOps (s.m.ops.filter fun p => p.id != o.id)) := ⟨rfl, rfl, rfl, rfl⟩
  have hend : ∃ t, s.Settles t ∧ s.endOp o = (t.fencesDone o.tid).sampleAnswer o.id o.tid := by
    unfold State.endOp
    refine ⟨_, ?_, rfl⟩
    split
    · exact hfilter
    · have hvals : s.Settles ((s.setOps (s.m.ops.filter fun p => p.id != o.id)).setVals o) := hfilter.trans (setPend _ _)
      have hlogged : o.logged = false := by simp [MOp.logged, hfmt]
      dsimp only
      rw [hlogged, hfmt]
      cases o.acq with
      | none => exact hvals
      | some sc =>
        split
        · contradiction
        · exact hvals.trans (acquire _ _ _ _ _)
        · exact hvals
  obtain ⟨t, ht, he⟩ := hend
  have hall := ht.trans (fencesDone t o.tid)
  rw [he, hsample _ _ _ (by rw [hall.rest]; exact hs)]
  exact hall

theorem partDone {o : MOp} (hfmt : o.fmt = .none) (hmst : o.mst = false) (hs : s.b.samples = []) (k : Nat) : s.Settles (s.partDone o k 0 none) := by
  have hset : ∀ l, s.Settles (s.setOps l) := fun _ => ⟨rfl, rfl, rfl, rfl⟩
  unfold State.partDone
  dsimp only
  split
  · rw [hmst]
    exact (hset _).trans (endOp hfmt hs)
  · exact hset _

end State.Settles

/-! ### An element of `gth` -/

section
variable {s t u : State} {j : RowJob} {l : RowLane} {rg : Region} {g : Wg} {e : RowEl} {id key : Nat}

/-- The bytes of an element. -/
theorem RowEl.bytes_small (e : RowEl) (ty : Ty) : 0 < (e.bits ty + 7) / 8 ∧ (e.bits ty + 7) / 8 < 32 := by
  have hfmt : 4 ≤ fmtBits e.fmt ∧ fmtBits e.fmt ≤ 64 := by
    unfold fmtBits
    split <;> decide
  have hraw : 1 ≤ rowElem ty ∧ rowElem ty ≤ 8 := by cases ty <;> decide
  unfold RowEl.bits
  split <;> omega

theorem State.Fetches.unwatched (h : s.Fetches t) {core : Nat} (hs : s.unwatched core) : t.unwatched core :=
  fun m hm => (h.reg _ (.inr (by unfold rSwp; omega))).trans (hs m hm)

/-- R197: an element of memory is decoded into its place in scratch. -/
theorem State.gthEl_writes (hlane : j.lanes = [l]) (hg : s.wg? l.key = some g) (hwf : Memory.wf g.scr = true) (hun : s.unwatched g.core)
    (hl1 : ∀ e ∈ s.c.l1, e.core ≠ coreOf l.tid)
    (hhold : s.homeHolds rg.tenant (e.p.addr e.va) ((e.bits j.ty + 7) / 8) true false) :
    ∃ t scr, s.Fetches t ∧ s.gthEl rg j e = t.setWgs (withWindow s.c.wgs l.key g scr) ∧
      memNat scr (l.so + e.i * rowElem j.ty) (rowElem j.ty) =
        rowDecode e j.ty j.rm j.satf j.codes (j.draw l e) (s.rowBitsAt e j.ty) % 256 ^ rowElem j.ty ∧
      ∀ a, a < l.so + e.i * rowElem j.ty ∨ l.so + (e.i + 1) * rowElem j.ty ≤ a → memGet scr a = memGet g.scr a := by
  obtain ⟨hpos, hsmall⟩ := e.bytes_small j.ty
  obtain ⟨t, hread, ht⟩ := State.coreReads_holds (hint := j.hint) (ef := e.p.ef) e.va (e.p.addr e.va) hhold (.of_empty hl1) hpos hsmall
  have hwgs : t.c.wgs = s.c.wgs := by rw [ht.c_eq]
  have hgt : t.wg? l.key = some g := by
    unfold State.wg? at hg ⊢
    rw [hwgs, hg]
  have hbits : (if (e.bits j.ty == 4) = true then s.rdNat (e.p.addr e.va) ((e.bits j.ty + 7) / 8) / 2 ^ (e.bit % 8) % 16
      else s.rdNat (e.p.addr e.va) ((e.bits j.ty + 7) / 8)) = s.rowBitsAt e j.ty := by
    unfold State.rowBitsAt
    by_cases h4 : e.bits j.ty = 4
    · rw [if_pos (by rw [h4]; decide), if_pos h4, h4]
    · rw [if_neg (by simpa using h4), if_neg h4]
  refine ⟨t, _, ht, ?_, memNat_memPut _ _ _ _ hwf, fun a ha => memGet_memPut_outside _ _ _ _ _ ?_⟩
  · unfold State.gthEl
    simp only [hlane, hread, List.foldl_cons, List.foldl_nil, hbits]
    rw [t.scrWrite_unwatched _ _ _ _ _ _ g hgt (ht.unwatched hun), hwgs]
  · rw [Nat.add_mul, Nat.one_mul] at ha
    omega

/-! ### An element of `sct` -/

/-- From `s` to `t` memory has been written for a thread: memory, its copies, the fills of the accesses in flight, registers of the homes and the free counter
have changed, and nothing else. -/
structure State.Stores (s t : State) : Prop where
  rest : t = { s with free := t.free, c := { s.c with l1 := t.c.l1 }, m := t.m, b := { s.b with regs := t.b.regs } }
  unfilled : t.m.ops.map MOp.unfilled = s.m.ops.map MOp.unfilled

namespace State.Stores

theorem trans (h : s.Stores t) (k : t.Stores u) : s.Stores u where
  rest := by
    obtain ⟨hk, -⟩ := k
    rw [h.rest] at hk
    exact hk
  unfilled := k.unfilled.trans h.unfilled

theorem of_fetches (h : s.Fetches t) : s.Stores t where
  rest := by
    conv_lhs => rw [h.rest]
    rw [h.rest]
  unfilled := h.unfilled

theorem setPoison (s : State) (x : Nat) (on : Bool) : s.Stores (s.setPoison x on) := ⟨rfl, rfl⟩

theorem wrNat (s : State) (x n v : Nat) : s.Stores (s.wrNat x n v) := by
  obtain ⟨a, b, c, h⟩ := State.wrNat_rest n s x v
  rw [h]
  exact ⟨rfl, rfl⟩

end State.Stores

theorem State.Fetches.l1Written (s : State) (core x mask data : Nat) : s.Fetches (s.l1Written core x mask data) := by
  have hdrop := State.Fetches.dropFill s core fun o => o.parts.any fun p => sectorOf p.xpa == sectorOf x
  exact .ite (hdrop.trans (.setL1 _ _)) (hdrop.trans (.setL1 _ _))

theorem State.SameMemory.keepsBytes (h : s.SameMemory t) : s.KeepsBytes t := ⟨h.mem, h.peer, h.host⟩

/-- Of a number only the bytes that are written count. -/
theorem State.wrNat_mod (s : State) (x n v : Nat) : s.wrNat x n (v % 256 ^ n) = s.wrNat x n v := by
  induction n generalizing s x v with
  | zero => rfl
  | succ n ih =>
    have hbyte : BitVec.ofNat 8 (v % 256 ^ (n + 1)) = BitVec.ofNat 8 v := by
      refine BitVec.eq_of_toNat_eq ?_
      rw [BitVec.toNat_ofNat, BitVec.toNat_ofNat, pow_succ]
      exact Nat.mod_mod_of_dvd v (Dvd.intro_left _ rfl)
    have hrest : v % 256 ^ (n + 1) / 256 = v / 256 % 256 ^ n := by rw [pow_succ, Nat.mod_mul_left_div_self]
    rw [State.wrNat, State.wrNat, hbyte, hrest, ih]

/-- A write inside a sector that an engine may reach (R229, R235, R418). -/
theorem State.engWrite_home {tenant x n : Nat} (v : Nat) (herrs : s.m.errs = []) (h : s.holdsSector tenant x false true) (hn : 0 < n)
    (hin : x % 32 + n ≤ 32) : ∃ u, s.SameMemory u ∧ s.Stores u ∧ s.engWrite tenant x n v = (u.wrNat x n v, none) := by
  obtain ⟨hhost, hhere, hpois, hten⟩ := h
  have hreach : s.reachable x = true := by rw [State.reachable, hhere, Bool.true_or]
  have hgate : s.homeGate tenant x false true = none := by
    simp only [State.homeGate, hhost, hreach, hhere, hten x rfl, Bool.not_true, Bool.false_eq_true, if_false, if_true]
  have hclean : State.poisonedIn { s with free := s.free + 1 } x n = false :=
    ((State.Homed.free s _).sameStore.poisonedIn x n).trans ((s.poisonedIn_inside hn hin).trans hpois)
  obtain ⟨u, hu, hmem, hst⟩ : ∃ u, u = (if (n == 32 && x % 32 == 0 && !false) = true then State.setPoison { s with free := s.free + 1 } x false
      else { s with free := s.free + 1 }) ∧ s.SameMemory u ∧ s.Stores u := by
    refine ⟨_, rfl, ?_⟩
    split
    · exact ⟨⟨rfl, rfl, rfl, State.place_congr rfl⟩, ⟨rfl, rfl⟩⟩
    · exact ⟨⟨rfl, rfl, rfl, State.place_congr rfl⟩, ⟨rfl, rfl⟩⟩
  have hhome := State.Homed.l2Home u x .dflt false true
  refine ⟨_, hmem.trans hhome.sameStore.sameMemory, hst.trans (.of_fetches (.of_homed hhome)), ?_⟩
  unfold State.engWrite
  simp only [hhost, hhere, hgate, Bool.false_eq_true, if_false, if_true, State.findErrors_of_none herrs, hclean, Bool.false_and]
  rw [hu]

/-- A store of bytes inside one sector, made at once. -/
theorem State.writeNow_home {tenant x n core : Nat} (v : Nat) (herrs : s.m.errs = []) (h : s.holdsSector tenant x false true) (hn : 0 < n)
    (hin : x % 32 + n ≤ 32) : ∃ t, s.writeNow core tenant x n v = (t, none) ∧ s.Stores t ∧ s.Puts t x n v := by
  obtain ⟨u, hmem, hst, hwrite⟩ := State.engWrite_home (v % 256 ^ n) herrs h hn hin
  rw [State.wrNat_mod] at hwrite
  have hcopies := State.Fetches.l1Written (u.wrNat x n v) core x ((2 ^ n - 1) * 2 ^ (x % 32)) (v % 256 ^ n * 256 ^ (x % 32))
  refine ⟨_, ?_, (hst.trans (.wrNat u x n v)).trans (.of_fetches hcopies), ?_⟩
  · unfold State.writeNow
    rw [sectorParts_inside hn hin]
    simp only [List.foldl_cons, List.foldl_nil, pow_zero, Nat.div_one]
    rw [hwrite]
  · exact ((hmem.wrNat x n v).trans hcopies.sameStore.sameMemory).keepsBytes

/-! ### The element -/

/-- What a `sct` row stores for an element: its code, and with a 4-bit one that of the other element of its byte. -/
def rowStored (j : RowJob) (l : RowLane) (scr : List Cell) (e : RowEl) : Nat :=
  if e.bits j.ty = 4 then (j.els[e.i + 1]?).elim (rowCode j l scr e) fun h => rowCode j l scr e % 16 + 16 * (rowCode j l scr h % 16)
  else rowCode j l scr e

theorem rowStored_pair {scr : List Cell} {h : RowEl} (h4 : e.bits j.ty = 4) (hh : j.els[e.i + 1]? = some h) :
    rowStored j l scr e = rowCode j l scr e % 16 + 16 * (rowCode j l scr h % 16) := by
  rw [rowStored, if_pos h4, hh, Option.elim_some]

theorem rowStored_whole {scr : List Cell} (h4 : e.bits j.ty ≠ 4) : rowStored j l scr e = rowCode j l scr e := if_neg h4

/-- R197: an element of scratch is encoded and stored. -/
theorem State.sctEl_writes (hg : s.wg? l.key = some g) (hun : s.unwatched g.core) (hdty : e.p.dty = true)
    (hin : e.p.addr e.va % 32 + (e.bits j.ty + 7) / 8 ≤ 32) (hhold : s.homeHolds rg.tenant (e.p.addr e.va) ((e.bits j.ty + 7) / 8) false true) :
    s.Stores (s.sctEl rg j l e) ∧ s.Puts (s.sctEl rg j l e) (e.p.addr e.va) ((e.bits j.ty + 7) / 8) (rowStored j l g.scr e) := by
  obtain ⟨hpos, -⟩ := e.bytes_small j.ty
  have hsec : s.holdsSector rg.tenant (e.p.addr e.va) false true := hhold.2 (e.p.addr e.va, 0, (e.bits j.ty + 7) / 8) (by
    rw [sectorParts_inside hpos hin]
    simp)
  obtain ⟨t, hwrite, hst, hput⟩ := State.writeNow_home (core := coreOf l.tid) (rowStored j l g.scr e) hhold.1 hsec hpos hin
  have hset : s.setDty rg.tenant e.p = (s, none) := if_pos hdty
  have hread : ∀ src ak off n, s.scrRead l.key src ak off n = (s, memNat g.scr off n) := fun src ak off n =>
    s.scrRead_unwatched l.key src ak off n g hg hun
  have heq : s.sctEl rg j l e = t := by
    unfold rowStored rowCode at hwrite
    unfold State.sctEl
    by_cases h4 : e.bits j.ty = 4
    · rw [if_pos h4] at hwrite
      cases hnext : j.els[e.i + 1]? with
      | none =>
        rw [hnext, Option.elim_none] at hwrite
        simp only [hread, ite_self, hset, hwrite]
      | some h =>
        rw [hnext, Option.elim_some] at hwrite
        simp only [hread, beq_iff_eq, if_pos h4, hset, hwrite]
    · rw [if_neg h4] at hwrite
      simp only [hread, beq_iff_eq, if_neg h4, hset, hwrite]
  rw [heq]
  exact ⟨hst, hput⟩

/-! ### The piece -/

/-- The elements of a row that are left when one has been moved. -/
def RowJob.left (j : RowJob) (e : RowEl) : List Nat := j.todo.filter fun i => !(i == e.i || ((j.store && e.bits j.ty == 4) && i == e.i + 1))

/-- A row with these elements left. -/
def State.rowLeft (s : State) (id : Nat) (left : List Nat) : State :=
  { s with free := s.free + 1, c := { s.c with rows := s.c.rows.map fun k => if k.id == id then { k with todo := left } else k } }

/-- The access that stands for a lane of a row is performed. -/
def State.endLane (s : State) (op : Nat) : State :=
  match s.m.ops.find? fun o => o.id == op with
  | some o => s.partDone o 0 0 none
  | none => s

/-- What follows the moving of an element: the row keeps its other elements, or ends with the access that stands for its lane. -/
def State.rowStep (s : State) (id : Nat) (left : List Nat) (op : Nat) : State :=
  if !left.isEmpty then s.rowLeft id left
  else State.endLane { s.rowLeft id left with c := { (s.rowLeft id left).c with rows := (s.rowLeft id left).c.rows.filter fun k => k.id != id } } op

/-- R197, R200: one of the elements that may be moved is. -/
theorem State.rowPiece_moves (hfind : (s.c.rows.find? fun q => q.id == id) = some j) (hlane : j.lanes = [l]) (hr : s.regionOf l.tid = some rg)
    (hready : s.rowReady j ≠ []) :
    ∃ e ∈ s.rowReady j, s.rowPiece id key = (if j.store then s.sctEl rg j l e else s.gthEl rg j e).rowStep id (j.left e) l.op := by
  have hlt : Config.freeChoice s.free key 8000 % (s.rowReady j).length < (s.rowReady j).length :=
    Nat.mod_lt _ (List.length_pos_iff.2 hready)
  refine ⟨_, List.getElem_mem hlt, ?_⟩
  unfold State.rowPiece
  simp only [hfind, List.getElem?_eq_getElem hlt, hlane, List.map_cons, List.map_nil, List.headD_cons, hr, List.foldl_cons, List.foldl_nil]
  rfl

theorem State.rowStep_settles {left : List Nat} {op : Nat} (hs : u.b.samples = []) (hops : ∀ o ∈ u.m.ops, o.id = op → o.mst = false ∧ o.fmt = .none) :
    ∃ rows, State.Settles { u with free := u.free + 1, c := { u.c with rows := rows } } (u.rowStep id left op) ∧
      (left ≠ [] → rows = u.c.rows.map fun q => if q.id == id then { q with todo := left } else q) ∧
      (left = [] → rows = u.c.rows.filter fun q => q.id != id) := by
  unfold State.rowStep
  cases left with
  | cons i left => exact ⟨_, .refl _, fun _ => rfl, fun h => by cases h⟩
  | nil =>
    rw [List.isEmpty_nil]
    have hrows : (u.rowLeft id []).c.rows.filter (fun k => k.id != id) = u.c.rows.filter fun q => q.id != id := by
      unfold State.rowLeft
      induction u.c.rows with
      | nil => rfl
      | cons q qs ih =>
        rw [List.map_cons, List.filter_cons, List.filter_cons, ih]
        by_cases hq : q.id = id
        · simp [hq]
        · simp [hq]
    refine ⟨_, ?_, fun h => absurd rfl h, fun _ => hrows⟩
    rw [if_neg (by decide), hrows]
    unfold State.endLane
    split
    case h_2 => exact .refl _
    case h_1 o hfind =>
      obtain ⟨hmst, hfmt⟩ := hops o (List.mem_of_find?_eq_some hfind) (by simpa using List.find?_some hfind)
      refine .partDone hfmt hmst ?_ 0
      exact hs

end

/-! ### The statement -/

/-- An access that differs from one of these in its fill alone. -/
theorem mem_of_unfilled {os ps : List MOp} (h : ps.map MOp.unfilled = os.map MOp.unfilled) {o : MOp} (ho : o ∈ ps) : ∃ q ∈ os, q.unfilled = o.unfilled :=
  List.mem_map.1 (h ▸ List.mem_map_of_mem ho)

section
variable {s t : State} {op : Nat}

/-- The access that stands for a lane of a row keeps what matters at its end. -/
theorem rowAccess_of_unfilled (h : t.m.ops.map MOp.unfilled = s.m.ops.map MOp.unfilled) (hops : ∀ o ∈ s.m.ops, o.id = op → o.mst = false ∧ o.fmt = .none) :
    ∀ o ∈ t.m.ops, o.id = op → o.mst = false ∧ o.fmt = .none := by
  intro o ho hid
  obtain ⟨q, hq, he⟩ := mem_of_unfilled h ho
  obtain ⟨hmst, hfmt⟩ := hops q hq ((congrArg MOp.id he).trans hid)
  exact ⟨(congrArg MOp.mst he).symm.trans hmst, (congrArg MOp.fmt he).symm.trans hfmt⟩

end

theorem rowsMoveTheirElements : RowsMoveTheirElements := by
  unfold RowsMoveTheirElements
  refine ⟨?gth, ?sct⟩
  case gth =>
    intro s id key j l rg g hfind hload hlane hr hg hwf hidle hcore hl1 hops hready hhold
    have ⟨_, _, hsamples⟩ := hidle
    obtain ⟨e, he, hpiece⟩ := State.rowPiece_moves (key := key) hfind hlane hr hready
    obtain ⟨t, scr, ht, hel, hin, hout⟩ := State.gthEl_writes hlane hg hwf (hidle.unwatched g.core hcore) hl1 (hhold e he)
    rw [hload, if_neg Bool.false_ne_true, hel] at hpiece
    have hsame : (t.b.samples = [] ∧ t.c.rows = s.c.rows) ∧ t.c.warps = s.c.warps ∧ t.l = s.l := by
      rw [ht.rest]
      exact ⟨⟨hsamples, rfl⟩, rfl, rfl⟩
    obtain ⟨⟨hsam, hrows⟩, hwarps, hl⟩ := hsame
    obtain ⟨rows, hset, hmore, hlast⟩ := State.rowStep_settles (u := t.setWgs (withWindow s.c.wgs l.key g scr)) (id := id) (left := j.left e) hsam
      (rowAccess_of_unfilled ht.unfilled hops)
    rw [← hpiece] at hset
    have hstore := ht.sameStore
    have hleft : j.left e = j.todo.filter fun i => i != e.i := by simp [RowJob.left, hload, bne]
    refine ⟨e, he, scr, ?_, hin, hout, hset.mem.trans hstore.mem, hset.peer.trans hstore.peer,
      hset.host.trans hstore.host, ?_, ?_, fun hany => ?_, fun hall => ?_⟩
    · rw [hset.rest]
      rfl
    · rw [hset.rest]
      exact hwarps
    · rw [hset.rest]
      exact hl
    · obtain ⟨i, hi, hne⟩ := hany
      rw [hset.rest, ← hleft, ← hrows]
      exact hmore (List.ne_nil_of_mem (hleft ▸ List.mem_filter.2 ⟨hi, by simpa using hne⟩))
    · rw [hset.rest, ← hrows]
      exact hlast (hleft.trans (List.filter_eq_nil_iff.2 fun i hi => by simp [hall i hi]))
  case sct =>
    intro s id key j l rg g hfind hstore hlane hr hg hidle hcore hops hready hhold
    have ⟨_, _, hsamples⟩ := hidle
    obtain ⟨e, he, hpiece⟩ := State.rowPiece_moves (key := key) hfind hlane hr hready
    obtain ⟨hdty, hin, hhome⟩ := hhold e he
    obtain ⟨hst, hmem, hpeer, hhost⟩ := State.sctEl_writes hg (hidle.unwatched g.core hcore) hdty hin hhome
    rw [hstore, if_pos rfl] at hpiece
    have hsame : ((s.sctEl rg j l e).b.samples = [] ∧ (s.sctEl rg j l e).c.wgs = s.c.wgs) ∧ (s.sctEl rg j l e).c.warps = s.c.warps ∧
        (s.sctEl rg j l e).l = s.l := by
      rw [hst.rest]
      exact ⟨⟨hsamples, rfl⟩, rfl, rfl⟩
    obtain ⟨⟨hsam, hwgs⟩, hwarps, hl⟩ := hsame
    obtain ⟨rows, hset, -, -⟩ := State.rowStep_settles (id := id) (left := j.left e) hsam (rowAccess_of_unfilled hst.unfilled hops)
    rw [← hpiece] at hset
    refine ⟨e, he, fun hpair => ?_, ?_, ?_, ?_⟩
    · by_cases h4 : e.bits j.ty = 4
      · obtain ⟨h, hh⟩ := Option.isSome_iff_exists.1 (hpair h4)
        rw [rowStored_pair h4 hh] at hmem hpeer hhost
        simp only [if_pos h4, hh]
        exact ⟨hset.mem.trans hmem, hset.peer.trans hpeer, hset.host.trans hhost⟩
      · rw [rowStored_whole h4] at hmem hpeer hhost
        simp only [if_neg h4]
        exact ⟨hset.mem.trans hmem, hset.peer.trans hpeer, hset.host.trans hhost⟩
    · rw [hset.rest]
      exact hwgs
    · rw [hset.rest]
      exact hwarps
    · rw [hset.rest]
      exact hl

end Sys2Proof.Machine
end

section
/-! PROOFS. The start of a row (R196, R197): the body of `gth`, `sct` and `sctr` for one lane. -/

namespace Sys2Proof.Machine
open Sys2Proof

/-! ### The body for one lane -/

/-- Elements, scratch offset and address of the row that a lane names. -/
def rowCount (x : M128A) (s : State) (k : Nat) : Nat := (s.opnd k x.c).toNat % 4096 + 1
def rowOffset (x : M128A) (s : State) (k : Nat) : Nat := (s.opnd k x.d).toNat + laneOf k * (rowCount x s k * rowElem x.ty)
def rowBase (x : M128A) (s : State) (k : Nat) : Nat := (s.opnd k x.a + BitVec.ofNat 64 ((s.opnd k x.b).toNat % 2 ^ 32) * x.i32.signExtend 64).toNat

/-- The row that a lane names, once it is checked. -/
def State.rowOf (s : State) (x : M128A) (need : Need) (k : Nat) : Except (Option FaultInfo × Nat) Row :=
  s.rowPlan k need x.ty (rowCount x s k) (rowOffset x s k) (rowBase x s k)

section
variable {s c t u : State} {x : M128A} {need : Need} {k n so ra : Nat} {r : Row} {i : Instr}
  {go : Nat → State → Row → State × Option FaultInfo × List (Row × Word × List (Nat × Nat))}

theorem rowLanes_tid (x : M128A) (need : Need) (ra n : Nat → Nat) (k : Nat) (p : Except (Option FaultInfo × Nat) Row) :
    ∀ l ∈ rowLanes x need ra n [(k, p)], l.1 = k := by
  intro l hl
  unfold rowLanes at hl
  rw [List.flatMap_cons, List.flatMap_nil, List.append_nil] at hl
  split at hl
  · obtain ⟨i, -, rfl⟩ := List.mem_map.1 hl
    rfl
  · dsimp only at hl
    repeat' split at hl
    all_goals simp only [List.mem_singleton, List.not_mem_nil] at hl
    all_goals rw [hl]

theorem State.rowPlan_tid {ty : Ty} (h : s.rowPlan k need ty n so ra = .ok r) : r.tid = k := by
  unfold State.rowPlan at h
  dsimp only at h
  repeat' split at h
  all_goals cases h
  rfl

namespace State.Begins

theorem window (h : s.Begins c k) (m : Nat) (sp : Sp) (ea w : Nat) : c.window m sp ea w = s.window m sp ea w := by
  unfold State.window State.windowOf State.wgOf State.warp? State.wg?
  rw [h.rest]

theorem rowEls (h : s.Begins c k) (m : Nat) (need : Need) (ty : Ty) (shb ra : Nat) (is : List Nat) (b : Nat) :
    c.rowEls m need ty shb ra is b = s.rowEls m need ty shb ra is b := by
  induction is generalizing b with
  | nil => rfl
  | cons i is ih =>
    unfold State.rowEls
    simp only [h.laneXlate, ih]

theorem rowSlots (h : s.Begins c k) (m : Nat) (as : List Nat) : c.rowSlots m as = s.rowSlots m as := by
  induction as with
  | nil => rfl
  | cons a as ih =>
    unfold State.rowSlots
    simp only [h.laneXlate, ih]

theorem rowPlan (h : s.Begins c k) (m : Nat) (need : Need) (ty : Ty) (n so ra : Nat) :
    c.rowPlan m need ty n so ra = s.rowPlan m need ty n so ra := by
  unfold State.rowPlan
  simp only [h.window, h.regionOf, h.rowEls, h.rowSlots]

theorem rowOf (h : s.Begins c k) (x : M128A) (need : Need) (m : Nat) : c.rowOf x need m = s.rowOf x need m := by
  unfold State.rowOf rowOffset rowBase rowCount
  simp only [h.sameOperands.opnd, h.rowPlan]

/-- What the thread's own issue leaves is a matter of its control. -/
theorem onlyResults (h : s.Begins c k) (hcur : s.cur.tids = [k]) : s.OnlyResults c := by
  obtain ⟨-, f, hf, hb⟩ := h
  exact hf.onlyResults_at hcur (by rw [hb]; rfl)

theorem sameStore (h : s.Begins c k) : s.SameStore c := by
  rw [h.rest]
  exact ⟨rfl, rfl, rfl, rfl, rfl, rfl, rfl, fun _ _ => rfl⟩

end State.Begins

/-- The pages of a row's elements, held for the core of its lane. -/
def State.rowFills (s : State) (core asid : Nat) (r : Row) : State := r.els.foldl (fun s (e : RowEl) => s.tlbFill core asid e.p) s

theorem State.rowFills_eq (s : State) (core asid : Nat) (r : Row) : ∃ l, s.rowFills core asid r = s.setTlb l :=
  List.foldlRecOn (motive := fun (t : State) => ∃ l, t = s.setTlb l) _ _ ⟨s.m.tlb, rfl⟩ fun t ht e _ => by
    obtain ⟨l, rfl⟩ := ht
    exact ⟨_, rfl⟩

theorem State.unit_of_solo (h : s.solo i k = true) (hseated : s.seated) : unitOf k < 960 := by
  obtain ⟨hu, hus, -⟩ := hseated
  rw [hus k (by simp [State.solo_tids h])]
  exact hu

/-- A lane with an earlier access in flight waits. -/
theorem rowBody_drains (h : s.solo i k = true) (hidle : s.debugIdle) (hseated : s.seated) (hbusy : s.busy k = true) :
    ∃ c, s.Begins c k ∧ rowBody x need go (s.countIssue i s.cur.tids) [k] = (c, [(k, .hold .drain)]) := by
  have hc := State.Begins.countIssue (i := i) h
  refine ⟨_, hc.watchIssue need.kind (rowLanes_tid x need (rowBase x (s.countIssue i s.cur.tids)) (rowCount x (s.countIssue i s.cur.tids)) k
    ((s.countIssue i s.cur.tids).rowOf x need k)) hidle (State.unit_of_solo h hseated), ?_⟩
  unfold rowBody
  simp only [List.any_cons, List.any_nil, Bool.or_false, hc.busy, hbusy, if_true, List.map_cons, List.map_nil]
  rfl

/-- The body for one lane whose row's checks are passed, with what the watchpoints leave. -/
theorem rowBody_eq {g : Region} {rows : List (Row × Word × List (Nat × Nat))} (hbusy : c.busy k = false) (hrow : c.rowOf x need k = .ok r)
    (hseen : c.watchIssue need.kind (rowLanes x need (rowBase x c) (rowCount x c) [(k, .ok r)]) = t) (htake : t.sampleTake [k] = (t.unitCounted, none))
    (hreg : t.unitCounted.newId.regionOf k = some g)
    (hgo : go t.unitCounted.m.nextId (t.unitCounted.newId.rowFills (coreOf k) g.asid r) r = (u, none, rows)) :
    rowBody x need go c [k] = ((u.startRows (need == .w) x rows).joinOlder t.unitCounted.m.nextId, []) := by
  unfold State.rowOf rowOffset at hrow
  unfold rowCount rowBase at *
  unfold State.rowFills at hgo
  unfold rowBody
  simp only [List.any_cons, List.any_nil, Bool.or_false, hbusy, Bool.false_eq_true, if_false, List.map_cons, List.map_nil, hrow, hseen,
    List.filterMap_cons, List.filterMap_nil, List.isEmpty_nil, Bool.not_true, htake, List.foldl_cons, List.foldl_nil, hreg, hgo, List.nil_append]
  rfl

/-- A lane whose row's checks are passed. -/
theorem rowBody_goes {g : Region} (h : s.solo i k = true) (hidle : s.debugIdle) (hseated : s.seated) (hbusy : s.busy k = false)
    (hr : s.regionOf k = some g) (hrow : s.rowOf x need k = .ok r) :
    ∃ c, s.Begins c k ∧ ∀ u rows, go s.m.nextId (c.newId.rowFills (coreOf k) g.asid r) r = (u, none, rows) →
      rowBody x need go (s.countIssue i s.cur.tids) [k] = ((u.startRows (need == .w) x rows).joinOlder s.m.nextId, []) := by
  have hc := State.Begins.countIssue (i := i) h
  have hplan := (hc.rowOf x need k).trans hrow
  obtain ⟨t, ht⟩ : ∃ t, (s.countIssue i s.cur.tids).watchIssue need.kind (rowLanes x need (rowBase x (s.countIssue i s.cur.tids))
    (rowCount x (s.countIssue i s.cur.tids)) [(k, .ok r)]) = t := ⟨_, rfl⟩
  have hseen : s.Begins t k := ht ▸ hc.watchIssue need.kind (rowLanes_tid x need _ _ k (.ok r)) hidle (State.unit_of_solo h hseated)
  have hid : t.unitCounted.m.nextId = s.m.nextId := congrArg MemSys.nextId hseen.mem_eq
  refine ⟨t.unitCounted, hseen.unitCounted, fun u rows hgo => ?_⟩
  rw [← hid] at hgo ⊢
  exact rowBody_eq ((hc.busy k).trans hbusy) hplan ht (hseen.sampleTake hidle hseated [k]) ((hseen.unitCounted.regionOf k).trans hr) hgo

/-! ### `gth` and `sct` -/

/-- A thread whose draws are taken. -/
def Thread.drawn (rm : Rm) (m : Nat) (d : Word) (t : Thread) : Thread := if rm = .rs then { t with rseed := (draws m d).1 } else t

theorem Thread.drawn_tid (rm : Rm) (m : Nat) (d : Word) (t : Thread) : (t.drawn rm m d).tid = t.tid := by
  unfold Thread.drawn
  split <;> rfl

theorem State.takeDraws_eq (s : State) (k : Nat) (rm : Rm) (m : Nat) :
    s.takeDraws k rm m = (s.modThread k (Thread.drawn rm m (s.thread k).rseed), (s.thread k).rseed) := by
  unfold State.takeDraws Thread.drawn
  by_cases h : rm = .rs
  · simp only [h, beq_self_eq_true, if_true]
  · have hself : (s.modThread k fun t => t) = s := s.setThreads_map_self _ fun t => ite_self t
    simp only [beq_iff_eq, h, if_false, hself]

/-- The draws that a row takes: one for each element that the codec stage converts. -/
def Row.draws (r : Row) : Nat := (r.els.filter fun e => e.fmt != 0).length

/-- The state in which a row's slots are read: its pages are held and its draws are taken. -/
def State.rowBegun (c : State) (x : M128A) (k : Nat) (asid : Nat) (r : Row) : State :=
  (c.newId.rowFills (coreOf k) asid r).modThread k (Thread.drawn x.rm r.draws (c.thread k).rseed)

theorem State.rowBegun_eq (c : State) (x : M128A) (k asid : Nat) (r : Row) :
    ∃ l, c.rowBegun x k asid r = (c.newId.setTlb l).modThread k (Thread.drawn x.rm r.draws (c.thread k).rseed) := by
  obtain ⟨l, hl⟩ := c.newId.rowFills_eq (coreOf k) asid r
  exact ⟨l, by rw [State.rowBegun, hl]⟩

theorem State.Begins.rowBegun_sameStore (h : s.Begins c k) (x : M128A) (asid : Nat) (r : Row) : s.SameStore (c.rowBegun x k asid r) := by
  obtain ⟨l, hl⟩ := c.rowBegun_eq x k asid r
  rw [hl]
  exact h.sameStore.trans ⟨rfl, rfl, rfl, rfl, rfl, rfl, rfl, fun _ _ => rfl⟩

/-- A row starts: its draws are taken and its scale codes are read. -/
theorem rowStart_takes {g : Region} {codes : List (Nat × Nat)} (hc : s.Begins c k) (hr : s.regionOf k = some g) (htid : r.tid = k)
    (hslots : r.slots = [] ∧ codes = [] ∨ s.m.errs = [] ∧ (∀ e ∈ s.c.l1, e.core ≠ coreOf k) ∧
      (∀ q ∈ r.slots, q.2.2 % 2 = 0 ∧ s.homeHolds g.tenant q.2.2 2 true false) ∧ codes = r.slots.map fun q => (q.1, s.rdNat q.2.2 2)) (since : Nat) :
    ∃ t, rowStart x since (c.newId.rowFills (coreOf k) g.asid r) r = (t, none, [(r, (s.thread k).rseed, codes)]) ∧
      (c.rowBegun x k g.asid r).Fetches t := by
  have hstore := hc.rowBegun_sameStore x g.asid r
  have hl1 : (c.rowBegun x k g.asid r).c.l1 = s.c.l1 := by
    obtain ⟨l, hl⟩ := c.rowBegun_eq x k g.asid r
    rw [hl]
    exact hc.l1
  obtain ⟨t, hread, ht⟩ : ∃ t, (c.rowBegun x k g.asid r).readSlots (coreOf k) g r.slots = (t, .ok codes) ∧ (c.rowBegun x k g.asid r).Fetches t := by
    obtain ⟨hnil, rfl⟩ | ⟨herrs, hcore, hhold, rfl⟩ := hslots
    · exact ⟨_, by rw [hnil]; rfl, .refl _⟩
    · obtain ⟨t, hread, ht⟩ := State.readSlots_home (r := g) r.slots (hstore.errs.trans herrs)
        (fun q hq => ⟨(hhold q hq).1, hstore.homeHolds (hhold q hq).2⟩) (.of_empty (hl1 ▸ hcore))
      simp only [hstore.rdNat] at hread
      exact ⟨t, hread, ht⟩
  obtain ⟨l, hl⟩ := c.newId.rowFills_eq (coreOf k) g.asid r
  have hseed : (c.newId.rowFills (coreOf k) g.asid r).thread k = c.thread k := by rw [hl]; rfl
  have hreg : (c.newId.rowFills (coreOf k) g.asid r).regionOf k = some g := by
    rw [hl]
    exact (hc.regionOf k).trans hr
  refine ⟨t, ?_, ht⟩
  have hsame : (c.thread k).rseed = (s.thread k).rseed := hc.sameOperands.rseed k
  unfold State.rowBegun Row.draws at hread
  unfold rowStart
  rw [hsame] at hread
  simp only [htid, hreg, State.takeDraws_eq, hseed, hsame, hread]

/-- The access that stands for a lane of a row. -/
def State.rowAccess (s : State) (store : Bool) (r : Row) : MOp :=
  { id := s.m.nextId, tid := r.tid, pc := s.cur.pc, kind := bit store, va := r.ra, dsts := [],
    parts := [{ xpa := 2 ^ 70, size := 1, at_ := 0, done := false, data := 0, fault := none }], fmt := .none, acq := none, ranges := [], fill := false,
    clk := s.clk, sample := some s.m.nextId, mst := false }

/-- The row of one lane that begins to be moved. -/
def State.rowJob (s : State) (store : Bool) (x : M128A) (r : Row) (seed : Word) (codes : List (Nat × Nat)) : RowJob :=
  { id := s.m.nextId, store := store, pc := s.cur.pc, lanes := [{ op := s.m.nextId, tid := r.tid, key := r.key, so := r.so, seed := seed }], ty := x.ty,
    rm := x.rm, satf := x.sat == .satf, hint := x.hint, els := r.els, todo := r.els.map (·.i), codes := codes, fault := false }

/-- The row of one lane joins no row of another thread. -/
theorem State.startRows_single (store : Bool) (seed : Word) (codes : List (Nat × Nat))
    (hrows : ∀ j ∈ s.c.rows, j.lanes ≠ [] ∧ ∀ l ∈ j.lanes, l.tid ≠ r.tid) :
    s.startRows store x [(r, seed, codes)] =
      { s.newId.setOps (s.m.ops ++ [s.rowAccess store r]) with c := { s.c with rows := s.c.rows ++ [s.rowJob store x r seed codes] } } := by
  have hnone : (if store then none else s.c.rows.find? fun j => !j.store && j.pc == s.cur.pc && j.els == r.els &&
      j.lanes.all fun m => ([(r, seed, codes)].map fun y => y.1.tid).contains m.tid) = none := by
    refine ite_eq_left_iff.2 fun _ => List.find?_eq_none.2 fun j hj hall => ?_
    obtain ⟨hne, htid⟩ := hrows j hj
    obtain ⟨l, hl⟩ := List.exists_mem_of_ne_nil _ hne
    have hlanes := List.all_eq_true.1 (Bool.and_eq_true_iff.1 hall).2 l hl
    exact htid l hl (by simpa using hlanes)
  unfold State.startRows
  simp only [List.foldl_cons, List.foldl_nil, hnone]
  rfl

/-- What a thread's record shows when it has begun an instruction and its row's draws are taken. -/
theorem Thread.Begun.drawn {f : Thread → Thread} (hf : Thread.Begun f) (rm : Rm) (m : Nat) (d : Word) (t : Thread) :
    ((f t).drawn rm m d).wait = .none ∧ ((f t).drawn rm m d).pc = t.pc ∧ ((f t).drawn rm m d).loop = t.loop ∧
    ∀ y, ((f t).drawn rm m d).control y = ({ t with rseed := if rm = .rs then (draws m d).1 else t.rseed } : Thread).control y := by
  unfold Thread.drawn
  rw [hf t]
  split <;> exact ⟨rfl, rfl, rfl, fun _ => rfl⟩

theorem State.Begins.rowBegun_thread? (h : s.Begins c k) (x : M128A) (asid : Nat) (r : Row) :
    ∃ f, Thread.Begun f ∧ ∀ n, (c.rowBegun x k asid r).thread? n =
      (s.thread? n).map (Thread.onlyAt k (Thread.drawn x.rm r.draws (s.thread k).rseed ∘ f)) := by
  obtain ⟨f, hf, hth⟩ := h.thread?
  obtain ⟨l, hl⟩ := c.rowBegun_eq x k asid r
  have hseed : (c.thread k).rseed = (s.thread k).rseed := h.sameOperands.rseed k
  refine ⟨f, hf, fun n => ?_⟩
  have hmod := State.thread?_modThread (c.newId.setTlb l) k (Thread.drawn x.rm r.draws (s.thread k).rseed) (Thread.drawn_tid x.rm r.draws _) n
  have hcn : (c.newId.setTlb l).thread? n = c.thread? n := rfl
  rw [hl, hseed, hmod, hcn, hth, Option.map_map]
  cases hq : s.thread? n with
  | none => rfl
  | some t =>
    have htn : t.tid = n := by simpa using List.find?_some hq
    by_cases hn : n = k
    · simp [hn, Thread.onlyAt_same (htn.trans hn)]
    · simp [hn, Thread.onlyAt_ne (n := k) (t := t) (by rw [htn]; exact hn)]

/-- The issue of a lane of `gth` or `sct` that starts its row. -/
theorem State.run_rowStart {g : Region} {codes : List (Nat × Nat)} (h : s.solo i k = true) (hidle : s.debugIdle) (hseated : s.seated)
    (hbusy : s.busy k = false) (hrows : ∀ j ∈ s.c.rows, j.lanes ≠ [] ∧ ∀ l ∈ j.lanes, l.tid ≠ k) (hr : s.regionOf k = some g)
    (hrow : s.rowOf x need k = .ok r)
    (hslots : r.slots = [] ∧ codes = [] ∨ s.m.errs = [] ∧ (∀ e ∈ s.c.l1, e.core ≠ coreOf k) ∧
      (∀ q ∈ r.slots, q.2.2 % 2 = 0 ∧ s.homeHolds g.tenant q.2.2 2 true false) ∧ codes = r.slots.map fun q => (q.1, s.rdNat q.2.2 2)) :
    ∃ t o pre, s.run i (rowBody x need (rowStart x)) = .next t ∧ s.Advances t i ∧ t.c.pend = s.c.pend ∧ t.c.warps = s.c.warps ∧ t.c.wgs = s.c.wgs ∧
      t.l = s.l ∧ t.m.mem = s.m.mem ∧ t.m.peer = s.m.peer ∧ t.m.host = s.m.host ∧ (∀ h, h ≠ k → t.thread h = s.thread h) ∧
      t.thread k = ({ s.thread k with rseed := if x.rm = .rs then (draws r.draws (s.thread k).rseed).1 else (s.thread k).rseed } : Thread).control (t.thread k) ∧
      t.m.ops = pre ++ [o] ∧ pre.map (·.id) = s.m.ops.map (·.id) ∧ o.tid = k ∧ o.kind = bit (need == .w) ∧ o.dsts = [] ∧
      t.c.rows = s.c.rows ++ [{ id := o.id, store := need == .w, pc := s.cur.pc, ty := x.ty, rm := x.rm, satf := x.sat == .satf, hint := x.hint, els := r.els,
                                lanes := [{ op := o.id, tid := k, key := r.key, so := r.so, seed := (s.thread k).rseed }],
                                todo := r.els.map (·.i), codes := codes, fault := false }] := by
  have htid : r.tid = k := State.rowPlan_tid hrow
  obtain ⟨c, hc, hbody⟩ := rowBody_goes (go := rowStart x) h hidle hseated hbusy hr hrow
  obtain ⟨u, hstart, hu⟩ := rowStart_takes (x := x) hc hr htid hslots s.m.nextId
  obtain ⟨l, hl⟩ := c.rowBegun_eq x k g.asid r
  have hstore := (hc.rowBegun_sameStore x g.asid r).trans hu.sameStore
  have hsame : (u.c.pend = s.c.pend ∧ u.c.warps = s.c.warps ∧ u.c.wgs = s.c.wgs ∧ u.c.rows = s.c.rows) ∧ u.l = s.l ∧ u.cur = s.cur := by
    rw [hu.rest, hl, hc.rest]
    exact ⟨⟨rfl, rfl, rfl, rfl⟩, rfl, rfl⟩
  obtain ⟨⟨hpend, hwarps, hwgs, hurows⟩, hul, hcur⟩ := hsame
  have hops : u.m.ops.map (·.id) = s.m.ops.map (·.id) := by
    refine map_of_unfilled (fun _ => rfl) (hu.unfilled.trans ?_)
    rw [hl, ← hc.ops]
    rfl
  have hb := hbody u _ hstart
  rw [State.startRows_single _ _ _ (by rw [hurows, htid]; exact hrows)] at hb
  obtain ⟨q, w, hj⟩ := State.joinOlder_eq
    { u.newId.setOps (u.m.ops ++ [u.rowAccess (need == .w) r]) with
      c := { u.c with rows := u.c.rows ++ [u.rowJob (need == .w) x r (s.thread k).rseed codes] } } s.m.nextId
  rw [hj] at hb
  obtain ⟨f, hf, hth⟩ := hc.rowBegun_thread? x g.asid r
  have huth : ∀ n, u.thread? n = (s.thread? n).map (Thread.onlyAt k (Thread.drawn x.rm r.draws (s.thread k).rseed ∘ f)) := fun n => by
    rw [← hth n, hu.rest]
    rfl
  obtain ⟨hwait, hpc, hloop, hctl⟩ := hf.drawn x.rm r.draws (s.thread k).rseed (s.thread k)
  obtain ⟨t, hrun, ht, hadv, hn, hne⟩ := State.run_solo_advances h hb huth hwait hpc hloop
  refine ⟨t, u.rowAccess (need == .w) r, u.m.ops, hrun, hadv, ?_, ?_, ?_, ?_, ?_, ?_, ?_, hne, hn.trans (hctl _), ?_, hops, htid, rfl, rfl, ?_⟩
  · rw [ht]; exact hpend
  · rw [ht]; exact hwarps
  · rw [ht]; exact hwgs
  · rw [ht]; exact hul
  · rw [ht]; exact hstore.mem
  · rw [ht]; exact hstore.peer
  · rw [ht]; exact hstore.host
  · rw [ht]; rfl
  · rw [ht, ← hurows, ← hcur, ← htid]
    rfl

/-! ### `sctr` -/

/-- The atomic add of an element of `sctr`. -/
def sctrAccess (x : M128A) (since : Nat) (r : Row) (e : RowEl) (v : Nat) : Access :=
  { tid := r.tid, p := e.p, va := e.va, xpa := e.p.addr e.va, n := rowElem x.ty, op := .atom (if x.ty == .f32x2 then 1 else 0), data := v, sc := x.sc,
    hint := x.hint, nr := true, kind := 2, since := since }

/-- What `sctr` does with an element: it is read from scratch and its atomic add goes out. -/
def sctrEl (x : M128A) (since pc : Nat) (r : Row) (acc : State × Option FaultInfo) (e : RowEl) : State × Option FaultInfo :=
  let q := acc.1.scrRead r.key ⟨r.tid, pc, 0⟩ akRead (r.so + e.i * rowElem x.ty) (rowElem x.ty)
  let p := q.1.access (sctrAccess x since r e q.2) (sctrAccess x since r e q.2).parts
  (p.1, acc.2.or p.2)

theorem sctrRow_eq (x : M128A) (since : Nat) (s : State) (r : Row) :
    sctrRow x since s r = ((r.els.foldl (sctrEl x since s.cur.pc r) (s, none)).1, (r.els.foldl (sctrEl x since s.cur.pc r) (s, none)).2, []) := rfl

/-- An atomic access without destinations that needs no DTY goes out. -/
theorem sctrAccess_sends {g : Region} (since v : Nat) {e : RowEl} (hr : s.regionOf r.tid = some g) (hdty : e.p.dty = true) :
    ∃ t o, s.access (sctrAccess x since r e v) (sctrAccess x since r e v).parts = (t, none) ∧ s.Touches t ∧
      t.m.ops.map MOp.unfilled = s.m.ops.map MOp.unfilled ++ [o] ∧ o.tid = r.tid ∧ o.kind = 2 ∧ o.dsts = [] ∧ o.va = e.va := by
  obtain ⟨t, hacc, ht, pre, hops, hpre, -⟩ := State.access_sends (a := sctrAccess x since r e v) (parts := (sctrAccess x since r e v).parts) hr (fun _ => hdty) rfl
    (fun h => by cases h) ⟨_, List.mem_singleton_self _, rfl⟩
  refine ⟨t, ((sctrAccess x since r e v).record s g (sctrAccess x since r e v).parts).unfilled, hacc, ht, ?_, rfl, rfl, rfl, rfl⟩
  rw [hops, List.map_append, hpre]
  rfl

/-- The elements of `sctr` go out one by one. -/
theorem sctrEls_send {g : Region} (since pc : Nat) (els : List RowEl) (hr : s.regionOf r.tid = some g) (hdty : ∀ e ∈ els, e.p.dty = true)
    (hun : ∀ g ∈ s.c.wgs, s.unwatched g.core) :
    ∃ t os, els.foldl (sctrEl x since pc r) (s, none) = (t, none) ∧ s.Touches t ∧ t.m.ops.map MOp.unfilled = s.m.ops.map MOp.unfilled ++ os ∧
      (∀ o ∈ os, o.tid = r.tid ∧ o.kind = 2 ∧ o.dsts = []) ∧ os.map (·.va) = els.map (·.va) := by
  induction els generalizing s with
  | nil => exact ⟨s, [], rfl, .refl s, by simp, by simp, rfl⟩
  | cons e els ih =>
    have hread := State.scrRead_eq hun r.key ⟨r.tid, pc, 0⟩ akRead (r.so + e.i * rowElem x.ty) (rowElem x.ty)
    generalize hv : (s.wg? r.key).elim 0 (fun g => memNat g.scr (r.so + e.i * rowElem x.ty) (rowElem x.ty)) = v at hread
    obtain ⟨t, o, hacc, ht, hops, htid, hkind, hdsts, hva⟩ := sctrAccess_sends (x := x) since v hr (hdty e (by simp))
    have hstep : sctrEl x since pc r (s, none) e = (t, none) := by
      unfold sctrEl
      simp only [hread, hacc, Option.or_none]
    have htun : ∀ g ∈ t.c.wgs, t.unwatched g.core := by
      rw [ht.rest]
      exact hun
    obtain ⟨u, os, hfold, hu, huops, hos, hvas⟩ := ih ((ht.regionOf r.tid).trans hr) (fun e he => hdty e (by simp [he])) htun
    refine ⟨u, o :: os, by rw [List.foldl_cons, hstep, hfold], ht.trans hu, by rw [huops, hops, List.append_assoc]; rfl, ?_, by simp [hva, hvas]⟩
    rintro p (_ | ⟨_, hp⟩)
    · exact ⟨htid, hkind, hdsts⟩
    · exact hos p hp

/-- The issue of a lane of `sctr`. -/
theorem State.run_sctrRow {g : Region} (h : s.solo i k = true) (hidle : s.debugIdle) (hseated : s.seated) (hbusy : s.busy k = false)
    (hr : s.regionOf k = some g) (hrow : s.rowOf x .watom k = .ok r) (hdty : ∀ e ∈ r.els, e.p.dty = true) :
    ∃ (t : State) (pre os : List MOp), s.run i (rowBody x .watom (sctrRow x)) = .next t ∧ s.KeepsStorage t ∧ s.Advances t i ∧ t.c.pend = s.c.pend ∧
      t.m.ops = pre ++ os ∧ pre.map (·.id) = s.m.ops.map (·.id) ∧ (∀ o ∈ os, o.tid = k ∧ o.kind = 2 ∧ o.dsts = []) ∧ os.map (·.va) = r.els.map (·.va) := by
  have htid : r.tid = k := State.rowPlan_tid hrow
  obtain ⟨c, hc, hbody⟩ := rowBody_goes (go := sctrRow x) h hidle hseated hbusy hr hrow
  obtain ⟨l, hl⟩ := c.newId.rowFills_eq (coreOf k) g.asid r
  have hfills : c.Touches (c.newId.rowFills (coreOf k) g.asid r) := by
    rw [hl]
    exact ⟨rfl, rfl, rfl, rfl, rfl⟩
  have hun : ∀ g' ∈ (c.newId.rowFills (coreOf k) g.asid r).c.wgs, (c.newId.rowFills (coreOf k) g.asid r).unwatched g'.core := by
    obtain ⟨-, -, hcores⟩ := hseated
    rw [hl, hc.rest]
    exact fun g' hg' => hidle.unwatched g'.core (hcores g' hg')
  obtain ⟨u, os, hfold, hu, hops, hos, hvas⟩ := sctrEls_send (x := x) s.m.nextId (c.newId.rowFills (coreOf k) g.asid r).cur.pc r.els
    (by rw [htid, hfills.regionOf, hc.regionOf, hr]) hdty hun
  have hb := hbody u [] (by rw [sctrRow_eq, hfold])
  obtain ⟨t, hrun, hkeep, hadv, hpend, htops⟩ := State.run_solo_touches h hc ((hfills.trans hu).trans (.joinOlder u _)) hb
  have hjoin : (u.joinOlder s.m.nextId).m.ops = u.m.ops := by
    obtain ⟨q, w, hj⟩ := u.joinOlder_eq s.m.nextId
    rw [hj]
  have hstart : (c.newId.rowFills (coreOf k) g.asid r).m.ops = s.m.ops := by
    rw [hl, ← hc.ops]
    rfl
  rw [hstart] at hops
  obtain ⟨pre, post, hsplit, hpre, hpost⟩ := List.map_eq_append_iff.1 hops
  refine ⟨t, pre, post, hrun, hkeep, hadv, hpend, (htops.trans hjoin).trans hsplit, map_of_unfilled (fun _ => rfl) hpre, fun o ho => ?_, ?_⟩
  · obtain ⟨hotid, hkind, hdsts⟩ := hos o.unfilled (hpost ▸ List.mem_map_of_mem ho)
    exact ⟨hotid.trans htid, hkind, hdsts⟩
  · rw [← hvas, ← hpost, List.map_map]
    rfl

end

/-! ### The statement -/

/-- The lane of a row that waits for its earlier accesses. -/
theorem State.run_rowDrains {s : State} {i : Instr} {x : M128A} {need : Need} {k : Nat}
    {go : Nat → State → Row → State × Option FaultInfo × List (Row × Word × List (Nat × Nat))} (h : s.solo i k = true) (hidle : s.debugIdle)
    (hseated : s.seated) (hbusy : s.busy k = true) :
    ∃ t, s.run i (rowBody x need go) = .next t ∧ s.OnlyResults t ∧ t.c.pend = s.c.pend ∧ (t.thread k).wait = .drain ∧ (t.thread k).pc = (s.thread k).pc := by
  obtain ⟨c, hc, hb⟩ := rowBody_drains h hidle hseated hbusy
  obtain ⟨t, hrun, hpend, honly, hwait, hpc⟩ := State.run_solo_hold h hb (hc.onlyResults (State.solo_tids h)) (hc.pc k)
  exact ⟨t, hrun, honly, hpend.trans hc.pend, hwait, hpc⟩

theorem exec_gth (x : M128A) (s : State) : exec (.gth x) s = s.run (.gth x) (rowBody x .rd (rowStart x)) := rfl

theorem exec_sct (x : M128A) (s : State) : exec (.sct x) s = s.run (.sct x) (rowBody x .w (rowStart x)) := rfl

theorem exec_sctr (x : M128A) (s : State) : exec (.sctr x) s = s.run (.sctr x) (rowBody x .watom (sctrRow x)) := rfl

theorem rowsStart : RowsStart := by
  unfold RowsStart
  refine ⟨?gth, ?sct, ?sctr, ?busy⟩
  case gth =>
    intro x s k r g codes h hidle hseated hbusy hrows hr hrow hslots
    rw [exec_gth]
    exact State.run_rowStart h hidle hseated hbusy hrows hr hrow hslots
  case sct =>
    intro x s k r g codes h hidle hseated hbusy hrows hr hrow hslots
    rw [exec_sct]
    exact State.run_rowStart h hidle hseated hbusy hrows hr hrow hslots
  case sctr =>
    intro x s k r h hidle hseated hbusy hr hrow hdty
    obtain ⟨g, hg⟩ := Option.isSome_iff_exists.1 hr
    rw [exec_sctr]
    exact State.run_sctrRow h hidle hseated hbusy hg hrow hdty
  case busy =>
    rintro i x s k (rfl | rfl | rfl) h hidle hseated hbusy
    · rw [exec_gth]
      exact State.run_rowDrains h hidle hseated hbusy
    · rw [exec_sct]
      exact State.run_rowDrains h hidle hseated hbusy
    · rw [exec_sctr]
      exact State.run_rowDrains h hidle hseated hbusy

/-- Settles O30: the start of a row by the body for one lane, its elements by the piece that moves one. -/
theorem gathersAndScatters : Obligations.GathersAndScatters := ⟨rowsStart, rowsMoveTheirElements⟩

end Sys2Proof.Machine
end
